-- ==== Sys2Proof/Word.lean ====
section
/-! DEFINITION. The word types of the Nauri N5: registers are 64 bits wide (R3), memory is bytes (R2). -/
namespace Sys2Proof

/-- A 64-bit register value (R3). -/
abbrev Word := BitVec 64

/-- One byte of memory. -/
abbrev Byte := BitVec 8

end Sys2Proof
end

