-- ==== Sys2Proof/Syntax.lean ====
section
/-! DEFINITION. The commands the block takes: one constructor per row of the table of operations and events
(95_what_each_step_holds.md says what each holds). Operands that the spec bounds are bounded by their type. -/
namespace Sys2Proof

/-- A function that R131 disables: a core, one of its streams, a solver unit, a port, or a partition. -/
inductive Func where
  | core (core : Fin 64)
  | stream (core : Fin 64) (stream : Fin 3)
  | solver (cluster : Fin 16)
  | port (port : Fin 16)
  | partition (p : Fin 16)
deriving DecidableEq, Repr

/-- A module and partition of the grove as frames name them (R403): torus coordinates and partition. -/
structure Addr where
  x : Nat
  y : Nat
  z : Nat
  part : Nat
deriving DecidableEq, Repr

/-- A Wodric frame above the link (R403): its class, operation, endpoints, routing fields, the 16 bytes op_fields and
the payload. -/
structure Frame where
  cls : Nat
  /-- 0 before the dateline, 1 after it, 2 on the detour set. -/
  set : Nat := 0
  detourDown : Bool := false
  detourGen : Nat := 0
  dst : Addr
  src : Addr
  hop : Nat := 0
  op : Nat
  reqId : Nat := 0
  ops : List Byte
  payload : List Byte
deriving DecidableEq, Repr

/-- A RoCEv2 message at a host port, above the link and whole where it takes several packets (R415 to R417): the module's
queue pair, which is its destination where it arrives and its source where it leaves; BTH opcode, packet sequence number of
its first packet, and the fields of its extended headers. -/
structure Roce where
  port : Nat
  qpn : Nat
  opcode : Nat
  psn : Nat
  va : Nat := 0
  rkey : Nat := 0
  len : Nat := 0
  /-- Immediate data, AETH syndrome, or compare and swap operands, by opcode. -/
  a : Nat := 0
  b : Nat := 0
  /-- The ECN field read CE (R419). -/
  ce : Bool := false
  payload : List Byte := []
  /-- Inside the module, the request it belongs to. -/
  reqId : Nat := 0
deriving DecidableEq, Repr

/-- The envelope of a management message whose layout the spec does not give (R433): job, endpoints, request_id. -/
structure Mg where
  job : Nat
  src : Addr
  dst : Addr
  reqId : Nat := 0
deriving DecidableEq, Repr

/-- A partition's configuration image as the manager uses it (R432): its place in the job map (R295), the parity record's
ranks by position (R439; empty for a partition without parity), the job's step timeout in ms (0 for the manager's default),
quarantine switch and limit (R282), carve units, and the image's bytes. -/
structure Image where
  rank : Nat
  group : Nat
  position : Nat
  parity : List Nat
  timeoutMs : Nat
  quarantine : Bool
  limit : Nat
  body : List Byte
deriving DecidableEq, Repr

/-- A module that the manager admitted (R428, R430, R435). -/
structure Peer where
  /-- Module index (R457). -/
  m : Nat
  spare : Bool
  /-- Partition layout, and carve-unit counts per partition. -/
  layout : Nat
  units : List Nat
  /-- Tick of its last pulse, and the tick since which its pulses have carried sapwood_restarting. -/
  last : Nat
  restarting : Option Nat
  lost : Bool
deriving DecidableEq, Repr

/-- What the manager keeps for a job (R277 to R284, R444): its step or recovery state, which MIRROR carries. -/
structure MgrJob where
  job : Nat
  /-- Worker partitions with their images. -/
  members : List (Addr × Image)
  /-- 0 COLLECTING, 1 SWEEPING, 2 SETTLING, 3 ACTIVATING, 4 REBUILDING, 5 RESHARDING, 6 STOPPED. -/
  state : Nat
  /-- The state in which the job stopped for want of a spare (R444). -/
  prior : Nat
  /-- The job's current epoch: the one that follows the last verdict or recovery message (R444). -/
  epoch : Nat
  tStart : Nat
  /-- STEP_READY bodies received for the epoch. -/
  ready : List (Addr × List Byte)
  /-- Workers that reported SWEEP_DONE; holders that reported PARITY_APPLIED; reports of the recovery phase. -/
  swept : List Addr
  applied : List Addr
  reported : List Addr
  /-- The loss scale's exponent and count of R228. -/
  lsExp : Int
  clean : Nat
  /-- Consecutive verdicts that named a contributor (R282). -/
  blame : List (Addr × Nat)
  /-- Holders whose encode has not been reported applied, and the epoch that ENCODE named (R443). -/
  encoding : List Addr
  encodeEpoch : Nat
  /-- Members lost in the recovery in progress, each with the spare that takes its place. -/
  lost : List (Addr × Addr)
  target : Option Nat
  /-- Type of the last broadcast, and the verdict's body. -/
  lastType : Nat
  lastBody : List Byte
deriving DecidableEq, Repr

/-- Contents of the grove messages (R433). -/
inductive GBody where
  /-- PULSE: term seen, sapwood's flags, link states of the fabric ports, epoch of each partition. -/
  | pulse (term : Nat) (restarting failed : Bool) (links epochs : List Nat)
  /-- COORD_OFFER on a port: the grove's size and the receiver's coordinates (R429). -/
  | coordOffer (port kx ky kz : Nat) (coord : Addr)
  /-- JOIN (R430). -/
  | join (role layout : Nat) (units : List Nat) (serial : List Byte) (conflict : Bool)
  /-- ADMIT (R430). -/
  | admission (term manager standby : Nat) (standbyValid spare : Bool)
  | linkReport (port state partner : Nat)
  /-- FAULT_MAP: lost modules, lost links as module and port, next detour generation. -/
  | faultMap (modules : List Nat) (links : List (Nat × Nat)) (gen : Nat)
  | lost (modules : List Nat) (r : Nat) (target : Option Nat)
  | rollbackDone (r : Nat)
  /-- ACTIVATE: lost partition, recovery epoch, ranks and the configuration image. -/
  | activate (lost : Addr) (r : Nat) (ranks : List Nat) (image : Image)
  | activated (r : Nat)
  /-- RECONSTRUCT: lost positions and the spares that take them, in the receiver's parity group. -/
  | reconstruct (r : Nat) (lost : List (Nat × Addr))
  | reconstructDone (r : Nat)
  /-- RESHARD: epoch, job map, whether a permutation follows, and whether the receiver's group is encoded again. -/
  | reshard (epoch : Nat) (map : List Byte) (plan encode : Bool)
  | reshardDone (epoch : Nat)
  | resume (epoch : Nat) (lsExp : Int)
  | mirror (j : MgrJob) (peers : List Peer)
  | takeover (term : Nat)
  | configImage (i : Image)
  /-- ENCODE: the epoch of the delta buckets (R443). -/
  | encode (epoch : Nat)
deriving DecidableEq, Repr

/-- What the spec says goes with a message without giving it a place in the frame. -/
inductive Extra where
  /-- Data of COL.RING: channel and sequence number (R313). -/
  | ring (channel seq : Nat)
  /-- EXCH_COUNT: the sender's return tensor, as the 24 bytes of its reference, and the rows of its x (R302). -/
  | counts (y : List Byte) (rows : Nat)
  /-- The READ that ends a gather tile: the tile's runs at the source, and with the first tile the source's scale-table
  entry (R306, R308). -/
  | tile (runs : List (Nat × Nat)) (scale : Option Nat)
  /-- The answer to that READ: the entry's scale_stored (R308). -/
  | scale (stored : Nat)
deriving DecidableEq, Repr

/-- An access that waits at a pseudo-channel (R376, R377): the partition whose fence it passed, none for sapwood's controllers,
scrub and heartwood; whether it is a GF-mode accumulate; whether it is an accumulate or a partial write; and its address. -/
structure HbmReq where
  part : Option (Fin 16)
  gf : Bool
  heavy : Bool
  pa : Nat
deriving DecidableEq, Repr

/-- What a frame carries beyond its header's fields and payload. -/
inductive Cargo where
  | plain
  | extra (x : Extra)
  | grove (g : Mg) (b : GBody)
deriving DecidableEq, Repr

/-- The agents that reach the control window (R548). -/
inductive Agent where
  | heartwood | sapwood | host
deriving DecidableEq, Repr

/-- A margin plan (R511): mV by die and point (1,000 to 3,000 MHz in steps of 50), refresh multipliers by stack, rows for
soft repair, taproot read-threshold offsets by die, and SerDes settings by lane. -/
structure Plan where
  v : List (List Nat)
  refresh : List Nat
  repairs : List Nat
  offsets : List Int
  serdes : List Nat
deriving DecidableEq, Repr

/-- What a start finds (R509, R510, R527): worst critical-path mV by die and point, worst SRAM minimum mV by die, ledger entries
whose CRC fails, and the cores and clusters that fail their self-tests. -/
structure Survey where
  crit : List (List Nat)
  sram : List Nat
  badEntries : List Nat
  badCores : List (Fin 64)
  badClusters : List (Fin 16)
deriving DecidableEq, Repr

/-- How the training of a stack came out (R382): lanes replaced, and channels with a failing lane and no spare. -/
structure Train where
  ok : Bool
  lanes : Nat
  degraded : Nat
deriving DecidableEq, Repr

/-- Where a sideband or admin message comes from, and where its answer goes: the sideband, or the admin queue pair of a host
port (R541, R548). -/
inductive Via where
  | sideband
  | admin (port : Fin 4)
deriving DecidableEq, Repr

/-- An instruction of the test port (R573): others are named by the scope that they need (R543) and their code. -/
inductive TapInstr where
  | bypass
  | idcode
  | scoped (scope : Fin 3) (code : Nat)
deriving DecidableEq, Repr

/-- Answers of the SPDM responder (R541, R542); what they carry as the standard lays out is named, not spelled. -/
inductive SpdmResp where
  | version (versions : List Nat)
  | capabilities
  | algorithms
  | digests (slots : List (List Byte))
  | certificate (slot offset : Nat) (bytes : List Byte)
  | challengeAuth (slot : Nat) (key : List Byte)
  | measurements (blocks : List (Nat × List Byte))
  | keyExchange (session : Nat)
  | finished (session : Nat)
  | heartbeat (session : Nat)
  | keyUpdate (session : Nat)
  | endSession (session : Nat)
  | error
deriving DecidableEq, Repr

/-- A register operation and its result (R552). -/
structure RegOp where
  offset : Nat
  op : Nat
  stop : Bool
  /-- Byte 5 bits [7:1] and bytes 6 to 7. -/
  reserved : Nat
  value : Word
deriving DecidableEq, Repr

/-- How a frame's check sequence came out at the receiver (R398, R400). -/
inductive Fcs where
  | good
  | bad
  /-- The bitwise inverse of the correct FCS. -/
  | stomped
deriving DecidableEq, Repr

/-- A queue pair as sapwood created it on the host's request (R416): its partition, none for an admin queue pair; its path
MTU; the PFC priority of its packets, none for strict priority (R418); the acknowledgement timeout and retry count of RC. -/
structure QpConf where
  part : Option (Fin 16)
  mtu : Nat
  prio : Option Nat
  timeoutUs : Nat
  retry : Nat
  /-- First packet sequence numbers, to send and to expect. -/
  txPsn : Nat
  rxPsn : Nat
deriving DecidableEq, Repr

/-- What the module sends. -/
inductive Msg where
  /-- A Wodric frame that enters the fabric, or the module's own delivery where it names the module itself. -/
  | frame (f : Frame)
  /-- A frame, and what goes with it. -/
  | extra (f : Frame) (x : Extra)
  /-- A grove message (R433). -/
  | grove (g : Mg) (b : GBody)
  /-- A frame sent on a port with its link sequence number and destination MAC; `fcs` is bad where the port stomped it. -/
  | portFrame (port seq : Nat) (fcs : Fcs) (mac : Nat) (f : Frame) (c : Cargo)
  /-- A flow frame's payload on a port (R402). -/
  | flow (port : Nat) (payload : List Byte)
  /-- A request of the module as an RC requester, and a message on the wire of a host port. -/
  | roce (r : Roce)
  | packet (r : Roce)
  /-- A PFC frame on a host port: priority, and pause or resume. -/
  | pfc (port prio : Nat) (pause : Bool)
  /-- An MCTP control response, a PLDM response, and the results of a register message (R552, R570, R571). -/
  | mctp (command : Nat) (body : List Byte)
  | pldm (type : Nat) (body : List Byte)
  | registers (via : Via) (id : Nat) (results : List RegOp)
  | spdm (via : Via) (r : SpdmResp)
  /-- A push of event records on the admin queue pair of a port (R560). -/
  | push (port : Nat) (records : List Byte)
  /-- A voltage command to a die's regulator over AVSBus. -/
  | avs (die mv : Nat)
  /-- A mailbox response of a channel: result and bytes. -/
  | mailbox (ch result : Nat) (body : List Byte)
  /-- The provisioned ID that the I3C target sends during address assignment: its low bits (R570). -/
  | provisioned (slot : Nat)
  /-- Bits shifted out at the test port. -/
  | testOut (value width : Nat)
deriving DecidableEq, Repr


/-- The commands of the block, one constructor per row of the table of operations and events. -/
inductive Instr where
  /-- DOORBELL (R111): A write of COR_DOORBELL posts a new tail for a stream; a tail before the current tail or more than size beyond retire is ignored and sets doorbell_error. -/
  | doorbell (core : Fin 64) (value : Word)
  /-- DESCRIPTOR_FETCH (R111): The core fetches up to 8 descriptors ahead of issue through its translation cache. -/
  | descriptorFetch (core : Fin 64) (stream : Fin 3)
  /-- DEFER_LIMIT_EXPIRE (R113): A deferrable descriptor that has been ready for defer_limit microseconds stops being passed and issues at normal priority. -/
  | deferLimitExpire (core : Fin 64) (stream : Fin 3) (n : BitVec 32)
  /-- DESCRIPTOR_COMPLETE (R129): A descriptor completes with its highest-ranked status, which decides its token signal and its stream's next state. -/
  | descriptorComplete (core : Fin 64) (stream : Fin 3) (n : BitVec 32)
  /-- STREAM_ENABLE (R130): Writing COR_STREAM_CTL.enable to 1 moves a DISABLED stream to IDLE, and issue resumes. -/
  | streamEnable (core : Fin 64) (stream : Fin 3)
  /-- STREAM_DISABLE (R131): Writing COR_STREAM_CTL.enable to 0 stops admission and starts the drain of the stream. -/
  | streamDisable (core : Fin 64) (stream : Fin 3)
  /-- STREAM_RESTART (R130): Writing restart moves a STOPPED or HALTED stream on from the oldest unissued descriptor. -/
  | streamRestart (core : Fin 64) (stream : Fin 3)
  /-- STREAM_BASE_WRITE (R130): Writing COR_STREAM_BASE while the stream is DISABLED sets issue, retire and tail to zero. -/
  | streamBaseWrite (core : Fin 64) (stream : Fin 3) (value : Word)
  /-- TOKEN_WRITE (R122): Software writes a core or cluster token, and a hardware increment in the same cycle is added to the written value. -/
  | tokenWrite (core : Fin 64) (cluster : Bool) (t : Fin 256) (value : Word)
  /-- DRAIN_TIMEOUT (R131): The drain timeout of a disabled function expires, and the function cuts whatever work remains. -/
  | drainTimeout (f : Func)
  /-- MAT_MMA (R49): Issues a matrix multiply-accumulate that broadcasts A and B over the fed cells of the live plane k-group by k-group. -/
  | matMma (core : Fin 64) (stream : Fin 3) (n : BitVec 32)
  /-- TAP_QUEUE_ROOM (R65): Room frees in the tap queue and a lattice that was waiting before a k-group resumes. -/
  | tapQueueRoom (core : Fin 64)
  /-- MAT_LOAD_ACC (R74): Issues a background load (mode 0) or zero-fill (mode 1) of the shadow plane within the masks. -/
  | matLoadAcc (core : Fin 64) (stream : Fin 3) (n : BitVec 32)
  /-- SEQUENTIAL_PRELOAD (R57): MAT.LOAD_ACC mode 2 empties the pipeline and shifts a 128 by 128 source into the live plane over 128 stalled cycles. -/
  | sequentialPreload (core : Fin 64) (stream : Fin 3) (n : BitVec 32)
  /-- MAT_STORE_ACC (R75): Issues a background drain of the shadow plane to memory, converting values and optionally zeroing the drained cells. -/
  | matStoreAcc (core : Fin 64) (stream : Fin 3) (n : BitVec 32)
  /-- MAT_SWAP (R53): Once every bound background operation has completed, the live and shadow planes exchange roles in one cycle. -/
  | matSwap (core : Fin 64) (stream : Fin 3) (n : BitVec 32)
  /-- LATTICE_SOLVER_GRANT (R59): The current hold on a lattice ends and the waiting solver unit takes it. -/
  | latticeSolverGrant (core : Fin 64)
  /-- VEC_MAP (R85): Issues an element-wise vector operation selected by op over sources a, b and c. -/
  | vecMap (core : Fin 64) (stream : Fin 3) (n : BitVec 32)
  /-- VEC_REDUCE (R89): Issues a row or column reduction of source a in the addition order fixed by R90. -/
  | vecReduce (core : Fin 64) (stream : Fin 3) (n : BitVec 32)
  /-- VEC_SHUFFLE (R92): Issues a permutation of each 128-element chunk by XOR, rotate, broadcast or reverse. -/
  | vecShuffle (core : Fin 64) (stream : Fin 3) (n : BitVec 32)
  /-- VEC_CONVERT (R93): Issues a widening and narrowing format conversion that captures amax per converted row. -/
  | vecConvert (core : Fin 64) (stream : Fin 3) (n : BitVec 32)
  /-- SOFTMAX_STEP (R96): VEC.SOFTMAX_ONLINE mode 0 updates the running max, sum and correction and writes the rounded weights P. -/
  | softmaxStep (core : Fin 64) (stream : Fin 3) (n : BitVec 32)
  /-- SOFTMAX_FINAL (R98): VEC.SOFTMAX_ONLINE mode 1 divides O by l row by row. -/
  | softmaxFinal (core : Fin 64) (stream : Fin 3) (n : BitVec 32)
  /-- VEC_WIDEN (R95): Issues a widening of gathered FP8 or MXFP8 parameters to a compute format using their stored scales. -/
  | vecWiden (core : Fin 64) (stream : Fin 3) (n : BitVec 32)
  /-- DMA_COPY (R135): Issues a byte copy, with a transpose between layouts, in operations of at most 4 KiB. -/
  | dmaCopy (core : Fin 64) (stream : Fin 3) (n : BitVec 32)
  /-- DMA_GATHER (R136): Issues a copy of indexed table rows to destination rows, handling out-of-range indices by oob_mode. -/
  | dmaGather (core : Fin 64) (stream : Fin 3) (n : BitVec 32)
  /-- DMA_SCATTER (R137): Issues a copy of source rows to indexed table rows, in which the later duplicate stands. -/
  | dmaScatter (core : Fin 64) (stream : Fin 3) (n : BitVec 32)
  /-- DMA_FILL (R138): Issues a write of a pattern to every element of the destination. -/
  | dmaFill (core : Fin 64) (stream : Fin 3) (n : BitVec 32)
  /-- DMA_TAP_READ (R466): Issues a read of namespace sectors from the taproot into memory, with retries and die-parity rebuild. -/
  | dmaTapRead (core : Fin 64) (stream : Fin 3) (n : BitVec 32) (found : List (Nat × Fin 10))
  /-- DMA_TAP_WRITE (R465): Issues a write of memory to taproot sectors that completes once the data are programmed with parity and mapped in flash. -/
  | dmaTapWrite (core : Fin 64) (stream : Fin 3) (n : BitVec 32) (found : List (Nat × Fin 10))
  /-- TAP_TRIM (R479): A DMA.TAP_WRITE with trim set marks its sectors unwritten without moving data. -/
  | tapTrim (core : Fin 64) (stream : Fin 3) (n : BitVec 32)
  /-- RED_CONTRIB (R285): Issues the contribution of lines to a remote or local bucket as tagged accumulate requests. -/
  | redContrib (core : Fin 64) (stream : Fin 3) (n : BitVec 32)
  /-- RED_BUCKET_OPEN (R286): Opens a bucket for an epoch once it is IDLE or CLOSED with a final epoch, zeroing its control block and lines. -/
  | redBucketOpen (core : Fin 64) (stream : Fin 3) (n : BitVec 32)
  /-- RED_BUCKET_WAIT (R274): Waits until every bucket of a range is complete, then completes DONE, POISONED or VOIDED. -/
  | redBucketWait (core : Fin 64) (stream : Fin 3) (n : BitVec 32)
  /-- COL_GATHER (R306): Issues a fetch of a remote tensor, or of a remote slot's current buffer, in CRC-checked 64 KiB tiles. -/
  | colGather (core : Fin 64) (stream : Fin 3) (n : BitVec 32)
  /-- COL_PERMUTE (R319): Issues a journalled round-by-round move of 1 MiB chunks between partitions through a bounce region. -/
  | colPermute (core : Fin 64) (stream : Fin 3) (n : BitVec 32)
  /-- EXCHANGE_DISPATCH (R300): COL.EXCHANGE mode 0 sends counts, receives grants, writes granted rows to expert owners and sends FINISHED. -/
  | exchangeDispatch (core : Fin 64) (stream : Fin 3) (n : BitVec 32)
  /-- EXCHANGE_COMBINE (R302): COL.EXCHANGE mode 1 returns the result rows to their sources and zero-fills dropped rows. -/
  | exchangeCombine (core : Fin 64) (stream : Fin 3) (n : BitVec 32)
  /-- COL_RING (R313): Issues a send of one block to a peer channel as plain writes followed by a commit. -/
  | colRing (core : Fin 64) (stream : Fin 3) (n : BitVec 32)
  /-- CRV_TAP_CFG (R170): Closes a tap slot and then installs its new sampling, format, queue and Gram-buffer configuration. -/
  | crvTapCfg (core : Fin 64) (stream : Fin 3) (n : BitVec 32)
  /-- GRAM_FLUSH (R171): CRV.GRAM mode 0 closes a slot, accumulating its complete rows. -/
  | gramFlush (core : Fin 64) (stream : Fin 3) (n : BitVec 32)
  /-- GRAM_EXPLICIT (R171): CRV.GRAM mode 1 feeds every row of x to the slot as a complete token. -/
  | gramExplicit (core : Fin 64) (stream : Fin 3) (n : BitVec 32)
  /-- GRAM_BATCH (R153): A ready batch is accumulated into the Gram sums block by block, and each block header is then updated. -/
  | gramBatch (cluster : Fin 16) (slot : Fin 16)
  /-- CRV_EMA (R162): After the named epoch's settled point, merges a Gram sum into a running factor, or completes VOIDED. -/
  | crvEma (core : Fin 64) (stream : Fin 3) (n : BitVec 32)
  /-- CRV_DAMP (R163): Writes a symmetrised source plus lambda times the identity under the selected lambda mode. -/
  | crvDamp (core : Fin 64) (stream : Fin 3) (n : BitVec 32)
  /-- CRV_NORMAL (R164): Assembles the weighted normal equations, rhs and aux from rows of J, r and w. -/
  | crvNormal (core : Fin 64) (stream : Fin 3) (n : BitVec 32)
  /-- CRV_STENCIL (R165): Assembles an operator from per-row coefficients at signed column offsets, plus lambda on the diagonal. -/
  | crvStencil (core : Fin 64) (stream : Fin 3) (n : BitVec 32)
  /-- SLV_CHOL (R189): Queues a regularised Cholesky factorisation of a packed triangle into the slot's next buffer. -/
  | slvChol (core : Fin 64) (stream : Fin 3) (n : BitVec 32)
  /-- SLV_LDLT (R191): Queues an LDLT factorisation, optionally indefinite, into the slot's next buffer. -/
  | slvLdlt (core : Fin 64) (stream : Fin 3) (n : BitVec 32)
  /-- SLV_TRSM (R196): Queues a triangular solve with op(U) on either side of B. -/
  | slvTrsm (core : Fin 64) (stream : Fin 3) (n : BitVec 32)
  /-- SLV_TRINV (R197): Queues an inversion of an upper triangular matrix. -/
  | slvTrinv (core : Fin 64) (stream : Fin 3) (n : BitVec 32)
  /-- SLV_IROOT (R198): Queues an inverse p-th root by the coupled Newton iteration. -/
  | slvIroot (core : Fin 64) (stream : Fin 3) (n : BitVec 32)
  /-- SLV_EIGJ (R201): Queues a cyclic Jacobi eigendecomposition of order at most 512. -/
  | slvEigj (core : Fin 64) (stream : Fin 3) (n : BitVec 32)
  /-- SLV_PUBLISH (R206): Flips a READY slot to current at issue, holds the publish while the layer is held, or drops it with 0x6007. -/
  | slvPublish (core : Fin 64) (stream : Fin 3) (n : BitVec 32)
  /-- PUBLISH_DISCARD (R206): An SLV.PUBLISH with discard set discards a READY next buffer. -/
  | publishDiscard (core : Fin 64) (stream : Fin 3) (n : BitVec 32)
  /-- SOLVER_SELECT (R183): The free solver unit selects the queued descriptor with the earliest deadline, or completes it DEADLINE if that deadline has passed. -/
  | solverSelect (cluster : Fin 16)
  /-- SOLVER_DEADLINE (R185): The local tick reaches a running descriptor's deadline, and the unit stops, discards next and completes DEADLINE. -/
  | solverDeadline (cluster : Fin 16)
  /-- SOLVER_DISABLE (R212): Writing SLV_CTL.enable to 0 starts the drain of the solver unit. -/
  | solverDisable (cluster : Fin 16)
  /-- UPD_STAGE (R230): Computes and writes the preconditioned direction, r1, c1 and the staging header of each record. -/
  | updStage (core : Fin 64) (stream : Fin 3) (n : BitVec 32)
  /-- UPD_SWEEP (R233): After the verdict, claims the chunks and sweeps phase A then phase B, or completes VOIDED on SKIP or REPEAT. -/
  | updSweep (core : Fin 64) (stream : Fin 3) (n : BitVec 32)
  /-- UPD_STATS (R246): Writes a summary of norms and counts over a range of records. -/
  | updStats (core : Fin 64) (stream : Fin 3) (n : BitVec 32)
  /-- UPD_ROLLBACK (R240): Restores the chunks of a committed but unsettled epoch from their undo images and rewrites their copies. -/
  | updRollback (core : Fin 64) (stream : Fin 3) (n : BitVec 32)
  /-- SYN_WAIT (R125): Completes when the header wait and up to four further token waits are satisfied. -/
  | synWait (core : Fin 64) (stream : Fin 3) (n : BitVec 32)
  /-- SYN_SIGNAL (R125): Adds values to up to four tokens atomically at completion. -/
  | synSignal (core : Fin 64) (stream : Fin 3) (n : BitVec 32)
  /-- SYN_FENCE (R124): Issues only after earlier descriptors of the stream or the core have completed. -/
  | synFence (core : Fin 64) (stream : Fin 3) (n : BitVec 32)
  /-- SYN_STEP (R125): Adds a value to step marker 3 to 7 at completion. -/
  | synStep (core : Fin 64) (stream : Fin 3) (n : BitVec 32)
  /-- CTL_NOP (R125): Completes DONE once issued. -/
  | ctlNop (core : Fin 64) (stream : Fin 3) (n : BitVec 32)
  /-- CTL_HALT (R125): Completes DONE, and the stream then enters HALTED. -/
  | ctlHalt (core : Fin 64) (stream : Fin 3) (n : BitVec 32)
  /-- ACCUMULATE (R263): The bucket unit receives an accumulate request and answers ACCEPTED, DUPLICATE, OUT_OF_ORDER, NOT_OPEN, LATE or REJECTED after checking epoch, marks and format. -/
  | accumulate (f : Frame)
  /-- LINE_ADD (R254): A channel adder performs the reserved read-modify-write of an accepted line, in sum or GF mode. -/
  | lineAdd (p : Fin 16) (bucket : BitVec 16) (contributor : Fin 4096) (line : BitVec 16)
  /-- RESPONSE_TIMEOUT (R265): A request unanswered within response_timeout_us is resent from the lowest unacknowledged line. -/
  | responseTimeout (reqId : BitVec 32)
  /-- RETRY_INTERVAL_EXPIRE (R264): After retry_interval following NOT_OPEN, NOT_READY or an early OUT_OF_ORDER, the contributor resends. -/
  | retryIntervalExpire (reqId : BitVec 32)
  /-- STEP_READY_SEND (R276): Once all contributions, waits and staging of the epoch are complete, sapwood sends STEP_READY. -/
  | stepReadySend (p : Fin 16) (job : BitVec 16)
  /-- STEP_READY (R279): The manager records a worker's STEP_READY for the collecting epoch. -/
  | stepReady (f : Frame)
  /-- STEP_TIMEOUT (R278): The manager's step timeout from t_start expires, and it decides the epoch. -/
  | stepTimeout (job : BitVec 16)
  /-- VERDICT (R280): A worker receiving VERDICT advances marker 0 and the epoch, closes buckets, writes ls_exp, rolls scales, and lets the sweep issue or discards. -/
  | verdict (f : Frame)
  /-- SWEEP_DONE (R279): The manager, on SWEEP_DONE from every worker, declares the commit point and sends COMMIT. -/
  | sweepDone (f : Frame)
  /-- COMMIT (R281): A worker receiving COMMIT advances step marker 1. -/
  | commit (f : Frame)
  /-- PARITY_APPLIED (R279): The manager, on PARITY_APPLIED from every holder, declares the settled point and sends SETTLED. -/
  | parityApplied (f : Frame)
  /-- SETTLED (R281): A worker receiving SETTLED advances marker 2, releases undo images and makes the epoch's buckets final. -/
  | settled (f : Frame)
  /-- STEP_MESSAGE_RESEND (R275): An unacknowledged step message is resent every 1 ms of local tick. -/
  | stepMessageResend (reqId : BitVec 32)
  /-- STEP_MESSAGE_ACK (R275): An acknowledgement of a step message stops its resending. -/
  | stepMessageAck (reqId : BitVec 32)
  /-- WODRIC_WRITE (R403): A WRITE frame at its target writes data into the destination partition's space. -/
  | wodricWrite (f : Frame) (x : Option Extra)
  /-- WODRIC_READ (R405): A READ frame at its target is answered DONE with data, or REJECTED, NOT_READY or UNCORRECTABLE. -/
  | wodricRead (f : Frame) (x : Option Extra)
  /-- RING_COMMIT (R313): A COMMIT frame at the receiver makes the block visible, increments the channel token and advances expected, or answers DUPLICATE or NOT_READY. -/
  | ringCommit (f : Frame)
  /-- EXCH_COUNT (R300): An owner stores a member's count, and once it holds all counts it computes and returns the grants. -/
  | exchCount (f : Frame) (x : Option Extra)
  /-- EXCH_GRANT (R300): A member receives its offset and grant and then writes its granted rows. -/
  | exchGrant (f : Frame)
  /-- EXCH_FINISHED (R301): An owner stores FINISHED, and once it holds it from all members it pads the unfilled rows and writes filled. -/
  | exchFinished (f : Frame)
  /-- EXCH_RETURNED (R302): A source stores RETURNED from an owner. -/
  | exchReturned (f : Frame)
  /-- PERMUTE_PART (R319): A receiver accepts part of a chunk move for the accepted round, or answers NOT_READY, DUPLICATE or REJECTED. -/
  | permutePart (f : Frame)
  /-- RESPONSE (R405): The initiator receives a RESPONSE frame and acts on its answer code and mark. -/
  | response (f : Frame) (x : Option Extra)
  /-- ROUTED_FRAME (R398): A fabric port receives a routed frame, accepting only the expected sequence number and otherwise discarding it or sending nak. -/
  | routedFrame (port : Fin 16) (seq : BitVec 16) (fcs : Fcs) (shared : Bool) (header : Bool) (f : Frame) (c : Cargo)
  /-- FLOW (R402): A flow frame returns the acknowledgement, nak, relane and freed-cell credits. -/
  | flow (port : Fin 16) (src : Addr) (payload : List Byte)
  /-- FLOW_FRAME_SEND (R402): A port sends a flow frame, at least every 2 us or promptly after it frees cells. -/
  | flowFrameSend (port : Fin 16)
  /-- LINK_RETRY_TIMEOUT (R398): After 8 us without progress, the sender resends from the first unacknowledged frame. -/
  | linkRetryTimeout (port : Fin 16)
  /-- LINK_RESEND_LIMIT (R396): A frame resent 8 times without acknowledgement takes the link DOWN. -/
  | linkResendLimit (port : Fin 16)
  /-- PORT_ENABLE (R396): Writing FAB_PORT_CTL.enable to 1 starts link training. -/
  | portEnable (port : Fin 16)
  /-- PORT_DISABLE (R399): Writing FAB_PORT_CTL.enable to 0 drains the port and moves its queued frames to the other port of its direction. -/
  | portDisable (port : Fin 16)
  /-- LINK_TRAINED (R396): Training succeeds on 4 lanes and the link goes UP. -/
  | linkTrained (port : Fin 16)
  /-- LINK_TRAINED_DEGRADED (R396): Training succeeds on one lane pair only and the link goes DEGRADED. -/
  | linkTrainedDegraded (port : Fin 16) (high : Bool)
  /-- TRAINING_TIMEOUT (R396): Training without success for 100 ms restarts. -/
  | trainingTimeout (port : Fin 16)
  /-- LANE_FAULT (R397): A lane loses lock or exceeds its error limits, and both partners enter RELANING. -/
  | laneFault (port : Fin 16) (lanes : BitVec 4)
  /-- LINK_IDLE_TIMEOUT (R396): 20 us without a frame takes the link DOWN. -/
  | linkIdleTimeout (port : Fin 16)
  /-- RELANE_TRAINED (R396): Relaning trains on the healthy pair within 2 ms, and the link goes DEGRADED. -/
  | relaneTrained (port : Fin 16) (high : Bool)
  /-- RELANE_TIMEOUT (R396): Relaning passes 2 ms without success, and the link goes DOWN. -/
  | relaneTimeout (port : Fin 16)
  /-- DOWN_RETRAIN (R396): 1 ms after DOWN, the link starts training again. -/
  | downRetrain (port : Fin 16)
  /-- FAB_COORD_WRITE (R422): Sapwood writes FAB_COORD, which takes effect once every non-management channel is empty. -/
  | fabCoordWrite (value : Word)
  /-- COORD_TAKE_EFFECT (R422): The channels empty and the written coordinates take effect. -/
  | coordTakeEffect
  /-- SHAPER_REFILL (R414): Every 64 ns the partition's fabric and host token buckets refill. -/
  | shaperRefill (p : Fin 16)
  /-- ROCE_SEND (R415): A SEND on a host queue pair lands in a receive buffer that sapwood posted. -/
  | roceSend (r : Roce) (c : QpConf) (buffer : Option Word)
  /-- RDMA_WRITE (R416): An incoming RDMA WRITE is checked against the remote key and written into the partition's space. -/
  | rdmaWrite (r : Roce) (c : QpConf)
  /-- RDMA_READ (R416): An incoming RDMA READ is checked against the remote key and answered with data. -/
  | rdmaRead (r : Roce) (c : QpConf)
  /-- COMPARE_AND_SWAP (R416): An incoming 64-bit compare-and-swap is performed line-atomically. -/
  | compareAndSwap (r : Roce) (c : QpConf)
  /-- FETCH_AND_ADD (R416): An incoming 64-bit fetch-and-add is performed line-atomically. -/
  | fetchAndAdd (r : Roce) (c : QpConf)
  /-- ACCUMULATE_WRITE (R417): A host ACCUMULATE WRITE is handled under the bucket rules and acknowledged with opcode 0xC1. -/
  | accumulateWrite (r : Roce) (c : QpConf)
  /-- PFC_PAUSE (R418): A received PFC frame pauses or resumes egress on its priority. -/
  | pfcPause (port : Fin 4) (prio : Fin 8) (pause : Bool)
  /-- PFC_WATCHDOG (R418): A priority paused without a break for pfc_watchdog_ms has its queued frames discarded and its pauses ignored. -/
  | pfcWatchdog (port : Fin 4) (prio : Fin 8)
  /-- CNP (R419): A received CNP halves the queue pair's rate, at most once every 50 us. -/
  | cnp (qpn : BitVec 24)
  /-- CNP_RATE_INCREASE (R419): Every 55 us without a CNP, the queue pair's rate rises by 1 Gbit/s. -/
  | cnpRateIncrease (qpn : BitVec 24)
  /-- FAULT_RESOLVE_RETRY (R344): PRT_FAULT_RESOLVE with action 0 makes every joined requester translate again from its recorded point. -/
  | faultResolveRetry (p : Fin 16) (faultId : BitVec 16)
  /-- FAULT_RESOLVE_FAIL (R344): PRT_FAULT_RESOLVE with action 1 completes every joined descriptor FAULT with 0x2001. -/
  | faultResolveFail (p : Fin 16) (faultId : BitVec 16)
  /-- FAULT_TIMEOUT (R346): An unresolved waiting fault passes its timeout and ends as a fail with 0x2006. -/
  | faultTimeout (p : Fin 16) (faultId : BitVec 16)
  /-- XLT_INVAL (R342): A write of PRT_XLT_INVAL starts the invalidation of a VA range in every cache of the partition, or sets inval_error. -/
  | xltInval (p : Fin 16) (value : Word)
  /-- INVALIDATION_DONE (R342): Every cache has dropped the range and every access through it has completed, and busy clears. -/
  | invalidationDone (p : Fin 16)
  /-- PREEMPT_REQUEST (R348): PRT_PREEMPT action 1 stops admission on an armed partition and enters STOPPING. -/
  | preemptRequest (p : Fin 16)
  /-- PREEMPT_STOPPED (R348): Every engine reaches a point and every outstanding operation completes, and the partition enters SAVING. -/
  | preemptStopped (p : Fin 16)
  /-- SAVE_DONE (R348): Every live byte and the header are written, and the partition enters SAVED with 0x2004. -/
  | saveDone (p : Fin 16)
  /-- PREEMPT_RESUME (R348): PRT_PREEMPT action 2 starts restoring a SAVED partition. -/
  | preemptResume (p : Fin 16)
  /-- RESTORE_DONE (R348): The restore ends, resuming the partition, or returning it to SAVED when the check fails. -/
  | restoreDone (p : Fin 16)
  /-- PREEMPT_RELEASE (R348): PRT_PREEMPT action 3 disables the streams and completes issued descriptors PREEMPTED. -/
  | preemptRelease (p : Fin 16)
  /-- ARM_PREEMPT (R354): PRT_CTL.arm walks the save area and arms pre-emption, or sets arm_error. -/
  | armPreempt (p : Fin 16)
  /-- SAVE_BASE_WRITE (R354): A write of PRT_SAVE_BASE sets the area and clears armed. -/
  | saveBaseWrite (p : Fin 16) (value : Word)
  /-- HBM_SENSOR_READ (R373): Every 1 ms each stack's sensor is read, raising the refresh multiplier or throttling at the thresholds. -/
  | hbmSensorRead (stack : Fin 12) (temp : BitVec 8)
  /-- HBM_TEMP_LOWER_HOLD (R373): The sensor stays at or below temp_lower_c for 100 ms, and the temperature multiplier returns to 1x. -/
  | hbmTempLowerHold (stack : Fin 12)
  /-- HBM_THROTTLE_END (R374): The sensor stays 5 C below the limit for 100 ms, and throttling ends. -/
  | hbmThrottleEnd (stack : Fin 12)
  /-- HBM_REFRESH (R373): A stack is refreshed at its effective multiplier ahead of every class of traffic. -/
  | hbmRefresh (stack : Fin 12)
  /-- SCRUB_LINE (R371): A patrol scrub read of a line is corrected and written back, or logged as uncorrectable. -/
  | scrubLine (line : BitVec 33) (bad : Fin 4)
  /-- SCRUB_PERIOD_BOUNDARY (R371): A scrub period ends, the per-row counts restart and a written period takes effect. -/
  | scrubPeriodBoundary
  /-- REGULATOR_REFILL (R377): Every 64 ns the minimum and cap buckets of every regulator refill. -/
  | regulatorRefill
  /-- CHANNEL_SCHEDULE (R378): A free pseudo-channel slot is given to a waiting class by minimum, cap and weight. -/
  | channelSchedule (stack : Fin 12) (pc : Fin 64) (waiting : List HbmReq)
  /-- REG_RATE_WRITE (R380): A write of HBM_REG_RATE sets min and cap, or is refused with reg_error when the minimums exceed the guaranteeable rate. -/
  | regRateWrite (stack : Fin 12) (p : Fin 16) (value : Word)
  /-- HARD_REPAIR (R384): HBM_REPAIR_CMD kind 1 starts a hard row repair when the test profile is active and the module is drained, or is refused. -/
  | hardRepair (value : Word)
  /-- HARD_REPAIR_DONE (R384): A hard repair ends, the ledger entry becomes hard and 0x3009 is raised. -/
  | hardRepairDone (ok : Bool)
  /-- MANAGER_MODE_ACTIVE (R427): GRV_MGR_CTL.mode 1 makes a manager-profile module the active manager. -/
  | managerModeActive
  /-- MANAGER_MODE_STANDBY (R427): GRV_MGR_CTL.mode 2 makes a manager-profile module the standby. -/
  | managerModeStandby
  /-- COORD_OFFER (R429): A module takes the first coordinate offer and offers onward, or raises 0xC009 on a conflict. -/
  | coordOffer (port : Fin 16) (kx : Fin 16) (ky : Fin 16) (kz : Fin 16) (x : Fin 16) (y : Fin 16) (z : Fin 16)
  /-- JOIN (R430): The manager receives JOIN, may attest the module, and answers ADMIT. -/
  | join (g : Mg) (role : Nat) (layout : Nat) (units : List Nat) (conflict : Bool) (plan : Bool)
  /-- ADMIT (R430): A module is admitted as a working member or a spare and becomes ADMITTED. -/
  | admission (g : Mg) (term : Nat) (manager : Nat) (standby : Nat) (standbyValid : Bool) (spare : Bool)
  /-- PULSE_SEND (R434): Every pulse_ms each admitted module sends PULSE to the manager and the standby. -/
  | pulseSend
  /-- PULSE (R435): The manager receives a pulse, and declares the module lost if it carries sapwood_failed. -/
  | pulse (g : Mg) (term : BitVec 16) (restarting : Bool) (failed : Bool)
  /-- LOSS_TIMEOUT (R435): No pulse arrives for loss_ms, and the module is declared lost with 0xC001. -/
  | lossTimeout (module : BitVec 12)
  /-- SAPWOOD_GRACE_TIMEOUT (R435): sapwood_restarting is held beyond sapwood_grace_ms, and the module is declared lost. -/
  | sapwoodGraceTimeout (module : BitVec 12)
  /-- LINK_REPORT (R435): The manager learns of a link state change, and may declare a module lost. -/
  | linkReport (g : Mg) (port : Fin 16) (state : Fin 8) (partner : BitVec 12)
  /-- FAULT_MAP (R410): A module installs the next detour generation from the fault map. -/
  | faultMap (g : Mg) (modules : List Nat) (_links : List (Nat × Nat)) (gen : Fin 16) (upMask : BitVec 6) (tables : List (Nat × Nat))
  /-- LOST (R445): A worker sets the recovery epoch, voids older work, rolls back the target epoch and sends ROLLBACK_DONE. -/
  | lost (g : Mg) (modules : List Nat) (r : Nat) (target : Option Nat)
  /-- ROLLBACK_DONE (R444): The manager records ROLLBACK_DONE and moves to REBUILDING once every survivor and spare has reported. -/
  | rollbackDone (g : Mg) (r : Word)
  /-- ACTIVATE (R446): A spare takes the lost partition's place from its configuration image and sends ACTIVATED. -/
  | activate (g : Mg) (lost : Addr) (r : Nat) (p : Fin 16) (writes : List (Nat × List Byte)) (regs : List (Nat × Word))
  /-- ACTIVATED (R444): The manager records ACTIVATED from a spare. -/
  | activated (g : Mg) (r : Word)
  /-- RECONSTRUCT (R448): Survivors and the spare start the chained rebuild of the lost columns. -/
  | reconstruct (g : Mg) (r : Nat) (lost : List (Nat × Addr))
  /-- REBUILD_FORWARD (R448): When a chain bucket completes, its combined lines are sent to the next member or to the spare. -/
  | rebuildForward (p : Fin 16) (bucket : BitVec 16)
  /-- SPARE_FINALISE (R449): After the last piece, the spare rebuilds copies, replicas, roots and factors and sends RECONSTRUCT_DONE. -/
  | spareFinalise (p : Fin 16) (factors : List Nat)
  /-- RECONSTRUCT_DONE (R444): The manager, on RECONSTRUCT_DONE from every spare, sends RESHARD. -/
  | reconstructDone (g : Mg) (r : Word)
  /-- RESHARD (R450): A worker advances to r+1, installs the new job map and runs any permutation and re-encode. -/
  | reshard (g : Mg) (epoch : Nat) (map : List Byte) (plan : Bool) (encode : Bool)
  /-- RESHARD_DONE (R444): The manager, on RESHARD_DONE from every worker, sends RESUME. -/
  | reshardDone (g : Mg) (r : Word)
  /-- RESUME (R451): A worker advances to r+2, takes ls_exp and repeats the lost step. -/
  | resume (g : Mg) (epoch : Nat) (lsExp : Int)
  /-- MIRROR (R444): The standby stores the manager's new state and acknowledges it. -/
  | mirror (g : Mg) (j : MgrJob) (peers : List Peer)
  /-- TAKEOVER (R453): A module adopts the higher term, and a deposed manager stops deciding. -/
  | takeover (g : Mg) (term : BitVec 16)
  /-- CONFIG_IMAGE (R432): The manager stores a partition's configuration image and mirrors it to the standby. -/
  | configImage (g : Mg) (img : Image)
  /-- ENCODE (R443): Group members reset their parity and send their full images for encoding. -/
  | encode (g : Mg) (epoch : Nat)
  /-- PARITY_APPLY (R442): When every delta bucket is complete, the holder applies the deltas unit by unit and sends PARITY_APPLIED. -/
  | parityApply (p : Fin 16)
  /-- TAP_DIE_LOST (R468): A taproot die stops answering or retires too many blocks, and is declared lost and rebuilt. -/
  | tapDieLost (die : Fin 128) (silent : Bool)
  /-- DIE_REBUILD_DONE (R468): The background rebuild of a lost die's pages ends. -/
  | dieRebuildDone (die : Fin 128)
  /-- RETENTION_AGE_TICK (R470): Each second, block ages grow by AF(T), and blocks at refresh_age_d are rewritten. -/
  | retentionAgeTick (temps : List Int)
  /-- TAP_SCRUB (R471): Each written block is read once per scrub period and rewritten when its correction is heavy. -/
  | tapScrub (block : Nat) (found : List (Nat × Fin 10)) (heavy : Bool)
  /-- READ_DISTURB_REWRITE (R472): A block that reaches 50,000 reads since erase is rewritten. -/
  | readDisturbRewrite (block : Nat)
  /-- WEAR_LEVEL_MOVE (R473): When block counts differ by more than 200, the least-worn block's data are moved. -/
  | wearLevelMove
  /-- ALLOWANCE_ACCRUE (R474): Each second, the write allowance gains its share, and held writes resume when it reaches 1 GB. -/
  | allowanceAccrue
  /-- MODULE_STATE_M0 (R486): A write of M0 returns every domain that the module state moved to its prior state. -/
  | moduleStateM0
  /-- MODULE_STATE_M1 (R486): A write of M1 requests D1 for the compute domains in order. -/
  | moduleStateM1
  /-- MODULE_STATE_M2 (R486): A write of M2 requests D2 for the compute and HBM domains. -/
  | moduleStateM2
  /-- MODULE_STATE_M3 (R487): A write of M3 is refused unless all is disabled, and otherwise drains, checkpoints and powers all domains off. -/
  | moduleStateM3
  /-- DOMAIN_REQUEST_D0 (R492): A host write of a shallower requested state wakes the domain. -/
  | domainRequestD0 (domain : Fin 128)
  /-- DOMAIN_REQUEST_D1 (R491): A request for D1 begins clock-gating entry, or sets cmd_error. -/
  | domainRequestD1 (domain : Fin 128)
  /-- DOMAIN_REQUEST_D2 (R491): A request for D2 begins retained power-gating entry, or sets cmd_error. -/
  | domainRequestD2 (domain : Fin 128)
  /-- DOMAIN_REQUEST_D3 (R490): A request for D3 begins power-off entry when the domain holds no admitted work, or sets cmd_error. -/
  | domainRequestD3 (domain : Fin 128)
  /-- DOMAIN_ADMISSION_STOPPED (R491): Admission stops at point A1, and the entry drains or is abandoned on a pending wake. -/
  | domainAdmissionStopped (domain : Fin 128)
  /-- DOMAIN_DRAINED (R491): Every engine reaches a point at A2, and the domain saves or isolates. -/
  | domainDrained (domain : Fin 128)
  /-- DOMAIN_RETAINED (R491): The retention latches are loaded at A3, and the domain isolates. -/
  | domainRetained (domain : Fin 128)
  /-- DOMAIN_ISOLATED (R491): Outputs are isolated, the entry commits, and clocks and power are removed. -/
  | domainIsolated (domain : Fin 128)
  /-- DOMAIN_ENTRY_TIMEOUT (R491): DRAINING passes entry_timeout_us, and the entry is abandoned with 0x8006. -/
  | domainEntryTimeout (domain : Fin 128)
  /-- DOMAIN_WAKE (R492): A wake event on a sleeping domain starts its exit. -/
  | domainWake (domain : Fin 128)
  /-- DOMAIN_READY (R491): The domain raises ready, admission reopens and held accesses proceed. -/
  | domainReady (domain : Fin 128) (train : Train)
  /-- PWR_LIMIT_WRITE (R498): The host sets the module power cap. -/
  | pwrLimitWrite (value : Word)
  /-- PWR_VWINDOW_WRITE (R499): The host sets the core-rail voltage window, and each die moves to the points inside it. -/
  | pwrVwindowWrite (value : Word)
  /-- DIE_TARGET_WRITE (R496): The host sets a die's target frequency, and its operating point changes. -/
  | dieTargetWrite (die : Fin 4) (value : Word)
  /-- AVS_ACK (R496): The regulator reports its output settled, completing the voltage command. -/
  | avsAck (die : Fin 4)
  /-- AVS_TIMEOUT (R497): No acknowledgement within 200 us resends the command, and the third failure returns the old point with 0x8003. -/
  | avsTimeout (die : Fin 4)
  /-- FREQUENCY_STEP (R496): A die's frequency moves by one 50 MHz step every 100 ns toward its point. -/
  | frequencyStep (die : Fin 4)
  /-- POWER_CAP_TICK (R498): Each millisecond, a 1 ms average above the cap lowers every die by 50 MHz. -/
  | powerCapTick (watts : BitVec 16) (deciVolts : BitVec 16)
  /-- POWER_CAP_RAISE (R498): 10 ms below 97% of the cap raises every die by 50 MHz. -/
  | powerCapRaise
  /-- THERMAL_THROTTLE_TICK (R500): Each millisecond at the throttle temperature lowers the die by 50 MHz. -/
  | thermalThrottleTick (die : Fin 4) (temp : BitVec 8)
  /-- THERMAL_RELEASE (R500): 100 ms at 5 C below the throttle temperature raises the die again. -/
  | thermalRelease (die : Fin 4)
  /-- MONITOR_READ (R509): Every 10 ms the critical-path and SRAM monitors are read. -/
  | monitorRead (die : Fin 4) (crit : BitVec 16) (sram : BitVec 16)
  /-- SERDES_MARGIN_READ (R509): Every second the SerDes eye and FEC margins are read. -/
  | serdesMarginRead (lane : Fin 64) (height : BitVec 16) (width : BitVec 16) (corrected : BitVec 32) (uncorrectable : BitVec 32)
  /-- PLAN_PERIOD (R511): Every plan_period_h hours the margin planner builds a plan. -/
  | planPeriod
  /-- REPLAN (R523): AGE_CTL.replan runs the planner now and restarts its period. -/
  | replan
  /-- SERDES_EYE_SCAN (R517): Background-safe test 0x01 on a lane. -/
  | serdesEyeScan (lane : Fin 64)
  /-- PATH_MONITOR_READ (R517): Background-safe test 0x02 on a die. -/
  | pathMonitorRead (die : Fin 4)
  /-- HBM_SCRUB_PASS (R517): Background-safe test 0x03 on a stack. -/
  | hbmScrubPass (stack : Fin 12)
  /-- TAPROOT_SCRUB_PASS (R517): Background-safe test 0x04 on the taproot. -/
  | taprootScrubPass
  /-- CORE_LOGIC_SELF_TEST (R518): Slot-needing test 0x10 is queued or drains its core. -/
  | coreLogicSelfTest (core : Fin 64) (drain : Bool) (timeoutMs : BitVec 32)
  /-- HBM_RETENTION_SWEEP (R518): Slot-needing test 0x11 is queued on a channel. -/
  | hbmRetentionSweep (stack : Fin 12) (channel : Fin 32) (drain : Bool) (timeoutMs : BitVec 32)
  /-- DSU_CHECK (R518): Slot-needing test 0x12 is queued on a cluster. -/
  | dsuCheck (cluster : Fin 16) (drain : Bool) (timeoutMs : BitVec 32)
  /-- FULL_SERDES_RETRAINING (R520): Disruptive test 0x20 runs on a drained port, or is refused. -/
  | fullSerdesRetraining (agent : Agent) (port : Fin 16)
  /-- TAPROOT_DIE_TEST (R520): Disruptive test 0x21 runs on a drained taproot, or is refused. -/
  | taprootDieTest (agent : Agent) (die : Fin 128)
  /-- TEST_START (R518): A queued test starts when its target's quiet window opens, and admission to the target is held. -/
  | testStart
  /-- TEST_COMPLETE (R522): A test ends, with 0x9005 or 0x9004, a ledger record, and the unit disabled on failure. -/
  | testComplete (code : BitVec 8) (target : BitVec 16) (pass : Bool) (exceeds : Bool)
  /-- TEST_EXPIRE (R518): A queued request passes timeout_ms and expires with 0x9003. -/
  | testExpire
  /-- PWR_EN_RISE (R564): PWR_EN rising charges the input and releases PWR_GOOD when the rails are good. -/
  | pwrEnRise
  /-- PWR_EN_FALL (R569): PWR_EN falling removes every rail and clears the thermal trip latch. -/
  | pwrEnFall
  /-- RESET_ASSERT (R569): RESET_N low resets the module except the hot-swap controller and the tick, abandoning any warm restart. -/
  | resetAssert
  /-- COLD_BOOT (R527): The effective release of RESET_N samples the pins and boots the module to ready. -/
  | coldBoot (profsel : Fin 4) (slotId : BitVec 6) (trains : List Train) (survey : Survey) (plan : Plan)
  /-- WARM_RESTART (R526): GLB_RESTART with key 0x5A17 disables partitions, checkpoints the taproot and restarts the module. -/
  | warmRestart (key : BitVec 16) (trains : List Train) (survey : Survey) (plan : Plan)
  /-- INPUT_UNDERVOLTAGE (R563): Input below 55 V for 100 us removes every rail as a loss of power. -/
  | inputUndervoltage
  /-- THERMAL_TRIP (R576): A hardware over-temperature removes every rail and latches THERMTRIP_N. -/
  | thermalTrip (sensor : Fin 17) (temp : BitVec 8)
  /-- WATCHDOG_KICK (R538): TRU_WDOG.kick restarts the sapwood watchdog period. -/
  | watchdogKick
  /-- WATCHDOG_EXPIRE (R538): 500 ms without a kick makes heartwood restart sapwood, or fail it. -/
  | watchdogExpire (intact : Bool)
  /-- SAPWOOD_CONTROLLER_FAULT (R538): A sapwood controller fault makes heartwood restart sapwood, or fail it. -/
  | sapwoodControllerFault (intact : Bool)
  /-- NONCE_EXPIRE (R543): A debug nonce expires 60 s after its challenge. -/
  | nonceExpire
  /-- LEDGER_READ (R544): Mailbox request 0x01 copies ledger entries to the response. -/
  | ledgerRead (ch : Fin 2) (req : BitVec 64) (first : BitVec 64) (count : BitVec 16)
  /-- LEDGER_APPEND (R544): Mailbox request 0x02 appends monitor and thermal entries to the ledger. -/
  | ledgerAppend (req : BitVec 64) (type : BitVec 8) (unit : BitVec 8) (body : List Byte)
  /-- PLAN_SUBMIT (R512): Mailbox request 0x03 clips, records and applies a margin plan. -/
  | planSubmit (req : BitVec 64) (plan : Plan)
  /-- IMAGE_WRITE (R544): Mailbox request 0x10 writes part of an image to the inactive slot. -/
  | imageWrite (req : BitVec 64) (kind : BitVec 8) (offset : BitVec 32) (bytes : List Byte) (nvm : Bool)
  /-- IMAGE_ACTIVATE (R544): Mailbox request 0x11 verifies the inactive slot and sets it pending with three tries. -/
  | imageActivate (req : BitVec 64) (kind : BitVec 8) (nvm : Bool)
  /-- IMAGE_CONFIRM (R533): Mailbox request 0x12 makes a running pending slot active. -/
  | imageConfirm (req : BitVec 64) (kind : BitVec 8) (nvm : Bool)
  /-- VERSION_COMMIT (R534): Mailbox request 0x13 advances an anti-rollback fuse counter. -/
  | versionCommit (req : BitVec 64) (kind : BitVec 8) (svn : BitVec 32)
  /-- PROFILE_WRITE (R544): Mailbox request 0x14 verifies a profile image and writes it to a slot. -/
  | profileWrite (req : BitVec 64) (slot : Fin 4) (image : List Byte) (nvm : Bool)
  /-- IDENTITY_WRITE (R544): Mailbox request 0x15 stores the owner certificate chain. -/
  | identityWrite (req : BitVec 64) (bytes : List Byte) (last : Bool) (nvm : Bool)
  /-- DEBUG_CHALLENGE (R543): Mailbox request 0x20 returns a fresh 32-byte nonce. -/
  | debugChallenge (req : BitVec 64)
  /-- DEBUG_UNLOCK (R543): Mailbox request 0x21 checks a signed token and unlocks its debug scope. -/
  | debugUnlock (req : BitVec 64) (token : List Byte)
  /-- OWNER_CLAIM (R539): Mailbox request 0x30 burns the next ownership slot. -/
  | ownerClaim (req : BitVec 64) (digest : List Byte) (auth : List Byte)
  /-- GET_VERSION (R541): Heartwood answers an SPDM GET_VERSION request. -/
  | getVersion (via : Via)
  /-- GET_CAPABILITIES (R541): Heartwood answers an SPDM GET_CAPABILITIES request. -/
  | getCapabilities (via : Via)
  /-- NEGOTIATE_ALGORITHMS (R541): Heartwood answers an SPDM NEGOTIATE_ALGORITHMS request. -/
  | negotiateAlgorithms (via : Via) (common : Bool)
  /-- GET_DIGESTS (R541): Heartwood answers an SPDM GET_DIGESTS request. -/
  | getDigests (via : Via)
  /-- GET_CERTIFICATE (R541): Heartwood returns a certificate chain from slot 0 or 1. -/
  | getCertificate (via : Via) (slot : BitVec 4) (offset : BitVec 16) (length : BitVec 16)
  /-- CHALLENGE (R541): Heartwood answers an SPDM CHALLENGE with the alias key. -/
  | challenge (via : Via) (slot : BitVec 4)
  /-- GET_MEASUREMENTS (R542): Heartwood reports measurement blocks 1 to 5. -/
  | getMeasurements (via : Via) (index : BitVec 8)
  /-- KEY_EXCHANGE (R541): Heartwood answers an SPDM KEY_EXCHANGE to start a session. -/
  | keyExchange (via : Via) (slot : BitVec 4)
  /-- FINISH (R541): Heartwood answers an SPDM FINISH to complete the session handshake. -/
  | finish (via : Via) (session : BitVec 16) (ok : Bool)
  /-- HEARTBEAT (R541): Heartwood answers an SPDM HEARTBEAT in a session. -/
  | heartbeat (via : Via) (session : BitVec 16)
  /-- KEY_UPDATE (R541): Heartwood updates the session keys. -/
  | keyUpdate (via : Via) (session : BitVec 16)
  /-- END_SESSION (R541): Heartwood ends an SPDM session. -/
  | endSession (via : Via) (session : BitVec 16)
  /-- PLDM_MONITORING (R571): Heartwood answers a PLDM type 2 platform monitoring request with its sensors. -/
  | pldmMonitoring (sensor : Fin 24) (measured : BitVec 16)
  /-- PLDM_FRU_DATA (R571): Heartwood answers a PLDM type 4 FRU data request. -/
  | pldmFruData
  /-- ENTDAA (R570): The I3C target takes its dynamic address through ENTDAA. -/
  | entdaa (address : BitVec 7)
  /-- MCTP_CONTROL (R570): The module answers an MCTP control message, which includes endpoint ID assignment. -/
  | mctpControl (command : BitVec 8) (eid : BitVec 8)
  /-- REGISTER_MESSAGE (R552): The host's register message executes its read and write operations in order and is answered with results. -/
  | registerMessage (via : Via) (src : List Byte) (secured : Bool) (id : BitVec 16) (count : BitVec 8) (ops : List RegOp)
  /-- REGISTER_WRITE (R550): A write to a register without a row of its own updates its fields by access code, subject to the reserved-field rules. -/
  | registerWrite (agent : Agent) (offset : BitVec 26) (value : Word)
  /-- READ_CLEAR (R551): A read of an RC field returns its count and clears it. -/
  | readClear (queue : Option (Fin 16))
  /-- MQ_HEAD_WRITE (R557): The owner of the module event queue advances head, which may release ALERT_N. -/
  | mqHeadWrite (agent : Agent) (value : Word)
  /-- PQ_BASE_WRITE (R561): A write of EVT_PQ_BASE sets or disables a partition queue and resets its head and tail. -/
  | pqBaseWrite (p : Fin 16) (value : Word)
  /-- EVENT_PUSH (R560): Records at or above push_min_severity are sent to the host within 100 us. -/
  | eventPush
  /-- ARCHIVE_FLUSH (R559): Pending event records are written to the taproot archive, at least once per second. -/
  | archiveFlush
  /-- ARCH_READ (R561): A write of EVT_ARCH_READ.first starts copying 128 archived records to the window. -/
  | archRead (first : BitVec 32)
  /-- ARCH_READ_DONE (R559): The archive window is filled and busy clears. -/
  | archReadDone
  /-- ROCE_ACKNOWLEDGE (R415): A host port receives an ACK, NAK or RDMA READ response for a request the module made as RC requester, such as an access to a loc 2 page or an event push. -/
  | roceAcknowledge (r : Roce) (c : QpConf)
  /-- ROCE_RETRY_TIMEOUT (R415): An RC queue pair's acknowledgement timer expires and the module retransmits, or moves the queue pair to its error state with 0x4007 once the retry count is spent. -/
  | roceRetryTimeout (qpn : BitVec 24) (c : QpConf)
  /-- PFC_WATCHDOG_CLEAR (R418): After 100 ms without a pause frame on a priority whose watchdog fired, the port honours pause on that priority again. -/
  | pfcWatchdogClear (port : Fin 4) (prio : Fin 8)
  /-- AVS_VOUT_READ (R497): An AVSBus read of a silent regulator's output shows at least the old point's voltage, and the die returns to its old frequency. -/
  | avsVoutRead (die : Fin 4) (mv : BitVec 16)
  /-- SAPWOOD_RESTARTED (R436): Heartwood's restart of sapwood completes: sapwood_restarting clears, sapwood rebuilds its step state, resends due step messages, lets waiting taproot descriptors proceed, and 0xC00A is raised. -/
  | sapwoodRestarted
  /-- MODULE_READY (R527): A cold boot or warm restart reaches ready: partitions are carved, GLB_STATUS.ready is set, and the module begins pulsing and serving requests. -/
  | moduleReady
  /-- INPUT_IN_RANGE (R563): The input at J1 rises to or above 58 V after a loss of power or on insertion, which allows power to be applied again through the sequence of R568. -/
  | inputInRange
  /-- RECOVERY_IMAGE_WRITE (R528): In mask ROM recovery, the module accepts a Uhlaux-signed heartwood image written into slot A over the sideband. -/
  | recoveryImageWrite (image : List Byte)
  /-- BAD_REQUEST (R544): A mailbox request with a reserved code or a malformed length completes with result BAD_REQUEST. -/
  | badRequest (ch : Fin 2) (req : BitVec 64) (code : BitVec 8) (length : BitVec 14)
  /-- TEST_PORT_INSTRUCTION (R573): An instruction shifted in through J6 runs BYPASS or IDCODE, or another instruction only within an unlocked debug scope. -/
  | testPortInstruction (op : TapInstr)
deriving DecidableEq, Repr

end Sys2Proof
end

