-- ==== Sys2Proof/Decode.lean ====
section
/-! DEFINITION. The decoder over the rows of the command table that give bits. The table gives none: its 276 rows are
operations and events, each without an encoding. A descriptor's bytes are read where it issues (Issue.lean and the
chapters' files). -/
namespace Sys2Proof

/-- The command that a word spells by the table's bits: no row of the table has bits, so no word spells one. -/
def decodeTableWord (_nbits _w : Nat) : Option Instr := none

end Sys2Proof
end

