-- ==== Sys2Proof/Machine/Bits.lean ====
section
/-! DEFINITION. Little-endian fields (R2), bit fields, wrapping counters and the byte helpers every chapter uses. -/
namespace Sys2Proof.Machine

/-- Bits [hi:lo] of a number. -/
def bits (x hi lo : Nat) : Nat := (x >>> lo) % 2 ^ (hi + 1 - lo)

/-- Bit i of a number. -/
def bit (x i : Nat) : Bool := (x >>> i) % 2 = 1

/-- A flag as 0 or 1. -/
def b2n (b : Bool) : Nat := if b then 1 else 0

/-- The number of n low bytes of a number, lowest address first (R2). -/
def leBytes : Nat → Nat → List Byte
  | 0, _ => []
  | n + 1, x => BitVec.ofNat 8 x :: leBytes n (x / 256)

/-- The number that little-endian bytes spell (R2). -/
def leNat : List Byte → Nat
  | [] => 0
  | b :: bs => b.toNat + 256 * leNat bs

/-- The number that big-endian bytes spell (fields of published standards that are big-endian). -/
def beNat (bs : List Byte) : Nat := leNat bs.reverse

/-- Bytes [off, off + n) of a byte string; bytes beyond its end read as zero. -/
def slice (bs : List Byte) (off n : Nat) : List Byte :=
  let x := (bs.drop off).take n
  x ++ List.replicate (n - x.length) 0

/-- The field of n bytes at an offset. -/
def fld (bs : List Byte) (off n : Nat) : Nat := leNat (slice bs off n)

/-- Bits [hi:lo] of the byte at an offset. -/
def fldB (bs : List Byte) (off hi lo : Nat) : Nat := bits (fld bs off 1) hi lo

/-- Bit i of the byte at an offset. -/
def fldBit (bs : List Byte) (off i : Nat) : Bool := bit (fld bs off 1) i

/-- Every byte of [off, off + n) is zero. -/
def zeroBytes (bs : List Byte) (off n : Nat) : Bool := (slice bs off n).all (· = 0)

/-- The byte string with the bytes at an offset replaced. -/
def patch (bs : List Byte) (off : Nat) (w : List Byte) : List Byte :=
  bs.take off ++ w ++ bs.drop (off + w.length)

/-- The byte string with the n-byte field at an offset replaced. -/
def patchN (bs : List Byte) (off n x : Nat) : List Byte := patch bs off (leBytes n x)

/-- 32-bit wrapping sum. -/
def w32 (x : Nat) : Nat := x % 2 ^ 32

/-- 64-bit wrapping sum. -/
def w64 (x : Nat) : Nat := x % 2 ^ 64

/-- a − b modulo 2 ^ n. -/
def subMod (n a b : Nat) : Nat := (a % 2 ^ n + 2 ^ n - b % 2 ^ n) % 2 ^ n

/-- Rounding up to a multiple of m. -/
def roundUp (x m : Nat) : Nat := (x + m - 1) / m * m

/-- Quotient rounded up. -/
def ceilDiv (x m : Nat) : Nat := (x + m - 1) / m

/-- Two's complement reading of an n-bit number. -/
def sext (n x : Nat) : Int := if x % 2 ^ n < 2 ^ (n - 1) then (x % 2 ^ n : Nat) else (x % 2 ^ n : Nat) - (2 ^ n : Nat)

/-- Lists of numbers [lo, hi). -/
def rangeFrom (lo hi : Nat) : List Nat := (List.range (hi - lo)).map (lo + ·)

/-- The list with element i replaced. -/
def setAt {α : Type} (xs : List α) (i : Nat) (x : α) : List α := xs.set i x

/-- The first element that a test holds of, with the test's failures before it. -/
def countIf {α : Type} (p : α → Bool) (xs : List α) : Nat := (xs.filter p).length

/-- Byte-wise exclusive or. -/
def xorBytes (a b : List Byte) : List Byte := List.zipWith (· ^^^ ·) a b

/-- Saturating value of n bits. -/
def satBits (n x : Nat) : Nat := if x < 2 ^ n then x else 2 ^ n - 1

/-- Eight steps of the reflected CRC division. -/
def crcShift (poly : Nat) : Nat → Nat → Nat
  | 0, c => c
  | k + 1, c => crcShift poly k (if c % 2 = 1 then (c / 2) ^^^ poly else c / 2)

/-- CRC-32C (Castagnoli) of a byte string (R306). -/
def crc32c (bs : List Byte) : Nat :=
  (bs.foldl (fun c b => crcShift 0x82F63B78 8 (c ^^^ b.toNat)) 0xFFFFFFFF) ^^^ 0xFFFFFFFF

/-- The number with bits [hi:lo] replaced. -/
def insBits (x hi lo v : Nat) : Nat :=
  x / 2 ^ (hi + 1) * 2 ^ (hi + 1) + (v % 2 ^ (hi + 1 - lo)) * 2 ^ lo + x % 2 ^ lo

@[simp] theorem leBytes_length (n x : Nat) : (leBytes n x).length = n := by
  induction n generalizing x with
  | zero => rfl
  | succ n ih => simp [leBytes, ih]

/-- The bytes of a number read back as the number, modulo their width. -/
theorem leNat_leBytes (n x : Nat) : leNat (leBytes n x) = x % 2 ^ (8 * n) := by
  induction n generalizing x with
  | zero => simp [leBytes, leNat, Nat.mod_one]
  | succ n ih =>
    have h : 2 ^ (8 * (n + 1)) = 256 * 2 ^ (8 * n) := by
      rw [show 8 * (n + 1) = 8 + 8 * n by omega, Nat.pow_add]
    simp only [leBytes, leNat, ih, BitVec.toNat_ofNat]
    rw [h, Nat.mod_mul]

end Sys2Proof.Machine
end

