-- ==== Sys2Proof/Config.lean ====
section
/-! DEFINITION. What the manual leaves open: constants without a body. No proof can see what they are, so a statement
holds whatever they are. A free value is `freeWord` applied to the counter that State carries (assumption 4). -/
namespace Sys2Proof.Config

/-- Free value number n: random bits of stochastic rounding (R26), an order of additions the manual does not fix
(R27), a byte the manual calls undefined, a choice it leaves to the module. -/
opaque freeWord : Nat → BitVec 64

/-- Which of the two neighbours a faithfully rounded operation returns: true for the one further from zero. It
depends only on the operation, the format and the input bits (R578). -/
opaque faithfulUp : (op fmt bits : Nat) → Bool

/-- Post-package repair resources of a bank as manufactured: what the stack reports at training, before the hard
repairs made since (R372). -/
opaque hbmSpares : (stack pc bank : Nat) → Nat

/-- Blocks of a taproot die that its factory table marks bad (R467). -/
opaque flashBad : (die : Nat) → Nat

/-- Bytes of the serial number of the device identity certificate (R430, R540). -/
opaque serial : Nat → BitVec 8

/-- SHA-512, and HMAC-SHA-512 of a key and a message (R532, R540). -/
opaque sha512 : List (BitVec 8) → List (BitVec 8)
opaque hmac : List (BitVec 8) → List (BitVec 8) → List (BitVec 8)

/-- An ECDSA P-521 signature verifies over a digest under the public key whose SHA-512 digest is given (R532, R539,
R543). -/
opaque sigOk : (keyDigest digest sig : List (BitVec 8)) → Bool

/-- Digests of Uhlaux's signing keys and of the mask ROM; the unique device secret; the public key derived from a seed
(R532, R540, R542). -/
opaque uhlauxKey : Nat → List (BitVec 8)
opaque romDigest : List (BitVec 8)
opaque secret : List (BitVec 8)
opaque publicKey : List (BitVec 8) → List (BitVec 8)

/-- The DeviceID certificate chain from Uhlaux; the alias certificate for an alias key and its measurements; the DeviceID
key that an owner's chain certifies (R540, R541, R544). -/
opaque deviceChain : List (BitVec 8)
opaque aliasCert : (key measurements : List (BitVec 8)) → List (BitVec 8)
opaque chainKey : List (BitVec 8) → List (BitVec 8)

/-- The MAC address of the port of a module that this module's port has for its partner (R403). -/
opaque portMac : (module port : Nat) → BitVec 48

/-- Uhlaux's IANA enterprise number and JEDEC manufacturer code (R554, R573). -/
opaque enterprise : BitVec 32
opaque jedec : BitVec 11

end Sys2Proof.Config
end

