-- ==== Sys2Proof/Machine/Flags.lean ====
section
/-! DEFINITION. The numeric flags: their bits (R44) and the computations that raise them. Which conditions raise a flag
is decided where a value is rounded (Num.lean); where an engine's flags go when its descriptor completes is decided
there (Complete.lean, R45 to R47). -/
namespace Sys2Proof.Machine

-- Flag bits of R44: invalid, overflow, underflow, inexact, flushed.
def flNV : Nat := 1
def flOF : Nat := 2
def flUF : Nat := 4
def flNX : Nat := 8
def flFL : Nat := 16

/-- The state of a computation: flags raised so far and the counter of free values. -/
structure NumSt where
  flags : Nat
  free : Nat
deriving DecidableEq, Repr

/-- Computations that raise flags and draw free values. -/
abbrev FlM := StateM NumSt

namespace FlM

def raise (f : Nat) : FlM Unit := modify fun s => { s with flags := s.flags ||| f }

/-- A fresh free value (assumption 4). -/
def draw : FlM Nat := do
  let s ← get
  set { s with free := s.free + 1 }
  return (Config.freeWord s.free).toNat

end FlM

end Sys2Proof.Machine
end

