-- ==== Sys2Proof/Machine/Num.lean ====
section
/-! DEFINITION. Numbers of the module: the values that encodings stand for, exact arithmetic on them, and the
roundings that bring a result back into a format (chapter Number formats and numeric behaviour, R14 to R37, R578). -/
namespace Sys2Proof.Machine

/-- A value: NaN, a signed infinity, or (−1)^neg · m · 2^e exactly. -/
inductive FV where
  | nan
  | inf (neg : Bool)
  | fin (neg : Bool) (m : Nat) (e : Int)
deriving DecidableEq, Repr

/-- The two classes of numeric engines (R31, R32); the solver class carries SLV_NUM_CTL.ftz. -/
inductive NumClass where
  | tensor
  | solver (ftz : Bool)
deriving DecidableEq, Repr

/-- How a rounding chooses: nearest even (R23), stochastic with its 16 random bits (R25), or faithful with the
choice of R578. -/
inductive RMode where
  | rne
  | sr (r : Nat)
  | faithful (up : Bool)
deriving DecidableEq, Repr

namespace FV

def zero : FV := .fin false 0 0
def one : FV := .fin false 1 0
def ofNat (n : Nat) : FV := .fin false n 0
def ofInt (i : Int) : FV := .fin (i < 0) i.natAbs 0

def isNan : FV → Bool
  | .nan => true
  | _ => false

def isInf : FV → Bool
  | .inf _ => true
  | _ => false

def isFinite : FV → Bool
  | .fin .. => true
  | _ => false

def isZero : FV → Bool
  | .fin _ 0 _ => true
  | _ => false

/-- The sign bit of a value that has one. -/
def sign : FV → Bool
  | .nan => false
  | .inf n => n
  | .fin n _ _ => n

def neg : FV → FV
  | .nan => .nan
  | .inf n => .inf !n
  | .fin n m e => .fin (!n) m e

def abs : FV → FV
  | .nan => .nan
  | .inf _ => .inf false
  | .fin _ m e => .fin false m e

/-- Multiplication by a power of two, exact. -/
def scale2 (k : Int) : FV → FV
  | .fin n m e => .fin n m (e + k)
  | v => v

end FV

/-- Left shift by a signed count; a negative count must drop zeros only where the value is to stay exact. -/
def shiftI (m : Nat) (k : Int) : Nat := if 0 ≤ k then m <<< k.toNat else m >>> (-k).toNat

/-- Comparison of m1·2^e1 with m2·2^e2. -/
def cmpMag (m1 : Nat) (e1 : Int) (m2 : Nat) (e2 : Int) : Ordering :=
  let q := min e1 e2
  compare (m1 <<< (e1 - q).toNat) (m2 <<< (e2 - q).toNat)

/-- Signed order of two values that are not NaN; +0 and −0 are equal. -/
def fvCmp (a b : FV) : Ordering :=
  match a, b with
  | .inf true, .inf true => .eq
  | .inf true, _ => .lt
  | _, .inf true => .gt
  | .inf false, .inf false => .eq
  | .inf false, _ => .gt
  | _, .inf false => .lt
  | .fin n1 m1 e1, .fin n2 m2 e2 =>
    let q := min e1 e2
    let x : Int := (m1 <<< (e1 - q).toNat : Nat)
    let y : Int := (m2 <<< (e2 - q).toNat : Nat)
    compare (if n1 then -x else x) (if n2 then -y else y)
  | _, _ => .eq

/-- a < b; false with a NaN. -/
def fvLt (a b : FV) : Bool := !a.isNan && !b.isNan && fvCmp a b == .lt

/-- a ≤ b; false with a NaN. -/
def fvLe (a b : FV) : Bool := !a.isNan && !b.isNan && fvCmp a b != .gt

/-- Exponent of the leading bit of m·2^e, m not zero: floor(log2). -/
def fvLog2 (m : Nat) (e : Int) : Int := (Nat.log2 m : Int) + e

/-- Rounds m·2^e (m not zero) to p significant bits with no unit below 2^qmin (R23, R25, R578): the rounded
mantissa, its exponent, and whether non-zero bits were discarded. -/
def roundMag (p : Nat) (qmin : Int) (mode : RMode) (m : Nat) (e : Int) : Nat × Int × Bool :=
  let q := max (fvLog2 m e - ((p : Int) - 1)) qmin
  if q ≤ e then (m <<< (e - q).toNat, q, false)
  else
    let sh := (q - e).toNat
    let hi := m >>> sh
    let rem := m % 2 ^ sh
    let up : Bool := match mode with
      | .rne => 2 * rem > 2 ^ sh || (2 * rem = 2 ^ sh && hi % 2 = 1)
      | .sr r => ((rem <<< 16) >>> sh) + r ≥ 2 ^ 16
      | .faithful u => u && rem ≠ 0
    (hi + b2n up, q, rem ≠ 0)

/-- The encoding fields of a binary floating format: exponent bits, mantissa bits, bias. -/
structure FloatFmt where
  eb : Nat
  mb : Nat
  bias : Nat
deriving DecidableEq, Repr

def fFP32 : FloatFmt := ⟨8, 23, 127⟩
def fBF16 : FloatFmt := ⟨8, 7, 127⟩
def fFP16 : FloatFmt := ⟨5, 10, 15⟩
def fE4M3 : FloatFmt := ⟨4, 3, 7⟩
def fE5M2 : FloatFmt := ⟨5, 2, 15⟩
def fE3M2 : FloatFmt := ⟨3, 2, 3⟩
def fE2M3 : FloatFmt := ⟨2, 3, 1⟩
def fE2M1 : FloatFmt := ⟨2, 1, 1⟩
def fFP64 : FloatFmt := ⟨11, 52, 1023⟩

namespace FloatFmt
/-- Exponent of the smallest unit (of a subnormal). -/
def qmin (f : FloatFmt) : Int := 1 - (f.bias : Int) - f.mb
/-- Exponent of the smallest normal. -/
def emin (f : FloatFmt) : Int := 1 - (f.bias : Int)
end FloatFmt

/-- The finite value of an encoding read with no special exponent. -/
def decPlain (f : FloatFmt) (x : Nat) : FV :=
  let s := bit x (f.eb + f.mb)
  let ex := bits x (f.eb + f.mb - 1) f.mb
  let mant := x % 2 ^ f.mb
  if ex = 0 then .fin s mant f.qmin
  else .fin s (mant + 2 ^ f.mb) ((ex : Int) - f.bias - f.mb)

/-- The value of an IEEE 754 encoding (R15). -/
def decIEEE (f : FloatFmt) (x : Nat) : FV :=
  let ex := bits x (f.eb + f.mb - 1) f.mb
  if ex = 2 ^ f.eb - 1 then
    if x % 2 ^ f.mb = 0 then .inf (bit x (f.eb + f.mb)) else .nan
  else decPlain f x

/-- The encoding of an exactly representable finite value. -/
def encFin (f : FloatFmt) (neg : Bool) (m : Nat) (e : Int) : Nat :=
  let s := b2n neg <<< (f.eb + f.mb)
  if m = 0 then s
  else
    let l := fvLog2 m e
    if l < f.emin then s + shiftI m (e - f.qmin)
    else s + ((l + f.bias).toNat <<< f.mb) + (shiftI m (e - (l - f.mb)) - 2 ^ f.mb)

/-- The encoding of a value in an IEEE format; NaN is the canonical quiet NaN (R16). -/
def encIEEE (f : FloatFmt) : FV → Nat
  | .nan => ((2 ^ f.eb - 1) <<< f.mb) + 2 ^ (f.mb - 1)
  | .inf n => (b2n n <<< (f.eb + f.mb)) + ((2 ^ f.eb - 1) <<< f.mb)
  | .fin n m e => encFin f n m e

def dec32 (x : Nat) : FV := decIEEE fFP32 (x % 2 ^ 32)
def enc32 (v : FV) : Nat := encIEEE fFP32 v

-- Format codes of R14.
def cFP32 : Nat := 0x0
def cBF16 : Nat := 0x1
def cFP16 : Nat := 0x2
def cE4M3 : Nat := 0x3
def cE5M2 : Nat := 0x4
def cMXE4M3 : Nat := 0x5
def cMXE5M2 : Nat := 0x6
def cMXE3M2 : Nat := 0x7
def cMXE2M3 : Nat := 0x8
def cMXFP4 : Nat := 0x9
def cMXINT8 : Nat := 0xA
def cINT8 : Nat := 0xB
def cFP64 : Nat := 0xC
def cGF16 : Nat := 0xD

/-- Bits of one element (R14). -/
def fmtBits (c : Nat) : Nat :=
  if c = cFP32 then 32 else if c = cBF16 ∨ c = cFP16 ∨ c = cGF16 then 16
  else if c = cMXE3M2 ∨ c = cMXE2M3 then 6 else if c = cMXFP4 then 4
  else if c = cFP64 then 64 else 8

/-- The format is a microscaling format (R19). -/
def fmtIsMX (c : Nat) : Bool := 5 ≤ c && c ≤ 0xA

/-- The code is not reserved (R14). -/
def fmtValid (c : Nat) : Bool := c ≤ 0xD

/-- The module computes on the format (R17). -/
def fmtComputes (c : Nat) : Bool := c ≤ 0xC

/-- The value of an element's encoding; for an MX format without its block scale (R15). -/
def decElem (c x : Nat) : FV :=
  if c = cFP32 then dec32 x
  else if c = cBF16 then decIEEE fBF16 x
  else if c = cFP16 then decIEEE fFP16 x
  else if c = cE4M3 ∨ c = cMXE4M3 then (if x % 128 = 127 then .nan else decPlain fE4M3 x)
  else if c = cE5M2 ∨ c = cMXE5M2 then decIEEE fE5M2 x
  else if c = cMXE3M2 then decPlain fE3M2 x
  else if c = cMXE2M3 then decPlain fE2M3 x
  else if c = cMXFP4 then decPlain fE2M1 x
  else if c = cMXINT8 then (FV.ofInt (sext 8 x)).scale2 (-6)
  else if c = cINT8 then FV.ofInt (sext 8 x)
  else decIEEE fFP64 x

/-- A block scale: the exponent of its power of two, none for 0xFF (R19). -/
def decScale (e : Nat) : Option Int := if e = 0xFF then none else some ((e : Int) - 127)

/-- An MX element under its block scale (R19). Where the block's scale is below 2^−126 a product below it becomes zero, as the
tensor class does with what underflows (R31, R34). -/
def decMX (c scaleByte x : Nat) : FV :=
  match decScale scaleByte with
  | none => .nan
  | some k =>
    match (decElem c x).scale2 k with
    | .fin n m e => if k < -126 ∧ m ≠ 0 ∧ fvLog2 m e < -126 then .fin n 0 0 else .fin n m e
    | v => v

/-- The exact sum of two values and its flags (R29). -/
def fvAdd (a b : FV) : FV × Nat :=
  match a, b with
  | .nan, _ => (.nan, 0)
  | _, .nan => (.nan, 0)
  | .inf s, .inf t => if s = t then (.inf s, 0) else (.nan, flNV)
  | .inf s, _ => (.inf s, 0)
  | _, .inf t => (.inf t, 0)
  | .fin n1 m1 e1, .fin n2 m2 e2 =>
    let q := min e1 e2
    let x : Int := (m1 <<< (e1 - q).toNat : Nat)
    let y : Int := (m2 <<< (e2 - q).toNat : Nat)
    let z := (if n1 then -x else x) + (if n2 then -y else y)
    if z = 0 then (.fin (n1 && n2) 0 0, 0) else (.fin (z < 0) z.natAbs q, 0)

/-- The exact product of two values and its flags (R29). -/
def fvMul (a b : FV) : FV × Nat :=
  match a, b with
  | .nan, _ => (.nan, 0)
  | _, .nan => (.nan, 0)
  | .inf s, .inf t => (.inf (s != t), 0)
  | .inf s, .fin t m _ => if m = 0 then (.nan, flNV) else (.inf (s != t), 0)
  | .fin s m _, .inf t => if m = 0 then (.nan, flNV) else (.inf (s != t), 0)
  | .fin n1 m1 e1, .fin n2 m2 e2 => (.fin (n1 != n2) (m1 * m2) (e1 + e2), 0)

/-- The exact value of a·b + d and its flags: with a NaN among the operands NaN and no flag (R29). -/
def fvFma (a b d : FV) : FV × Nat :=
  if a.isNan || b.isNan || d.isNan then (.nan, 0)
  else
    let p := fvMul a b
    let z := fvAdd p.1 d
    (z.1, p.2 ||| z.2)

/-- Integer square root, bit by bit from bit `b` down. -/
def isqrtFrom (x : Nat) : Nat → Nat → Nat
  | 0, r => if (r + 1) * (r + 1) ≤ x then r + 1 else r
  | b + 1, r =>
    let c := r + 2 ^ (b + 1)
    isqrtFrom x b (if c * c ≤ x then c else r)

def isqrt (x : Nat) : Nat := isqrtFrom x (Nat.log2 x / 2 + 1) 0

/-- The quotient m1·2^e1 / m2·2^e2 to 400 bits and more, with a last bit that is 1 when bits were discarded: every
rounding of this value equals the rounding of the exact quotient. -/
def divMag (m1 : Nat) (e1 : Int) (m2 : Nat) (e2 : Int) : Nat × Int :=
  let s := 400 + Nat.log2 m2
  let n := m1 <<< s
  (2 * (n / m2) + b2n (n % m2 ≠ 0), e1 - e2 - s - 1)

/-- The square root of m·2^e, with a sticky last bit as in `divMag`. -/
def sqrtMag (m : Nat) (e : Int) : Nat × Int :=
  let (m, e) := if e % 2 = 0 then (m, e) else (2 * m, e - 1)
  let n := m <<< 800
  let r := isqrt n
  (2 * r + b2n (r * r ≠ n), e / 2 - 400 - 1)

/-- Quotient of the DSU before rounding, and flags (R29, R30). -/
def fvDiv (a b : FV) : FV × Nat :=
  match a, b with
  | .nan, _ => (.nan, 0)
  | _, .nan => (.nan, 0)
  | .inf _, .inf _ => (.nan, flNV)
  | .inf s, .fin t _ _ => (.inf (s != t), 0)
  | .fin s _ _, .inf t => (.fin (s != t) 0 0, 0)
  | .fin n1 m1 e1, .fin n2 m2 e2 =>
    if m2 = 0 then (if m1 = 0 then (.nan, flNV) else (.inf (n1 != n2), flOF))
    else if m1 = 0 then (.fin (n1 != n2) 0 0, 0)
    else let (m, e) := divMag m1 e1 m2 e2; (.fin (n1 != n2) m e, 0)

/-- Square root before rounding, and flags (R29, R30). -/
def fvSqrt (a : FV) : FV × Nat :=
  match a with
  | .nan => (.nan, 0)
  | .inf n => if n then (.nan, flNV) else (.inf false, 0)
  | .fin n m e =>
    if m = 0 then (.fin n 0 0, 0)
    else if n then (.nan, flNV)
    else let (m, e) := sqrtMag m e; (.fin false m e, 0)

/-- Reciprocal square root before rounding, and flags (R29, R30). -/
def fvRsqrt (a : FV) : FV × Nat :=
  match a with
  | .nan => (.nan, 0)
  | .inf n => if n then (.nan, flNV) else (.fin false 0 0, 0)
  | .fin n m e =>
    if m = 0 then (.inf n, flOF)
    else if n then (.nan, flNV)
    else
      -- 1/√x = √(1/x); an inexact 1/x has an inexact root, so the two sticky bits agree with the exact value
      let (m1, e1) := divMag 1 0 m e
      let (m2, e2) := sqrtMag m1 e1
      (.fin false m2 e2, 0)

/-- Product of the roots that the fraction bits select: frac holds n bits, the bit of weight 2^−1 highest. The root
`r` is 2^(2^−(i)). -/
def exp2Frac (frac : Nat) : Nat → Nat → Nat → Nat
  | 0, _, acc => acc
  | n + 1, r, acc =>
    let r' := isqrt (r <<< 256)
    exp2Frac frac n r' (if bit frac n then (acc * r') >>> 256 else acc)

/-- 2^x before rounding (R88); exact where x is an integer, else to 240 bits and more with its last bit set. Beyond
±1024 the result is outside every format. -/
def fvExp2 (a : FV) : FV :=
  match a with
  | .nan => .nan
  | .inf n => if n then .fin false 0 0 else .inf false
  | .fin n m e =>
    if m = 0 then FV.one
    else if 10 < fvLog2 m e then (if n then .fin false 1 (-2000) else .fin false 1 2000)
    else if 0 ≤ e then .fin false 1 ((if n then -1 else 1) * ((m <<< e.toNat : Nat) : Int))
    else
      let k := (-e).toNat
      let x : Int := if n then -(m : Int) else m
      let whole := x / (2 ^ k : Nat)
      let frac := (x % (2 ^ k : Nat)).toNat
      if frac = 0 then .fin false 1 whole
      else .fin false (2 * exp2Frac frac k (2 ^ 257) (2 ^ 256) + 1) (whole - 257)

/-- The result of R28 for a rounded magnitude above a format's largest finite value is decided by the target; this is
the largest finite value of each format (R14), as mantissa and exponent. -/
def fmtMax (c : Nat) : Nat × Int :=
  if c = cFP32 then (2 ^ 24 - 1, 104)
  else if c = cBF16 then (255, 120)
  else if c = cFP16 then (2047, 5)
  else if c = cE4M3 ∨ c = cMXE4M3 then (7, 6)
  else if c = cE5M2 ∨ c = cMXE5M2 then (7, 13)
  else if c = cMXE3M2 then (7, 2)
  else if c = cMXE2M3 then (15, -1)
  else if c = cMXFP4 then (3, 1)
  else if c = cMXINT8 then (127, -6)
  else if c = cINT8 then (127, 0)
  else (2 ^ 53 - 1, 971)

/-- Significant bits and the exponent of the smallest unit of each target format. -/
def fmtPrec (c : Nat) : Nat × Int :=
  if c = cFP32 then (24, -149)
  else if c = cBF16 then (8, -133)
  else if c = cFP16 then (11, -24)
  else if c = cE4M3 ∨ c = cMXE4M3 then (4, -9)
  else if c = cE5M2 ∨ c = cMXE5M2 then (3, -16)
  else if c = cMXE3M2 then (3, -4)
  else if c = cMXE2M3 then (4, -3)
  else if c = cMXFP4 then (2, -1)
  else if c = cMXINT8 then (64, -6)
  else if c = cINT8 then (64, 0)
  else (53, -1074)

/-- The exponent of the smallest normal number of a target format with subnormals. -/
def fmtEmin (c : Nat) : Int :=
  if c = cFP32 ∨ c = cBF16 then -126
  else if c = cFP16 then -14
  else if c = cE4M3 then -6
  else if c = cE5M2 then -14
  else -1022

/-- Encoding of a value that a format holds exactly, infinities and NaN by R16 and R28. -/
def encElem (c : Nat) (v : FV) : Nat :=
  if c = cFP32 then encIEEE fFP32 v
  else if c = cBF16 then encIEEE fBF16 v
  else if c = cFP16 then encIEEE fFP16 v
  else if c = cE4M3 ∨ c = cMXE4M3 then
    match v with
    | .fin n m e => encFin fE4M3 n m e
    | _ => 0x7F
  else if c = cE5M2 ∨ c = cMXE5M2 then encIEEE fE5M2 v
  else if c = cMXE3M2 ∨ c = cMXE2M3 ∨ c = cMXFP4 then
    match v with
    | .fin n m e => encFin (if c = cMXE3M2 then fE3M2 else if c = cMXE2M3 then fE2M3 else fE2M1) n m e
    | _ => 0
  else if c = cMXINT8 ∨ c = cINT8 then
    match v with
    | .fin n m e =>
      let k := shiftI m (e - (fmtPrec c).2)
      (if n then 256 - k else k) % 256
    | _ => 0
  else encIEEE fFP64 v

/-- What overflow, an infinity and NaN become in each target of R28: the value and its flags. -/
def narrowSpecial (c : Nat) (neg : Bool) (above : Bool) (isNan : Bool) : FV × Nat :=
  let (mm, me) := fmtMax c
  if isNan then (if c = cINT8 then (.fin false 0 0, flNV) else (.nan, 0))
  else if c = cFP32 ∨ c = cBF16 ∨ c = cFP16 ∨ c = cFP64 then (.inf neg, if above then flOF + flNX else 0)
  else if above then (.fin neg mm me, flOF + flNX)
  else if c = cE5M2 then (.inf neg, 0)
  else if c = cE4M3 then (.nan, flNV)
  else (.fin neg mm me, flNV)

/-- Rounding of a value to a format that is no MX format, under the underflow rule of the class (R23 to R32): the
rounded value and its flags. -/
def roundTo (cls : NumClass) (c : Nat) (mode : RMode) (v : FV) : FV × Nat :=
  match v with
  | .nan => narrowSpecial c false false true
  | .inf n => narrowSpecial c n false false
  | .fin n m e =>
    if m = 0 then (.fin n 0 0, 0)
    else if cls = .tensor ∧ fvLog2 m e < -126 then (.fin n 0 0, 0)
    else
      let (p, qmin) := fmtPrec c
      let (m', q, inexact) := roundMag p qmin mode m e
      let (mm, me) := fmtMax c
      let nx := if inexact then flNX else 0
      if cmpMag m' q mm me == .gt then narrowSpecial c n true false
      else
        let tiny : Bool := m' = 0 || fvLog2 m' q < fmtEmin c
        let sub : Bool := m' ≠ 0 && tiny
        match cls with
        | .tensor =>
          let uf := if (c = cFP16 ∨ c = cE4M3 ∨ c = cE5M2) ∧ sub ∧ inexact then flUF else 0
          (.fin n m' q, nx ||| uf)
        | .solver true =>
          if tiny ∧ c ≠ cINT8 then (.fin n 0 0, flFL ||| flNX) else (.fin n m' q, nx)
        | .solver false =>
          (.fin n m' q, nx ||| (if tiny ∧ inexact ∧ c ≠ cINT8 then flUF else 0))

namespace FlM

/-- Keeps the flags of a pair. -/
def ofPair (r : FV × Nat) : FlM FV := do raise r.2; return r.1

end FlM

/-- An operand held in FP32 or FP64 format as it enters arithmetic (R31, R32). -/
def enterHeld (cls : NumClass) (c : Nat) (v : FV) : FlM FV :=
  match v with
  | .fin n m e =>
    if m ≠ 0 ∧ (c = cFP32 ∨ c = cFP64) ∧ fvLog2 m e < (if c = cFP64 then -1022 else -126) then
      match cls with
      | .tensor => return .fin n 0 0
      | .solver true => do FlM.raise flFL; return .fin n 0 0
      | .solver false => return v
    else return v
  | _ => return v

/-- Rounding of an exact result to FP32 (code 0) or FP64. -/
def rnd (cls : NumClass) (c : Nat) (r : FV × Nat) : FlM FV := do
  FlM.raise r.2
  FlM.ofPair (roundTo cls c .rne r.1)

/-- FP32 (or FP64) addition, one rounding. -/
def fAdd (cls : NumClass) (c : Nat) (a b : FV) : FlM FV := rnd cls c (fvAdd a b)
def fSub (cls : NumClass) (c : Nat) (a b : FV) : FlM FV := rnd cls c (fvAdd a b.neg)
def fMul (cls : NumClass) (c : Nat) (a b : FV) : FlM FV := rnd cls c (fvMul a b)
def fDiv (cls : NumClass) (c : Nat) (a b : FV) : FlM FV := rnd cls c (fvDiv a b)
def fSqrt (cls : NumClass) (c : Nat) (a : FV) : FlM FV := rnd cls c (fvSqrt a)

/-- a·b + d with one rounding. -/
def fFma (cls : NumClass) (c : Nat) (a b d : FV) : FlM FV := rnd cls c (fvFma a b d)

-- Operation numbers of the faithfully rounded operations (R578). The DSU's reciprocal square root and the vector engine's are
-- two operations, whose choices may differ: DESIGN CHOICE, log entry 135.
def opRsqrtDsu : Nat := 0
def opExp2 : Nat := 1
def opRcp : Nat := 2
def opRsqrtVec : Nat := 3

/-- A faithfully rounded operation: `v` is the value before rounding, `x` the input (R578). -/
def faithful (cls : NumClass) (op c : Nat) (x : FV) (v : FV × Nat) : FlM FV := do
  FlM.raise v.2
  FlM.ofPair (roundTo cls c (.faithful (Config.faithfulUp op c (encElem c x))) v.1)

/-- The DSU's reciprocal square root (R30). -/
def fRsqrt (cls : NumClass) (c : Nat) (a : FV) : FlM FV := faithful cls opRsqrtDsu c a (fvRsqrt a)

/-- Minimum and maximum, NaN when either operand is NaN (R29). -/
def fvMin (a b : FV) : FV := if a.isNan || b.isNan then .nan else if fvCmp b a == .lt then b else a
def fvMax (a b : FV) : FV := if a.isNan || b.isNan then .nan else if fvCmp b a == .gt then b else a

/-- The rounding mode of a conversion: the descriptor's rounding bit and, for stochastic rounding, 16 fresh random
bits (R24 to R26). -/
def convMode (stochastic : Bool) : FlM RMode := do
  if stochastic then return .sr ((← FlM.draw) % 2 ^ 16) else return .rne

/-- Conversion of one value to a format that is no MX format: the encoding (R28). Values held in FP32 enter it as
R31 says; `src` is the source's format code. -/
def convert (cls : NumClass) (src dst : Nat) (stochastic : Bool) (v : FV) : FlM Nat := do
  let v ← enterHeld cls src v
  let mode ← convMode (stochastic && dst ≠ cFP32 && dst ≠ cFP64)
  let r ← FlM.ofPair (roundTo cls dst mode v)
  return encElem dst r

/-- Sum of a list in an order of additions the manual leaves open (R27): two items, drawn freely, are replaced by
their rounded sum until one is left. -/
def freeSum (add : FV → FV → FlM FV) : Nat → List FV → FlM FV
  | 0, xs => return (xs.headD FV.zero)
  | _ + 1, [] => return FV.zero
  | _ + 1, [x] => return x
  | _ + 1, [x, y] => add x y
  | k + 1, xs => do
    let i := (← FlM.draw) % xs.length
    let a := xs.getD i FV.zero
    let ys := xs.eraseIdx i
    let j := (← FlM.draw) % ys.length
    let b := ys.getD j FV.zero
    let c ← add a b
    freeSum add k (c :: ys.eraseIdx j)

/-- Sum of a list in FP32 in an open order. -/
def fSumFree (cls : NumClass) (c : Nat) (xs : List FV) : FlM FV := freeSum (fAdd cls c) xs.length xs

/-- Sum of a list in ascending order, from an initial value. -/
def fSumAsc (cls : NumClass) (c : Nat) (x0 : FV) : List FV → FlM FV
  | [] => return x0
  | x :: xs => do fSumAsc cls c (← fAdd cls c x0 x) xs

/-- emax of an MX element format (R22). -/
def mxEmax (c : Nat) : Int :=
  if c = cMXE4M3 then 8 else if c = cMXE5M2 then 15 else if c = cMXE3M2 then 4
  else if c = cMXE2M3 ∨ c = cMXFP4 then 2 else 0

/-- The largest magnitude among finite values. -/
def fvAmax (xs : List FV) : FV := xs.foldl (fun a x => if x.isFinite && fvLt a x.abs then x.abs else a) FV.zero

/-- One element of an MX block: the value already divided by the block scale (R22 step 4). -/
def mxElem (c : Nat) (stochastic : Bool) (v : FV) : FlM Nat := do
  match v with
  | .fin n m e =>
    if m = 0 then return encElem c (.fin n 0 0)
    else
      let mode ← convMode stochastic
      let (p, qmin) := fmtPrec c
      let (m', q, inexact) := roundMag p qmin mode m e
      let (mm, me) := fmtMax c
      if cmpMag m' q mm me == .gt then
        FlM.raise flNX
        return encElem c (.fin n mm me)
      else
        FlM.raise (if inexact then flNX else 0)
        return encElem c (.fin n m' q)
  | _ => return 0

/-- One MX block from its source values, each with the format in which it is held (R22): the scale byte and the element
encodings. -/
def mxBlock (cls : NumClass) (c : Nat) (stochastic : Bool) (xs : List (FV × Nat)) : FlM (Nat × List Nat) := do
  if xs.any fun x => x.1.isNan || x.1.isInf then
    if xs.any fun x => x.1.isInf then FlM.raise flNV
    return (0xFF, xs.map fun _ => 0)
  else
    let xs ← xs.mapM fun (v, f) => enterHeld cls f v
    match fvAmax xs with
    | .fin _ m e =>
      if m = 0 then return (0x7F, xs.map fun _ => 0)
      else
        let x := max (fvLog2 m e - mxEmax c) (-127)
        let es ← xs.mapM fun v => mxElem c stochastic (v.scale2 (-x))
        return ((x + 127).toNat, es)
    | _ => return (0xFF, xs.map fun _ => 0)

end Sys2Proof.Machine
end

