-- ==== Sys2Proof/Machine/AMap.lean ====
section
/-! DEFINITION. Sparse maps as plain data: a list of key and value pairs in one canonical form. Every array of the
module that is too large to write out (memory, the control window, accumulator planes, tap slots) is such a map with
a default: the value an unlisted key reads as. The list is kept in rising order of the key's number, and no entry
holds the default. The read and write laws hold of every list, canonical or not. -/
namespace Sys2Proof.Machine

/-- Association list from keys to values. -/
abbrev AMap (κ : Type) (α : Type) := List (κ × α)

/-- A map whose keys are numbers. -/
abbrev SMap (α : Type) := AMap Nat α

/-- The value at a key, `d` where the key is not listed. -/
def aGet {κ α : Type} [DecidableEq κ] (d : α) : AMap κ α → κ → α
  | [], _ => d
  | (k, v) :: m, x => if k = x then v else aGet d m x

/-- The map without a key. -/
def aErase {κ α : Type} [DecidableEq κ] : AMap κ α → κ → AMap κ α
  | [], _ => []
  | (k, v) :: m, x => if k = x then aErase m x else (k, v) :: aErase m x

/-- The map with a key set, in the order of `ord`. -/
def aPut {κ α : Type} [DecidableEq κ] (ord : κ → Nat) : AMap κ α → κ → α → AMap κ α
  | [], x, w => [(x, w)]
  | (k, v) :: m, x, w =>
    if k = x then (x, w) :: m
    else if ord x < ord k then (x, w) :: (k, v) :: m
    else (k, v) :: aPut ord m x w

/-- The map with a key set; setting the default removes the entry, so that equal maps are equal data. -/
def aSet {κ α : Type} [DecidableEq κ] [DecidableEq α] (ord : κ → Nat) (d : α) (m : AMap κ α) (x : κ) (w : α) :
    AMap κ α :=
  if w = d then aErase m x else aPut ord m x w

/-- Read of a map with number keys. -/
def smGet {α : Type} (d : α) (m : SMap α) (x : Nat) : α := aGet d m x

/-- Write of a map with number keys. -/
def smSet {α : Type} [DecidableEq α] (d : α) (m : SMap α) (x : Nat) (w : α) : SMap α := aSet id d m x w

/-- The canonical form: keys strictly rising, no entry equal to the default. -/
def smWf {α : Type} [DecidableEq α] (d : α) : SMap α → Bool
  | [] => true
  | [(_, v)] => v ≠ d
  | (k, v) :: (k', v') :: m => v ≠ d && k < k' && smWf d ((k', v') :: m)

theorem aGet_aErase_same {κ α : Type} [DecidableEq κ] (d : α) (m : AMap κ α) (x : κ) :
    aGet d (aErase m x) x = d := by
  induction m with
  | nil => rfl
  | cons e m ih =>
    obtain ⟨k, v⟩ := e
    unfold aErase
    split
    · exact ih
    · rename_i h; simp [aGet, h, ih]

theorem aGet_aErase_ne {κ α : Type} [DecidableEq κ] (d : α) (m : AMap κ α) {x y : κ} (h : y ≠ x) :
    aGet d (aErase m x) y = aGet d m y := by
  induction m with
  | nil => rfl
  | cons e m ih =>
    obtain ⟨k, v⟩ := e
    unfold aErase
    split
    · rename_i hk; subst hk; simp [aGet, ih, Ne.symm h]
    · simp [aGet, ih]

theorem aGet_aPut_same {κ α : Type} [DecidableEq κ] (ord : κ → Nat) (d : α) (m : AMap κ α) (x : κ) (w : α) :
    aGet d (aPut ord m x w) x = w := by
  induction m with
  | nil => simp [aPut, aGet]
  | cons e m ih =>
    obtain ⟨k, v⟩ := e
    unfold aPut
    split
    · simp [aGet]
    · split
      · simp [aGet]
      · rename_i h _; simp [aGet, h, ih]

theorem aGet_aPut_ne {κ α : Type} [DecidableEq κ] (ord : κ → Nat) (d : α) (m : AMap κ α) {x y : κ} (w : α)
    (h : y ≠ x) : aGet d (aPut ord m x w) y = aGet d m y := by
  induction m with
  | nil => simp [aPut, aGet, Ne.symm h]
  | cons e m ih =>
    obtain ⟨k, v⟩ := e
    unfold aPut
    split
    · rename_i hk; subst hk; simp [aGet, Ne.symm h]
    · split
      · simp [aGet, Ne.symm h]
      · simp [aGet, ih]

/-- A read after a write of the same key gives the value written. -/
theorem aGet_aSet_same {κ α : Type} [DecidableEq κ] [DecidableEq α] (ord : κ → Nat) (d : α) (m : AMap κ α)
    (x : κ) (w : α) : aGet d (aSet ord d m x w) x = w := by
  unfold aSet
  split
  · rename_i h; rw [h]; exact aGet_aErase_same d m x
  · exact aGet_aPut_same ord d m x w

/-- A write leaves every other key alone. -/
theorem aGet_aSet_ne {κ α : Type} [DecidableEq κ] [DecidableEq α] (ord : κ → Nat) (d : α) (m : AMap κ α)
    {x y : κ} (w : α) (h : y ≠ x) : aGet d (aSet ord d m x w) y = aGet d m y := by
  unfold aSet
  split
  · exact aGet_aErase_ne d m h
  · exact aGet_aPut_ne ord d m w h

/-- A read of another key is the same whatever default the write used. -/
theorem aGet_aSet_ne' {κ α : Type} [DecidableEq κ] [DecidableEq α] (ord : κ → Nat) (d d' : α) (m : AMap κ α)
    {x y : κ} (w : α) (h : y ≠ x) : aGet d (aSet ord d' m x w) y = aGet d m y := by
  unfold aSet
  split
  · exact aGet_aErase_ne d m h
  · exact aGet_aPut_ne ord d m w h

@[simp] theorem smGet_smSet_same {α : Type} [DecidableEq α] (d : α) (m : SMap α) (x : Nat) (w : α) :
    smGet d (smSet d m x w) x = w := aGet_aSet_same id d m x w

theorem smGet_smSet_ne {α : Type} [DecidableEq α] (d : α) (m : SMap α) {x y : Nat} (w : α) (h : y ≠ x) :
    smGet d (smSet d m x w) y = smGet d m y := aGet_aSet_ne id d m w h

end Sys2Proof.Machine
end

