-- ==== Sys2Proof/Machine/Regs.lean ====
section
/-! DEFINITION. The control window's registers, read from the register tables of the spec (R3, R6, R547):
every register's name, place, indices, fields with access code and reset value, and who may write it.
The tables stand in the chapters that decide each block; each register's comment names its rule. -/
namespace Sys2Proof.Machine

/-- Access codes of R6. -/
inductive Access where
  | ro | rw | wo | w1c | w1s | rc
deriving DecidableEq, Repr

/-- Every kind of register of the control window; an element of an array is named by its indices. -/
inductive RegName where
  | corFlags  -- COR_FLAGS, R47
  | corLatStatus  -- COR_LAT_STATUS, R78
  | corLatCount  -- COR_LAT_COUNT, R79
  | corVecStatus  -- COR_VEC_STATUS, R107
  | corVecCount  -- COR_VEC_COUNT, R108
  | corDoorbell  -- COR_DOORBELL, R141
  | corDrainTimeout  -- COR_DRAIN_TIMEOUT, R141
  | corStreamBase  -- COR_STREAM_BASE, R141
  | corStreamCpl  -- COR_STREAM_CPL, R141
  | corStreamHead  -- COR_STREAM_HEAD, R141
  | corStreamTail  -- COR_STREAM_TAIL, R141
  | corStreamCtl  -- COR_STREAM_CTL, R141
  | corToken  -- COR_TOKEN, R141
  | corClusterToken  -- COR_CLUSTER_TOKEN, R141
  | corGramStatus  -- COR_GRAM_STATUS, R177
  | corTapSlot  -- COR_TAP_SLOT, R178
  | corGramCount  -- COR_GRAM_COUNT, R179
  | slvCtl  -- SLV_CTL, R216
  | slvNumCtl  -- SLV_NUM_CTL, R217
  | slvPivotTau  -- SLV_PIVOT_TAU, R218
  | slvRetryMax  -- SLV_RETRY_MAX, R219
  | slvDrainTimeout  -- SLV_DRAIN_TIMEOUT, R220
  | slvUnitStatus  -- SLV_UNIT_STATUS, R221
  | slvRunDeadline  -- SLV_RUN_DEADLINE, R222
  | slvCount  -- SLV_COUNT, R223
  | strCtl  -- STR_CTL, R248
  | strLossScale  -- STR_LOSS_SCALE, R249
  | strLayerBase  -- STR_LAYER_BASE, R250
  | strStatsBase  -- STR_STATS_BASE, R250
  | strJournalBase  -- STR_JOURNAL_BASE, R250
  | strUndoBase  -- STR_UNDO_BASE, R250
  | strSweepStatus  -- STR_SWEEP_STATUS, R251
  | strSettledEpoch  -- STR_SETTLED_EPOCH, R251
  | strCount  -- STR_COUNT, R252
  | grvBucketBase  -- GRV_BUCKET_BASE, R289
  | grvDigestBase  -- GRV_DIGEST_BASE, R290
  | grvRedCtl  -- GRV_RED_CTL, R291
  | grvEpoch  -- GRV_EPOCH, R292
  | grvRedStatus  -- GRV_RED_STATUS, R292
  | grvRedCount  -- GRV_RED_COUNT, R293
  | grvJobMapBase  -- GRV_JOB_MAP_BASE, R327
  | grvChannelBase  -- GRV_CHANNEL_BASE, R328
  | grvColStatus  -- GRV_COL_STATUS, R329
  | grvColCount  -- GRV_COL_COUNT, R330
  | prtCtl  -- PRT_CTL, R355
  | prtStatus  -- PRT_STATUS, R355
  | prtFenceClusters  -- PRT_FENCE_CLUSTERS, R356
  | prtFenceHbm  -- PRT_FENCE_HBM, R356
  | prtPtRoot  -- PRT_PT_ROOT, R357
  | prtScaleBase  -- PRT_SCALE_BASE, R357
  | prtHostwinBase  -- PRT_HOSTWIN_BASE, R357
  | prtSaveBase  -- PRT_SAVE_BASE, R358
  | prtSaveSize  -- PRT_SAVE_SIZE, R358
  | prtPreempt  -- PRT_PREEMPT, R359
  | prtXltInval  -- PRT_XLT_INVAL, R359
  | prtFaultqBase  -- PRT_FAULTQ_BASE, R360
  | prtFaultqPtr  -- PRT_FAULTQ_PTR, R360
  | prtFaultResolve  -- PRT_FAULT_RESOLVE, R360
  | prtFaultTimeout  -- PRT_FAULT_TIMEOUT, R360
  | prtStepMarker  -- PRT_STEP_MARKER, R361
  | prtStoreLive  -- PRT_STORE_LIVE, R361
  | prtCstoreLive  -- PRT_CSTORE_LIVE, R361
  | prtCount  -- PRT_COUNT, R362
  | hbmGlbCtl  -- HBM_GLB_CTL, R385
  | hbmSysUnits  -- HBM_SYS_UNITS, R386
  | hbmRepairCmd  -- HBM_REPAIR_CMD, R387
  | hbmRepairStatus  -- HBM_REPAIR_STATUS, R387
  | hbmStackStatus  -- HBM_STACK_STATUS, R388
  | hbmRefreshCtl  -- HBM_REFRESH_CTL, R388
  | hbmRegRate  -- HBM_REG_RATE, R389
  | hbmRegShape  -- HBM_REG_SHAPE, R389
  | hbmErrLog  -- HBM_ERR_LOG, R390
  | hbmCount  -- HBM_COUNT, R391
  | fabPortCtl  -- FAB_PORT_CTL, R420
  | fabPortStatus  -- FAB_PORT_STATUS, R420
  | fabPortCount  -- FAB_PORT_COUNT, R421
  | fabCoord  -- FAB_COORD, R422
  | fabRouteCtl  -- FAB_ROUTE_CTL, R422
  | fabDetour  -- FAB_DETOUR, R423
  | fabHostCtl  -- FAB_HOST_CTL, R424
  | fabShape  -- FAB_SHAPE, R425
  | fabRkeyBase  -- FAB_RKEY_BASE, R425
  | grvRole  -- GRV_ROLE, R455
  | grvMgrCtl  -- GRV_MGR_CTL, R455
  | grvLiveness  -- GRV_LIVENESS, R456
  | grvManager  -- GRV_MANAGER, R457
  | grvRecovery  -- GRV_RECOVERY, R457
  | grvParityBase  -- GRV_PARITY_BASE, R458
  | grvParityStatus  -- GRV_PARITY_STATUS, R458
  | grvCount  -- GRV_COUNT, R459
  | tapStatus  -- TAP_STATUS, R481
  | tapCtl  -- TAP_CTL, R481
  | tapEndurance  -- TAP_ENDURANCE, R481
  | tapAllowance  -- TAP_ALLOWANCE, R481
  | tapNs  -- TAP_NS, R481
  | tapSwap  -- TAP_SWAP, R481
  | tapShape  -- TAP_SHAPE, R481
  | tapCount  -- TAP_COUNT, R482
  | pwrModuleState  -- PWR_MODULE_STATE, R506
  | pwrModuleStatus  -- PWR_MODULE_STATUS, R506
  | pwrDomainCtl  -- PWR_DOMAIN_CTL, R506
  | pwrDomainStatus  -- PWR_DOMAIN_STATUS, R506
  | pwrAvsStatus  -- PWR_AVS_STATUS, R506
  | pwrLimit  -- PWR_LIMIT, R506
  | pwrVwindow  -- PWR_VWINDOW, R506
  | pwrDieTarget  -- PWR_DIE_TARGET, R506
  | pwrCount  -- PWR_COUNT, R506
  | clkDieStatus  -- CLK_DIE_STATUS, R507
  | clkPllStatus  -- CLK_PLL_STATUS, R507
  | ageCtl  -- AGE_CTL, R523
  | ageStatus  -- AGE_STATUS, R523
  | ageDieMargin  -- AGE_DIE_MARGIN, R523
  | ageTestCmd  -- AGE_TEST_CMD, R523
  | ageTestStatus  -- AGE_TEST_STATUS, R523
  | ageCount  -- AGE_COUNT, R523
  | truChCtl  -- TRU_CH_CTL, R545
  | truChStatus  -- TRU_CH_STATUS, R545
  | truWdog  -- TRU_WDOG, R545
  | truBootStatus  -- TRU_BOOT_STATUS, R545
  | glbId  -- GLB_ID, R554
  | glbStatus  -- GLB_STATUS, R554
  | glbProfile  -- GLB_PROFILE, R554
  | glbProfileNext  -- GLB_PROFILE_NEXT, R554
  | glbRestart  -- GLB_RESTART, R554
  | glbLocalTick  -- GLB_LOCAL_TICK, R554
  | glbCaps  -- GLB_CAPS, R554
  | glbAdminCtl  -- GLB_ADMIN_CTL, R554
  | evtHostCtl  -- EVT_HOST_CTL, R561
  | evtMqPtr  -- EVT_MQ_PTR, R561
  | evtAlert  -- EVT_ALERT, R561
  | evtArchStatus  -- EVT_ARCH_STATUS, R561
  | evtArchRead  -- EVT_ARCH_READ, R561
  | evtPqBase  -- EVT_PQ_BASE, R561
  | evtPqPtr  -- EVT_PQ_PTR, R561
  | evtCount  -- EVT_COUNT, R561
deriving DecidableEq, Repr

/-- One field of a register: its bits, its access code and the literal of its Reset column
(0 where the column says profile or boot: heartwood or the module writes it during the boot). -/
structure Field where
  hi : Nat
  lo : Nat
  acc : Access
  reset : Nat
deriving DecidableEq, Repr

/-- A field of a named register. -/
structure RF where
  reg : RegName
  hi : Nat
  lo : Nat
deriving DecidableEq, Repr

/-- Where a register stands: offset from the window base (R3), counts and strides of its two indices. -/
structure RegPlace where
  base : Nat
  n1 : Nat
  s1 : Nat
  n2 : Nat
  s2 : Nat
deriving DecidableEq, Repr

/-- The place of each register (block offset of R547 plus the register offset of its chapter). -/
def regPlace : RegName → RegPlace
  | .corFlags => ⟨0x1000040, 64, 0x10000, 1, 0x0⟩
  | .corLatStatus => ⟨0x1000100, 64, 0x10000, 1, 0x0⟩
  | .corLatCount => ⟨0x1000108, 64, 0x10000, 5, 0x8⟩
  | .corVecStatus => ⟨0x1000140, 64, 0x10000, 1, 0x0⟩
  | .corVecCount => ⟨0x1000148, 64, 0x10000, 4, 0x8⟩
  | .corDoorbell => ⟨0x1000048, 64, 0x10000, 1, 0x0⟩
  | .corDrainTimeout => ⟨0x1000050, 64, 0x10000, 1, 0x0⟩
  | .corStreamBase => ⟨0x1000200, 64, 0x10000, 3, 0x40⟩
  | .corStreamCpl => ⟨0x1000208, 64, 0x10000, 3, 0x40⟩
  | .corStreamHead => ⟨0x1000210, 64, 0x10000, 3, 0x40⟩
  | .corStreamTail => ⟨0x1000218, 64, 0x10000, 3, 0x40⟩
  | .corStreamCtl => ⟨0x1000220, 64, 0x10000, 3, 0x40⟩
  | .corToken => ⟨0x1000800, 64, 0x10000, 256, 0x8⟩
  | .corClusterToken => ⟨0x1001000, 64, 0x10000, 64, 0x8⟩
  | .corGramStatus => ⟨0x1000180, 64, 0x10000, 1, 0x0⟩
  | .corTapSlot => ⟨0x1000300, 64, 0x10000, 16, 0x8⟩
  | .corGramCount => ⟨0x1000188, 64, 0x10000, 4, 0x8⟩
  | .slvCtl => ⟨0x700000, 16, 0x1000, 1, 0x0⟩
  | .slvNumCtl => ⟨0x700008, 16, 0x1000, 1, 0x0⟩
  | .slvPivotTau => ⟨0x700010, 16, 0x1000, 1, 0x0⟩
  | .slvRetryMax => ⟨0x700018, 16, 0x1000, 1, 0x0⟩
  | .slvDrainTimeout => ⟨0x700020, 16, 0x1000, 1, 0x0⟩
  | .slvUnitStatus => ⟨0x700028, 16, 0x1000, 1, 0x0⟩
  | .slvRunDeadline => ⟨0x700030, 16, 0x1000, 1, 0x0⟩
  | .slvCount => ⟨0x700040, 16, 0x1000, 7, 0x8⟩
  | .strCtl => ⟨0x800000, 16, 0x1000, 1, 0x0⟩
  | .strLossScale => ⟨0x800008, 16, 0x1000, 1, 0x0⟩
  | .strLayerBase => ⟨0x800010, 16, 0x1000, 1, 0x0⟩
  | .strStatsBase => ⟨0x800018, 16, 0x1000, 1, 0x0⟩
  | .strJournalBase => ⟨0x800020, 16, 0x1000, 1, 0x0⟩
  | .strUndoBase => ⟨0x800028, 16, 0x1000, 1, 0x0⟩
  | .strSweepStatus => ⟨0x800030, 16, 0x1000, 1, 0x0⟩
  | .strSettledEpoch => ⟨0x800038, 16, 0x1000, 1, 0x0⟩
  | .strCount => ⟨0x800040, 16, 0x1000, 4, 0x8⟩
  | .grvBucketBase => ⟨0x940000, 16, 0x100, 1, 0x0⟩
  | .grvDigestBase => ⟨0x940008, 16, 0x100, 1, 0x0⟩
  | .grvRedCtl => ⟨0x940010, 16, 0x100, 1, 0x0⟩
  | .grvEpoch => ⟨0x940018, 16, 0x100, 1, 0x0⟩
  | .grvRedStatus => ⟨0x940020, 16, 0x100, 1, 0x0⟩
  | .grvRedCount => ⟨0x940040, 16, 0x100, 6, 0x8⟩
  | .grvJobMapBase => ⟨0x940080, 16, 0x100, 1, 0x0⟩
  | .grvChannelBase => ⟨0x940088, 16, 0x100, 1, 0x0⟩
  | .grvColStatus => ⟨0x940090, 16, 0x100, 1, 0x0⟩
  | .grvColCount => ⟨0x9400a0, 16, 0x100, 6, 0x8⟩
  | .prtCtl => ⟨0x300000, 16, 0x1000, 1, 0x0⟩
  | .prtStatus => ⟨0x300008, 16, 0x1000, 1, 0x0⟩
  | .prtFenceClusters => ⟨0x300010, 16, 0x1000, 1, 0x0⟩
  | .prtFenceHbm => ⟨0x300018, 16, 0x1000, 12, 0x8⟩
  | .prtPtRoot => ⟨0x300080, 16, 0x1000, 1, 0x0⟩
  | .prtScaleBase => ⟨0x300088, 16, 0x1000, 1, 0x0⟩
  | .prtHostwinBase => ⟨0x300090, 16, 0x1000, 1, 0x0⟩
  | .prtSaveBase => ⟨0x300098, 16, 0x1000, 1, 0x0⟩
  | .prtSaveSize => ⟨0x3000a0, 16, 0x1000, 1, 0x0⟩
  | .prtPreempt => ⟨0x3000a8, 16, 0x1000, 1, 0x0⟩
  | .prtXltInval => ⟨0x3000b0, 16, 0x1000, 1, 0x0⟩
  | .prtFaultqBase => ⟨0x3000c0, 16, 0x1000, 1, 0x0⟩
  | .prtFaultqPtr => ⟨0x3000c8, 16, 0x1000, 1, 0x0⟩
  | .prtFaultResolve => ⟨0x3000d0, 16, 0x1000, 1, 0x0⟩
  | .prtFaultTimeout => ⟨0x3000d8, 16, 0x1000, 1, 0x0⟩
  | .prtStepMarker => ⟨0x300100, 16, 0x1000, 8, 0x8⟩
  | .prtStoreLive => ⟨0x300200, 16, 0x1000, 64, 0x8⟩
  | .prtCstoreLive => ⟨0x300400, 16, 0x1000, 16, 0x8⟩
  | .prtCount => ⟨0x300500, 16, 0x1000, 5, 0x8⟩
  | .hbmGlbCtl => ⟨0x5c0000, 1, 0x0, 1, 0x0⟩
  | .hbmSysUnits => ⟨0x5c0100, 12, 0x8, 1, 0x0⟩
  | .hbmRepairCmd => ⟨0x5c0200, 1, 0x0, 1, 0x0⟩
  | .hbmRepairStatus => ⟨0x5c0208, 1, 0x0, 1, 0x0⟩
  | .hbmStackStatus => ⟨0x500000, 12, 0x10000, 1, 0x0⟩
  | .hbmRefreshCtl => ⟨0x500008, 12, 0x10000, 1, 0x0⟩
  | .hbmRegRate => ⟨0x500100, 12, 0x10000, 16, 0x10⟩
  | .hbmRegShape => ⟨0x500108, 12, 0x10000, 16, 0x10⟩
  | .hbmErrLog => ⟨0x500200, 12, 0x10000, 1, 0x0⟩
  | .hbmCount => ⟨0x500300, 12, 0x10000, 8, 0x8⟩
  | .fabPortCtl => ⟨0x600000, 16, 0x4000, 1, 0x0⟩
  | .fabPortStatus => ⟨0x600008, 16, 0x4000, 1, 0x0⟩
  | .fabPortCount => ⟨0x600100, 16, 0x4000, 11, 0x8⟩
  | .fabCoord => ⟨0x640000, 1, 0x0, 1, 0x0⟩
  | .fabRouteCtl => ⟨0x640008, 1, 0x0, 1, 0x0⟩
  | .fabDetour => ⟨0x641000, 512, 0x8, 1, 0x0⟩
  | .fabHostCtl => ⟨0x640010, 1, 0x0, 1, 0x0⟩
  | .fabShape => ⟨0x640100, 16, 0x10, 1, 0x0⟩
  | .fabRkeyBase => ⟨0x640108, 16, 0x10, 1, 0x0⟩
  | .grvRole => ⟨0x900000, 1, 0x0, 1, 0x0⟩
  | .grvMgrCtl => ⟨0x900008, 1, 0x0, 1, 0x0⟩
  | .grvLiveness => ⟨0x900010, 1, 0x0, 1, 0x0⟩
  | .grvManager => ⟨0x900018, 1, 0x0, 1, 0x0⟩
  | .grvRecovery => ⟨0x900020, 1, 0x0, 1, 0x0⟩
  | .grvParityBase => ⟨0x9400d0, 16, 0x100, 1, 0x0⟩
  | .grvParityStatus => ⟨0x9400d8, 16, 0x100, 1, 0x0⟩
  | .grvCount => ⟨0x900100, 6, 0x8, 1, 0x0⟩
  | .tapStatus => ⟨0xa00000, 1, 0x0, 1, 0x0⟩
  | .tapCtl => ⟨0xa00008, 1, 0x0, 1, 0x0⟩
  | .tapEndurance => ⟨0xa00010, 1, 0x0, 1, 0x0⟩
  | .tapAllowance => ⟨0xa00018, 1, 0x0, 1, 0x0⟩
  | .tapNs => ⟨0xa00100, 16, 0x20, 1, 0x0⟩
  | .tapSwap => ⟨0xa00108, 16, 0x20, 1, 0x0⟩
  | .tapShape => ⟨0xa00110, 16, 0x20, 1, 0x0⟩
  | .tapCount => ⟨0xa00400, 8, 0x8, 1, 0x0⟩
  | .pwrModuleState => ⟨0x100000, 1, 0x0, 1, 0x0⟩
  | .pwrModuleStatus => ⟨0x100008, 1, 0x0, 1, 0x0⟩
  | .pwrDomainCtl => ⟨0x100100, 128, 0x8, 1, 0x0⟩
  | .pwrDomainStatus => ⟨0x100500, 128, 0x8, 1, 0x0⟩
  | .pwrAvsStatus => ⟨0x100900, 1, 0x0, 1, 0x0⟩
  | .pwrLimit => ⟨0x100908, 1, 0x0, 1, 0x0⟩
  | .pwrVwindow => ⟨0x100910, 1, 0x0, 1, 0x0⟩
  | .pwrDieTarget => ⟨0x100920, 4, 0x8, 1, 0x0⟩
  | .pwrCount => ⟨0x100a00, 4, 0x8, 1, 0x0⟩
  | .clkDieStatus => ⟨0x200000, 4, 0x8, 1, 0x0⟩
  | .clkPllStatus => ⟨0x200040, 1, 0x0, 1, 0x0⟩
  | .ageCtl => ⟨0xb00000, 1, 0x0, 1, 0x0⟩
  | .ageStatus => ⟨0xb00008, 1, 0x0, 1, 0x0⟩
  | .ageDieMargin => ⟨0xb00040, 4, 0x8, 1, 0x0⟩
  | .ageTestCmd => ⟨0xb00100, 1, 0x0, 1, 0x0⟩
  | .ageTestStatus => ⟨0xb00108, 1, 0x0, 1, 0x0⟩
  | .ageCount => ⟨0xb00200, 4, 0x8, 1, 0x0⟩
  | .truChCtl => ⟨0xc00000, 2, 0x100, 1, 0x0⟩
  | .truChStatus => ⟨0xc00008, 2, 0x100, 1, 0x0⟩
  | .truWdog => ⟨0xc00200, 1, 0x0, 1, 0x0⟩
  | .truBootStatus => ⟨0xc00208, 1, 0x0, 1, 0x0⟩
  | .glbId => ⟨0x0, 1, 0x0, 1, 0x0⟩
  | .glbStatus => ⟨0x8, 1, 0x0, 1, 0x0⟩
  | .glbProfile => ⟨0x10, 1, 0x0, 1, 0x0⟩
  | .glbProfileNext => ⟨0x18, 1, 0x0, 1, 0x0⟩
  | .glbRestart => ⟨0x20, 1, 0x0, 1, 0x0⟩
  | .glbLocalTick => ⟨0x28, 1, 0x0, 1, 0x0⟩
  | .glbCaps => ⟨0x30, 1, 0x0, 1, 0x0⟩
  | .glbAdminCtl => ⟨0x38, 1, 0x0, 1, 0x0⟩
  | .evtHostCtl => ⟨0x400000, 1, 0x0, 1, 0x0⟩
  | .evtMqPtr => ⟨0x400008, 1, 0x0, 1, 0x0⟩
  | .evtAlert => ⟨0x400010, 1, 0x0, 1, 0x0⟩
  | .evtArchStatus => ⟨0x400018, 1, 0x0, 1, 0x0⟩
  | .evtArchRead => ⟨0x400020, 1, 0x0, 1, 0x0⟩
  | .evtPqBase => ⟨0x400100, 16, 0x20, 1, 0x0⟩
  | .evtPqPtr => ⟨0x400108, 16, 0x20, 1, 0x0⟩
  | .evtCount => ⟨0x400400, 6, 0x8, 1, 0x0⟩

-- The fields of each register, from its table; reserved bits are in no field.
def fields_corFlags : List Field := [⟨28, 24, .w1c, 0x0⟩, ⟨19, 16, .w1c, 0x0⟩, ⟨11, 8, .w1c, 0x0⟩, ⟨3, 0, .w1c, 0x0⟩]
def fields_corLatStatus : List Field := [⟨31, 24, .ro, 0x0⟩, ⟨21, 20, .ro, 0x0⟩, ⟨19, 16, .ro, 0xf⟩, ⟨7, 7, .ro, 0x0⟩, ⟨6, 6, .ro, 0x0⟩, ⟨5, 5, .ro, 0x0⟩, ⟨4, 4, .ro, 0x0⟩, ⟨0, 0, .ro, 0x0⟩]
def fields_corLatCount : List Field := [⟨63, 0, .ro, 0x0⟩]
def fields_corVecStatus : List Field := [⟨39, 16, .ro, 0x0⟩, ⟨15, 8, .ro, 0x0⟩, ⟨7, 4, .ro, 0xf⟩, ⟨1, 1, .ro, 0x0⟩, ⟨0, 0, .ro, 0x0⟩]
def fields_corVecCount : List Field := [⟨63, 0, .ro, 0x0⟩]
def fields_corDoorbell : List Field := [⟨33, 32, .wo, 0x0⟩, ⟨31, 0, .wo, 0x0⟩]
def fields_corDrainTimeout : List Field := [⟨31, 0, .rw, 0x3e8⟩]
def fields_corStreamBase : List Field := [⟨47, 12, .rw, 0x0⟩, ⟨4, 0, .rw, 0x4⟩]
def fields_corStreamCpl : List Field := [⟨47, 12, .rw, 0x0⟩]
def fields_corStreamHead : List Field := [⟨63, 32, .ro, 0x0⟩, ⟨31, 0, .ro, 0x0⟩]
def fields_corStreamTail : List Field := [⟨31, 0, .ro, 0x0⟩]
def fields_corStreamCtl : List Field := [⟨47, 32, .rw, 0x64⟩, ⟨31, 28, .ro, 0x0⟩, ⟨27, 24, .ro, 0x0⟩, ⟨15, 15, .w1c, 0x0⟩, ⟨9, 8, .rw, 0x0⟩, ⟨2, 2, .wo, 0x0⟩, ⟨0, 0, .rw, 0x0⟩]
def fields_corToken : List Field := [⟨31, 0, .rw, 0x0⟩]
def fields_corClusterToken : List Field := [⟨31, 0, .rw, 0x0⟩]
def fields_corGramStatus : List Field := [⟨15, 8, .ro, 0x0⟩, ⟨7, 4, .ro, 0x0⟩, ⟨1, 1, .ro, 0x0⟩, ⟨0, 0, .ro, 0x0⟩]
def fields_corTapSlot : List Field := [⟨47, 32, .ro, 0x0⟩, ⟨31, 16, .ro, 0x0⟩, ⟨7, 4, .ro, 0x0⟩, ⟨3, 3, .ro, 0x0⟩, ⟨2, 2, .ro, 0x0⟩, ⟨0, 0, .ro, 0x0⟩]
def fields_corGramCount : List Field := [⟨63, 0, .ro, 0x0⟩]
def fields_slvCtl : List Field := [⟨0, 0, .rw, 0x1⟩]
def fields_slvNumCtl : List Field := [⟨1, 1, .rw, 0x1⟩, ⟨0, 0, .rw, 0x0⟩]
def fields_slvPivotTau : List Field := [⟨25, 16, .rw, 0x30⟩, ⟨6, 0, .rw, 0x18⟩]
def fields_slvRetryMax : List Field := [⟨1, 0, .rw, 0x3⟩]
def fields_slvDrainTimeout : List Field := [⟨31, 0, .rw, 0x3e8⟩]
def fields_slvUnitStatus : List Field := [⟨51, 48, .ro, 0x0⟩, ⟨45, 40, .ro, 0x0⟩, ⟨39, 32, .ro, 0x0⟩, ⟨31, 16, .ro, 0x0⟩, ⟨15, 14, .ro, 0x0⟩, ⟨13, 12, .ro, 0x0⟩, ⟨9, 8, .ro, 0x0⟩, ⟨3, 3, .ro, 0x0⟩, ⟨2, 2, .ro, 0x0⟩, ⟨1, 1, .ro, 0x0⟩, ⟨0, 0, .ro, 0x0⟩]
def fields_slvRunDeadline : List Field := [⟨63, 0, .ro, 0xffffffffffffffff⟩]
def fields_slvCount : List Field := [⟨63, 0, .ro, 0x0⟩]
def fields_strCtl : List Field := [⟨15, 8, .rw, 0x8⟩, ⟨1, 1, .rw, 0x1⟩, ⟨0, 0, .rw, 0x1⟩]
def fields_strLossScale : List Field := [⟨63, 48, .ro, 0x0⟩, ⟨47, 32, .rw, 0x7d0⟩, ⟨31, 24, .rw, 0x18⟩, ⟨23, 16, .rw, 0x0⟩, ⟨7, 0, .rw, 0x10⟩]
def fields_strLayerBase : List Field := [⟨47, 7, .rw, 0x0⟩]
def fields_strStatsBase : List Field := [⟨47, 7, .rw, 0x0⟩]
def fields_strJournalBase : List Field := [⟨47, 7, .rw, 0x0⟩]
def fields_strUndoBase : List Field := [⟨47, 7, .rw, 0x0⟩]
def fields_strSweepStatus : List Field := [⟨63, 48, .ro, 0x0⟩, ⟨31, 12, .ro, 0x0⟩, ⟨3, 3, .ro, 0x0⟩, ⟨2, 2, .ro, 0x0⟩, ⟨1, 1, .ro, 0x0⟩, ⟨0, 0, .ro, 0x0⟩]
def fields_strSettledEpoch : List Field := [⟨63, 0, .ro, 0x0⟩]
def fields_strCount : List Field := [⟨63, 0, .ro, 0x0⟩]
def fields_grvBucketBase : List Field := [⟨47, 22, .rw, 0x0⟩]
def fields_grvDigestBase : List Field := [⟨58, 48, .rw, 0x0⟩, ⟨47, 6, .rw, 0x0⟩]
def fields_grvRedCtl : List Field := [⟨47, 32, .rw, 0x1f4⟩, ⟨31, 16, .rw, 0x14⟩]
def fields_grvEpoch : List Field := [⟨63, 0, .ro, 0x0⟩]
def fields_grvRedStatus : List Field := [⟨63, 47, .ro, 0x0⟩, ⟨46, 30, .ro, 0x0⟩, ⟨29, 13, .ro, 0x0⟩, ⟨3, 2, .ro, 0x0⟩, ⟨1, 1, .ro, 0x0⟩, ⟨0, 0, .ro, 0x0⟩]
def fields_grvRedCount : List Field := [⟨63, 0, .ro, 0x0⟩]
def fields_grvJobMapBase : List Field := [⟨60, 48, .rw, 0x0⟩, ⟨47, 6, .rw, 0x0⟩]
def fields_grvChannelBase : List Field := [⟨47, 10, .rw, 0x0⟩]
def fields_grvColStatus : List Field := [⟨63, 48, .ro, 0x0⟩, ⟨3, 3, .ro, 0x0⟩, ⟨2, 2, .ro, 0x0⟩, ⟨1, 1, .ro, 0x0⟩, ⟨0, 0, .ro, 0x0⟩]
def fields_grvColCount : List Field := [⟨63, 0, .ro, 0x0⟩]
def fields_prtCtl : List Field := [⟨3, 3, .w1c, 0x0⟩, ⟨2, 2, .ro, 0x0⟩, ⟨1, 1, .wo, 0x0⟩, ⟨0, 0, .rw, 0x1⟩]
def fields_prtStatus : List Field := [⟨63, 32, .ro, 0x0⟩, ⟨9, 9, .w1c, 0x0⟩, ⟨8, 8, .w1c, 0x0⟩, ⟨7, 7, .w1c, 0x0⟩, ⟨3, 3, .ro, 0x0⟩, ⟨2, 0, .ro, 0x0⟩]
def fields_prtFenceClusters : List Field := [⟨15, 0, .ro, 0x0⟩]
def fields_prtFenceHbm : List Field := [⟨63, 0, .ro, 0x0⟩]
def fields_prtPtRoot : List Field := [⟨47, 12, .rw, 0x0⟩]
def fields_prtScaleBase : List Field := [⟨47, 12, .rw, 0x0⟩]
def fields_prtHostwinBase : List Field := [⟨47, 12, .rw, 0x0⟩, ⟨7, 0, .rw, 0x0⟩]
def fields_prtSaveBase : List Field := [⟨47, 16, .rw, 0x0⟩]
def fields_prtSaveSize : List Field := [⟨63, 0, .ro, 0x0⟩]
def fields_prtPreempt : List Field := [⟨1, 0, .wo, 0x0⟩]
def fields_prtXltInval : List Field := [⟨53, 48, .wo, 0x0⟩, ⟨47, 16, .wo, 0x0⟩]
def fields_prtFaultqBase : List Field := [⟨47, 13, .rw, 0x0⟩]
def fields_prtFaultqPtr : List Field := [⟨40, 32, .ro, 0x0⟩, ⟨8, 0, .rw, 0x0⟩]
def fields_prtFaultResolve : List Field := [⟨16, 16, .wo, 0x0⟩, ⟨15, 0, .wo, 0x0⟩]
def fields_prtFaultTimeout : List Field := [⟨31, 0, .rw, 0x2710⟩]
def fields_prtStepMarker : List Field := [⟨31, 0, .ro, 0x0⟩]
def fields_prtStoreLive : List Field := [⟨25, 0, .rw, 0x800000⟩]
def fields_prtCstoreLive : List Field := [⟨25, 0, .rw, 0x2000000⟩]
def fields_prtCount : List Field := [⟨63, 0, .ro, 0x0⟩]
def fields_hbmGlbCtl : List Field := [⟨39, 32, .rw, 0x8⟩, ⟨23, 16, .rw, 0x18⟩, ⟨8, 8, .rw, 0x1⟩, ⟨0, 0, .ro, 0x0⟩]
def fields_hbmSysUnits : List Field := [⟨63, 0, .rw, 0x0⟩]
def fields_hbmRepairCmd : List Field := [⟨55, 52, .wo, 0x0⟩, ⟨51, 46, .wo, 0x0⟩, ⟨45, 40, .wo, 0x0⟩, ⟨39, 26, .wo, 0x0⟩, ⟨1, 0, .wo, 0x0⟩]
def fields_hbmRepairStatus : List Field := [⟨7, 4, .ro, 0x0⟩, ⟨0, 0, .ro, 0x0⟩]
def fields_hbmStackStatus : List Field := [⟨63, 56, .ro, 0x0⟩, ⟨45, 40, .ro, 0x0⟩, ⟨35, 34, .ro, 0x0⟩, ⟨33, 32, .ro, 0x0⟩, ⟨5, 5, .w1c, 0x0⟩, ⟨4, 4, .ro, 0x0⟩, ⟨3, 3, .ro, 0x0⟩, ⟨2, 2, .ro, 0x0⟩, ⟨1, 1, .ro, 0x0⟩, ⟨0, 0, .ro, 0x0⟩]
def fields_hbmRefreshCtl : List Field := [⟨31, 24, .ro, 0x0⟩, ⟨23, 16, .ro, 0x0⟩, ⟨15, 8, .ro, 0x0⟩, ⟨1, 0, .ro, 0x0⟩]
def fields_hbmRegRate : List Field := [⟨47, 32, .ro, 0x0⟩, ⟨31, 16, .rw, 0x0⟩, ⟨15, 0, .rw, 0x0⟩]
def fields_hbmRegShape : List Field := [⟨23, 16, .rw, 0x10⟩, ⟨15, 0, .rw, 0x40⟩]
def fields_hbmErrLog : List Field := [⟨55, 52, .ro, 0x0⟩, ⟨47, 7, .ro, 0x0⟩, ⟨0, 0, .w1c, 0x0⟩]
def fields_hbmCount : List Field := [⟨63, 0, .ro, 0x0⟩]
def fields_fabPortCtl : List Field := [⟨47, 32, .rw, 0x3e8⟩, ⟨11, 8, .ro, 0x0⟩, ⟨0, 0, .rw, 0x0⟩]
def fields_fabPortStatus : List Field := [⟨35, 24, .ro, 0x0⟩, ⟨23, 23, .ro, 0x0⟩, ⟨15, 12, .ro, 0x0⟩, ⟨11, 8, .ro, 0x0⟩, ⟨2, 0, .ro, 0x0⟩]
def fields_fabPortCount : List Field := [⟨63, 0, .ro, 0x0⟩]
def fields_fabCoord : List Field := [⟨24, 24, .rw, 0x0⟩, ⟨23, 20, .rw, 0x0⟩, ⟨19, 16, .rw, 0x0⟩, ⟨15, 12, .rw, 0x0⟩, ⟨11, 8, .rw, 0x0⟩, ⟨7, 4, .rw, 0x0⟩, ⟨3, 0, .rw, 0x0⟩]
def fields_fabRouteCtl : List Field := [⟨21, 16, .rw, 0x0⟩, ⟨12, 12, .rw, 0x0⟩, ⟨11, 8, .rw, 0x0⟩, ⟨7, 0, .rw, 0x30⟩]
def fields_fabDetour : List Field := [⟨7, 4, .rw, 0xf⟩, ⟨15, 12, .rw, 0xf⟩, ⟨23, 20, .rw, 0xf⟩, ⟨31, 28, .rw, 0xf⟩, ⟨39, 36, .rw, 0xf⟩, ⟨47, 44, .rw, 0xf⟩, ⟨55, 52, .rw, 0xf⟩, ⟨63, 60, .rw, 0xf⟩, ⟨3, 0, .rw, 0xf⟩, ⟨11, 8, .rw, 0xf⟩, ⟨19, 16, .rw, 0xf⟩, ⟨27, 24, .rw, 0xf⟩, ⟨35, 32, .rw, 0xf⟩, ⟨43, 40, .rw, 0xf⟩, ⟨51, 48, .rw, 0xf⟩, ⟨59, 56, .rw, 0xf⟩]
def fields_fabHostCtl : List Field := [⟨47, 32, .rw, 0x64⟩, ⟨16, 16, .rw, 0x1⟩, ⟨10, 8, .rw, 0x4⟩, ⟨6, 4, .rw, 0x3⟩, ⟨1, 1, .rw, 0x0⟩, ⟨0, 0, .rw, 0x1⟩]
def fields_fabShape : List Field := [⟨63, 48, .rw, 0x100⟩, ⟨47, 40, .rw, 0x10⟩, ⟨31, 16, .rw, 0x0⟩, ⟨15, 0, .rw, 0x0⟩]
def fields_fabRkeyBase : List Field := [⟨60, 48, .rw, 0x0⟩, ⟨47, 5, .rw, 0x0⟩]
def fields_grvRole : List Field := [⟨63, 48, .ro, 0x0⟩, ⟨15, 12, .ro, 0x0⟩, ⟨9, 8, .ro, 0x0⟩, ⟨2, 2, .ro, 0x0⟩, ⟨1, 0, .ro, 0x0⟩]
def fields_grvMgrCtl : List Field := [⟨63, 32, .rw, 0x0⟩, ⟨1, 0, .rw, 0x0⟩]
def fields_grvLiveness : List Field := [⟨47, 32, .rw, 0x9c4⟩, ⟨31, 16, .rw, 0x32⟩, ⟨15, 0, .rw, 0xa⟩]
def fields_grvManager : List Field := [⟨63, 48, .ro, 0x0⟩, ⟨43, 32, .ro, 0x0⟩, ⟨31, 31, .ro, 0x0⟩, ⟨30, 30, .ro, 0x0⟩, ⟨11, 0, .ro, 0x0⟩]
def fields_grvRecovery : List Field := [⟨63, 48, .ro, 0x0⟩, ⟨47, 36, .ro, 0x0⟩, ⟨31, 16, .ro, 0x0⟩, ⟨3, 0, .ro, 0x0⟩]
def fields_grvParityBase : List Field := [⟨47, 6, .rw, 0x0⟩, ⟨0, 0, .rw, 0x0⟩]
def fields_grvParityStatus : List Field := [⟨63, 48, .ro, 0x0⟩, ⟨44, 28, .ro, 0x0⟩, ⟨6, 6, .ro, 0x0⟩, ⟨5, 5, .ro, 0x0⟩, ⟨4, 4, .ro, 0x0⟩, ⟨3, 3, .ro, 0x0⟩, ⟨2, 2, .ro, 0x0⟩, ⟨1, 1, .ro, 0x0⟩]
def fields_grvCount : List Field := [⟨63, 0, .ro, 0x0⟩]
def fields_tapStatus : List Field := [⟨63, 56, .ro, 0x0⟩, ⟨55, 48, .ro, 0x0⟩, ⟨31, 16, .ro, 0x0⟩, ⟨4, 4, .ro, 0x0⟩, ⟨3, 3, .ro, 0x0⟩, ⟨2, 2, .ro, 0x0⟩, ⟨1, 1, .ro, 0x1⟩, ⟨0, 0, .ro, 0x0⟩]
def fields_tapCtl : List Field := [⟨31, 24, .rw, 0x18⟩, ⟨23, 16, .rw, 0xf⟩, ⟨0, 0, .rw, 0x1⟩]
def fields_tapEndurance : List Field := [⟨63, 48, .ro, 0x0⟩, ⟨47, 32, .ro, 0x0⟩, ⟨31, 16, .ro, 0x0⟩, ⟨15, 0, .ro, 0xbb8⟩]
def fields_tapAllowance : List Field := [⟨63, 32, .ro, 0x0⟩, ⟨31, 16, .ro, 0x0⟩, ⟨0, 0, .ro, 0x0⟩]
def fields_tapNs : List Field := [⟨63, 32, .ro, 0x0⟩, ⟨31, 0, .ro, 0x0⟩]
def fields_tapSwap : List Field := [⟨63, 32, .rw, 0x0⟩, ⟨31, 0, .rw, 0x0⟩]
def fields_tapShape : List Field := [⟨15, 8, .rw, 0x10⟩, ⟨7, 0, .rw, 0x0⟩]
def fields_tapCount : List Field := [⟨63, 0, .ro, 0x0⟩]
def fields_pwrModuleState : List Field := [⟨1, 0, .rw, 0x0⟩]
def fields_pwrModuleStatus : List Field := [⟨63, 48, .ro, 0x0⟩, ⟨47, 32, .ro, 0x0⟩, ⟨8, 8, .w1c, 0x0⟩, ⟨7, 7, .ro, 0x0⟩, ⟨6, 6, .ro, 0x0⟩, ⟨5, 5, .ro, 0x0⟩, ⟨4, 4, .ro, 0x0⟩, ⟨1, 0, .ro, 0x0⟩]
def fields_pwrDomainCtl : List Field := [⟨47, 32, .rw, 0x3e8⟩, ⟨9, 9, .rw, 0x1⟩, ⟨8, 8, .rw, 0x1⟩, ⟨1, 0, .rw, 0x0⟩]
def fields_pwrDomainStatus : List Field := [⟨15, 12, .ro, 0x0⟩, ⟨10, 8, .ro, 0x0⟩, ⟨5, 5, .w1c, 0x0⟩, ⟨4, 4, .w1c, 0x0⟩, ⟨1, 0, .ro, 0x0⟩]
def fields_pwrAvsStatus : List Field := [⟨15, 4, .ro, 0x0⟩, ⟨31, 20, .ro, 0x0⟩, ⟨47, 36, .ro, 0x0⟩, ⟨63, 52, .ro, 0x0⟩, ⟨3, 3, .ro, 0x0⟩, ⟨19, 19, .ro, 0x0⟩, ⟨35, 35, .ro, 0x0⟩, ⟨51, 51, .ro, 0x0⟩, ⟨2, 2, .ro, 0x0⟩, ⟨18, 18, .ro, 0x0⟩, ⟨34, 34, .ro, 0x0⟩, ⟨50, 50, .ro, 0x0⟩, ⟨1, 0, .ro, 0x0⟩, ⟨17, 16, .ro, 0x0⟩, ⟨33, 32, .ro, 0x0⟩, ⟨49, 48, .ro, 0x0⟩]
def fields_pwrLimit : List Field := [⟨15, 0, .rw, 0x0⟩]
def fields_pwrVwindow : List Field := [⟨31, 16, .rw, 0x0⟩, ⟨15, 0, .rw, 0x0⟩]
def fields_pwrDieTarget : List Field := [⟨15, 0, .rw, 0x0⟩]
def fields_pwrCount : List Field := [⟨63, 0, .ro, 0x0⟩]
def fields_clkDieStatus : List Field := [⟨17, 17, .ro, 0x0⟩, ⟨16, 16, .ro, 0x0⟩, ⟨15, 0, .ro, 0x0⟩]
def fields_clkPllStatus : List Field := [⟨38, 38, .ro, 0x0⟩, ⟨37, 37, .ro, 0x0⟩, ⟨36, 21, .ro, 0x0⟩, ⟨20, 9, .ro, 0x0⟩, ⟨8, 8, .ro, 0x0⟩, ⟨7, 4, .ro, 0x0⟩, ⟨3, 0, .ro, 0x0⟩]
def fields_ageCtl : List Field := [⟨15, 8, .rw, 0xa8⟩, ⟨0, 0, .wo, 0x0⟩]
def fields_ageStatus : List Field := [⟨63, 32, .ro, 0x0⟩, ⟨31, 16, .ro, 0x0⟩, ⟨1, 1, .ro, 0x0⟩, ⟨0, 0, .ro, 0x0⟩]
def fields_ageDieMargin : List Field := [⟨63, 48, .ro, 0x0⟩, ⟨47, 32, .ro, 0x0⟩, ⟨31, 16, .ro, 0x0⟩, ⟨15, 0, .ro, 0x0⟩]
def fields_ageTestCmd : List Field := [⟨63, 56, .wo, 0x0⟩, ⟨48, 48, .wo, 0x0⟩, ⟨47, 32, .wo, 0x0⟩, ⟨31, 0, .wo, 0x0⟩]
def fields_ageTestStatus : List Field := [⟨15, 8, .ro, 0x0⟩, ⟨3, 3, .ro, 0x0⟩, ⟨2, 2, .w1c, 0x0⟩, ⟨1, 1, .ro, 0x0⟩, ⟨0, 0, .ro, 0x0⟩]
def fields_ageCount : List Field := [⟨63, 0, .ro, 0x0⟩]
def fields_truChCtl : List Field := [⟨29, 16, .wo, 0x0⟩, ⟨7, 0, .wo, 0x0⟩]
def fields_truChStatus : List Field := [⟨45, 32, .ro, 0x0⟩, ⟨15, 8, .ro, 0x0⟩, ⟨1, 1, .w1c, 0x0⟩, ⟨0, 0, .ro, 0x0⟩]
def fields_truWdog : List Field := [⟨17, 16, .ro, 0x0⟩, ⟨0, 0, .wo, 0x0⟩]
def fields_truBootStatus : List Field := [⟨63, 57, .ro, 0x0⟩, ⟨56, 50, .ro, 0x0⟩, ⟨49, 44, .ro, 0x0⟩, ⟨43, 42, .ro, 0x0⟩, ⟨41, 41, .ro, 0x0⟩, ⟨40, 40, .ro, 0x0⟩, ⟨15, 15, .ro, 0x0⟩, ⟨14, 14, .ro, 0x0⟩, ⟨13, 13, .ro, 0x0⟩, ⟨12, 12, .ro, 0x0⟩, ⟨11, 11, .ro, 0x0⟩, ⟨7, 4, .ro, 0x0⟩, ⟨3, 0, .ro, 0x0⟩]
def fields_glbId : List Field := [⟨63, 32, .ro, 0x0⟩, ⟨31, 16, .ro, 0xa57⟩, ⟨15, 8, .ro, 0xa1⟩]
def fields_glbStatus : List Field := [⟨47, 32, .ro, 0x0⟩, ⟨7, 7, .ro, 0x0⟩, ⟨6, 6, .ro, 0x0⟩, ⟨5, 5, .ro, 0x0⟩, ⟨4, 4, .ro, 0x0⟩, ⟨3, 3, .ro, 0x0⟩, ⟨2, 2, .ro, 0x0⟩, ⟨1, 1, .ro, 0x0⟩, ⟨0, 0, .ro, 0x0⟩]
def fields_glbProfile : List Field := [⟨37, 32, .ro, 0x0⟩, ⟨24, 24, .ro, 0x0⟩, ⟨23, 16, .ro, 0x0⟩, ⟨8, 8, .ro, 0x0⟩, ⟨7, 6, .ro, 0x0⟩, ⟨5, 4, .ro, 0x0⟩, ⟨3, 2, .ro, 0x0⟩, ⟨1, 0, .ro, 0x0⟩]
def fields_glbProfileNext : List Field := [⟨2, 2, .rw, 0x0⟩, ⟨1, 0, .rw, 0x0⟩]
def fields_glbRestart : List Field := [⟨15, 0, .wo, 0x0⟩]
def fields_glbLocalTick : List Field := [⟨63, 0, .ro, 0x0⟩]
def fields_glbCaps : List Field := [⟨55, 48, .ro, 0xc⟩, ⟨47, 32, .ro, 0x300⟩, ⟨31, 24, .ro, 0x10⟩, ⟨23, 16, .ro, 0x10⟩, ⟨15, 8, .ro, 0x40⟩, ⟨7, 0, .ro, 0x1⟩]
def fields_glbAdminCtl : List Field := [⟨1, 1, .rw, 0x1⟩, ⟨0, 0, .rw, 0x0⟩]
def fields_evtHostCtl : List Field := [⟨21, 20, .rw, 0x0⟩, ⟨19, 19, .rw, 0x0⟩, ⟨18, 16, .rw, 0x2⟩, ⟨10, 8, .rw, 0x4⟩, ⟨1, 1, .rw, 0x1⟩]
def fields_evtMqPtr : List Field := [⟨63, 32, .rc, 0x0⟩, ⟨28, 16, .ro, 0x0⟩, ⟨12, 0, .rw, 0x0⟩]
def fields_evtAlert : List Field := [⟨35, 35, .ro, 0x0⟩, ⟨34, 32, .ro, 0x0⟩, ⟨31, 0, .ro, 0x0⟩]
def fields_evtArchStatus : List Field := [⟨63, 32, .ro, 0x0⟩, ⟨31, 0, .ro, 0x0⟩]
def fields_evtArchRead : List Field := [⟨32, 32, .ro, 0x0⟩, ⟨31, 0, .wo, 0x0⟩]
def fields_evtPqBase : List Field := [⟨47, 12, .rw, 0x0⟩, ⟨4, 0, .rw, 0x6⟩]
def fields_evtPqPtr : List Field := [⟨63, 48, .rc, 0x0⟩, ⟨40, 24, .ro, 0x0⟩, ⟨16, 0, .rw, 0x0⟩]
def fields_evtCount : List Field := [⟨63, 0, .ro, 0x0⟩]

/-- The fields of each register. -/
def regFields : RegName → List Field
  | .corFlags => fields_corFlags
  | .corLatStatus => fields_corLatStatus
  | .corLatCount => fields_corLatCount
  | .corVecStatus => fields_corVecStatus
  | .corVecCount => fields_corVecCount
  | .corDoorbell => fields_corDoorbell
  | .corDrainTimeout => fields_corDrainTimeout
  | .corStreamBase => fields_corStreamBase
  | .corStreamCpl => fields_corStreamCpl
  | .corStreamHead => fields_corStreamHead
  | .corStreamTail => fields_corStreamTail
  | .corStreamCtl => fields_corStreamCtl
  | .corToken => fields_corToken
  | .corClusterToken => fields_corClusterToken
  | .corGramStatus => fields_corGramStatus
  | .corTapSlot => fields_corTapSlot
  | .corGramCount => fields_corGramCount
  | .slvCtl => fields_slvCtl
  | .slvNumCtl => fields_slvNumCtl
  | .slvPivotTau => fields_slvPivotTau
  | .slvRetryMax => fields_slvRetryMax
  | .slvDrainTimeout => fields_slvDrainTimeout
  | .slvUnitStatus => fields_slvUnitStatus
  | .slvRunDeadline => fields_slvRunDeadline
  | .slvCount => fields_slvCount
  | .strCtl => fields_strCtl
  | .strLossScale => fields_strLossScale
  | .strLayerBase => fields_strLayerBase
  | .strStatsBase => fields_strStatsBase
  | .strJournalBase => fields_strJournalBase
  | .strUndoBase => fields_strUndoBase
  | .strSweepStatus => fields_strSweepStatus
  | .strSettledEpoch => fields_strSettledEpoch
  | .strCount => fields_strCount
  | .grvBucketBase => fields_grvBucketBase
  | .grvDigestBase => fields_grvDigestBase
  | .grvRedCtl => fields_grvRedCtl
  | .grvEpoch => fields_grvEpoch
  | .grvRedStatus => fields_grvRedStatus
  | .grvRedCount => fields_grvRedCount
  | .grvJobMapBase => fields_grvJobMapBase
  | .grvChannelBase => fields_grvChannelBase
  | .grvColStatus => fields_grvColStatus
  | .grvColCount => fields_grvColCount
  | .prtCtl => fields_prtCtl
  | .prtStatus => fields_prtStatus
  | .prtFenceClusters => fields_prtFenceClusters
  | .prtFenceHbm => fields_prtFenceHbm
  | .prtPtRoot => fields_prtPtRoot
  | .prtScaleBase => fields_prtScaleBase
  | .prtHostwinBase => fields_prtHostwinBase
  | .prtSaveBase => fields_prtSaveBase
  | .prtSaveSize => fields_prtSaveSize
  | .prtPreempt => fields_prtPreempt
  | .prtXltInval => fields_prtXltInval
  | .prtFaultqBase => fields_prtFaultqBase
  | .prtFaultqPtr => fields_prtFaultqPtr
  | .prtFaultResolve => fields_prtFaultResolve
  | .prtFaultTimeout => fields_prtFaultTimeout
  | .prtStepMarker => fields_prtStepMarker
  | .prtStoreLive => fields_prtStoreLive
  | .prtCstoreLive => fields_prtCstoreLive
  | .prtCount => fields_prtCount
  | .hbmGlbCtl => fields_hbmGlbCtl
  | .hbmSysUnits => fields_hbmSysUnits
  | .hbmRepairCmd => fields_hbmRepairCmd
  | .hbmRepairStatus => fields_hbmRepairStatus
  | .hbmStackStatus => fields_hbmStackStatus
  | .hbmRefreshCtl => fields_hbmRefreshCtl
  | .hbmRegRate => fields_hbmRegRate
  | .hbmRegShape => fields_hbmRegShape
  | .hbmErrLog => fields_hbmErrLog
  | .hbmCount => fields_hbmCount
  | .fabPortCtl => fields_fabPortCtl
  | .fabPortStatus => fields_fabPortStatus
  | .fabPortCount => fields_fabPortCount
  | .fabCoord => fields_fabCoord
  | .fabRouteCtl => fields_fabRouteCtl
  | .fabDetour => fields_fabDetour
  | .fabHostCtl => fields_fabHostCtl
  | .fabShape => fields_fabShape
  | .fabRkeyBase => fields_fabRkeyBase
  | .grvRole => fields_grvRole
  | .grvMgrCtl => fields_grvMgrCtl
  | .grvLiveness => fields_grvLiveness
  | .grvManager => fields_grvManager
  | .grvRecovery => fields_grvRecovery
  | .grvParityBase => fields_grvParityBase
  | .grvParityStatus => fields_grvParityStatus
  | .grvCount => fields_grvCount
  | .tapStatus => fields_tapStatus
  | .tapCtl => fields_tapCtl
  | .tapEndurance => fields_tapEndurance
  | .tapAllowance => fields_tapAllowance
  | .tapNs => fields_tapNs
  | .tapSwap => fields_tapSwap
  | .tapShape => fields_tapShape
  | .tapCount => fields_tapCount
  | .pwrModuleState => fields_pwrModuleState
  | .pwrModuleStatus => fields_pwrModuleStatus
  | .pwrDomainCtl => fields_pwrDomainCtl
  | .pwrDomainStatus => fields_pwrDomainStatus
  | .pwrAvsStatus => fields_pwrAvsStatus
  | .pwrLimit => fields_pwrLimit
  | .pwrVwindow => fields_pwrVwindow
  | .pwrDieTarget => fields_pwrDieTarget
  | .pwrCount => fields_pwrCount
  | .clkDieStatus => fields_clkDieStatus
  | .clkPllStatus => fields_clkPllStatus
  | .ageCtl => fields_ageCtl
  | .ageStatus => fields_ageStatus
  | .ageDieMargin => fields_ageDieMargin
  | .ageTestCmd => fields_ageTestCmd
  | .ageTestStatus => fields_ageTestStatus
  | .ageCount => fields_ageCount
  | .truChCtl => fields_truChCtl
  | .truChStatus => fields_truChStatus
  | .truWdog => fields_truWdog
  | .truBootStatus => fields_truBootStatus
  | .glbId => fields_glbId
  | .glbStatus => fields_glbStatus
  | .glbProfile => fields_glbProfile
  | .glbProfileNext => fields_glbProfileNext
  | .glbRestart => fields_glbRestart
  | .glbLocalTick => fields_glbLocalTick
  | .glbCaps => fields_glbCaps
  | .glbAdminCtl => fields_glbAdminCtl
  | .evtHostCtl => fields_evtHostCtl
  | .evtMqPtr => fields_evtMqPtr
  | .evtAlert => fields_evtAlert
  | .evtArchStatus => fields_evtArchStatus
  | .evtArchRead => fields_evtArchRead
  | .evtPqBase => fields_evtPqBase
  | .evtPqPtr => fields_evtPqPtr
  | .evtCount => fields_evtCount

/-- Which agents besides heartwood may write the register (R547, R484, R525, R561). -/
def regWriters : RegName → Bool × Bool  -- (host, sapwood)
  | .corFlags => (false, true)
  | .corLatStatus => (false, true)
  | .corLatCount => (false, true)
  | .corVecStatus => (false, true)
  | .corVecCount => (false, true)
  | .corDoorbell => (false, true)
  | .corDrainTimeout => (false, true)
  | .corStreamBase => (false, true)
  | .corStreamCpl => (false, true)
  | .corStreamHead => (false, true)
  | .corStreamTail => (false, true)
  | .corStreamCtl => (false, true)
  | .corToken => (false, true)
  | .corClusterToken => (false, true)
  | .corGramStatus => (false, true)
  | .corTapSlot => (false, true)
  | .corGramCount => (false, true)
  | .slvCtl => (false, true)
  | .slvNumCtl => (false, true)
  | .slvPivotTau => (false, true)
  | .slvRetryMax => (false, true)
  | .slvDrainTimeout => (false, true)
  | .slvUnitStatus => (false, true)
  | .slvRunDeadline => (false, true)
  | .slvCount => (false, true)
  | .strCtl => (false, true)
  | .strLossScale => (false, true)
  | .strLayerBase => (false, true)
  | .strStatsBase => (false, true)
  | .strJournalBase => (false, true)
  | .strUndoBase => (false, true)
  | .strSweepStatus => (false, true)
  | .strSettledEpoch => (false, true)
  | .strCount => (false, true)
  | .grvBucketBase => (false, true)
  | .grvDigestBase => (false, true)
  | .grvRedCtl => (false, true)
  | .grvEpoch => (false, true)
  | .grvRedStatus => (false, true)
  | .grvRedCount => (false, true)
  | .grvJobMapBase => (false, true)
  | .grvChannelBase => (false, true)
  | .grvColStatus => (false, true)
  | .grvColCount => (false, true)
  | .prtCtl => (false, true)
  | .prtStatus => (false, true)
  | .prtFenceClusters => (false, false)
  | .prtFenceHbm => (false, false)
  | .prtPtRoot => (false, true)
  | .prtScaleBase => (false, true)
  | .prtHostwinBase => (false, true)
  | .prtSaveBase => (false, true)
  | .prtSaveSize => (false, true)
  | .prtPreempt => (false, true)
  | .prtXltInval => (false, true)
  | .prtFaultqBase => (false, true)
  | .prtFaultqPtr => (false, true)
  | .prtFaultResolve => (false, true)
  | .prtFaultTimeout => (false, true)
  | .prtStepMarker => (false, true)
  | .prtStoreLive => (false, true)
  | .prtCstoreLive => (false, true)
  | .prtCount => (false, true)
  | .hbmGlbCtl => (true, true)
  | .hbmSysUnits => (false, true)
  | .hbmRepairCmd => (true, false)
  | .hbmRepairStatus => (false, true)
  | .hbmStackStatus => (true, true)
  | .hbmRefreshCtl => (false, true)
  | .hbmRegRate => (false, true)
  | .hbmRegShape => (false, true)
  | .hbmErrLog => (true, true)
  | .hbmCount => (false, true)
  | .fabPortCtl => (false, true)
  | .fabPortStatus => (false, true)
  | .fabPortCount => (false, true)
  | .fabCoord => (false, true)
  | .fabRouteCtl => (false, true)
  | .fabDetour => (false, true)
  | .fabHostCtl => (false, true)
  | .fabShape => (false, true)
  | .fabRkeyBase => (false, true)
  | .grvRole => (false, true)
  | .grvMgrCtl => (true, false)
  | .grvLiveness => (false, true)
  | .grvManager => (false, true)
  | .grvRecovery => (false, true)
  | .grvParityBase => (false, true)
  | .grvParityStatus => (false, true)
  | .grvCount => (false, true)
  | .tapStatus => (false, true)
  | .tapCtl => (false, true)
  | .tapEndurance => (false, true)
  | .tapAllowance => (false, true)
  | .tapNs => (false, true)
  | .tapSwap => (false, true)
  | .tapShape => (false, true)
  | .tapCount => (false, true)
  | .pwrModuleState => (true, false)
  | .pwrModuleStatus => (true, false)
  | .pwrDomainCtl => (true, false)
  | .pwrDomainStatus => (true, false)
  | .pwrAvsStatus => (true, false)
  | .pwrLimit => (true, false)
  | .pwrVwindow => (true, false)
  | .pwrDieTarget => (true, false)
  | .pwrCount => (true, false)
  | .clkDieStatus => (false, false)
  | .clkPllStatus => (false, false)
  | .ageCtl => (true, true)
  | .ageStatus => (false, true)
  | .ageDieMargin => (false, true)
  | .ageTestCmd => (true, true)
  | .ageTestStatus => (true, true)
  | .ageCount => (false, true)
  | .truChCtl => (true, true)
  | .truChStatus => (true, true)
  | .truWdog => (false, true)
  | .truBootStatus => (false, false)
  | .glbId => (false, false)
  | .glbStatus => (false, false)
  | .glbProfile => (false, false)
  | .glbProfileNext => (true, false)
  | .glbRestart => (true, false)
  | .glbLocalTick => (false, false)
  | .glbCaps => (false, false)
  | .glbAdminCtl => (true, false)
  | .evtHostCtl => (true, false)
  | .evtMqPtr => (true, true)
  | .evtAlert => (false, true)
  | .evtArchStatus => (false, true)
  | .evtArchRead => (true, true)
  | .evtPqBase => (false, true)
  | .evtPqPtr => (false, true)
  | .evtCount => (false, true)

def allRegs0 : List RegName := [.corFlags, .corLatStatus, .corLatCount, .corVecStatus, .corVecCount, .corDoorbell, .corDrainTimeout, .corStreamBase, .corStreamCpl, .corStreamHead]
def allRegs1 : List RegName := [.corStreamTail, .corStreamCtl, .corToken, .corClusterToken, .corGramStatus, .corTapSlot, .corGramCount, .slvCtl, .slvNumCtl, .slvPivotTau]
def allRegs2 : List RegName := [.slvRetryMax, .slvDrainTimeout, .slvUnitStatus, .slvRunDeadline, .slvCount, .strCtl, .strLossScale, .strLayerBase, .strStatsBase, .strJournalBase]
def allRegs3 : List RegName := [.strUndoBase, .strSweepStatus, .strSettledEpoch, .strCount, .grvBucketBase, .grvDigestBase, .grvRedCtl, .grvEpoch, .grvRedStatus, .grvRedCount]
def allRegs4 : List RegName := [.grvJobMapBase, .grvChannelBase, .grvColStatus, .grvColCount, .prtCtl, .prtStatus, .prtFenceClusters, .prtFenceHbm, .prtPtRoot, .prtScaleBase]
def allRegs5 : List RegName := [.prtHostwinBase, .prtSaveBase, .prtSaveSize, .prtPreempt, .prtXltInval, .prtFaultqBase, .prtFaultqPtr, .prtFaultResolve, .prtFaultTimeout, .prtStepMarker]
def allRegs6 : List RegName := [.prtStoreLive, .prtCstoreLive, .prtCount, .hbmGlbCtl, .hbmSysUnits, .hbmRepairCmd, .hbmRepairStatus, .hbmStackStatus, .hbmRefreshCtl, .hbmRegRate]
def allRegs7 : List RegName := [.hbmRegShape, .hbmErrLog, .hbmCount, .fabPortCtl, .fabPortStatus, .fabPortCount, .fabCoord, .fabRouteCtl, .fabDetour, .fabHostCtl]
def allRegs8 : List RegName := [.fabShape, .fabRkeyBase, .grvRole, .grvMgrCtl, .grvLiveness, .grvManager, .grvRecovery, .grvParityBase, .grvParityStatus, .grvCount]
def allRegs9 : List RegName := [.tapStatus, .tapCtl, .tapEndurance, .tapAllowance, .tapNs, .tapSwap, .tapShape, .tapCount, .pwrModuleState, .pwrModuleStatus]
def allRegs10 : List RegName := [.pwrDomainCtl, .pwrDomainStatus, .pwrAvsStatus, .pwrLimit, .pwrVwindow, .pwrDieTarget, .pwrCount, .clkDieStatus, .clkPllStatus, .ageCtl]
def allRegs11 : List RegName := [.ageStatus, .ageDieMargin, .ageTestCmd, .ageTestStatus, .ageCount, .truChCtl, .truChStatus, .truWdog, .truBootStatus, .glbId]
def allRegs12 : List RegName := [.glbStatus, .glbProfile, .glbProfileNext, .glbRestart, .glbLocalTick, .glbCaps, .glbAdminCtl, .evtHostCtl, .evtMqPtr, .evtAlert]
def allRegs13 : List RegName := [.evtArchStatus, .evtArchRead, .evtPqBase, .evtPqPtr, .evtCount]

/-- All registers, in the order of the chapters. -/
def allRegs : List RegName :=
  allRegs0 ++ allRegs1 ++ allRegs2 ++ allRegs3 ++ allRegs4 ++ allRegs5 ++ allRegs6 ++ allRegs7 ++ allRegs8 ++ allRegs9 ++ allRegs10 ++ allRegs11 ++ allRegs12 ++ allRegs13

-- The fields by name: rf_<register>_<field>.
def rf_corFlags_slv : RF := ⟨.corFlags, 28, 24⟩
def rf_corFlags_gram : RF := ⟨.corFlags, 19, 16⟩
def rf_corFlags_vec : RF := ⟨.corFlags, 11, 8⟩
def rf_corFlags_lat : RF := ⟨.corFlags, 3, 0⟩
def rf_corLatStatus_bgRow : RF := ⟨.corLatStatus, 31, 24⟩
def rf_corLatStatus_bgCount : RF := ⟨.corLatStatus, 21, 20⟩
def rf_corLatStatus_holder : RF := ⟨.corLatStatus, 19, 16⟩
def rf_corLatStatus_solverWaiting : RF := ⟨.corLatStatus, 7, 7⟩
def rf_corLatStatus_tapWait : RF := ⟨.corLatStatus, 6, 6⟩
def rf_corLatStatus_seqPreload : RF := ⟨.corLatStatus, 5, 5⟩
def rf_corLatStatus_mmaActive : RF := ⟨.corLatStatus, 4, 4⟩
def rf_corLatStatus_livePlane : RF := ⟨.corLatStatus, 0, 0⟩
def rf_corLatCount_count : RF := ⟨.corLatCount, 63, 0⟩
def rf_corVecStatus_nextRow : RF := ⟨.corVecStatus, 39, 16⟩
def rf_corVecStatus_opcode : RF := ⟨.corVecStatus, 15, 8⟩
def rf_corVecStatus_stream : RF := ⟨.corVecStatus, 7, 4⟩
def rf_corVecStatus_faultWait : RF := ⟨.corVecStatus, 1, 1⟩
def rf_corVecStatus_busy : RF := ⟨.corVecStatus, 0, 0⟩
def rf_corVecCount_count : RF := ⟨.corVecCount, 63, 0⟩
def rf_corDoorbell_stream : RF := ⟨.corDoorbell, 33, 32⟩
def rf_corDoorbell_tail : RF := ⟨.corDoorbell, 31, 0⟩
def rf_corDrainTimeout_timeoutUs : RF := ⟨.corDrainTimeout, 31, 0⟩
def rf_corStreamBase_ringBase : RF := ⟨.corStreamBase, 47, 12⟩
def rf_corStreamBase_log2Size : RF := ⟨.corStreamBase, 4, 0⟩
def rf_corStreamCpl_cplBase : RF := ⟨.corStreamCpl, 47, 12⟩
def rf_corStreamHead_retire : RF := ⟨.corStreamHead, 63, 32⟩
def rf_corStreamHead_issue : RF := ⟨.corStreamHead, 31, 0⟩
def rf_corStreamTail_tail : RF := ⟨.corStreamTail, 31, 0⟩
def rf_corStreamCtl_deferLimit : RF := ⟨.corStreamCtl, 47, 32⟩
def rf_corStreamCtl_state : RF := ⟨.corStreamCtl, 31, 28⟩
def rf_corStreamCtl_stopCause : RF := ⟨.corStreamCtl, 27, 24⟩
def rf_corStreamCtl_doorbellError : RF := ⟨.corStreamCtl, 15, 15⟩
def rf_corStreamCtl_priority : RF := ⟨.corStreamCtl, 9, 8⟩
def rf_corStreamCtl_restart : RF := ⟨.corStreamCtl, 2, 2⟩
def rf_corStreamCtl_enable : RF := ⟨.corStreamCtl, 0, 0⟩
def rf_corToken_value : RF := ⟨.corToken, 31, 0⟩
def rf_corClusterToken_value : RF := ⟨.corClusterToken, 31, 0⟩
def rf_corGramStatus_asmOpcode : RF := ⟨.corGramStatus, 15, 8⟩
def rf_corGramStatus_activeSlot : RF := ⟨.corGramStatus, 7, 4⟩
def rf_corGramStatus_asmBusy : RF := ⟨.corGramStatus, 1, 1⟩
def rf_corGramStatus_gramBusy : RF := ⟨.corGramStatus, 0, 0⟩
def rf_corTapSlot_rowsAllocated : RF := ⟨.corTapSlot, 47, 32⟩
def rf_corTapSlot_epoch : RF := ⟨.corTapSlot, 31, 16⟩
def rf_corTapSlot_log2S : RF := ⟨.corTapSlot, 7, 4⟩
def rf_corTapSlot_batchBusy : RF := ⟨.corTapSlot, 3, 3⟩
def rf_corTapSlot_tapFull : RF := ⟨.corTapSlot, 2, 2⟩
def rf_corTapSlot_configured : RF := ⟨.corTapSlot, 0, 0⟩
def rf_corGramCount_count : RF := ⟨.corGramCount, 63, 0⟩
def rf_slvCtl_enable : RF := ⟨.slvCtl, 0, 0⟩
def rf_slvNumCtl_forwardEnable : RF := ⟨.slvNumCtl, 1, 1⟩
def rf_slvNumCtl_ftz : RF := ⟨.slvNumCtl, 0, 0⟩
def rf_slvPivotTau_tau64Exp : RF := ⟨.slvPivotTau, 25, 16⟩
def rf_slvPivotTau_tau32Exp : RF := ⟨.slvPivotTau, 6, 0⟩
def rf_slvRetryMax_retryMax : RF := ⟨.slvRetryMax, 1, 0⟩
def rf_slvDrainTimeout_timeoutUs : RF := ⟨.slvDrainTimeout, 31, 0⟩
def rf_slvUnitStatus_latticesHeld : RF := ⟨.slvUnitStatus, 51, 48⟩
def rf_slvUnitStatus_queueDepth : RF := ⟨.slvUnitStatus, 45, 40⟩
def rf_slvUnitStatus_opcode : RF := ⟨.slvUnitStatus, 39, 32⟩
def rf_slvUnitStatus_tag : RF := ⟨.slvUnitStatus, 31, 16⟩
def rf_slvUnitStatus_stream : RF := ⟨.slvUnitStatus, 15, 14⟩
def rf_slvUnitStatus_core : RF := ⟨.slvUnitStatus, 13, 12⟩
def rf_slvUnitStatus_attempt : RF := ⟨.slvUnitStatus, 9, 8⟩
def rf_slvUnitStatus_latticeWait : RF := ⟨.slvUnitStatus, 3, 3⟩
def rf_slvUnitStatus_faultWait : RF := ⟨.slvUnitStatus, 2, 2⟩
def rf_slvUnitStatus_saved : RF := ⟨.slvUnitStatus, 1, 1⟩
def rf_slvUnitStatus_busy : RF := ⟨.slvUnitStatus, 0, 0⟩
def rf_slvRunDeadline_deadline : RF := ⟨.slvRunDeadline, 63, 0⟩
def rf_slvCount_count : RF := ⟨.slvCount, 63, 0⟩
def rf_strCtl_relaxAfter : RF := ⟨.strCtl, 15, 8⟩
def rf_strCtl_clipEnable : RF := ⟨.strCtl, 1, 1⟩
def rf_strCtl_dampEnable : RF := ⟨.strCtl, 0, 0⟩
def rf_strLossScale_cleanCount : RF := ⟨.strLossScale, 63, 48⟩
def rf_strLossScale_growthInterval : RF := ⟨.strLossScale, 47, 32⟩
def rf_strLossScale_maxExp : RF := ⟨.strLossScale, 31, 24⟩
def rf_strLossScale_minExp : RF := ⟨.strLossScale, 23, 16⟩
def rf_strLossScale_lsExp : RF := ⟨.strLossScale, 7, 0⟩
def rf_strLayerBase_base : RF := ⟨.strLayerBase, 47, 7⟩
def rf_strStatsBase_base : RF := ⟨.strStatsBase, 47, 7⟩
def rf_strJournalBase_base : RF := ⟨.strJournalBase, 47, 7⟩
def rf_strUndoBase_base : RF := ⟨.strUndoBase, 47, 7⟩
def rf_strSweepStatus_epochLo : RF := ⟨.strSweepStatus, 63, 48⟩
def rf_strSweepStatus_chunksDone : RF := ⟨.strSweepStatus, 31, 12⟩
def rf_strSweepStatus_rollingBack : RF := ⟨.strSweepStatus, 3, 3⟩
def rf_strSweepStatus_rollForward : RF := ⟨.strSweepStatus, 2, 2⟩
def rf_strSweepStatus_sweepDone : RF := ⟨.strSweepStatus, 1, 1⟩
def rf_strSweepStatus_busy : RF := ⟨.strSweepStatus, 0, 0⟩
def rf_strSettledEpoch_epoch : RF := ⟨.strSettledEpoch, 63, 0⟩
def rf_strCount_count : RF := ⟨.strCount, 63, 0⟩
def rf_grvBucketBase_base : RF := ⟨.grvBucketBase, 47, 22⟩
def rf_grvDigestBase_count : RF := ⟨.grvDigestBase, 58, 48⟩
def rf_grvDigestBase_base : RF := ⟨.grvDigestBase, 47, 6⟩
def rf_grvRedCtl_responseTimeoutUs : RF := ⟨.grvRedCtl, 47, 32⟩
def rf_grvRedCtl_retryIntervalUs : RF := ⟨.grvRedCtl, 31, 16⟩
def rf_grvEpoch_epoch : RF := ⟨.grvEpoch, 63, 0⟩
def rf_grvRedStatus_open : RF := ⟨.grvRedStatus, 63, 47⟩
def rf_grvRedStatus_complete : RF := ⟨.grvRedStatus, 46, 30⟩
def rf_grvRedStatus_poisoned : RF := ⟨.grvRedStatus, 29, 13⟩
def rf_grvRedStatus_lastVerdict : RF := ⟨.grvRedStatus, 3, 2⟩
def rf_grvRedStatus_verdictPending : RF := ⟨.grvRedStatus, 1, 1⟩
def rf_grvRedStatus_saved : RF := ⟨.grvRedStatus, 0, 0⟩
def rf_grvRedCount_count : RF := ⟨.grvRedCount, 63, 0⟩
def rf_grvJobMapBase_count : RF := ⟨.grvJobMapBase, 60, 48⟩
def rf_grvJobMapBase_base : RF := ⟨.grvJobMapBase, 47, 6⟩
def rf_grvChannelBase_base : RF := ⟨.grvChannelBase, 47, 10⟩
def rf_grvColStatus_permuteRound : RF := ⟨.grvColStatus, 63, 48⟩
def rf_grvColStatus_permuteActive : RF := ⟨.grvColStatus, 3, 3⟩
def rf_grvColStatus_exchangeActive : RF := ⟨.grvColStatus, 2, 2⟩
def rf_grvColStatus_gatherActive : RF := ⟨.grvColStatus, 1, 1⟩
def rf_grvColStatus_ringActive : RF := ⟨.grvColStatus, 0, 0⟩
def rf_grvColCount_count : RF := ⟨.grvColCount, 63, 0⟩
def rf_prtCtl_armError : RF := ⟨.prtCtl, 3, 3⟩
def rf_prtCtl_armed : RF := ⟨.prtCtl, 2, 2⟩
def rf_prtCtl_arm : RF := ⟨.prtCtl, 1, 1⟩
def rf_prtCtl_faultWait : RF := ⟨.prtCtl, 0, 0⟩
def rf_prtStatus_faultsWaiting : RF := ⟨.prtStatus, 63, 32⟩
def rf_prtStatus_faultqError : RF := ⟨.prtStatus, 9, 9⟩
def rf_prtStatus_invalError : RF := ⟨.prtStatus, 8, 8⟩
def rf_prtStatus_cmdError : RF := ⟨.prtStatus, 7, 7⟩
def rf_prtStatus_invalBusy : RF := ⟨.prtStatus, 3, 3⟩
def rf_prtStatus_preemptState : RF := ⟨.prtStatus, 2, 0⟩
def rf_prtFenceClusters_clusters : RF := ⟨.prtFenceClusters, 15, 0⟩
def rf_prtFenceHbm_units : RF := ⟨.prtFenceHbm, 63, 0⟩
def rf_prtPtRoot_base : RF := ⟨.prtPtRoot, 47, 12⟩
def rf_prtScaleBase_base : RF := ⟨.prtScaleBase, 47, 12⟩
def rf_prtHostwinBase_base : RF := ⟨.prtHostwinBase, 47, 12⟩
def rf_prtHostwinBase_count : RF := ⟨.prtHostwinBase, 7, 0⟩
def rf_prtSaveBase_base : RF := ⟨.prtSaveBase, 47, 16⟩
def rf_prtSaveSize_bytes : RF := ⟨.prtSaveSize, 63, 0⟩
def rf_prtPreempt_action : RF := ⟨.prtPreempt, 1, 0⟩
def rf_prtXltInval_log2Size : RF := ⟨.prtXltInval, 53, 48⟩
def rf_prtXltInval_va : RF := ⟨.prtXltInval, 47, 16⟩
def rf_prtFaultqBase_base : RF := ⟨.prtFaultqBase, 47, 13⟩
def rf_prtFaultqPtr_tail : RF := ⟨.prtFaultqPtr, 40, 32⟩
def rf_prtFaultqPtr_head : RF := ⟨.prtFaultqPtr, 8, 0⟩
def rf_prtFaultResolve_action : RF := ⟨.prtFaultResolve, 16, 16⟩
def rf_prtFaultResolve_faultId : RF := ⟨.prtFaultResolve, 15, 0⟩
def rf_prtFaultTimeout_timeoutUs : RF := ⟨.prtFaultTimeout, 31, 0⟩
def rf_prtStepMarker_value : RF := ⟨.prtStepMarker, 31, 0⟩
def rf_prtStoreLive_extent : RF := ⟨.prtStoreLive, 25, 0⟩
def rf_prtCstoreLive_extent : RF := ⟨.prtCstoreLive, 25, 0⟩
def rf_prtCount_count : RF := ⟨.prtCount, 63, 0⟩
def rf_hbmGlbCtl_sysWeight : RF := ⟨.hbmGlbCtl, 39, 32⟩
def rf_hbmGlbCtl_scrubPeriodH : RF := ⟨.hbmGlbCtl, 23, 16⟩
def rf_hbmGlbCtl_scrubEnable : RF := ⟨.hbmGlbCtl, 8, 8⟩
def rf_hbmGlbCtl_interleave : RF := ⟨.hbmGlbCtl, 0, 0⟩
def rf_hbmSysUnits_units : RF := ⟨.hbmSysUnits, 63, 0⟩
def rf_hbmRepairCmd_stack : RF := ⟨.hbmRepairCmd, 55, 52⟩
def rf_hbmRepairCmd_pc : RF := ⟨.hbmRepairCmd, 51, 46⟩
def rf_hbmRepairCmd_bank : RF := ⟨.hbmRepairCmd, 45, 40⟩
def rf_hbmRepairCmd_row : RF := ⟨.hbmRepairCmd, 39, 26⟩
def rf_hbmRepairCmd_kind : RF := ⟨.hbmRepairCmd, 1, 0⟩
def rf_hbmRepairStatus_result : RF := ⟨.hbmRepairStatus, 7, 4⟩
def rf_hbmRepairStatus_busy : RF := ⟨.hbmRepairStatus, 0, 0⟩
def rf_hbmStackStatus_tempC : RF := ⟨.hbmStackStatus, 63, 56⟩
def rf_hbmStackStatus_degradedChannels : RF := ⟨.hbmStackStatus, 45, 40⟩
def rf_hbmStackStatus_effRefresh : RF := ⟨.hbmStackStatus, 35, 34⟩
def rf_hbmStackStatus_planRefresh : RF := ⟨.hbmStackStatus, 33, 32⟩
def rf_hbmStackStatus_regError : RF := ⟨.hbmStackStatus, 5, 5⟩
def rf_hbmStackStatus_throttled : RF := ⟨.hbmStackStatus, 4, 4⟩
def rf_hbmStackStatus_rescaled : RF := ⟨.hbmStackStatus, 3, 3⟩
def rf_hbmStackStatus_tempRaised : RF := ⟨.hbmStackStatus, 2, 2⟩
def rf_hbmStackStatus_trained : RF := ⟨.hbmStackStatus, 1, 1⟩
def rf_hbmStackStatus_ready : RF := ⟨.hbmStackStatus, 0, 0⟩
def rf_hbmRefreshCtl_tempLimitC : RF := ⟨.hbmRefreshCtl, 31, 24⟩
def rf_hbmRefreshCtl_tempLowerC : RF := ⟨.hbmRefreshCtl, 23, 16⟩
def rf_hbmRefreshCtl_tempRaiseC : RF := ⟨.hbmRefreshCtl, 15, 8⟩
def rf_hbmRefreshCtl_planRefresh : RF := ⟨.hbmRefreshCtl, 1, 0⟩
def rf_hbmRegRate_effMin : RF := ⟨.hbmRegRate, 47, 32⟩
def rf_hbmRegRate_cap : RF := ⟨.hbmRegRate, 31, 16⟩
def rf_hbmRegRate_min : RF := ⟨.hbmRegRate, 15, 0⟩
def rf_hbmRegShape_weight : RF := ⟨.hbmRegShape, 23, 16⟩
def rf_hbmRegShape_burstKib : RF := ⟨.hbmRegShape, 15, 0⟩
def rf_hbmErrLog_source : RF := ⟨.hbmErrLog, 55, 52⟩
def rf_hbmErrLog_line : RF := ⟨.hbmErrLog, 47, 7⟩
def rf_hbmErrLog_valid : RF := ⟨.hbmErrLog, 0, 0⟩
def rf_hbmCount_count : RF := ⟨.hbmCount, 63, 0⟩
def rf_fabPortCtl_timeoutUs : RF := ⟨.fabPortCtl, 47, 32⟩
def rf_fabPortCtl_direction : RF := ⟨.fabPortCtl, 11, 8⟩
def rf_fabPortCtl_enable : RF := ⟨.fabPortCtl, 0, 0⟩
def rf_fabPortStatus_partner : RF := ⟨.fabPortStatus, 35, 24⟩
def rf_fabPortStatus_partnerValid : RF := ⟨.fabPortStatus, 23, 23⟩
def rf_fabPortStatus_failedLanes : RF := ⟨.fabPortStatus, 15, 12⟩
def rf_fabPortStatus_activeLanes : RF := ⟨.fabPortStatus, 11, 8⟩
def rf_fabPortStatus_linkState : RF := ⟨.fabPortStatus, 2, 0⟩
def rf_fabPortCount_count : RF := ⟨.fabPortCount, 63, 0⟩
def rf_fabCoord_valid : RF := ⟨.fabCoord, 24, 24⟩
def rf_fabCoord_kxM1 : RF := ⟨.fabCoord, 23, 20⟩
def rf_fabCoord_kyM1 : RF := ⟨.fabCoord, 19, 16⟩
def rf_fabCoord_kzM1 : RF := ⟨.fabCoord, 15, 12⟩
def rf_fabCoord_x : RF := ⟨.fabCoord, 11, 8⟩
def rf_fabCoord_y : RF := ⟨.fabCoord, 7, 4⟩
def rf_fabCoord_z : RF := ⟨.fabCoord, 3, 0⟩
def rf_fabRouteCtl_upMask : RF := ⟨.fabRouteCtl, 21, 16⟩
def rf_fabRouteCtl_detourEnable : RF := ⟨.fabRouteCtl, 12, 12⟩
def rf_fabRouteCtl_detourGen : RF := ⟨.fabRouteCtl, 11, 8⟩
def rf_fabRouteCtl_hopLimit : RF := ⟨.fabRouteCtl, 7, 0⟩
def rf_fabDetour_down0 : RF := ⟨.fabDetour, 7, 4⟩
def rf_fabDetour_down1 : RF := ⟨.fabDetour, 15, 12⟩
def rf_fabDetour_down2 : RF := ⟨.fabDetour, 23, 20⟩
def rf_fabDetour_down3 : RF := ⟨.fabDetour, 31, 28⟩
def rf_fabDetour_down4 : RF := ⟨.fabDetour, 39, 36⟩
def rf_fabDetour_down5 : RF := ⟨.fabDetour, 47, 44⟩
def rf_fabDetour_down6 : RF := ⟨.fabDetour, 55, 52⟩
def rf_fabDetour_down7 : RF := ⟨.fabDetour, 63, 60⟩
def rf_fabDetour_up0 : RF := ⟨.fabDetour, 3, 0⟩
def rf_fabDetour_up1 : RF := ⟨.fabDetour, 11, 8⟩
def rf_fabDetour_up2 : RF := ⟨.fabDetour, 19, 16⟩
def rf_fabDetour_up3 : RF := ⟨.fabDetour, 27, 24⟩
def rf_fabDetour_up4 : RF := ⟨.fabDetour, 35, 32⟩
def rf_fabDetour_up5 : RF := ⟨.fabDetour, 43, 40⟩
def rf_fabDetour_up6 : RF := ⟨.fabDetour, 51, 48⟩
def rf_fabDetour_up7 : RF := ⟨.fabDetour, 59, 56⟩
def rf_fabHostCtl_pfcWatchdogMs : RF := ⟨.fabHostCtl, 47, 32⟩
def rf_fabHostCtl_ecnEnable : RF := ⟨.fabHostCtl, 16, 16⟩
def rf_fabHostCtl_pfcPrioB : RF := ⟨.fabHostCtl, 10, 8⟩
def rf_fabHostCtl_pfcPrioA : RF := ⟨.fabHostCtl, 6, 4⟩
def rf_fabHostCtl_pfcBEnable : RF := ⟨.fabHostCtl, 1, 1⟩
def rf_fabHostCtl_pfcAEnable : RF := ⟨.fabHostCtl, 0, 0⟩
def rf_fabShape_burstKib : RF := ⟨.fabShape, 63, 48⟩
def rf_fabShape_weight : RF := ⟨.fabShape, 47, 40⟩
def rf_fabShape_hostCap : RF := ⟨.fabShape, 31, 16⟩
def rf_fabShape_fabricCap : RF := ⟨.fabShape, 15, 0⟩
def rf_fabRkeyBase_count : RF := ⟨.fabRkeyBase, 60, 48⟩
def rf_fabRkeyBase_base : RF := ⟨.fabRkeyBase, 47, 5⟩
def rf_grvRole_term : RF := ⟨.grvRole, 63, 48⟩
def rf_grvRole_groveState : RF := ⟨.grvRole, 15, 12⟩
def rf_grvRole_managerMode : RF := ⟨.grvRole, 9, 8⟩
def rf_grvRole_spare : RF := ⟨.grvRole, 2, 2⟩
def rf_grvRole_role : RF := ⟨.grvRole, 1, 0⟩
def rf_grvMgrCtl_stepTimeoutMs : RF := ⟨.grvMgrCtl, 63, 32⟩
def rf_grvMgrCtl_mode : RF := ⟨.grvMgrCtl, 1, 0⟩
def rf_grvLiveness_sapwoodGraceMs : RF := ⟨.grvLiveness, 47, 32⟩
def rf_grvLiveness_lossMs : RF := ⟨.grvLiveness, 31, 16⟩
def rf_grvLiveness_pulseMs : RF := ⟨.grvLiveness, 15, 0⟩
def rf_grvManager_term : RF := ⟨.grvManager, 63, 48⟩
def rf_grvManager_standby : RF := ⟨.grvManager, 43, 32⟩
def rf_grvManager_standbyValid : RF := ⟨.grvManager, 31, 31⟩
def rf_grvManager_managerValid : RF := ⟨.grvManager, 30, 30⟩
def rf_grvManager_manager : RF := ⟨.grvManager, 11, 0⟩
def rf_grvRecovery_epochLo : RF := ⟨.grvRecovery, 63, 48⟩
def rf_grvRecovery_lost : RF := ⟨.grvRecovery, 47, 36⟩
def rf_grvRecovery_job : RF := ⟨.grvRecovery, 31, 16⟩
def rf_grvRecovery_state : RF := ⟨.grvRecovery, 3, 0⟩
def rf_grvParityBase_base : RF := ⟨.grvParityBase, 47, 6⟩
def rf_grvParityBase_enable : RF := ⟨.grvParityBase, 0, 0⟩
def rf_grvParityStatus_heldEpochLo : RF := ⟨.grvParityStatus, 63, 48⟩
def rf_grvParityStatus_unitsApplied : RF := ⟨.grvParityStatus, 44, 28⟩
def rf_grvParityStatus_rebuilding : RF := ⟨.grvParityStatus, 6, 6⟩
def rf_grvParityStatus_reversing : RF := ⟨.grvParityStatus, 5, 5⟩
def rf_grvParityStatus_applying : RF := ⟨.grvParityStatus, 4, 4⟩
def rf_grvParityStatus_held : RF := ⟨.grvParityStatus, 3, 3⟩
def rf_grvParityStatus_sending : RF := ⟨.grvParityStatus, 2, 2⟩
def rf_grvParityStatus_protected : RF := ⟨.grvParityStatus, 1, 1⟩
def rf_grvCount_count : RF := ⟨.grvCount, 63, 0⟩
def rf_tapStatus_tempC : RF := ⟨.tapStatus, 63, 56⟩
def rf_tapStatus_diesLost : RF := ⟨.tapStatus, 55, 48⟩
def rf_tapStatus_sparesMin : RF := ⟨.tapStatus, 31, 16⟩
def rf_tapStatus_belowFloor : RF := ⟨.tapStatus, 4, 4⟩
def rf_tapStatus_rebuilding : RF := ⟨.tapStatus, 3, 3⟩
def rf_tapStatus_readOnly : RF := ⟨.tapStatus, 2, 2⟩
def rf_tapStatus_scanPending : RF := ⟨.tapStatus, 1, 1⟩
def rf_tapStatus_ready : RF := ⟨.tapStatus, 0, 0⟩
def rf_tapCtl_scrubPeriodH : RF := ⟨.tapCtl, 31, 24⟩
def rf_tapCtl_refreshAgeD : RF := ⟨.tapCtl, 23, 16⟩
def rf_tapCtl_scrubEnable : RF := ⟨.tapCtl, 0, 0⟩
def rf_tapEndurance_peMax : RF := ⟨.tapEndurance, 63, 48⟩
def rf_tapEndurance_peMean : RF := ⟨.tapEndurance, 47, 32⟩
def rf_tapEndurance_peFloor : RF := ⟨.tapEndurance, 31, 16⟩
def rf_tapEndurance_peBudget : RF := ⟨.tapEndurance, 15, 0⟩
def rf_tapAllowance_balanceGb : RF := ⟨.tapAllowance, 63, 32⟩
def rf_tapAllowance_dailyGb : RF := ⟨.tapAllowance, 31, 16⟩
def rf_tapAllowance_waiting : RF := ⟨.tapAllowance, 0, 0⟩
def rf_tapNs_count : RF := ⟨.tapNs, 63, 32⟩
def rf_tapNs_first : RF := ⟨.tapNs, 31, 0⟩
def rf_tapSwap_count : RF := ⟨.tapSwap, 63, 32⟩
def rf_tapSwap_first : RF := ⟨.tapSwap, 31, 0⟩
def rf_tapShape_weight : RF := ⟨.tapShape, 15, 8⟩
def rf_tapShape_capGbs : RF := ⟨.tapShape, 7, 0⟩
def rf_tapCount_count : RF := ⟨.tapCount, 63, 0⟩
def rf_pwrModuleState_requested : RF := ⟨.pwrModuleState, 1, 0⟩
def rf_pwrModuleStatus_inputDv : RF := ⟨.pwrModuleStatus, 63, 48⟩
def rf_pwrModuleStatus_inputW : RF := ⟨.pwrModuleStatus, 47, 32⟩
def rf_pwrModuleStatus_cmdError : RF := ⟨.pwrModuleStatus, 8, 8⟩
def rf_pwrModuleStatus_capActive : RF := ⟨.pwrModuleStatus, 7, 7⟩
def rf_pwrModuleStatus_windowActive : RF := ⟨.pwrModuleStatus, 6, 6⟩
def rf_pwrModuleStatus_thermalActive : RF := ⟨.pwrModuleStatus, 5, 5⟩
def rf_pwrModuleStatus_transition : RF := ⟨.pwrModuleStatus, 4, 4⟩
def rf_pwrModuleStatus_state : RF := ⟨.pwrModuleStatus, 1, 0⟩
def rf_pwrDomainCtl_entryTimeoutUs : RF := ⟨.pwrDomainCtl, 47, 32⟩
def rf_pwrDomainCtl_abortEnable : RF := ⟨.pwrDomainCtl, 9, 9⟩
def rf_pwrDomainCtl_wakeOnAccess : RF := ⟨.pwrDomainCtl, 8, 8⟩
def rf_pwrDomainCtl_requested : RF := ⟨.pwrDomainCtl, 1, 0⟩
def rf_pwrDomainStatus_phase : RF := ⟨.pwrDomainStatus, 15, 12⟩
def rf_pwrDomainStatus_lastAbort : RF := ⟨.pwrDomainStatus, 10, 8⟩
def rf_pwrDomainStatus_entryError : RF := ⟨.pwrDomainStatus, 5, 5⟩
def rf_pwrDomainStatus_cmdError : RF := ⟨.pwrDomainStatus, 4, 4⟩
def rf_pwrDomainStatus_state : RF := ⟨.pwrDomainStatus, 1, 0⟩
def rf_pwrAvsStatus_voutMv0 : RF := ⟨.pwrAvsStatus, 15, 4⟩
def rf_pwrAvsStatus_voutMv1 : RF := ⟨.pwrAvsStatus, 31, 20⟩
def rf_pwrAvsStatus_voutMv2 : RF := ⟨.pwrAvsStatus, 47, 36⟩
def rf_pwrAvsStatus_voutMv3 : RF := ⟨.pwrAvsStatus, 63, 52⟩
def rf_pwrAvsStatus_pending0 : RF := ⟨.pwrAvsStatus, 3, 3⟩
def rf_pwrAvsStatus_pending1 : RF := ⟨.pwrAvsStatus, 19, 19⟩
def rf_pwrAvsStatus_pending2 : RF := ⟨.pwrAvsStatus, 35, 35⟩
def rf_pwrAvsStatus_pending3 : RF := ⟨.pwrAvsStatus, 51, 51⟩
def rf_pwrAvsStatus_failed0 : RF := ⟨.pwrAvsStatus, 2, 2⟩
def rf_pwrAvsStatus_failed1 : RF := ⟨.pwrAvsStatus, 18, 18⟩
def rf_pwrAvsStatus_failed2 : RF := ⟨.pwrAvsStatus, 34, 34⟩
def rf_pwrAvsStatus_failed3 : RF := ⟨.pwrAvsStatus, 50, 50⟩
def rf_pwrAvsStatus_retries0 : RF := ⟨.pwrAvsStatus, 1, 0⟩
def rf_pwrAvsStatus_retries1 : RF := ⟨.pwrAvsStatus, 17, 16⟩
def rf_pwrAvsStatus_retries2 : RF := ⟨.pwrAvsStatus, 33, 32⟩
def rf_pwrAvsStatus_retries3 : RF := ⟨.pwrAvsStatus, 49, 48⟩
def rf_pwrLimit_capW : RF := ⟨.pwrLimit, 15, 0⟩
def rf_pwrVwindow_vmaxMv : RF := ⟨.pwrVwindow, 31, 16⟩
def rf_pwrVwindow_vminMv : RF := ⟨.pwrVwindow, 15, 0⟩
def rf_pwrDieTarget_targetMhz : RF := ⟨.pwrDieTarget, 15, 0⟩
def rf_pwrCount_count : RF := ⟨.pwrCount, 63, 0⟩
def rf_clkDieStatus_pllLock : RF := ⟨.clkDieStatus, 17, 17⟩
def rf_clkDieStatus_changing : RF := ⟨.clkDieStatus, 16, 16⟩
def rf_clkDieStatus_freqMhz : RF := ⟨.clkDieStatus, 15, 0⟩
def rf_clkPllStatus_mgmt : RF := ⟨.clkPllStatus, 38, 38⟩
def rf_clkPllStatus_taproot : RF := ⟨.clkPllStatus, 37, 37⟩
def rf_clkPllStatus_port : RF := ⟨.clkPllStatus, 36, 21⟩
def rf_clkPllStatus_hbm : RF := ⟨.clkPllStatus, 20, 9⟩
def rf_clkPllStatus_hub : RF := ⟨.clkPllStatus, 8, 8⟩
def rf_clkPllStatus_network : RF := ⟨.clkPllStatus, 7, 4⟩
def rf_clkPllStatus_core : RF := ⟨.clkPllStatus, 3, 0⟩
def rf_ageCtl_planPeriodH : RF := ⟨.ageCtl, 15, 8⟩
def rf_ageCtl_replan : RF := ⟨.ageCtl, 0, 0⟩
def rf_ageStatus_runHours : RF := ⟨.ageStatus, 63, 32⟩
def rf_ageStatus_planSeq : RF := ⟨.ageStatus, 31, 16⟩
def rf_ageStatus_deficit : RF := ⟨.ageStatus, 1, 1⟩
def rf_ageStatus_planning : RF := ⟨.ageStatus, 0, 0⟩
def rf_ageDieMargin_critMv : RF := ⟨.ageDieMargin, 63, 48⟩
def rf_ageDieMargin_sramMv : RF := ⟨.ageDieMargin, 47, 32⟩
def rf_ageDieMargin_maxMhz : RF := ⟨.ageDieMargin, 31, 16⟩
def rf_ageDieMargin_cycles : RF := ⟨.ageDieMargin, 15, 0⟩
def rf_ageTestCmd_test : RF := ⟨.ageTestCmd, 63, 56⟩
def rf_ageTestCmd_drain : RF := ⟨.ageTestCmd, 48, 48⟩
def rf_ageTestCmd_target : RF := ⟨.ageTestCmd, 47, 32⟩
def rf_ageTestCmd_timeoutMs : RF := ⟨.ageTestCmd, 31, 0⟩
def rf_ageTestStatus_lastTest : RF := ⟨.ageTestStatus, 15, 8⟩
def rf_ageTestStatus_lastFailed : RF := ⟨.ageTestStatus, 3, 3⟩
def rf_ageTestStatus_refused : RF := ⟨.ageTestStatus, 2, 2⟩
def rf_ageTestStatus_running : RF := ⟨.ageTestStatus, 1, 1⟩
def rf_ageTestStatus_queued : RF := ⟨.ageTestStatus, 0, 0⟩
def rf_ageCount_count : RF := ⟨.ageCount, 63, 0⟩
def rf_truChCtl_length : RF := ⟨.truChCtl, 29, 16⟩
def rf_truChCtl_code : RF := ⟨.truChCtl, 7, 0⟩
def rf_truChStatus_respLength : RF := ⟨.truChStatus, 45, 32⟩
def rf_truChStatus_result : RF := ⟨.truChStatus, 15, 8⟩
def rf_truChStatus_done : RF := ⟨.truChStatus, 1, 1⟩
def rf_truChStatus_busy : RF := ⟨.truChStatus, 0, 0⟩
def rf_truWdog_restarts : RF := ⟨.truWdog, 17, 16⟩
def rf_truWdog_kick : RF := ⟨.truWdog, 0, 0⟩
def rf_truBootStatus_heartwoodFuse : RF := ⟨.truBootStatus, 63, 57⟩
def rf_truBootStatus_sapwoodFuse : RF := ⟨.truBootStatus, 56, 50⟩
def rf_truBootStatus_profileFuse : RF := ⟨.truBootStatus, 49, 44⟩
def rf_truBootStatus_ownerSlot : RF := ⟨.truBootStatus, 43, 42⟩
def rf_truBootStatus_ownerValid : RF := ⟨.truBootStatus, 41, 41⟩
def rf_truBootStatus_debugUnlocked : RF := ⟨.truBootStatus, 40, 40⟩
def rf_truBootStatus_inert : RF := ⟨.truBootStatus, 15, 15⟩
def rf_truBootStatus_sapwoodPending : RF := ⟨.truBootStatus, 14, 14⟩
def rf_truBootStatus_heartwoodPending : RF := ⟨.truBootStatus, 13, 13⟩
def rf_truBootStatus_sapwoodSlot : RF := ⟨.truBootStatus, 12, 12⟩
def rf_truBootStatus_heartwoodSlot : RF := ⟨.truBootStatus, 11, 11⟩
def rf_truBootStatus_cause : RF := ⟨.truBootStatus, 7, 4⟩
def rf_truBootStatus_stage : RF := ⟨.truBootStatus, 3, 0⟩
def rf_glbId_enterprise : RF := ⟨.glbId, 63, 32⟩
def rf_glbId_part : RF := ⟨.glbId, 31, 16⟩
def rf_glbId_stepping : RF := ⟨.glbId, 15, 8⟩
def rf_glbStatus_partitionsReady : RF := ⟨.glbStatus, 47, 32⟩
def rf_glbStatus_fatal : RF := ⟨.glbStatus, 7, 7⟩
def rf_glbStatus_alert : RF := ⟨.glbStatus, 6, 6⟩
def rf_glbStatus_sapwoodRestarting : RF := ⟨.glbStatus, 5, 5⟩
def rf_glbStatus_sapwoodFailed : RF := ⟨.glbStatus, 4, 4⟩
def rf_glbStatus_warm : RF := ⟨.glbStatus, 3, 3⟩
def rf_glbStatus_inert : RF := ⟨.glbStatus, 2, 2⟩
def rf_glbStatus_romRecovery : RF := ⟨.glbStatus, 1, 1⟩
def rf_glbStatus_ready : RF := ⟨.glbStatus, 0, 0⟩
def rf_glbProfile_svn : RF := ⟨.glbProfile, 37, 32⟩
def rf_glbProfile_interleave : RF := ⟨.glbProfile, 24, 24⟩
def rf_glbProfile_layout : RF := ⟨.glbProfile, 23, 16⟩
def rf_glbProfile_fromNext : RF := ⟨.glbProfile, 8, 8⟩
def rf_glbProfile_debugPolicy : RF := ⟨.glbProfile, 7, 6⟩
def rf_glbProfile_pins : RF := ⟨.glbProfile, 5, 4⟩
def rf_glbProfile_role : RF := ⟨.glbProfile, 3, 2⟩
def rf_glbProfile_slot : RF := ⟨.glbProfile, 1, 0⟩
def rf_glbProfileNext_valid : RF := ⟨.glbProfileNext, 2, 2⟩
def rf_glbProfileNext_slot : RF := ⟨.glbProfileNext, 1, 0⟩
def rf_glbRestart_key : RF := ⟨.glbRestart, 15, 0⟩
def rf_glbLocalTick_tick : RF := ⟨.glbLocalTick, 63, 0⟩
def rf_glbCaps_hbmStacks : RF := ⟨.glbCaps, 55, 48⟩
def rf_glbCaps_hbmGib : RF := ⟨.glbCaps, 47, 32⟩
def rf_glbCaps_partitionsMax : RF := ⟨.glbCaps, 31, 24⟩
def rf_glbCaps_clusters : RF := ⟨.glbCaps, 23, 16⟩
def rf_glbCaps_cores : RF := ⟨.glbCaps, 15, 8⟩
def rf_glbCaps_contractLevel : RF := ⟨.glbCaps, 7, 0⟩
def rf_glbAdminCtl_sidebandRegs : RF := ⟨.glbAdminCtl, 1, 1⟩
def rf_glbAdminCtl_sessionRequired : RF := ⟨.glbAdminCtl, 0, 0⟩
def rf_evtHostCtl_pushPort : RF := ⟨.evtHostCtl, 21, 20⟩
def rf_evtHostCtl_pushEnable : RF := ⟨.evtHostCtl, 19, 19⟩
def rf_evtHostCtl_pushMinSeverity : RF := ⟨.evtHostCtl, 18, 16⟩
def rf_evtHostCtl_alertMinSeverity : RF := ⟨.evtHostCtl, 10, 8⟩
def rf_evtHostCtl_sapwoodOwnsMq : RF := ⟨.evtHostCtl, 1, 1⟩
def rf_evtMqPtr_lost : RF := ⟨.evtMqPtr, 63, 32⟩
def rf_evtMqPtr_tail : RF := ⟨.evtMqPtr, 28, 16⟩
def rf_evtMqPtr_head : RF := ⟨.evtMqPtr, 12, 0⟩
def rf_evtAlert_alerting : RF := ⟨.evtAlert, 35, 35⟩
def rf_evtAlert_maxSeverity : RF := ⟨.evtAlert, 34, 32⟩
def rf_evtAlert_oldestSeq : RF := ⟨.evtAlert, 31, 0⟩
def rf_evtArchStatus_newest : RF := ⟨.evtArchStatus, 63, 32⟩
def rf_evtArchStatus_oldest : RF := ⟨.evtArchStatus, 31, 0⟩
def rf_evtArchRead_busy : RF := ⟨.evtArchRead, 32, 32⟩
def rf_evtArchRead_first : RF := ⟨.evtArchRead, 31, 0⟩
def rf_evtPqBase_base : RF := ⟨.evtPqBase, 47, 12⟩
def rf_evtPqBase_log2Size : RF := ⟨.evtPqBase, 4, 0⟩
def rf_evtPqPtr_lost : RF := ⟨.evtPqPtr, 63, 48⟩
def rf_evtPqPtr_tail : RF := ⟨.evtPqPtr, 40, 24⟩
def rf_evtPqPtr_head : RF := ⟨.evtPqPtr, 16, 0⟩
def rf_evtCount_count : RF := ⟨.evtCount, 63, 0⟩

end Sys2Proof.Machine
end

