-- ==== Sys2Proof/Machine/State.lean ====
section
/-! DEFINITION. The state of the module: everything the spec gives it, as plain data (INVENTORY.md lists it), the
reasons a command can stop, and the state after reset. -/
namespace Sys2Proof.Machine

/-- Why the machine stops with a fault. No command of this block does: every error the spec describes is answered by
a status, an answer code or an event, which is an effect on State. -/
inductive Fault where
deriving DecidableEq, Repr

/-- Why a command has no meaning. -/
inductive Refusal where
  /-- The command has no meaning in this model yet; safe. -/
  | notModelled (mnemonic : String)
deriving DecidableEq, Repr

/-- A register of the control window by name and indices (R3). -/
structure RegKey where
  reg : RegName
  i : Nat
  j : Nat
deriving DecidableEq, Repr

/-- A fetched descriptor that has not issued (R111). -/
structure Fetched where
  n : Nat
  /-- The 128 bytes read from the ring. -/
  bytes : List Byte
  /-- Tick since which a deferrable descriptor has been ready (R113). -/
  ready : Option Nat
  /-- Its deferral has ended: it issues at normal priority (R113). -/
  expired : Bool
  /-- How far beyond it a descriptor that passed it lies (R113). -/
  far : Nat
  /-- The descriptors of the core, as (stream, number), that had issued and not completed when it was fetched: what
  SYN.FENCE of scope 1 waits for (R124). -/
  before : List (Nat × Nat)
deriving DecidableEq, Repr

/-- Where an issued descriptor stands (R112, R344). -/
inductive Phase where
  /-- Its effect is complete; it awaits DESCRIPTOR_COMPLETE. -/
  | done
  /-- It stands between two units of its work, and goes on as time passes; `point` is whether it stands at a pre-emption
  point (R347). -/
  | running (point : Bool)
  /-- It waits for a condition of its own (tokens, buckets, a background turn, a verdict). -/
  | awaiting
  /-- Queued at or running on a solver unit (R183). -/
  | solver
  /-- Waiting at the fault of this fault_id (R344). -/
  | fault (id : Nat)
  /-- Waiting for room in a tap queue (R65). -/
  | tap
  /-- Waiting for the answer to a remote request. -/
  | remote (req : Nat)
  /-- Held at the boundary of a sleeping domain (R494). -/
  | held (domain : Nat)
deriving DecidableEq, Repr

/-- What a narrowing conversion has gathered for the scale-table entry that its destination names; it is merged into the entry
when the descriptor completes (R40, R94). -/
structure Capture where
  idx : Nat
  /-- FP32 bits of the scale_next with which the data were written, which scale_stored takes; none where it stays. -/
  stored : Option Nat
  /-- FP32 bits of the largest finite magnitude of the source values written. -/
  amax : Nat
  nonfinite : Bool
  saturated : Bool
deriving DecidableEq, Repr

/-- An issued descriptor that has not completed (R112). -/
structure Flight where
  core : Nat
  stream : Nat
  n : Nat
  bytes : List Byte
  startTick : Nat
  /-- The partition's step epoch at issue. -/
  epoch : Nat
  phase : Phase
  /-- Status so far, the highest-ranked of R129. -/
  status : Nat
  flags : Nat
  event : Nat
  detail : Nat
  /-- The recorded point: units of its operation that are complete (R345). -/
  point : Nat
  /-- What its operation resolved once at issue or counts as it goes, by the opcode's chapter. -/
  aux : List Nat
  /-- Bytes that arrived for remote reads of the unit in progress: (virtual address, bytes). -/
  rx : List (Nat × List Byte)
  /-- Remote writes of the unit in progress that were acknowledged: virtual addresses. -/
  acks : List Nat
  /-- What it merges into scale-table entries when it completes (R40, R94). -/
  scales : List Capture
  /-- Source rows that a destination of another layout overwrites, read before the first row is written (R84): operand, row and
  element codes. -/
  staged : List (Nat × Nat × List Nat)
  /-- Its work is over, and it makes the accesses with which it completes (R94, R136). -/
  tail : Bool
deriving DecidableEq, Repr

/-- A request of a descriptor that its target has not answered (R265, R298, R405). -/
structure Request where
  id : Nat
  p : Nat
  core : Nat
  stream : Nat
  n : Nat
  /-- The message that is sent again until it is answered; none where the descriptor only waits to send (R264). -/
  msg : Option Msg
  /-- Tick at which it was last sent. -/
  sent : Nat
  /-- Tick before which it is not sent again, after NOT_OPEN, NOT_READY or an early OUT_OF_ORDER (R264). -/
  waitFrom : Option Nat
  /-- Times it was sent again. -/
  resends : Nat
  /-- What the answer is for, by the operation's chapter. -/
  aux : List Nat
deriving DecidableEq, Repr

/-- What follows once a fault's record is written, where no descriptor waits for that: a stream stops with a record of the
descriptor it could not fetch, or because it could not write a completion record (R128, R345); a unit's event. -/
inductive Owed where
  | fetch (core stream n : Nat)
  | completion (core stream : Nat)
  | unit (kind index : Nat)
deriving DecidableEq, Repr

/-- A waiting translation fault or one whose record waits for room in the queue (R343, R344). -/
structure XFault where
  id : Nat
  va : Nat
  cause : Nat
  tick : Nat
  /-- The fault waits under R344, and sapwood has not resolved it. -/
  waits : Bool
  /-- The record has been written, or was lost (R343). -/
  written : Bool
  /-- Index of its record in the queue, none where the record was lost. -/
  index : Option Nat
  /-- Requesters that wait under R344: core, stream, number. -/
  joined : List (Nat × Nat × Nat)
  /-- Requesters that do not wait and complete FAULT once the record is written. -/
  fails : List (Nat × Nat × Nat)
  /-- What else follows the record. -/
  owed : List Owed
  /-- The 32 bytes of its record. -/
  record : List Byte
deriving DecidableEq, Repr

/-- A translation held by a translation cache (R341). -/
structure XEntry where
  /-- The cache: requester kind class and unit. -/
  cache : Nat
  base : Nat
  log2 : Nat
  pte : Nat
  pteAddr : Nat
  dirtied : Bool
deriving DecidableEq, Repr

/-- What a partition knows of an epoch after its verdict (R12, R261). -/
structure EpochRec where
  epoch : Nat
  /-- 0 COMMIT, 1 SKIP, 2 REPEAT. -/
  verdict : Nat
  /-- COMMIT, SETTLED, or a rollback was received. -/
  committed : Bool
  settled : Bool
  rolledBack : Bool
deriving DecidableEq, Repr

/-- A bucket as the bucket unit knows it (R258, R261, R581). -/
structure Bkt where
  n : Nat
  epoch : Nat
  /-- 1 OPEN, 2 COMPLETE, 3 CLOSED. -/
  state : Nat
  /-- It has been COMPLETE in this epoch. -/
  completed : Bool
  /-- Failed for its epoch (R581). -/
  failed : Bool
  poisoned : Bool
  /-- First line and number of lines. -/
  lines : Nat
  count : Nat
  /-- 0x5004 and 0x5006 have been raised in this epoch (R294). -/
  lateEvt : Bool
  dupEvt : Bool
deriving DecidableEq, Repr

/-- A line that the bucket unit has accepted and an adder has not added (R254, R263). -/
structure LineAdd where
  bucket : Nat
  epoch : Nat
  contributor : Nat
  line : Nat
  gf : Bool
  fmt : Nat
  dfmt : Nat
  coef : Nat
  data : List Byte
  pa : Nat
deriving DecidableEq, Repr

/-- A source of a parity transfer: a unit of 1,600 KiB (R437 to R448). -/
inductive USrc where
  /-- The delta of a chunk: its image and its undo slot. -/
  | delta (k : Nat)
  /-- The image of a chunk. -/
  | image (k : Nat)
  | parity (u : Nat)
  /-- Lines at a virtual address. -/
  | lines (va : Nat)
deriving DecidableEq, Repr

/-- A transfer of the parity engine: units sent as the lines of one bucket (R441, R448). -/
structure Xfer where
  id : Nat
  /-- It is a step of a rebuild chain. -/
  chain : Bool
  /-- Its index in its series: of the deltas of an epoch, or of the pieces of a rebuild. -/
  idx : Nat
  dst : Addr
  epoch : Nat
  bucket : Nat
  who : Nat
  coef : Nat
  src : List USrc
  /-- The lowest unacknowledged line. -/
  next : Nat
deriving DecidableEq, Repr

/-- A chained rebuild in progress (R448): recovery epoch, lost positions with the spares that take them, and the pieces of
the columns that this partition has opened and finished. -/
structure Rebuild where
  r : Nat
  lost : List (Nat × Addr)
  opened : Nat
  finished : List Nat
deriving DecidableEq, Repr

/-- The parity engine's work for a partition (R441 to R448). -/
structure ParX where
  nextId : Nat
  xfers : List Xfer
  /-- Bucket epoch of the deltas being sent, and whether they come from an all-zero undo (R443). -/
  sendEpoch : Nat
  encode : Option Nat
  /-- Bucket epoch of the last delta applied, and of the one held until its settled point. -/
  applied : Option Nat
  held : Option Nat
  rebuild : Option Rebuild
  /-- A re-shard whose RESHARD_DONE waits (R450): its epoch, and whether a permutation and an encode are still to come. -/
  reshard : Option (Nat × Bool × Bool)
deriving DecidableEq, Repr

def ParX.reset : ParX := ⟨0, [], 0, none, none, none, none, none⟩

/-- An entry of the expert table (R299). -/
structure Expert where
  owner : Nat
  cap : Nat
  inVa : Nat
  outVa : Nat
deriving DecidableEq, Repr

/-- An exchange as a member's workspace holds it (R300 to R304): the mode-0 descriptor that initialised it, the members by
position, and what has arrived. -/
structure Exch where
  id : Nat
  epoch : Nat
  core : Nat
  stream : Nat
  n : Nat
  bytes : List Byte
  /-- Rank and place of each member, in the order of positions; this member's index. -/
  members : List (Nat × Addr)
  me : Nat
  experts : List Expert
  /-- Expert ids of the tokens' choices. -/
  routes : List Nat
  /-- As owner: (expert, member, count), and each member's return tensor with the rows of its x. -/
  counts : List (Nat × Nat × Nat)
  dests : List (Nat × List Byte × Nat)
  /-- As member: (expert, offset, grant). -/
  grants : List (Nat × Nat × Nat)
  finished : List Nat
  returned : List Nat
  /-- The mode-1 descriptor has issued. -/
  combining : Bool
deriving DecidableEq, Repr

/-- A move of a permutation (R318), with its peer resolved (R297). -/
structure Move where
  peer : Addr
  round : Nat
  src : Nat
  dst : Nat
deriving DecidableEq, Repr

/-- A permutation (R318 to R321): its descriptor, its moves, and the parts of incoming moves accepted so far, as (move,
part). -/
structure Perm where
  bytes : List Byte
  outs : List Move
  ins : List Move
  parts : List (Nat × Nat)
deriving DecidableEq, Repr

/-- A row of a tap queue that holds a token (R149). -/
structure TapRow where
  token : Nat
  /-- The batch, 0 or 1, and the row within it. -/
  half : Nat
  idx : Nat
  /-- Elements that have arrived. -/
  count : Nat
deriving DecidableEq, Repr

/-- A batch that the Gram unit is accumulating (R150, R153): its rows as (batch, row), the block and the tile within it that come
next, whether it is the first of its epoch into the block's sum, and the block's dmax as FP64 bits and nonfinite so far. -/
structure GramJob where
  rows : List (Nat × Nat)
  block : Nat
  tile : Nat
  first : Bool
  dmax : Nat
  bad : Bool
deriving DecidableEq, Repr

/-- A tap configuration slot (R144 to R150, R170). -/
structure TapSlot where
  log2s : Nat
  rotate : Bool
  prescaleMode : Nat
  phase : Nat
  d : Nat
  b : Nat
  src : Nat
  buf : Nat
  log2m : Nat
  /-- FP32 bits of prescale. -/
  prescale : Nat
  queue : Nat
  gram0 : Nat
  gram1 : Nat
  /-- The core that issued the slot's CRV.TAP_CFG. -/
  core : Nat
  /-- The epoch of the allocated rows. -/
  epoch : Nat
  /-- The batch that is filling. -/
  fill : Nat
  /-- Allocated rows, oldest first. -/
  rows : List TapRow
  /-- The batch of the slot that is being accumulated. -/
  job : Option GramJob
deriving DecidableEq, Repr

/-- A core's accumulator planes (R53 to R58); which plane is live, and the holder, are in COR_LAT_STATUS. -/
structure Lattice where
  /-- FP32 values of the cells that were written, by row·128 + lane. -/
  p0 : SMap (Option Nat)
  p1 : SMap (Option Nat)
  /-- Where the other cells hold undefined contents (R59), the first of their free values; otherwise they hold 0. -/
  free0 : Option Nat
  free1 : Option Nat
  /-- Footprints: row set and lane set of each plane. -/
  rows0 : Nat
  lanes0 : Nat
  rows1 : Nat
  lanes1 : Nat
  /-- The holder took its hold by acquire; otherwise the hold ends with its descriptor (R58). -/
  acquired : Bool
  /-- Background operations bound and not completed: stream and number, oldest first (R54). -/
  bound : List (Nat × Nat)
deriving DecidableEq, Repr

/-- What a partition's save area holds and resumption puts back (R351): registers of its cores and clusters, planes with their
footprints, tile buffers, tap slots, and the live bytes of the stores. -/
structure Saved where
  regs : List (RegKey × Word)
  lattices : List (Nat × Lattice)
  tiles : List (Nat × Byte)
  taps : List (Nat × Option TapSlot)
  cells : List (Nat × Byte)
deriving DecidableEq, Repr

/-- What the spec gives a partition beyond its registers. -/
structure Part where
  /-- Waiting faults and the next fault_id (R343). -/
  faults : List XFault
  nextFault : Nat
  /-- The caches' entries (R341). -/
  xcache : List XEntry
  /-- Last tick at which 0x2008 was raised, per structure (R580). -/
  tableEvt : SMap Nat
  /-- Disable requests that wait for the end of a pre-emption (R133). -/
  deferred : List Func
  /-- Scale-table entries that a conversion touched in the current epoch (R42). -/
  touched : List Nat
  /-- The loss scale's exponent in force for recent epochs, newest first (R146, R244). -/
  lossScale : List (Nat × Int)
  /-- Past epochs, newest first. -/
  hist : List EpochRec
  /-- Layers whose publishes are held, and the slots with a held publish, as (layer, slot) (R11). -/
  held : List Nat
  heldPubs : List (Nat × Nat)
  /-- Scale entries that raised 0x1001 since the epoch began (R244). -/
  saturated : Nat
  /-- The job number that the manager gave (R275). -/
  job : Nat
  /-- Buckets opened, and accepted lines that await an adder, oldest first. -/
  bkts : List Bkt
  adds : List LineAdd
  /-- Verdicts received while the partition was not running, oldest first (R350). -/
  verdicts : List Frame
  par : ParX
  /-- Exchanges, and the last permutation. -/
  exch : List Exch
  perm : Option Perm
  /-- An invalidation in progress: range base and log2 of its size (R342). -/
  inval : Option (Nat × Nat)
  /-- A pre-emption request waits for drains to end (R133). -/
  preemptAsked : Bool
  /-- The states of the partition's streams that the save holds, as (core, stream, state), and the header's bytes, which are
  free values (R351). -/
  savedStreams : List (Nat × Nat × Nat)
  savedHeader : List Byte
  /-- The items of the save (R351). -/
  saved : Option Saved
  /-- Channels of which a block is being received: data have been accepted, and its commit has not (R313, R328). -/
  ringOpen : List Nat
deriving DecidableEq, Repr

def Part.reset : Part := ⟨[], 1, [], [], [], [], [], [], [], [], 0, 0, [], [], [], .reset, [], none, none, false, [], [], none, []⟩

/-- A record of the module queue, archive and partition queues (R555). -/
structure EvRec where
  code : Nat
  sev : Nat
  part : Option Nat
  seq : Nat
  tick : Nat
  kind : Nat
  index : Nat
  tag : Nat
  aux : Nat
  detail : Nat
  lost : Bool
deriving DecidableEq, Repr

/-- Event queues (R555 to R560). -/
structure EvtX where
  /-- The module queue's slots by n mod 4,096 (R557). -/
  mq : SMap (Option EvRec)
  /-- The next record written to the module queue carries lost. -/
  mqLost : Bool
  /-- Records not yet archived, oldest first. -/
  toArchive : List EvRec
  /-- Archived records, oldest first. -/
  archive : List EvRec
  /-- Next sequence number. -/
  seq : Nat
  /-- Records that await a push (R560). -/
  toPush : List EvRec
  /-- The archive window (R559) and the sequence its fill started from. -/
  archWin : List Byte
  archFirst : Nat
  /-- Partition queues whose next record carries lost. -/
  pqLost : List Nat
deriving DecidableEq, Repr

def EvtX.reset : EvtX := ⟨[], false, [], [], 0, [], [], 0, []⟩

/-- What a stack's regulators and sensor hold beyond registers (R373, R374, R377, R378). -/
structure StackX where
  /-- Tick since which the sensor has read at most temp_lower_c, and at least 5 °C below temp_limit_c. -/
  coolSince : Option Nat
  freeSince : Option Nat
  /-- Tick of the last microsecond counted as throttled. -/
  throttleTick : Nat
  /-- Minimum and cap buckets in bytes, by class: partitions 0 to 15, class 16 the system class. -/
  minBucket : SMap Nat
  capBucket : SMap Nat
  /-- By pseudo-channel: the class that the round-robin served last, the class that the weighted round-robin is at, the row
  served last, and whether the next slot stays empty while the stack is throttled (R374, R378). -/
  lastMin : SMap Nat
  lastCap : SMap Nat
  lastRow : SMap (Option Nat)
  skip : SMap Bool
  /-- Deficits of the weighted round-robin, by pseudo-channel · 17 + class. -/
  deficit : SMap Nat
  /-- Accesses served, oldest first: pseudo-channel, class and address. -/
  served : List (Nat × Nat × Nat)
  /-- Tick of the last refresh. -/
  refreshTick : Nat
deriving DecidableEq, Repr

def StackX.reset : StackX := ⟨none, none, 0, [], [], [], [], [], [], [], [], 0⟩

/-- A domain beyond its registers (R486, R491, R494, R495). -/
structure DomX where
  /-- A wake event has arrived and has not been acted on. -/
  wake : Bool
  /-- Tick at which DRAINING began. -/
  drainTick : Nat
  /-- The state held before the module state moved it (R486), and the state to enter once it has woken. -/
  prior : Option Nat
  next : Option Nat
  /-- Tick at which an access was first held, none where no access is. -/
  heldSince : Option Nat
  /-- Accesses refused since 0x8005 was last raised, and the tick it was raised. -/
  asleepCount : Nat
  asleepTick : Option Nat
  /-- Register writes held until the domain is ready: agent, register and value, oldest first (R494). -/
  heldWrites : List (Agent × RegKey × Word)
deriving DecidableEq, Repr

def DomX.reset : DomX := ⟨false, 0, none, none, none, 0, none, []⟩

def Lattice.reset : Lattice := ⟨[], [], none, none, 0, 0, 0, 0, false, []⟩

/-- The HBM system beyond registers. -/
structure HbmX where
  /-- Bad symbols of a line's codeword, by line number (physical address / 128). -/
  lineErr : SMap Nat
  /-- Corrections of a row within the scrub period, by row number (R369, R372). -/
  rowCnt : SMap Nat
  /-- Rows that raised 0x3003 (once for each row), awaiting a soft repair. -/
  cand : List Nat
  /-- Rows under a soft repair in force, and rows hard-repaired. -/
  soft : List Nat
  hard : List Nat
  stackXs : SMap StackX
  /-- Tick at which the scrub period began, and its length in hours. -/
  scrubStart : Nat
  scrubHours : Nat
  /-- Tick of the last refill of the regulators' buckets. -/
  refillTick : Nat
  /-- The row of a hard repair in progress. -/
  repairing : Option Nat
deriving DecidableEq, Repr

def HbmX.reset : HbmX := ⟨[], [], [], [], [], [], 0, 24, 0, none⟩

/-- A ledger entry (R510). -/
structure LedgerEntry where
  seq : Nat
  hours : Nat
  powerUps : Nat
  type : Nat
  unit : Nat
  body : List Byte
deriving DecidableEq, Repr

/-- An erase block of the taproot (R461, R470 to R473). -/
structure FBlock where
  /-- Program-erase count. -/
  pe : Nat
  /-- Retention age in 2^-32 s at 40 °C. -/
  age : Nat
  /-- Reads since its last erase, and pages programmed since. -/
  reads : Nat
  pages : Nat
  retired : Bool
deriving DecidableEq, Repr

def FBlock.reset : FBlock := ⟨0, 0, 0, 0, false⟩

/-- Where a sector's content lies: block (die · 4,160 + index), stripe, and the dies of its set that were lost when the stripe
was written (R462, R468). -/
structure Placed where
  block : Nat
  stripe : Nat
  gen : Nat
deriving DecidableEq, Repr

/-- The taproot beyond its registers (R461 to R480). -/
structure FlashX where
  /-- Contents by sector · 4,096 + byte; a sector never written or trimmed reads as zeros. -/
  data : SMap Byte
  place : SMap (Option Placed)
  blocks : SMap FBlock
  /-- The block of each die that takes new pages. -/
  openBlock : SMap (Option Nat)
  stripe : Nat
  /-- Dies lost, and those whose rebuild runs. -/
  lost : List Nat
  rebuilding : List Nat
  /-- Sectors whose stripes were lost (R468). -/
  dead : List Nat
  /-- Blocks retired, as (tick, block); beyond a die's spares they take capacity. -/
  retired : List (Nat × Nat)
  peSum : Nat
  /-- The scrub pass: when it began, the blocks it has read; blocks rewritten since 0xA002, and whether the pass raised it. -/
  passStart : Nat
  scanned : List Nat
  rewritten : Nat
  passEvt : Bool
  /-- The allowance's balance in bytes times 86,400, the tick of its last gain, and the tick at which a write began to wait. -/
  balance : Int
  accrued : Nat
  waitSince : Option Nat
  /-- Tick at which ages last grew. -/
  aged : Nat
deriving DecidableEq, Repr

def FlashX.reset : FlashX := ⟨[], [], [], [], 0, [], [], [], [], 0, 0, [], 0, false, 0, 0, none, 0⟩

/-- A management message that awaits its acknowledgement (R275). -/
structure MgmtMsg where
  id : Nat
  type : Nat
  job : Nat
  epoch : Nat
  msg : Msg
  /-- Tick at which it was last sent. -/
  sent : Nat
deriving DecidableEq, Repr

/-- A broadcast that waits until the standby has acknowledged MIRROR (R444): the request_id of MIRROR, the job, and the
messages with their types and epochs. -/
structure HeldCast where
  mirror : Nat
  job : Nat
  casts : List (Nat × Nat × Msg)
deriving DecidableEq, Repr

/-- The grove as this module knows it beyond registers. -/
structure GroveX where
  /-- Jobs of this module as manager; on the standby, the jobs that MIRROR carried. -/
  jobs : List MgrJob
  peers : List Peer
  /-- Link reports by module and port: state and partner (R434). -/
  links : List (Nat × Nat × Nat × Nat)
  /-- The last detour generation sent. -/
  gen : Nat
  held : List HeldCast
  /-- An offer conflicted with this module's coordinates or size (R429). -/
  conflict : Bool
  /-- Tick of the last pulse sent. -/
  pulsed : Option Nat
deriving DecidableEq, Repr

def GroveX.reset : GroveX := ⟨[], [], [], 0, [], false, none⟩

/-- A frame queued at a fabric port (R408). -/
structure QFrame where
  /-- The header as it arrived or was injected, and as it leaves. -/
  f : Frame
  eg : Frame
  c : Cargo
  /-- The port it arrived on, none for local injection. -/
  via : Option Nat
  /-- The pool at that port whose cells it holds: a channel, or 12 for the shared pool (R401). -/
  pool : Option Nat
deriving DecidableEq, Repr

/-- A port beyond its registers (R396 to R402, R418). -/
structure PortX where
  /-- Frames queued, oldest first. -/
  txq : List QFrame
  /-- Unacknowledged frames with their sequence numbers, oldest first, and the next number. -/
  retry : List (Nat × Frame × Cargo)
  nextSeq : Nat
  /-- The next number expected. -/
  rxNext : Nat
  /-- Cells drawn from each pool of the partner's buffer, and the partner's counts of cells freed. -/
  drawn : SMap Nat
  peerFreed : SMap Nat
  /-- Cells freed here, by pool, and cells freed since the last flow frame. -/
  freed : SMap Nat
  owed : Nat
  nak : Bool
  relane : Bool
  /-- The partner's faulty lanes. -/
  peerFailed : Nat
  /-- Ticks: of entry to the link state, of the last frame received, of the last progress; resends of the oldest frame. -/
  since : Nat
  heard : Nat
  progress : Nat
  resends : Nat
  /-- It was disabled and its frames drain (R399). -/
  draining : Bool
  /-- Frames counted since 0x4004 and 0x4006 were last raised, and when. -/
  crcs : Nat
  crcTick : Option Nat
  discards : Nat
  discardTick : Option Nat
  /-- Bytes served by channel (on a host port by the two classes of PFC priorities), and of injected frames by partition; the
  input served last by channel. -/
  served : SMap Nat
  servedPart : SMap Nat
  lastIn : SMap Nat
  /-- Host ports: by priority, since when it has been paused without a break, and the last pause frame; priorities whose
  pauses the watchdog ignores; packets queued, oldest first. -/
  paused : SMap (Option Nat)
  lastPause : SMap Nat
  ignoring : List Nat
  packets : List (Option Nat × Roce)
  /-- The partner port's MAC address, all ones before a flow frame has told it (R403). -/
  mac : Nat
deriving DecidableEq, Repr

def PortX.reset : PortX :=
  ⟨[], [], 0, 0, [], [], [], 0, false, false, 0, 0, 0, 0, 0, false, 0, none, 0, none, [], [], [], [], [], [], [], 2 ^ 48 - 1⟩

/-- A queue pair in use (R416, R419). -/
structure QpX where
  conf : QpConf
  port : Nat
  /-- The error state. -/
  err : Bool
  /-- The next packet sequence numbers: to send, and expected. -/
  psn : Nat
  expected : Nat
  /-- Results of atomic operations by sequence number, for their duplicates. -/
  atomics : List (Nat × Nat)
  /-- Requests unacknowledged, with the sequence number of the last packet and the tick of the last transmission. -/
  sent : List (Roce × Nat × Nat)
  retries : Nat
  /-- Rate in bit/s, the tick of its last cut and of its last change, and the tick of the last CNP sent. -/
  rate : Nat
  cut : Option Nat
  changed : Nat
  cnpSent : Option Nat
deriving DecidableEq, Repr

/-- The fabric beyond the ports (R406 to R414). -/
structure FabX where
  ports : SMap PortX
  /-- Messages of `out` that have been taken for the fabric or the host ports, and those that wait to enter. -/
  taken : Nat
  waiting : List QFrame
  /-- Frames delivered to this module, oldest first. -/
  arrived : List (Frame × Cargo)
  /-- A value of FAB_COORD written and not in effect (R422). -/
  coordNext : Option Word
  /-- The generation under which 0x4003 was last raised. -/
  detoured : Option Nat
  /-- Token buckets in bytes by partition, and the ticks of their last refills (R414). -/
  fabricBucket : SMap Nat
  hostBucket : SMap Nat
  refilled : SMap Nat
  /-- Queue pairs by QPN. -/
  qps : SMap (Option QpX)
deriving DecidableEq, Repr

def FabX.reset : FabX := ⟨[], 0, [], [], none, none, [], [], [], []⟩

/-- A compute die's regulator and clock (R496 to R500). -/
structure DieX where
  /-- The operating point in force or being moved to: MHz and mV. -/
  goalF : Nat
  goalV : Nat
  /-- The point before the move. -/
  oldF : Nat
  oldV : Nat
  /-- Voltage commanded and not acknowledged, and when it was last sent. -/
  cmd : Option Nat
  sent : Nat
  /-- The command only returns to the old voltage after a failed raise. -/
  back : Bool
  /-- After a failed lowering: the mV that an output read must show before the old frequency returns. -/
  silent : Option Nat
  /-- Tick of the last frequency step. -/
  step : Nat
  /-- Limits in MHz: the power cap's and the thermal one. -/
  capLimit : Nat
  thermLimit : Nat
  /-- The window lowers the die; no point lies inside it. -/
  windowed : Bool
  noPoint : Bool
  /-- Hottest sensor, and the tick since which it has been 5 °C below the throttle temperature. -/
  temp : Nat
  cool : Option Nat
deriving DecidableEq, Repr

def DieX.reset : DieX := ⟨1000, 0, 1000, 0, none, 0, false, none, 0, 3000, 3000, false, false, 0, none⟩

/-- Power beyond registers. -/
structure PwrX where
  dies : SMap DieX
  /-- The average has stayed below 97% of the cap since this tick (R498). -/
  below : Option Nat
  /-- A module move: the state of R485 that its domains are to reach, and the domains not yet requested, in order (R486). -/
  goal : Nat
  todo : List Nat
deriving DecidableEq, Repr

def PwrX.reset : PwrX := ⟨[], none, 0, []⟩

/-- A test request (R516 to R522). -/
structure TestReq where
  code : Nat
  target : Nat
  drain : Bool
  timeoutMs : Nat
  /-- Tick of the request, or of the start of a running test. -/
  tick : Nat
  /-- Stream states that a drain saved, as core, stream and state, and solver units that it disabled (R519). -/
  saved : List (Nat × Nat × Nat)
  units : List Nat
deriving DecidableEq, Repr

/-- Ageing beyond registers (R509 to R522). -/
structure AgeX where
  /-- Worst critical-path mV by die · 64 + point, worst SRAM mV by die, as heartwood's monitors last read. -/
  crit : SMap Nat
  sram : SMap Nat
  /-- The plan in force: mV by die · 64 + point; none before the first. -/
  v : SMap (Option Nat)
  /-- Soft repairs planned for the next warm restart; taproot offsets and SerDes settings in force. -/
  repairs : List Nat
  offsets : List Int
  serdes : List Nat
  /-- Tick from which the planning period counts, and the tick from which run hours count. -/
  planTick : Nat
  hourTick : Nat
  /-- Lowest reading since the last thermal cycle, and cycles, by unit: dies 0 to 3, stacks 16 to 27, taproot 32. -/
  low : SMap (Option Nat)
  cycles : SMap Nat
  /-- SerDes margins by lane: eye height and width. -/
  eyes : SMap (Nat × Nat)
  /-- Tests queued, oldest first, and running. -/
  queue : List TestReq
  running : List TestReq
  /-- Tick at which a domain last held admitted work. -/
  busy : SMap Nat
  /-- Streams of cores and solver units disabled until the next cold boot (R522). -/
  dead : List Func
deriving DecidableEq, Repr

def AgeX.reset : AgeX := ⟨[], [], [], [], [], [], 0, 0, [], [], [], [], [], [], []⟩

/-- A copy of the NVM directory (R530): slots are 0 A and 1 B. -/
structure Dir where
  seq : Nat
  hwActive : Nat
  hwPending : Option Nat
  hwTries : Nat
  swActive : Nat
  swPending : Option Nat
  swTries : Nat
deriving DecidableEq, Repr

/-- An SPDM connection (R541). -/
structure SpdmX where
  version : Bool
  capable : Bool
  agreed : Bool
  /-- The session, whether its handshake is finished, and its key generation. -/
  session : Option (Nat × Bool × Nat)
deriving DecidableEq, Repr

def SpdmX.reset : SpdmX := ⟨false, false, false, none⟩

/-- Heartwood and what it keeps (R525 to R545). -/
structure TruX where
  /-- The configuration NVM but for its directory, and the directory's two copies; none where a CRC fails. -/
  nvm : SMap Byte
  dirA : Option Dir
  dirB : Option Dir
  /-- Fuses: anti-rollback counters and ownership slots. -/
  fuseHw : Nat
  fuseSw : Nat
  fuseProf : Nat
  owners : List (List Byte)
  /-- The owner's certificate chain, and the parts of a new one received so far. -/
  chain : List Byte
  chainNew : List Byte
  /-- Measured: digests and svn of the heartwood and sapwood images that run, and the digest of the profile. -/
  hwDigest : List Byte
  hwSvn : Nat
  swDigest : List Byte
  swSvn : Nat
  profDigest : List Byte
  /-- The active profile's body. -/
  profile : List Byte
  /-- The debug nonce and when it was given; the scope unlocked. -/
  nonce : Option (List Byte × Nat)
  scope : Nat
  /-- Mailbox buffers by offset in the TRU block. -/
  bufs : SMap Byte
  spdm : SMap SpdmX
  nextSession : Nat
  /-- The watchdog period's start, and the ticks of sapwood's restarts. -/
  kicked : Nat
  restarts : List Nat
  /-- A start is under way that reaches ready. -/
  starting : Bool
  /-- A warm restart has been asked for; it leaves M3. -/
  asked : Bool
  fromM3 : Bool
deriving DecidableEq, Repr

def TruX.reset : TruX :=
  ⟨[], none, none, 0, 0, 0, [], [], [], [], 0, [], 0, [], [], none, 0, [], [], 1, 0, [], false, false, false⟩

/-- The pins and the power input (R563 to R573, R576). -/
structure PinX where
  /-- Input in the range that allows power. -/
  input : Bool
  pwrEn : Bool
  pwrGood : Bool
  /-- RESET_N is low. -/
  inReset : Bool
  /-- THERMTRIP_N is latched low; the sensor that tripped, until the ledger names it. -/
  trip : Bool
  tripped : Option Nat
  /-- PROFSEL and SLOT_ID as last sampled. -/
  profsel : Nat
  slot : Nat
  /-- I3C dynamic address, MCTP endpoint ID, and in-band interrupts raised. -/
  address : Option Nat
  endpoint : Option Nat
  ibis : Nat
deriving DecidableEq, Repr

/-- Powered, with RESET_N low: the release starts a cold boot (R568, R569). -/
def PinX.reset : PinX := ⟨true, true, true, true, false, none, 0, 63, none, none, 0⟩

/-- The state of the module. -/
structure State where
  /-- Commands waiting, first in, first out. -/
  pending : List Instr
  /-- Local tick (R504). -/
  tick : Nat
  /-- Number of free values drawn (assumption 4). -/
  free : Nat
  /-- The control window's registers; an unlisted one holds its reset value. -/
  regs : AMap RegKey Word
  /-- Bytes of the device physical map (R332); an unlisted one reads zero. -/
  mem : List Host.Cell
  /-- Descriptors fetched and not issued, by core·3 + stream (R111). -/
  windows : SMap (List Fetched)
  /-- Descriptors issued and not completed. -/
  flights : List Flight
  /-- Stream last granted, by arbiter (R114). -/
  granted : SMap Nat
  /-- Tick at which a function's drain began, by function (R131). -/
  drains : List (Func × Nat)
  parts : SMap Part
  evt : EvtX
  hbm : HbmX
  /-- The ageing ledger, oldest entry first, and the next sequence number (R510). -/
  ledger : List LedgerEntry
  ledgerSeq : Nat
  powerUps : Nat
  domains : SMap DomX
  /-- Tile buffer bytes: core·262,144 + buffer·65,536 + offset (R81). -/
  tiles : SMap Byte
  lattices : SMap Lattice
  /-- Tap slots that are configured, by cluster·16 + slot. -/
  taps : SMap (Option TapSlot)
  /-- Requests outstanding, and the next request_id. -/
  requests : List Request
  nextReq : Nat
  /-- Management messages that await acknowledgement, and those received: type, job, epoch and sender (R275). -/
  mgmt : List MgmtMsg
  seen : List (Nat × Nat × Nat × Addr)
  grove : GroveX
  flash : FlashX
  fab : FabX
  pwr : PwrX
  age : AgeX
  tru : TruX
  pins : PinX
  /-- Everything the module has sent, newest last (assumption 6). -/
  out : List Msg
deriving DecidableEq, Repr

/-! ### The state with one component replaced -/

def State.withPending (s : State) (x : List Instr) : State := { s with pending := x }
def State.withTick (s : State) (x : Nat) : State := { s with tick := x }
def State.withFree (s : State) (x : Nat) : State := { s with free := x }
def State.withRegs (s : State) (x : AMap RegKey Word) : State := { s with regs := x }
def State.withMem (s : State) (x : List Host.Cell) : State := { s with mem := x }
def State.withWindows (s : State) (x : SMap (List Fetched)) : State := { s with windows := x }
def State.withFlights (s : State) (x : List Flight) : State := { s with flights := x }
def State.withGranted (s : State) (x : SMap Nat) : State := { s with granted := x }
def State.withDrains (s : State) (x : List (Func × Nat)) : State := { s with drains := x }
def State.withParts (s : State) (x : SMap Part) : State := { s with parts := x }
def State.withEvt (s : State) (x : EvtX) : State := { s with evt := x }
def State.withHbm (s : State) (x : HbmX) : State := { s with hbm := x }
def State.withLedger (s : State) (x : List LedgerEntry) : State := { s with ledger := x }
def State.withLedgerSeq (s : State) (x : Nat) : State := { s with ledgerSeq := x }
def State.withPowerUps (s : State) (x : Nat) : State := { s with powerUps := x }
def State.withDomains (s : State) (x : SMap DomX) : State := { s with domains := x }
def State.withTiles (s : State) (x : SMap Byte) : State := { s with tiles := x }
def State.withLattices (s : State) (x : SMap Lattice) : State := { s with lattices := x }
def State.withTaps (s : State) (x : SMap (Option TapSlot)) : State := { s with taps := x }
def State.withRequests (s : State) (x : List Request) : State := { s with requests := x }
def State.withNextReq (s : State) (x : Nat) : State := { s with nextReq := x }
def State.withMgmt (s : State) (x : List MgmtMsg) : State := { s with mgmt := x }
def State.withSeen (s : State) (x : List (Nat × Nat × Nat × Addr)) : State := { s with seen := x }
def State.withGrove (s : State) (x : GroveX) : State := { s with grove := x }
def State.withFlash (s : State) (x : FlashX) : State := { s with flash := x }
def State.withFab (s : State) (x : FabX) : State := { s with fab := x }
def State.withPwr (s : State) (x : PwrX) : State := { s with pwr := x }
def State.withAge (s : State) (x : AgeX) : State := { s with age := x }
def State.withTru (s : State) (x : TruX) : State := { s with tru := x }
def State.withPins (s : State) (x : PinX) : State := { s with pins := x }
def State.withOut (s : State) (x : List Msg) : State := { s with out := x }

/-- The module right after reset. -/
def State.reset : State where
  pending := []
  tick := 0
  free := 0
  regs := []
  mem := []
  windows := []
  flights := []
  granted := []
  drains := []
  parts := []
  evt := .reset
  hbm := .reset
  ledger := []
  ledgerSeq := 0
  powerUps := 0
  domains := []
  tiles := []
  lattices := []
  taps := []
  requests := []
  nextReq := 1
  mgmt := []
  seen := []
  grove := .reset
  flash := .reset
  fab := .reset
  pwr := .reset
  age := .reset
  tru := .reset
  pins := .reset
  out := []

end Sys2Proof.Machine
end

