-- ==== Sys2Proof/Machine/Ops.lean ====
section
/-! DEFINITION. The named operations over registers, memory, tokens and events that every command shares. -/
namespace Sys2Proof.Machine

/-! ### Registers -/

/-- The value a register holds at reset, from its table's Reset column (R6). -/
def regReset (r : RegName) : Word :=
  BitVec.ofNat 64 ((regFields r).foldl (fun a f => a + f.reset * 2 ^ f.lo) 0)

/-- The element a register name selects: the windows of a cluster's four cores show the cluster's registers (R141,
R175). -/
def regKey (r : RegName) (i j : Nat) : RegKey :=
  if r = .corClusterToken ∨ r = .corGramStatus ∨ r = .corTapSlot ∨ r = .corGramCount then ⟨r, 4 * (i / 4), j⟩
  else ⟨r, i, j⟩

/-- Window offset of a register element (R3). -/
def regOffset (k : RegKey) : Nat :=
  let q := regPlace k.reg
  q.base + q.s1 * k.i + q.s2 * k.j

/-- The register element at a window offset (R3). -/
def keyAt (off : Nat) : Option RegKey :=
  allRegs.findSome? fun r =>
    let q := regPlace r
    let i := if q.s1 = 0 ∨ off < q.base then 0 else (off - q.base) / q.s1
    let j := if q.s2 = 0 ∨ off < q.base + q.s1 * i then 0 else (off - q.base - q.s1 * i) / q.s2
    if i < q.n1 ∧ j < q.n2 ∧ q.base + q.s1 * i + q.s2 * j = off then some (regKey r i j) else none

/-- The value a register holds. -/
def State.reg (s : State) (r : RegName) (i : Nat := 0) (j : Nat := 0) : Word :=
  aGet (regReset r) s.regs (regKey r i j)

/-- The state with a register's value replaced. -/
def State.setReg (s : State) (r : RegName) (i j : Nat) (v : Word) : State :=
  s.withRegs (aSet regOffset (regReset r) s.regs (regKey r i j) v)

/-- A field of a register. -/
def State.fget (s : State) (f : RF) (i : Nat := 0) (j : Nat := 0) : Nat := bits (s.reg f.reg i j).toNat f.hi f.lo

/-- The state with a field of a register replaced. -/
def State.fset (s : State) (f : RF) (i j v : Nat) : State :=
  s.setReg f.reg i j (BitVec.ofNat 64 (insBits (s.reg f.reg i j).toNat f.hi f.lo v))

/-- A one-bit field as a flag. -/
def State.fbit (s : State) (f : RF) (i : Nat := 0) (j : Nat := 0) : Bool := s.fget f i j ≠ 0

/-- Adds to a counter register that wraps at 2^64. -/
def State.count (s : State) (r : RegName) (i j : Nat) (n : Nat := 1) : State :=
  if n = 0 then s else s.setReg r i j (BitVec.ofNat 64 ((s.reg r i j).toNat + n))

/-- A fresh free value (assumption 4). -/
def State.draw (s : State) : Nat × State := ((Config.freeWord s.free).toNat, (s.withFree (s.free + 1)))

/-! ### Places of the module -/

def clusterOf (core : Nat) : Nat := core / 4
def dieOfCluster (c : Nat) : Nat := c / 4

/-- The partition whose fence names a cluster (R333). -/
def State.partOfCluster (s : State) (c : Nat) : Option Nat :=
  (List.range 16).find? fun p => bit (s.fget rf_prtFenceClusters_clusters p) c

/-- The partition that owns a core. -/
def State.partOf (s : State) (core : Nat) : Option Nat := s.partOfCluster (clusterOf core)

/-- Clusters of a partition, ascending. -/
def State.clustersOf (s : State) (p : Nat) : List Nat :=
  (List.range 16).filter fun c => bit (s.fget rf_prtFenceClusters_clusters p) c

/-- Cores of a partition, ascending. -/
def State.coresOf (s : State) (p : Nat) : List Nat := (s.clustersOf p).flatMap fun c => (List.range 4).map (4 * c + ·)

def State.part (s : State) (p : Nat) : Part := smGet .reset s.parts p
def State.setPart (s : State) (p : Nat) (x : Part) : State := s.withParts (smSet .reset s.parts p x)

def hbmTop : Nat := 0xC000000000
def coreStoreBase : Nat := 0x010000000000
def clusterStoreBase : Nat := 0x010040000000
def windowBase : Nat := 0x020000000000

/-- What a device physical address belongs to (R332). -/
inductive Region where
  | hbm (unit : Nat)
  | coreStore (core : Nat)
  | clusterStore (cluster : Nat)
  | window
  | nothing
deriving DecidableEq, Repr

def region (pa : Nat) : Region :=
  if pa < hbmTop then .hbm (pa / 0x40000000)
  else if coreStoreBase ≤ pa ∧ pa < coreStoreBase + 0x20000000 then .coreStore ((pa - coreStoreBase) / 0x800000)
  else if clusterStoreBase ≤ pa ∧ pa < clusterStoreBase + 0x20000000 then
    .clusterStore ((pa - clusterStoreBase) / 0x2000000)
  else if windowBase ≤ pa ∧ pa < windowBase + 0x4000000 then .window
  else .nothing

/-- The carve unit belongs to the partition (R356). -/
def State.ownsUnit (s : State) (p u : Nat) : Bool := bit (s.fget rf_prtFenceHbm_units p (u / 64)) (u % 64)

/-- The fence check of R334. -/
def State.fenceOk (s : State) (p pa : Nat) : Bool :=
  match region pa with
  | .hbm u => s.ownsUnit p u
  | .coreStore k => bit (s.fget rf_prtFenceClusters_clusters p) (clusterOf k)
  | .clusterStore c => bit (s.fget rf_prtFenceClusters_clusters p) c
  | _ => false

/-! ### HBM address decode (R365) -/

/-- Where a physical address lies: stack, pseudo-channel, bank and row. -/
structure HbmPlace where
  stack : Nat
  pc : Nat
  bank : Nat
  row : Nat
deriving DecidableEq, Repr

def hbmPlace (interleave pa : Nat) : HbmPlace :=
  let d := pa / 0x3000000000
  let l := if interleave = 0 then (pa - d * 0x3000000000) / 128 else pa / 128
  let stack := if interleave = 0 then 3 * d + l % 3 else l % 12
  let q := if interleave = 0 then l / 3 else l / 12
  let w := bits q 28 6
  ⟨stack, (bits q 5 0) ^^^ (bits q 11 6), (bits w 8 3) ^^^ (bits w 14 9), bits w 22 9⟩

/-- The number of a row over the module. -/
def rowNo (h : HbmPlace) : Nat := ((h.stack * 64 + h.pc) * 64 + h.bank) * 16384 + h.row

def bankOfRow (row : Nat) : Nat := row / 16384

def State.hbmPlace (s : State) (pa : Nat) : HbmPlace := Machine.hbmPlace (s.fget rf_hbmGlbCtl_interleave) pa

/-! ### Domains (R488) -/

def domCore (k : Nat) : Nat := k
def domCluster (c : Nat) : Nat := 64 + c
def domDie (d : Nat) : Nat := 80 + d
def domStack (st : Nat) : Nat := 84 + st
def domPort (n : Nat) : Nat := 96 + n
def domTaproot : Nat := 112
def domHub : Nat := 113

/-- The domain that holds a physical address. -/
def State.domOfPa (s : State) (pa : Nat) : Option Nat :=
  match region pa with
  | .hbm _ => some (domStack (s.hbmPlace pa).stack)
  | .coreStore k => some (domCore k)
  | .clusterStore c => some (domCluster c)
  | _ => none

/-- The state a domain holds, 0 for D0. -/
def State.domState (s : State) (d : Nat) : Nat := s.fget rf_pwrDomainStatus_state d

/-- The phase of a domain's entry or exit, 0 for STABLE (R491). -/
def State.domPhase (s : State) (d : Nat) : Nat := s.fget rf_pwrDomainStatus_phase d

/-- The domain that a test holds while it runs (R518, R520). -/
def testDomain (code target : Nat) : Option Nat :=
  if code = 0x10 then some (domCore target)
  else if code = 0x11 then some (domStack (target / 32))
  else if code = 0x12 then some (domCluster target)
  else if code = 0x20 then some (domPort target)
  else if code = 0x21 then some domTaproot
  else none

/-- A test runs on the domain or on a part of it. -/
def State.tested (s : State) (d : Nat) : Bool := s.age.running.any fun t => testDomain t.code t.target = some d

/-- A test of the whole domain runs; a retention sweep holds only its channel (R516). -/
def State.testHeld (s : State) (d : Nat) : Bool :=
  s.age.running.any fun t => t.code ≠ 0x11 && testDomain t.code t.target = some d

/-- A channel of a stack: two pseudo-channels. -/
def chanOf (h : HbmPlace) : Nat := 32 * h.stack + h.pc / 2

/-- A retention sweep runs on the channel that holds an address. -/
def State.sweptChan (s : State) (pa : Nat) : Bool :=
  match region pa with
  | .hbm _ => s.age.running.any fun t => t.code = 0x11 && t.target = chanOf (s.hbmPlace pa)
  | _ => false

/-- Key of a channel among the units whose work is noted. -/
def busyChan (c : Nat) : Nat := 128 + c

/-- Notes that a unit holds admitted work at this tick (R518): a domain, or a channel of a stack. -/
def State.touch (s : State) (u : Nat) : State := s.withAge { s.age with busy := smSet 0 s.age.busy u s.tick }

/-- Notes an access to a physical address. -/
def State.touchPa (s : State) (d pa : Nat) : State :=
  match region pa with
  | .hbm _ => (s.touch d).touch (busyChan (chanOf (s.hbmPlace pa)))
  | _ => s.touch d

/-- An access finds the domain in D0, admitting work. -/
def State.awake (s : State) (d : Nat) : Bool := s.domState d = 0 && s.domPhase d = 0 && !s.testHeld d

/-- An access that does not find the domain awake waits: it wakes on access (R494), or is entering a state or under test, so
that admission reopens (R491, R518). -/
def State.holds (s : State) (d : Nat) : Bool := s.fbit rf_pwrDomainCtl_wakeOnAccess d || s.domState d = 0

def State.dom (s : State) (d : Nat) : DomX := smGet .reset s.domains d
def State.setDom (s : State) (d : Nat) (x : DomX) : State := s.withDomains (smSet .reset s.domains d x)

/-- A wake event for a domain (R492); a core or cluster domain's wake also wakes its die uncore (R489). -/
def State.wakeEvent (s : State) (d : Nat) : State :=
  let s := s.setDom d { s.dom d with wake := true }
  let die := if d < 64 then some (80 + d / 16) else if d < 80 then some (80 + (d - 64) / 4) else none
  match die with
  | some u => if s.awake u then s else s.setDom u { s.dom u with wake := true }
  | none => s

/-- A request for a function of a domain that is not in D0, or is on its way out of it, is a wake event (R492). -/
def State.wakeFor (s : State) (d : Nat) : State :=
  if s.domState d = 0 ∧ s.domPhase d = 0 then s else s.wakeEvent d

/-- A pre-emption request is a wake event for every core and cluster domain of the partition (R492). -/
def State.wakePart (s : State) (p : Nat) : State :=
  ((s.coresOf p).map domCore ++ (s.clustersOf p).map domCluster).foldl State.wakeFor s

/-- Every core and cluster domain of the partition is in D0 (R493). -/
def State.partAwake (s : State) (p : Nat) : Bool :=
  ((s.coresOf p).map domCore ++ (s.clustersOf p).map domCluster).all fun d => s.domState d = 0

/-! ### Memory (R332) -/

/-- A byte of memory; cold boot and warm restart clear memory, and an unlisted byte reads zero. -/
def State.byte (s : State) (pa : Nat) : Byte := smGet 0 s.mem pa

/-- The state with one byte of memory replaced. -/
def State.setByte (s : State) (pa : Nat) (b : Byte) : State := s.withMem (smSet 0 s.mem pa b)

/-- Memory without the bytes of a range. -/
def State.clearRange (s : State) (base size : Nat) : State :=
  s.withMem (s.mem.filter fun (a, _) => a < base || base + size ≤ a)

/-- n bytes of memory from an address. -/
def State.bytes (s : State) (pa : Nat) : Nat → List Byte
  | 0 => []
  | n + 1 => s.byte pa :: s.bytes (pa + 1) n

/-- The state with bytes written from an address up. -/
def State.setBytes (s : State) (pa : Nat) : List Byte → State
  | [] => s
  | b :: bs => (s.setByte pa b).setBytes (pa + 1) bs

/-! ### Events of the module queue (R555 to R562) -/

/-- Severity of each event of the catalogue (R562). -/
def evSeverity (code : Nat) : Nat :=
  if [0x5007, 0x9004, 0xC007].contains code then 4
  else if [0xB007, 0xB00A].contains code then 5
  else if [0x2001, 0x2002, 0x2003, 0x2006, 0x3002, 0x4007, 0x5008, 0x500A, 0x8005, 0xA007].contains code then 3
  else if [0x1004, 0x1005, 0x2005, 0x2008, 0x3003, 0x3005, 0x3007, 0x3008, 0x4001, 0x4002, 0x4008, 0x5001, 0x5002,
    0x5003, 0x5009, 0x6003, 0x6004, 0x6006, 0x7005, 0x7006].contains code then 2
  else if [0x8003, 0x9002, 0xA004, 0xA005, 0xA006, 0xB001, 0xB002, 0xB003, 0xB004, 0xB006, 0xC001, 0xC004, 0xC008,
    0xC009, 0xC00A].contains code then 2
  else if [0x3001, 0x3006, 0x4003, 0x4004, 0x4006, 0x5005, 0x6001, 0x6002, 0x6005, 0x7001, 0x7007, 0x8004, 0x9006,
    0xA001, 0xC003, 0xC006].contains code then 1
  else 0

/-- What a record says beyond its code: the unit it names, the descriptor tag, aux and detail (R555). -/
structure EvInfo where
  kind : Nat := 0
  index : Nat := 0
  tag : Nat := 0
  aux : Nat := 0
  detail : Nat := 0
deriving DecidableEq, Repr

/-- The 32 bytes of a record (R555). -/
def evBytes (r : EvRec) : List Byte :=
  leBytes 2 r.code ++ leBytes 1 (r.sev + (b2n r.lost <<< 3))
    ++ leBytes 1 (match r.part with | none => 0 | some p => 16 + p % 16)
    ++ leBytes 4 r.seq ++ leBytes 8 r.tick ++ leBytes 1 r.kind ++ leBytes 1 r.index ++ leBytes 2 r.tag
    ++ leBytes 4 r.aux ++ leBytes 8 r.detail

/-- Records of the module queue between head and tail, oldest first. -/
def State.mqRecords (s : State) : List EvRec :=
  let h := s.fget rf_evtMqPtr_head
  (List.range (subMod 13 (s.fget rf_evtMqPtr_tail) h)).filterMap fun k => smGet none s.evt.mq ((h + k) % 4096)

/-- A record as the module queue takes it: dropped when too few slots are free (R557). -/
def State.mqPut (s : State) (r : EvRec) : State :=
  let h := s.fget rf_evtMqPtr_head
  let t := s.fget rf_evtMqPtr_tail
  let room := 4096 - subMod 13 t h
  if room ≥ (if r.sev ≤ 1 then 257 else 1) then
    let r := { r with lost := s.evt.mqLost }
    let s := s.withEvt { s.evt with
      mq := smSet none s.evt.mq (t % 4096) (some r), mqLost := false }
    let s := if s.fbit rf_evtHostCtl_pushEnable ∧ r.sev ≥ s.fget rf_evtHostCtl_pushMinSeverity
      then (s.withEvt { s.evt with toPush := s.evt.toPush ++ [r] }) else s
    s.fset rf_evtMqPtr_tail 0 0 (t + 1)
  else
    let s := s.withEvt { s.evt with mqLost := true }
    s.fset rf_evtMqPtr_lost 0 0 (w32 (s.fget rf_evtMqPtr_lost + 1))

/-- A new record: numbered, counted by severity, written to the module queue and marked for the archive (R555, R556,
R559, R561). -/
def State.evNew (s : State) (code : Nat) (p : Option Nat) (x : EvInfo) : EvRec × State :=
  let sev := evSeverity code
  let r : EvRec := ⟨code, sev, p, s.evt.seq, s.tick, x.kind, x.index, x.tag, w32 x.aux, w64 x.detail, false⟩
  let s := s.withEvt { s.evt with seq := w32 (s.evt.seq + 1), toArchive := s.evt.toArchive ++ [r] }
  let s := s.count .evtCount sev 0
  let s := if sev = 5 then s.fset rf_glbStatus_fatal 0 0 1 else s
  (r, s.mqPut r)

/-- An event that names no partition. -/
def State.raiseMod (s : State) (code : Nat) (x : EvInfo := {}) : State := (s.evNew code none x).2

/-- Records between head and tail whose severity holds ALERT_N, oldest first (R560). -/
def State.holding (s : State) : List EvRec := s.mqRecords.filter fun r => s.fget rf_evtHostCtl_alertMinSeverity ≤ r.sev

/-- Highest severity between head and tail. -/
def State.topSeverity (s : State) : Nat := s.mqRecords.foldl (fun a r => max a r.sev) 0

/-- The value of EVT_ALERT: whether ALERT_N is asserted, the highest severity, and the oldest record that holds it (R561). -/
def alertWord (alerting : Bool) (top seq : Nat) : Nat := (b2n alerting <<< 35) + ((top % 8) <<< 32) + w32 seq

/-- The condition the module keeps at every moment: ALERT_N and the registers that show it follow the module queue
(R560, R561). Every command ends with it. An alert that begins raises an in-band interrupt (R570). -/
def State.settle (s : State) : State :=
  let on := !s.holding.isEmpty
  let begins := on && !s.fbit rf_glbStatus_alert && s.pins.address.isSome
  let seq := (s.holding.head?.map (·.seq)).getD 0
  let s := s.setReg .evtAlert 0 0 (BitVec.ofNat 64 (alertWord on s.topSeverity seq))
  let s := s.withPins { s.pins with ibis := s.pins.ibis + b2n begins }
  s.fset rf_glbStatus_alert 0 0 (b2n on)

/-- The outcome of a command that leaves this state. -/
def done (s : State) : Host.Outcome State Fault Refusal := .next s.settle

/-! ### Reads and writes of physical memory through the line code (R369, R370) -/

/-- A bank's repair resources left (R372). -/
def State.sparesLeft (s : State) (row : Nat) : Nat :=
  let b := bankOfRow row
  let n (xs : List Nat) := (xs.filter fun r => bankOfRow r = b).length
  Config.hbmSpares (b / 4096) (b / 64 % 64) (b % 64) - n s.hbm.hard - n s.hbm.soft - n s.hbm.cand

/-- n free words. -/
def State.drawWords (s : State) : Nat → List Byte × State
  | 0 => ([], s)
  | n + 1 =>
    let (x, s) := s.draw
    let (xs, s) := s.drawWords n
    (leBytes 8 x ++ xs, s)

/-- n free bytes. -/
def State.drawBytes (s : State) (n : Nat) : List Byte × State :=
  let (bs, s) := s.drawWords (ceilDiv n 8)
  (bs.take n, s)

/-- Entries of the ledger's ring (R510). -/
def ledgerSize : Nat := 16777216

/-- Writes an entry of the ageing ledger over the oldest when the ring is full. -/
def State.ledgerPut (s : State) (type unit : Nat) (body : List Byte) : State :=
  let l := s.ledger ++ [⟨s.ledgerSeq, s.fget rf_ageStatus_runHours, s.powerUps, type, unit, slice body 0 40⟩]
  ((s.withLedger (l.drop (l.length - ledgerSize))).withLedgerSeq (w64 (s.ledgerSeq + 1)))

/-- Adds an entry to the ageing ledger; as the ring wraps, a checkpoint goes first, whose body the spec does not lay out
(R510). -/
def State.ledgerAdd (s : State) (type unit : Nat) (body : List Byte) : State :=
  if s.ledgerSeq ≠ 0 ∧ s.ledgerSeq % ledgerSize = 0 then
    let (b, s) := s.drawBytes 40
    (s.ledgerPut 8 0 b).ledgerPut type unit body
  else s.ledgerPut type unit body

/-- A row in the layout of HBM_REPAIR_CMD bits [55:26] (R510). -/
def rowWord (row : Nat) : Nat :=
  let b := bankOfRow row
  ((b / 4096 % 16) <<< 52) + ((b / 64 % 64) <<< 46) + ((b % 64) <<< 40) + ((row % 16384) <<< 26)

/-- A row becomes a repair candidate, once (R372). -/
def State.repairCandidate (s : State) (row pa : Nat) : State :=
  if s.hbm.cand.contains row then s
  else
    let b := bankOfRow row
    let noSpare := s.sparesLeft row = 0
    let s := s.withHbm { s.hbm with cand := s.hbm.cand ++ [row] }
    let s := s.ledgerAdd 4 (b / 4096) (leBytes 8 (rowWord row))
    s.raiseMod 0x3003 ⟨4, b / 4096, 0, (b / 64 % 64) + ((b % 64) <<< 6) + (b2n noSpare <<< 12), pa⟩

/-- What a read of one line finds and does (R369): whether the line is uncorrectable. `src` is the source of
HBM_ERR_LOG (R390). -/
def State.lineRead (s : State) (src pa : Nat) : Bool × State :=
  match region pa with
  | .hbm _ =>
    let line := pa / 128
    let h := s.hbmPlace pa
    let row := rowNo h
    let s := s.count .hbmCount h.stack 0
    match smGet 0 s.hbm.lineErr line with
    | 0 => (false, s)
    | n =>
      if n ≤ 2 then
        let c := smGet 0 s.hbm.rowCnt row + 1
        let s := s.withHbm { s.hbm with
          lineErr := smSet 0 s.hbm.lineErr line 0, rowCnt := smSet 0 s.hbm.rowCnt row c }
        let s := s.count .hbmCount h.stack 3
        let s := if c = 1 then s.raiseMod 0x3001 ⟨4, h.stack, 0, h.pc + (h.bank <<< 6), line * 128⟩ else s
        (false, if c = 4 then s.repairCandidate row (line * 128) else s)
      else
        let s := s.count .hbmCount h.stack 4
        let s := if s.fbit rf_hbmErrLog_valid h.stack then s
          else s.setReg .hbmErrLog h.stack 0 (BitVec.ofNat 64 ((src <<< 52) + line * 128 + 1))
        let s := s.raiseMod 0x3002 ⟨4, h.stack, 0, h.pc + (h.bank <<< 6), line * 128⟩
        (true, s.repairCandidate row (line * 128))
  | _ => (false, s)

/-- The lines that bytes [pa, pa + n) touch. -/
def linesOf (pa n : Nat) : List Nat := if n = 0 then [] else rangeFrom (pa / 128) ((pa + n - 1) / 128 + 1)

/-- Reads every line of a list; true when one is uncorrectable, at the first such line. -/
def State.readLines (s : State) (src : Nat) : List Nat → Bool × State
  | [] => (false, s)
  | l :: ls =>
    let (bad, s) := s.lineRead src (l * 128)
    if bad then (true, s) else s.readLines src ls

/-- A read of physical memory: none where a line is uncorrectable. -/
def State.paRead (s : State) (pa n : Nat) : Option (List Byte) × State :=
  let (bad, s) := s.readLines 0 (linesOf pa n)
  if bad then (none, s) else (some (s.bytes pa n), s)

/-- A write of physical memory: a line it covers in part is read first, and where that read is uncorrectable nothing
is written (R370); a line it covers whole gets fresh check symbols (R369). -/
def State.paWrite (s : State) (pa : Nat) (bs : List Byte) : Bool × State :=
  let ls := linesOf pa bs.length
  let whole := fun l => pa ≤ l * 128 ∧ l * 128 + 128 ≤ pa + bs.length
  let (bad, s) := s.readLines 3 (ls.filter fun l => ¬ whole l)
  if bad then (false, s)
  else
    let s := s.withHbm { s.hbm with
      lineErr := ls.foldl (fun m l => if whole l then smSet 0 m l 0 else m) s.hbm.lineErr }
    let s := ls.foldl (fun s l => match region (l * 128) with
      | .hbm _ => s.count .hbmCount (s.hbmPlace (l * 128)).stack 1
      | _ => s) s
    (true, s.setBytes pa bs)

/-! ### Tokens and step markers (R119, R123) -/

/-- What a token identifier names for a core of a partition (R119). -/
inductive Tok where
  | core (core t : Nat)
  | cluster (core t : Nat)
  | marker (m : Nat)
deriving DecidableEq, Repr

/-- The counter a token identifier names; none where it is reserved (R119). -/
def tokOf (core x : Nat) : Option Tok :=
  if x ≤ 0xFF then some (.core core x)
  else if 0x400 ≤ x ∧ x ≤ 0x7FF then some (.core (4 * clusterOf core + (x - 0x400) / 0x100) (x % 0x100))
  else if 0x1000 ≤ x ∧ x ≤ 0x103F then some (.cluster core (x - 0x1000))
  else if 0x2000 ≤ x ∧ x ≤ 0x2007 then some (.marker (x - 0x2000))
  else none

/-- The identifier may be waited on (R119). -/
def tokWaitable (x : Nat) : Bool := x ≤ 0xFF || (0x1000 ≤ x && x ≤ 0x103F) || (0x2000 ≤ x && x ≤ 0x2007)

/-- The identifier may be signalled (R119). -/
def tokSignalable (x : Nat) : Bool := x ≤ 0xFF || (0x400 ≤ x && x ≤ 0x7FF) || (0x1000 ≤ x && x ≤ 0x103F)

/-- The identifier is reserved. -/
def tokReserved (x : Nat) : Bool := !(tokWaitable x || tokSignalable x || x = 0xFFFF)

/-- Value of the counter a token identifier names. -/
def State.tokVal (s : State) (core x : Nat) : Nat :=
  match tokOf core x with
  | some (.core k t) => s.fget rf_corToken_value k t
  | some (.cluster k t) => s.fget rf_corClusterToken_value k t
  | some (.marker m) => match s.partOf core with
    | some p => s.fget rf_prtStepMarker_value p m
    | none => 0
  | none => 0

/-- Adds to the counter a signal token names. -/
def State.tokAdd (s : State) (core x n : Nat) : State :=
  match tokOf core x with
  | some (.core k t) => s.fset rf_corToken_value k t (s.fget rf_corToken_value k t + n)
  | some (.cluster k t) => s.fset rf_corClusterToken_value k t (s.fget rf_corClusterToken_value k t + n)
  | _ => s

/-- The wait of R120: x minus v, modulo 2^32 as a signed number, is zero or positive. -/
def waitOk (x v : Nat) : Bool := subMod 32 x v < 2 ^ 31

/-- A wait on a token identifier, 0xFFFF for none. -/
def State.tokWait (s : State) (core x v : Nat) : Bool := x = 0xFFFF || waitOk (s.tokVal core x) v

/-- Advances a step marker (R123). -/
def State.markerAdd (s : State) (p m n : Nat) : State :=
  s.fset rf_prtStepMarker_value p m (s.fget rf_prtStepMarker_value p m + n)

/-- The partition's current step epoch (R8, GRV_EPOCH). -/
def State.epoch (s : State) (p : Nat) : Nat := s.fget rf_grvEpoch_epoch p

/-- An access to a domain that is below D0 or entering is a wake event where it wakes on access (R492, R494). -/
def State.nudge (s : State) (d : Nat) : State :=
  if s.fbit rf_pwrDomainCtl_wakeOnAccess d && (s.domState d ≠ 0 || s.domPhase d ≠ 0) then s.wakeEvent d else s

/-- A swing of more than 30 °C between a low and a later high reading of a unit is a thermal cycle (R509). -/
def State.noteTemp (s : State) (unit t : Nat) : State :=
  match smGet none s.age.low unit with
  | some l =>
    if l + 30 < t then
      s.withAge { s.age with
        low := smSet none s.age.low unit (some t), cycles := smSet 0 s.age.cycles unit (smGet 0 s.age.cycles unit + 1) }
    else if t < l then s.withAge { s.age with low := smSet none s.age.low unit (some t) }
    else s
  | none => s.withAge { s.age with low := smSet none s.age.low unit (some t) }

/-- Microseconds of local tick (R504: 1,000 ticks). -/
def us (n : Nat) : Nat := 1000 * n
def ms (n : Nat) : Nat := 1000000 * n

/-- At least d ticks have passed since t. -/
def State.since (s : State) (t d : Nat) : Bool := t + d ≤ s.tick

end Sys2Proof.Machine
end

