-- ==== Sys2Proof/Machine/Mem.lean ====
section
/-! DEFINITION. Virtual memory: the engines' computations with their recorded points, translation (R335 to R342) and
the reads and writes of virtual addresses under fence, line code and sleeping domains. -/
namespace Sys2Proof.Machine

/-- A request to memory outside the module: a page of a peer partition or of a host window (R336 to R338). -/
structure RemoteOp where
  write : Bool
  host : Bool
  /-- Peer partition and coordinates; for a host page the window. -/
  part : Nat
  z : Nat
  y : Nat
  x : Nat
  window : Nat
  /-- The peer's virtual address, or the offset within the window. -/
  addr : Nat
  va : Nat
  len : Nat
  data : List Byte
deriving DecidableEq, Repr

/-- Why a computation of an engine stops short of its end. -/
inductive Stop where
  /-- A translation fault (R343): cause, virtual address, whether the access wrote or accumulated, and whether it may
  wait (R340, R344). -/
  | fault (cause va : Nat) (wr acc mayWait : Bool)
  /-- An uncorrectable line (R345). -/
  | uncorr
  /-- A sleeping domain that does not wake on access (R495). -/
  | asleep (domain : Nat)
  /-- A sleeping domain that wakes (R494). -/
  | held (domain : Nat)
  /-- The descriptor ends with a status, an event code in its record, and no effect beyond what it has made. -/
  | status (st ev : Nat)
  /-- No room in a tap queue (R65). -/
  | tap
  /-- A remote request must be answered first. -/
  | remote (op : RemoteOp)
  /-- The descriptor waits for a condition of its own. -/
  | await
  /-- A unit of the work is complete and the next one follows; `point` is whether a pre-emption point lies between them. -/
  | pause (point : Bool)
  /-- The descriptor stands in its solver unit's queue (R182). -/
  | queued
  /-- A request is sent and its answer awaited; `aux` says what for. -/
  | request (m : Msg) (aux : List Nat)
  /-- The descriptor sends again no earlier than this many ticks from now (R264). -/
  | wait (ticks : Nat)
deriving DecidableEq, Repr

/-- What an engine's computation reads and changes: the state and the descriptor it runs for. `toEnd`: it does not pause
between the units of its work (assumption 2). -/
structure Run where
  s : State
  fl : Flight
  toEnd : Bool := false
deriving DecidableEq, Repr

/-- Computations of engines. What they have changed when they stop stands. -/
abbrev Eng := ExceptT Stop (StateM Run)

/-- Who accesses memory (R341, R343): the partition, the requester code and unit of the fault record; `pinned` for a
structure that must lie in pinned pages (R340); `account` for an access on the module's own account (R580). -/
structure XReq where
  p : Nat
  kind : Nat
  unit : Nat
  pinned : Bool := false
  account : Bool := false
deriving DecidableEq, Repr

namespace Eng

def getS : Eng State := do return (← get).s
def setS (s : State) : Eng Unit := modify fun r => { r with s := s }
def modS (f : State → State) : Eng Unit := modify fun r => { r with s := f r.s }
def getF : Eng Flight := do return (← get).fl
def modF (f : Flight → Flight) : Eng Unit := modify fun r => { r with fl := f r.fl }
def stop {α : Type} (x : Stop) : Eng α := throw x

/-- A state operation with an answer. -/
def liftS {α : Type} (f : State → α × State) : Eng α := do
  let r := f (← getS)
  setS r.2
  return r.1

/-- Flags raised on behalf of the descriptor. -/
def raiseFl (f : Nat) : Eng Unit := modF fun x => { x with flags := x.flags ||| f }

/-- A numeric computation: its flags are the descriptor's, its free values the state's. -/
def num {α : Type} (c : FlM α) : Eng α := do
  let s ← getS
  let (a, n) := c.run ⟨0, s.free⟩
  setS (s.withFree n.free)
  raiseFl n.flags
  return a

/-- A fresh free value. -/
def draw : Eng Nat := liftS State.draw

end Eng

open Eng

/-- A computation over the elements of a list, in order. -/
def eachM {α : Type} (xs : List α) (f : α → Eng Unit) : Eng Unit :=
  match xs with
  | [] => return ()
  | x :: xs => do f x; eachM xs f

/-- The results of a computation over the elements of a list, in order. -/
def mapE {α β : Type} (xs : List α) (f : α → Eng β) : Eng (List β) :=
  match xs with
  | [] => return []
  | x :: xs => do let y ← f x; return y :: (← mapE xs f)

/-- An access reaches the domain of a physical address awake, or stops there (R494, R495). An access on the module's
own account raises the wake event and goes on. -/
def reachPa (r : XReq) (pa : Nat) : Eng Unit := do
  let s ← getS
  match s.domOfPa pa with
  | none => return ()
  | some d =>
    let swept := s.sweptChan pa
    if s.awake d ∧ ¬ swept then setS (s.touchPa d pa)
    else if s.holds d ∨ swept then
      if r.account then setS (s.nudge d) else stop (.held d)
    else stop (.asleep d)

/-- Physical bytes under the line code. -/
def paBytes (r : XReq) (pa n : Nat) : Eng (List Byte) := do
  reachPa r pa
  match ← liftS (·.paRead pa n) with
  | some bs => return bs
  | none => stop .uncorr

/-- A physical write under the line code. -/
def paStore (r : XReq) (pa : Nat) (bs : List Byte) : Eng Unit := do
  reachPa r pa
  if ← liftS (·.paWrite pa bs) then return () else stop .uncorr

/-- An entry of a page table: its address and value, read under the partition's fence (R334, R335). -/
def pteRead (r : XReq) (va tbl idx : Nat) : Eng (Nat × Nat) := do
  let a := tbl + 8 * idx
  if ¬ (← getS).fenceOk r.p a then stop (.fault 4 va false false false)
  return (a, leNat (← paBytes r a 8))

/-- A leaf entry is well formed for its page size (R336). -/
def leafOk (log2 pte : Nat) : Bool :=
  let loc := bits pte 8 7
  bits pte 15 9 = 0
    && (loc = 1 || bits pte 63 (if loc = 2 then 56 else 48) = 0)
    && (2 ≤ loc || bits pte 47 16 % 2 ^ (log2 - 16) = 0)

/-- A table entry is well formed: reserved and leaf-only bits clear (R336). -/
def tableOk (pte : Nat) : Bool :=
  bits pte 63 56 = 0 && bits pte 15 6 = 0 && bits pte 4 2 = 0

/-- Sets bits of a page-table entry (R339). -/
def pteSet (r : XReq) (a mask : Nat) : Eng Unit := do
  let v := leNat (← paBytes r a 8)
  if v &&& mask = mask then return () else paStore r a (leBytes 8 (v ||| mask))

/-- The walk of R335 over the levels left: the leaf's address and value, and its page size. Each table entry of the walk has
accessed set as the walk passes it, wherever it ends (R339). A fault of a walk may wait only where its cause is
NOT_PRESENT. -/
def walkFrom (r : XReq) (va : Nat) (tbl : Nat) : List (Nat × Nat × Bool) → Eng (Nat × Nat × Nat)
  | [] => stop (.fault 5 va false false false)
  | (lo, hi, leafAllowed) :: lv => do
    let (a, e) ← pteRead r va tbl (bits va hi lo)
    if ¬ bit e 0 then stop (.fault 1 va false false true)
    if bit e 1 then
      if leafAllowed ∧ leafOk lo e then return (a, e, lo)
      else stop (.fault 5 va false false false)
    else if lv.isEmpty ∨ ¬ tableOk e then stop (.fault 5 va false false false)
    else do
      pteSet r a 0x20
      walkFrom r va (bits e 55 16 * 256) lv

/-- The levels of R335: low and high bit of the index, and whether a leaf is allowed. -/
def xltLevels : List (Nat × Nat × Bool) := [(39, 47, false), (30, 38, true), (21, 29, true), (16, 20, true)]

/-- The cache an access uses (R341): one for each core, DMA engine, port, solver unit, and Gram and assembly stage. -/
def cacheOf (r : XReq) : Nat :=
  (if r.kind ≤ 2 ∨ r.kind = 7 then 0 else r.kind) * 256 + r.unit

/-- The cached entry for an address. -/
def XEntry.covers (e : XEntry) (cache va : Nat) : Bool := e.cache = cache && e.base = va / 2 ^ e.log2 * 2 ^ e.log2

/-- A walk that fills the cache and sets accessed (R339, R341), in place of an entry that the cache does not serve. A swapped
page faults (cause SWAPPED) and is not cached. -/
def xltWalk (r : XReq) (va : Nat) (wr acc : Bool) : Eng XEntry := do
  modS fun s => s.count .prtCount r.p 0
  let (a, e, lo) ← tryCatch (walkFrom r va ((← getS).fget rf_prtPtRoot_base r.p * 4096) xltLevels)
    (fun x => match x with
      | .fault c v _ _ w => stop (.fault c v wr acc w)
      | x => stop x)
  if bits e 8 7 = 3 then stop (.fault (if r.pinned then 3 else 2) va wr acc (!r.pinned))
  pteSet r a 0x20
  let x : XEntry := ⟨cacheOf r, va / 2 ^ lo * 2 ^ lo, lo, e, a, bit e 6⟩
  modS fun s =>
    let q := s.part r.p
    s.setPart r.p { q with xcache := q.xcache.filter (fun e => !e.covers (cacheOf r) va) ++ [x] }
  return x

/-- The peer of a loc 1 page is valid: its coordinates lie in the grove. DEDUCED (log 152). -/
def State.peerValid (s : State) (pte : Nat) : Bool :=
  bits pte 51 48 ≤ s.fget rf_fabCoord_kxM1 && bits pte 55 52 ≤ s.fget rf_fabCoord_kyM1
    && bits pte 59 56 ≤ s.fget rf_fabCoord_kzM1

/-- The entry that the cache serves for an address: where the fence admits the page, or its peer is valid (R341). -/
def xltCached (r : XReq) (va : Nat) : Eng (Option XEntry) := do
  let s ← getS
  return (s.part r.p).xcache.find? fun e => e.covers (cacheOf r) va && (match bits e.pte 8 7 with
    | 0 => s.fenceOk r.p (bits e.pte 47 16 * 65536 + va % 2 ^ e.log2)
    | 1 => s.peerValid e.pte
    | _ => true)

/-- The translation of an address: from the cache, or by a walk (R341). -/
def xltEntry (r : XReq) (va : Nat) (wr acc : Bool) : Eng XEntry := do
  match ← xltCached r va with
  | some e => return e
  | none => xltWalk r va wr acc

/-- The first use of an entry for a write or an accumulate sets dirty (R339). -/
def xltDirty (r : XReq) (x : XEntry) : Eng Unit := do
  if x.dirtied then return ()
  pteSet r x.pteAddr 0x40
  modS fun s =>
    let q := s.part r.p
    s.setPart r.p { q with xcache := q.xcache.map fun e => if e = x then { e with dirtied := true } else e }

/-- Where an address leads. -/
inductive Place where
  | loc (pa : Nat)
  | far (op : RemoteOp)
deriving DecidableEq, Repr

/-- Translation to local memory (R335 to R340), for accesses that may reach no other. -/
def xltLocal (r : XReq) (va : Nat) (wr acc : Bool) : Eng Nat := do
  if 2 ^ 48 ≤ va then stop (.fault 5 va wr acc false)
  let x ← tryCatch (xltEntry r va wr acc) (fun z => match z with
    | .fault c v w a m => stop (.fault c v w a (m && !r.pinned && !r.account))
    | z => stop z)
  if bits x.pte 8 7 ≠ 0 ∨ (r.pinned ∧ ¬ bit x.pte 4) then stop (.fault 3 va wr acc false)
  if ¬ bit x.pte (if wr || acc then 3 else 2) then stop (.fault 3 va wr acc false)
  let pa := bits x.pte 47 16 * 65536 + va % 2 ^ x.log2
  if ¬ (← getS).fenceOk r.p pa then stop (.fault 4 va wr acc false)
  if wr || acc then xltDirty r x
  return pa

/-- The part of [va, va + n) that lies in one 64 KiB page, from va. -/
def pageChunk (va n : Nat) : Nat := min n (65536 - va % 65536)

/-- A read or write of a pinned structure or of local memory, page by page. -/
def chunks : Nat → Nat → Nat → List (Nat × Nat)
  | 0, _, _ => []
  | k + 1, va, n => if n = 0 then [] else
    let c := pageChunk va n
    (va, c) :: chunks k (va + c) (n - c)

def chunksOf (va n : Nat) : List (Nat × Nat) := chunks (n / 65536 + 2) va n

/-- Bytes of local memory at a virtual address. -/
def readLocal (r : XReq) (va n : Nat) : Eng (List Byte) := do
  return (← mapE (chunksOf va n) fun (v, c) => do paBytes r (← xltLocal r v false false) c).flatten

/-- Physical writes of one unit: nothing is written when one of their partly covered lines is uncorrectable
(R345, R370). -/
def paStoreAll (r : XReq) (ws : List (Nat × List Byte)) : Eng Unit := do
  eachM ws fun (pa, _) => reachPa r pa
  let s ← getS
  let bad := ws.filter fun (pa, bs) =>
    (linesOf pa bs.length).any fun l =>
      2 < smGet 0 s.hbm.lineErr l && !(decide (pa ≤ l * 128) && decide (l * 128 + 128 ≤ pa + bs.length))
  eachM (bad.take 1) fun (pa, bs) => paStore r pa bs
  eachM ws fun (pa, bs) => paStore r pa bs

/-- Several writes of local memory as one unit, whole or not at all. -/
def writeLocals (r : XReq) (ws : List (Nat × List Byte)) : Eng Unit := do
  let ps ← mapE (ws.flatMap fun (va, bs) => (chunksOf va bs.length).map fun (v, c) => (v, (bs.drop (v - va)).take c))
    fun (v, bs) => do return (← xltLocal r v true false, bs)
  paStoreAll r ps

/-- Writes local memory at a virtual address, whole or not at all. -/
def writeLocal (r : XReq) (va : Nat) (bs : List Byte) : Eng Unit := writeLocals r [(va, bs)]

/-- An entry of the host-window table (R337): base, size, remote key, queue pair and port; a fault WALK where the
window is invalid or its base is no address of 48 bits (R579). -/
def hostWindow (r : XReq) (va w : Nat) (wr : Bool) : Eng (List Byte) := do
  let s ← getS
  if s.fget rf_prtHostwinBase_count r.p ≤ w then stop (.fault 5 va wr false false)
  let bs ← readLocal { r with pinned := true } (s.fget rf_prtHostwinBase_base r.p * 4096 + 32 * w) 32
  if ¬ fldBit bs 23 7 ∨ 2 ^ 48 ≤ fld bs 0 8 then stop (.fault 5 va wr false false)
  return bs

/-- The window of a loc 2 page is valid (R341). -/
def windowValid (r : XReq) (va w : Nat) (wr : Bool) : Eng Bool :=
  tryCatch (do
    let _ ← hostWindow r va w wr
    return true) fun z => match z with
    | .fault .. => return false
    | z => stop z

/-- As `xltEntry`, for accesses that may reach a host: a cached loc 2 page whose window is not valid is not served (R341). -/
def xltAny (r : XReq) (va : Nat) (wr : Bool) : Eng XEntry := do
  match ← xltCached r va with
  | some e =>
    if bits e.pte 8 7 = 2 then
      if ← windowValid r va (bits e.pte 55 48) wr then return e else xltWalk r va wr false
    else return e
  | none => xltWalk r va wr false

/-- Translation of an access of n bytes within one page (R335 to R340). -/
def xlt (r : XReq) (va n : Nat) (wr : Bool) : Eng Place := do
  if 2 ^ 48 ≤ va then stop (.fault 5 va wr false false)
  let x ← xltAny r va wr
  let loc := bits x.pte 8 7
  if loc = 0 then return .loc (← xltLocal r va wr false)
  if ¬ bit x.pte (if wr then 3 else 2) then stop (.fault 3 va wr false false)
  if wr then xltDirty r x
  let off := bits x.pte 47 16 * 65536 + va % 2 ^ x.log2
  if loc = 1 then
    return .far ⟨wr, false, bits x.pte 63 60, bits x.pte 59 56, bits x.pte 55 52, bits x.pte 51 48, 0, off, va, n, []⟩
  else
    let w := bits x.pte 55 48
    let e ← hostWindow r va w wr
    if fld e 8 8 < off + n then stop (.fault 5 va wr false false)
    return .far ⟨wr, true, 0, 0, 0, 0, w, off, va, n, []⟩

/-- Bytes at a virtual address, local or remote. A remote read stops the engine until its answer has arrived. -/
def readVA (r : XReq) (va n : Nat) : Eng (List Byte) := do
  return (← mapE (chunksOf va n) fun (v, c) => do
    match ← xlt r v c false with
    | .loc pa => paBytes r pa c
    | .far op =>
      match (← getF).rx.find? (fun x => x.1 = v && x.2.length = c) with
      | some x => return x.2
      | none => stop (.remote op)).flatten

/-- Several writes of one unit, whole or not at all: every page is translated and every remote write acknowledged
before a local byte changes. -/
def writeAll (r : XReq) (ws : List (Nat × List Byte)) : Eng Unit := do
  let ps ← mapE (ws.flatMap fun (va, bs) => (chunksOf va bs.length).map fun (v, c) => (v, (bs.drop (v - va)).take c))
    fun (v, bs) => do return (v, bs, ← xlt r v bs.length true)
  eachM ps fun (v, bs, pl) => do
    match pl with
    | .loc _ => return ()
    | .far op => if (← getF).acks.contains v then return () else stop (.remote { op with data := bs })
  paStoreAll r (ps.filterMap fun (_, bs, pl) => match pl with
    | .loc pa => some (pa, bs)
    | .far _ => none)

/-- Translates a range for a write (R70). -/
def translateWrite (r : XReq) (va n : Nat) : Eng Unit :=
  eachM (chunksOf va n) fun (v, c) => do
    let _ ← xlt r v c true

/-- Writes bytes at a virtual address. -/
def writeVA (r : XReq) (va : Nat) (bs : List Byte) : Eng Unit := writeAll r [(va, bs)]

/-- A flight of no descriptor, for accesses outside one. -/
def noFlight : Flight := ⟨0, 0, 0, [], 0, 0, .done, 0, 0, 0, 0, 0, [], [], [], [], [], false⟩

/-- Runs an access outside any descriptor: its answer, none where it stops, and the state. -/
def State.own {α : Type} (s : State) (c : Eng α) : Option α × State :=
  match c.run { s, fl := noFlight } with
  | (.ok a, r) => (some a, r.s)
  | (.error _, r) => (none, r.s)

/-- As `own`, with the reason of a stop. -/
def State.ownE {α : Type} (s : State) (c : Eng α) : Except Stop α × State :=
  let (a, r) := c.run { s, fl := noFlight }
  (a, r.s)

/-- An access of the module on its own account (R580). -/
def accountReq (p : Nat) : XReq := { p := p, kind := 6, unit := 255, account := true }

/-- As `accountReq`, for a structure in pinned pages. -/
def pinnedReq (p : Nat) : XReq := { p := p, kind := 6, unit := 255, pinned := true, account := true }

/-! ### Events that name a partition (R556, R558) -/

/-- A record into a partition's queue: dropped and counted where the queue is full or the write fails (R558). -/
def State.pqPut (s : State) (p : Nat) (r : EvRec) : State :=
  let base := s.fget rf_evtPqBase_base p
  if base = 0 then s
  else
    let size := 2 ^ s.fget rf_evtPqBase_log2Size p
    let h := s.fget rf_evtPqPtr_head p
    let t := s.fget rf_evtPqPtr_tail p
    let drop (s : State) : State :=
      let s := s.fset rf_evtPqPtr_lost p 0 (satBits 16 (s.fget rf_evtPqPtr_lost p + 1))
      (s.withEvt { s.evt with pqLost := p :: s.evt.pqLost.filter (· ≠ p) })
    if size ≤ subMod 17 t h then drop s
    else
      let r := { r with lost := s.evt.pqLost.contains p }
      match s.own (writeLocal (pinnedReq p) (base * 4096 + 32 * (t % size)) (evBytes r)) with
      | (some _, s) =>
        let s := s.withEvt { s.evt with pqLost := s.evt.pqLost.filter (· ≠ p) }
        s.fset rf_evtPqPtr_tail p 0 (t + 1)
      | (none, s) => drop s

/-- An event that names a partition. -/
def State.raise (s : State) (code p : Nat) (x : EvInfo := {}) : State :=
  let (r, s) := s.evNew code (some p) x
  s.pqPut p r

/-- 0x2008 of a failed access on the module's own account, at most once per millisecond per partition and structure;
`va` is the structure's address (R580). -/
def State.tableFailed (s : State) (p struct va cause : Nat) (faultId : Nat := 0) : State :=
  let q := s.part p
  let last := smGet 0 q.tableEvt struct
  if last = 0 ∨ s.since (last - 1) (ms 1) then
    (s.setPart p { q with tableEvt := smSet 0 q.tableEvt struct (s.tick + 1) }).raise 0x2008 p
      ⟨8, p, 0, faultId + (cause <<< 16), va⟩
  else s

/-- The cause that 0x2008 records: R343's, or 7 for an uncorrectable line. -/
def stopCause : Stop → Nat
  | .fault c .. => c
  | .uncorr => 7
  | _ => 0

/-- A read on the module's own account; a failure is skipped and raises 0x2008 (R580). -/
def State.accountRead (s : State) (p struct va n : Nat) : Option (List Byte) × State :=
  match s.ownE (readLocal (accountReq p) va n) with
  | (.ok bs, s) => (some bs, s)
  | (.error e, s) => (none, s.tableFailed p struct va (stopCause e))

/-- A write on the module's own account; a failure is skipped and raises 0x2008 (R580). -/
def State.accountWrite (s : State) (p struct va : Nat) (bs : List Byte) : State :=
  match s.ownE (writeLocal (accountReq p) va bs) with
  | (.ok _, s) => s
  | (.error e, s) => s.tableFailed p struct va (stopCause e)

-- Structures of R580 by which 0x2008 is limited.
def stScale : Nat := 0
def stStats : Nat := 1
def stJobMap : Nat := 2
def stFaultQ : Nat := 3

end Sys2Proof.Machine
end

