-- ==== Sys2Proof/Machine/Fault.lean ====
section
/-! DEFINITION. What happens when an engine stops: translation faults and their records (R343 to R346), uncorrectable
lines, sleeping domains, remote requests; and the descriptor header's fields, which the records name (R116). -/
namespace Sys2Proof.Machine

open Eng

-- Completion statuses (R129).
def stDone : Nat := 0x00
def stDoneFlags : Nat := 0x01
def stCut : Nat := 0x02
def stFault : Nat := 0x03
def stDeadline : Nat := 0x04
def stPoisoned : Nat := 0x05
def stVoided : Nat := 0x06
def stPreempted : Nat := 0x07
def stIllegal : Nat := 0x08
def stAsleep : Nat := 0x09
def stUncorr : Nat := 0x0A

/-- Rank of a status, lowest number highest (R129). -/
def stRank (x : Nat) : Nat :=
  ([stIllegal, stVoided, stPreempted, stCut, stUncorr, stFault, stAsleep, stDeadline, stPoisoned, stDoneFlags,
    stDone].findIdx? (· = x)).getD 11

/-- The higher-ranked of two statuses (R129). -/
def stMax (a b : Nat) : Nat := if stRank b < stRank a then b else a

-- Header fields (R116).
def hOpcode (d : List Byte) : Nat := fld d 0 1
def hEpochCheck (d : List Byte) : Bool := fldBit d 1 5
def hDeferrable (d : List Byte) : Bool := fldBit d 1 4
def hPreemptible (d : List Byte) : Bool := fldBit d 1 3
def hFence (d : List Byte) : Bool := fldBit d 1 2
def hEvent (d : List Byte) : Bool := fldBit d 1 1
def hRecord (d : List Byte) : Bool := fldBit d 1 0
def hTag (d : List Byte) : Nat := fld d 2 2
def hWaitToken (d : List Byte) : Nat := fld d 4 2
def hSignalToken (d : List Byte) : Nat := fld d 6 2
def hWaitValue (d : List Byte) : Nat := fld d 8 4
def hEpoch (d : List Byte) : Nat := fld d 12 2
def hStream (d : List Byte) : Nat := fld d 14 1
def hLevel (d : List Byte) : Nat := fld d 15 1

/-- The engine a descriptor needs. -/
inductive Engine where
  | lattice
  | vector
  | dma
  | gram
  | solver
  | sweep
  | none
deriving DecidableEq, Repr

/-- The engine of each opcode (R116). -/
def engineOf (op : Nat) : Engine :=
  if 0x01 ≤ op ∧ op ≤ 0x04 then .lattice
  else if 0x20 ≤ op ∧ op ≤ 0x25 then .vector
  else if 0x40 ≤ op ∧ op ≤ 0x45 then .dma
  else if 0x60 ≤ op ∧ op ≤ 0x66 then .dma
  else if 0x70 ≤ op ∧ op ≤ 0x75 then .gram
  else if 0x80 ≤ op ∧ op ≤ 0x86 then .solver
  else if op = 0x90 then .lattice
  else if 0x91 ≤ op ∧ op ≤ 0x93 then .sweep
  else .none

/-- The opcode is in use (R116). -/
def opUsed (op : Nat) : Bool :=
  (0x01 ≤ op && op ≤ 0x04) || (0x20 ≤ op && op ≤ 0x25) || (0x40 ≤ op && op ≤ 0x45) || (0x60 ≤ op && op ≤ 0x66)
    || (0x70 ≤ op && op ≤ 0x75) || (0x80 ≤ op && op ≤ 0x86) || (0x90 ≤ op && op ≤ 0x93)
    || (0xA0 ≤ op && op ≤ 0xA3) || op = 0xF0 || op = 0xF1

/-- The DMA engine of a descriptor: index 0 or 1 within the cluster, as its flight recorded it. -/
def dmaEngineOf (fl : Flight) : Nat := fl.aux.headD 0 % 2

/-- The requester of a descriptor's accesses (R343). -/
def Flight.req (fl : Flight) (p : Nat) : XReq :=
  match engineOf (hOpcode fl.bytes) with
  | .lattice => { p := p, kind := 1, unit := fl.core }
  | .vector => { p := p, kind := 2, unit := fl.core }
  | .dma => { p := p, kind := 3, unit := 2 * clusterOf fl.core + dmaEngineOf fl }
  | .gram => { p := p, kind := 4, unit := clusterOf fl.core }
  | .solver => { p := p, kind := 5, unit := clusterOf fl.core }
  | .sweep => { p := p, kind := 7, unit := fl.core }
  | .none => { p := p, kind := 0, unit := fl.core }

/-- The partition of a descriptor. -/
def State.partOfFlight (s : State) (fl : Flight) : Nat := (s.partOf fl.core).getD 0

/-- The partition and requester of the descriptor in progress. -/
def Eng.req : Eng XReq := do
  let r ← get
  return r.fl.req (r.s.partOfFlight r.fl)

/-- The partition of the descriptor in progress. -/
def Eng.part : Eng Nat := do
  let r ← get
  return r.s.partOfFlight r.fl

/-- Raises an event for the descriptor in progress, with its partition, core and tag; its code enters the completion
record (R128). -/
def Eng.event (code aux detail : Nat) : Eng Unit := do
  let r ← get
  let p := r.s.partOfFlight r.fl
  set ({ r with s := r.s.raise code p ⟨1, r.fl.core, hTag r.fl.bytes, aux, detail⟩, fl := { r.fl with event := code } } : Run)

/-- A unit that stops short of its end raises no flags of its own: it will be taken again, or its effects end before it
(R345). -/
def unitOf (f : Eng Unit) : Eng Unit := do
  let before := (← getF).flags
  tryCatch f fun x => do
    match x with
    | .status .. => return ()
    | _ => modF fun fl => { fl with flags := before }
    stop x

/-- The descriptor has pre-emption points within it (R347): those of MAT.MMA and DMA only where its preemptible bit is set
(R66, R140). -/
def Flight.hasPoints (fl : Flight) : Bool :=
  let op := hOpcode fl.bytes
  if op = 0x01 ∨ (0x40 ≤ op ∧ op ≤ 0x45) then hPreemptible fl.bytes
  else op = 0x60 || (0x63 ≤ op && op ≤ 0x66) || (0x71 ≤ op && op ≤ 0x75) || (0x80 ≤ op && op ≤ 0x85) || op = 0x90 || op = 0x91
    || op = 0x93

/-- A sequential preload: it runs to its end whatever cuts it (R71). -/
def isPreload (d : List Byte) : Bool := hOpcode d = 0x02 && fldB d 99 1 0 = 2

/-- A cut or a void has reached the descriptor: it ends once the unit in progress is complete (R71, R103, R132). -/
def Flight.ending (fl : Flight) : Bool := (fl.status = stCut || fl.status = stVoided) && !isPreload fl.bytes

/-- The engine may be stopped between two units of its work; at a pre-emption point where `point` (R347, assumption 2). -/
def pause (point : Bool) : Eng Unit := do
  let r ← get
  if r.fl.ending then stop (.status r.fl.status 0)
  if r.toEnd then return () else stop (.pause (point && r.fl.hasPoints))

/-- A unit of work whose progress the machine's own state records: the remote answers it used are spent, and a pre-emption
point follows where `point`. -/
def unitThen (f : Eng Unit) (point : Bool) : Eng Unit := do
  unitOf f
  modF fun x => { x with rx := [], acks := [] }
  pause point

/-- Runs the units of an operation from its recorded point, advancing the point after each (R345). Between two of them lies
a pre-emption point where `point` of the number of units complete. -/
def unitsAt (count : Nat) (point : Nat → Eng Bool) (f : Nat → Eng Unit) : Eng Unit := do
  let p := (← getF).point
  eachM (rangeFrom p count) fun k => do
    unitOf (f k)
    modF fun x => { x with point := k + 1, rx := [], acks := [] }
    if k + 1 < count then pause (← point (k + 1))

/-- Units with a pre-emption point between any two. -/
def units (count : Nat) (f : Nat → Eng Unit) : Eng Unit := unitsAt count (fun _ => return true) f

/-- Units of a DMA descriptor, of which the first k move `done k` bytes: its pre-emption points are the 64 KiB boundaries of
bytes_done, which the record's detail holds (R128, R134, R140). -/
def movingUnits (count : Nat) (done : Nat → Nat) (f : Nat → Eng Unit) : Eng Unit :=
  unitsAt count (fun k => return done (k - 1) / 65536 < done k / 65536) fun k => do
    f k
    modF fun x => { x with detail := done (k + 1) }

/-! ### Fault records (R343) -/

/-- The 32 bytes of a fault record. -/
def faultBytes (va id kind unit : Nat) (joined acc wr : Bool) (cause tag tick op stream : Nat) : List Byte :=
  leBytes 8 va ++ leBytes 2 id ++ leBytes 1 kind ++ leBytes 1 unit
    ++ leBytes 1 (b2n wr + 2 * b2n acc + 4 * b2n joined) ++ leBytes 1 cause ++ leBytes 2 tag ++ leBytes 8 tick
    ++ leBytes 1 op ++ leBytes 1 (stream % 4) ++ leBytes 6 0

/-- Requesters waiting at a partition's faults, shown in PRT_STATUS (R355). -/
def State.syncFaults (s : State) (p : Nat) : State :=
  s.fset rf_prtStatus_faultsWaiting p 0
    ((s.part p).faults.foldl (fun a f => a + f.joined.length + f.fails.length + f.owed.length) 0)

/-- The fault queue has room (R343). -/
def State.faultqRoom (s : State) (p : Nat) : Bool :=
  subMod 9 (s.fget rf_prtFaultqPtr_tail p) (s.fget rf_prtFaultqPtr_head p) < 256

/-- Writes a record at the tail of the fault queue; a lost record sets faultq_error and raises 0x2008 (R343). The
answer is the record's index, none where it is lost. -/
def State.faultqPut (s : State) (p id cause va : Nat) (rec : List Byte) : Option Nat × State :=
  let t := s.fget rf_prtFaultqPtr_tail p
  match s.ownE (writeLocal (pinnedReq p) (s.fget rf_prtFaultqBase_base p * 8192 + 32 * (t % 256)) rec) with
  | (.ok _, s) => (some (t % 256), (s.fset rf_prtFaultqPtr_tail p 0 (t + 1)).count .prtCount p 1)
  | (.error _, s) => (none, (s.fset rf_prtStatus_faultqError p 0 1).tableFailed p stFaultQ va cause id)

/-- The event that ends a descriptor with FAULT, by cause (R344, R363). -/
def faultEvent (cause : Nat) : Nat :=
  if cause = 1 ∨ cause = 2 then 0x2001 else if cause = 4 then 0x2003 else 0x2002

/-- The event of a fault that ends an operation, with its source and the descriptor's tag; for a fence violation heartwood also
raises 0xB004 (R344, R363). -/
def State.faultRaise (s : State) (p ev kind index tag id cause va : Nat) : State :=
  let s := s.raise ev p ⟨kind, index, tag, id + (cause <<< 16), va⟩
  if cause = 4 then s.raise 0xB004 p ⟨8, p, tag, 0, va⟩ else s

/-- The descriptor completes with FAULT, or with the event of a timeout (R344, R346): its flight and the state with
the event raised. -/
def State.faultEnds (s : State) (p : Nat) (fl : Flight) (ev id cause va : Nat) : State × Flight :=
  (s.faultRaise p ev 1 fl.core (hTag fl.bytes) id cause va,
   { fl with phase := .done, status := stMax fl.status stFault, event := ev })

/-- The next fault_id, never 0 (R343). -/
def nextId (x : Nat) : Nat := if x % 65536 = 65535 then 1 else x % 65536 + 1

def State.setFault (s : State) (p : Nat) (f : XFault) : State :=
  let q := s.part p
  (s.setPart p { q with faults := q.faults.map fun g => if g.id = f.id then f else g }).syncFaults p

/-- The fault is unresolved: sapwood has yet to resolve it, or its record waits for room and requesters for the record. -/
def XFault.unresolved (f : XFault) : Bool := f.waits || !f.fails.isEmpty || !f.owed.isEmpty

/-- An unresolved fault on the 64 KiB page with the cause (R343). -/
def State.faultOn (s : State) (p cause va : Nat) : Option XFault :=
  (s.part p).faults.find? fun f => f.unresolved && f.va / 65536 = va / 65536 && f.cause = cause

/-- A further fault joins an unresolved one: its record shows joined; `put` adds a requester that stops at it (R343). A record
in memory that cannot be written is left as it stands, which raises 0x2008 (R580). -/
def State.faultJoin (s : State) (p : Nat) (f : XFault) (put : XFault → XFault) : State :=
  let rec' := patchN f.record 12 1 (fld f.record 12 1 ||| 4)
  let s := s.setFault p (put { f with record := rec' })
  match f.index with
  | some i =>
    match s.ownE (writeLocal (pinnedReq p) (s.fget rf_prtFaultqBase_base p * 8192 + 32 * i + 12) (slice rec' 12 1)) with
    | (.ok _, s) => s
    | (.error _, s) => s.tableFailed p stFaultQ f.va f.cause f.id
  | none => s

/-- A fault is recorded: it joins an unresolved one, or is written where the queue has room, or is held until it has. `put`
adds the requester to a fault that lasts. The answer: its id, and whether its record is written (R343). -/
def State.faultNote (s : State) (p : Nat) (r : XReq) (fl : Flight) (cause va : Nat) (wr acc waits : Bool)
    (put : XFault → XFault) : Nat × Bool × State :=
  match s.faultOn p cause va with
  | some f => (f.id, f.written, s.faultJoin p f (if waits || !f.written then put else id))
  | none =>
    let q := s.part p
    let id := q.nextFault
    let s := s.setPart p { q with nextFault := nextId id }
    let record := faultBytes va id r.kind r.unit false acc wr cause (hTag fl.bytes) s.tick (hOpcode fl.bytes) fl.stream
    let (written, i, s) := if s.faultqRoom p then
        let (i, s) := s.faultqPut p id cause va record
        (true, i, s)
      else (false, none, s)
    if waits || !written then
      let q := s.part p
      (id, written, (s.setPart p { q with faults := q.faults
        ++ [put ⟨id, va, cause, s.tick, false, written, i, [], [], [], record⟩] }).syncFaults p)
    else (id, written, s)

/-- A descriptor meets a translation fault (R343, R344). -/
def State.faultHit (s : State) (p : Nat) (r : XReq) (fl : Flight) (cause va : Nat) (wr acc mayWait : Bool) :
    State × Flight :=
  let waits : Bool := mayWait && (cause = 1 || cause = 2) && s.fbit rf_prtCtl_faultWait p
  let me := (fl.core, fl.stream, fl.n)
  let (id, written, s) := s.faultNote p r fl cause va wr acc waits fun f =>
    if waits then { f with waits := true, joined := f.joined ++ [me] } else { f with fails := f.fails ++ [me] }
  if waits || !written then (s, { fl with phase := .fault id }) else s.faultEnds p fl (faultEvent cause) id cause va

/-- A fault that no descriptor waits at: where its record is written, its event is raised and the answer is true; otherwise what
follows is owed (R343). -/
def State.faultOwed (s : State) (p : Nat) (r : XReq) (fl : Flight) (cause va : Nat) (wr acc : Bool) (o : Owed) : Bool × State :=
  let (id, written, s) := s.faultNote p r fl cause va wr acc false fun f => { f with owed := f.owed ++ [o] }
  if written then
    let (kind, index) := match o with
      | .unit k i => (k, i)
      | .fetch c .. => (1, c)
      | .completion c _ => (1, c)
    (true, s.faultRaise p (faultEvent cause) kind index (hTag fl.bytes) id cause va)
  else (false, s)

/-- A stream is held at a fault of its own whose record is not yet written (R343). -/
def State.streamHeld (s : State) (p core stream : Nat) : Bool :=
  (s.part p).faults.any fun f => f.owed.any fun o => match o with
    | .fetch c st _ => c = core && st = stream
    | .completion c st => c = core && st = stream
    | .unit .. => false

/-- An event that names a partition where there is one. -/
def State.raiseOpt (s : State) (code : Nat) (p : Option Nat) (x : EvInfo) : State :=
  match p with
  | some p => s.raise code p x
  | none => s.raiseMod code x

/-- 0x8005 at most once per millisecond per domain, with a count (R495). -/
def State.asleepEvent (s : State) (d : Nat) (p : Option Nat) (tag : Nat) : State :=
  let x := s.dom d
  let c := x.asleepCount + 1
  let due : Bool := match x.asleepTick with
    | some t => s.since t (ms 1)
    | none => true
  if due then
    (s.setDom d { x with asleepCount := 0, asleepTick := some s.tick }).raiseOpt 0x8005 p ⟨6, d, tag, c, s.domState d⟩
  else s.setDom d { x with asleepCount := c }

/-- Records that an access is held at a sleeping domain, which raises a wake event (R492, R494). -/
def State.holdAccess (s : State) (d : Nat) : State :=
  let s := s.nudge d
  let x := s.dom d
  s.setDom d { x with heldSince := some (x.heldSince.getD s.tick) }

/-- The message that carries a remote access: a READ or WRITE frame in the request class to a peer (R338, R403), or an
RDMA READ or RDMA WRITE on the window's queue pair (R337). -/
def State.remoteMsg (s : State) (p id : Nat) (op : RemoteOp) (wnd : List Byte) : Msg :=
  if op.host then
    .roce { port := fldB wnd 23 1 0, qpn := fld wnd 20 3, opcode := if op.write then 0x0A else 0x0C, psn := 0,
            va := fld wnd 0 8 + op.addr, rkey := fld wnd 16 4, len := op.len, payload := op.data, reqId := id }
  else
    .frame { cls := 3, dst := ⟨op.x, op.y, op.z, op.part⟩,
             src := ⟨s.fget rf_fabCoord_x, s.fget rf_fabCoord_y, s.fget rf_fabCoord_z, p⟩,
             op := if op.write then 0x01 else 0x02, reqId := id,
             ops := leBytes 8 op.addr ++ (if op.write then leBytes 8 0 else leBytes 4 op.len ++ leBytes 4 0),
             payload := op.data }

/-- A remote access is sent, in pieces of at most 4,096 bytes (R403), and the descriptor waits for the answers. -/
def State.remoteSend (s : State) (p : Nat) (fl : Flight) (op : RemoteOp) : State × Flight :=
  let (wnd, s) := if op.host then
      s.own (readLocal (pinnedReq p) (s.fget rf_prtHostwinBase_base p * 4096 + 32 * op.window) 32)
    else (none, s)
  let first := s.nextReq
  let pieces := List.range (ceilDiv op.len 4096)
  let s := pieces.foldl (fun s i =>
    let id := s.nextReq
    let n := min 4096 (op.len - 4096 * i)
    let piece : RemoteOp := { op with addr := op.addr + 4096 * i, va := op.va + 4096 * i, len := n,
                                      data := (op.data.drop (4096 * i)).take n }
    let m := s.remoteMsg p id piece (wnd.getD [])
    (((s.withNextReq (w32 (id + 1))).withOut (s.out ++ [m])).withRequests (s.requests ++ [⟨id, p, fl.core, fl.stream, fl.n, some m, s.tick, none, 0,
        [0, piece.va, n, b2n op.write, op.va, op.len]⟩]))) s
  (s, { fl with phase := .remote first })

/-- The message with a request_id. -/
def withReqId (id : Nat) : Msg → Msg
  | .frame f => .frame { f with reqId := id }
  | .extra f x => .extra { f with reqId := id } x
  | .grove g b => .grove { g with reqId := id } b
  | .roce r => .roce { r with reqId := id }
  | m => m

/-- A request of a descriptor, or a wait before its next one; its flight awaits it. -/
def State.request (s : State) (p : Nat) (fl : Flight) (m : Option Msg) (wait : Option Nat) (aux : List Nat) :
    State × Flight :=
  let id := s.nextReq
  let m := m.map (withReqId id)
  ((((s.withNextReq (w32 (id + 1))).withOut (s.out ++ m.toList)).withRequests (s.requests ++ [⟨id, p, fl.core, fl.stream, fl.n, m, s.tick, wait, 0, aux⟩])),
   { fl with phase := .remote id })

/-- Where a descriptor stands once its engine has stopped. -/
def stopRun (x : Stop) (r : Run) : Run :=
  let p := r.s.partOfFlight r.fl
  match x with
  | .fault c va wr acc w =>
    let (s, fl) := r.s.faultHit p (r.fl.req p) r.fl c va wr acc w
    { s, fl }
  | .uncorr => { r with fl := { r.fl with phase := .done, status := stMax r.fl.status stUncorr, event := 0x3002 } }
  | .asleep d =>
    { s := r.s.asleepEvent d (some p) (hTag r.fl.bytes)
      fl := { r.fl with phase := .done, status := stMax r.fl.status stAsleep, event := 0x8005 } }
  | .held d => { s := r.s.holdAccess d, fl := { r.fl with phase := .held d } }
  | .status st ev => { r with fl := { r.fl with
      phase := .done, status := stMax r.fl.status st, event := if ev = 0 then r.fl.event else ev } }
  | .tap => { r with fl := { r.fl with phase := .tap } }
  | .remote op =>
    let (s, fl) := r.s.remoteSend p r.fl op
    { s, fl }
  | .await => { r with fl := { r.fl with phase := .awaiting } }
  | .pause point => { r with fl := { r.fl with phase := .running point } }
  | .queued => { r with fl := { r.fl with phase := .solver } }
  | .request m aux =>
    let (s, fl) := r.s.request p r.fl (some m) none aux
    { s, fl }
  | .wait t =>
    let (s, fl) := r.s.request p r.fl none (some (r.s.tick + t)) []
    { s, fl }

/-- Runs an engine's computation for a descriptor to where it stops or pauses, or with `toEnd` to its end. -/
def runEng (c : Eng Unit) (s : State) (fl : Flight) (toEnd : Bool := false) : Run :=
  match c.run { s, fl := { fl with phase := .done }, toEnd } with
  | (.ok _, r) => r
  | (.error x, r) => stopRun x r

/-! ### Flights -/

/-- The descriptor in flight with a core, stream and number. -/
def State.flight (s : State) (core stream n : Nat) : Option Flight :=
  s.flights.find? fun f => f.core = core ∧ f.stream = stream ∧ f.n = n

/-- The state with a flight replaced. -/
def State.putFlight (s : State) (fl : Flight) : State :=
  s.withFlights (s.flights.map fun f =>
      if f.core = fl.core ∧ f.stream = fl.stream ∧ f.n = fl.n then fl else f)

/-- Descriptors of a stream that have issued and not completed. -/
def State.inFlight (s : State) (core stream : Nat) : List Flight :=
  s.flights.filter fun f => f.core = core ∧ f.stream = stream

end Sys2Proof.Machine
end

