-- ==== Sys2Proof/Machine/Events.lean ====
section
/-! DEFINITION. The event queues' readers, the archive and the push (R557 to R561). -/
namespace Sys2Proof.Machine

-- Statuses of a register operation (R552).
def rsOk : Nat := 0
def rsDenied : Nat := 1
def rsUnmapped : Nat := 2
def rsAlign : Nat := 3
def rsAsleep : Nat := 4
def rsReserved : Nat := 5

/-- A write that sapwood may not make (R537, R550, R557). -/
def State.boundViolation (s : State) (off : Nat) : State := s.raiseMod 0xB004 ⟨0, 0, 0, 0, off⟩

/-- What a write reserved to another agent answers (R550): DENIED to the host, 0xB004 for sapwood. -/
def State.denied (s : State) (a : Agent) (off : Nat) : Nat × State :=
  match a with
  | .sapwood => (rsDenied, s.boundViolation off)
  | _ => (rsDenied, s)

/-- A pointer between head and tail, both free-running (R557, R561). -/
def between (n head tail v : Nat) : Bool := subMod n v head ≤ subMod n tail head

/-- EVT_MQ_PTR.head written by an agent (R557): the status of the write, and the state. -/
def mqHead (a : Agent) (v : Nat) (s : State) : Nat × State :=
  let owner := if s.fbit rf_evtHostCtl_sapwoodOwnsMq then Agent.sapwood else Agent.host
  let h := s.fget rf_evtMqPtr_head
  if a ≠ owner ∧ bits v 12 0 ≠ h then s.denied a (regOffset ⟨.evtMqPtr, 0, 0⟩)
  else if a = owner ∧ between 13 h (s.fget rf_evtMqPtr_tail) (bits v 12 0) then
    (rsOk, s.fset rf_evtMqPtr_head 0 0 (bits v 12 0))
  else (rsOk, s)

def execMqHeadWrite (agent : Agent) (value : Word) (s : State) : Host.Outcome State Fault Refusal :=
  done (mqHead agent value.toNat s).2

/-- A write of EVT_PQ_BASE (R561). -/
def pqBase (p v : Nat) (s : State) : State :=
  let s := s.fset rf_evtPqBase_base p 0 (bits v 47 12)
  let s := if 6 ≤ bits v 4 0 ∧ bits v 4 0 ≤ 16 then s.fset rf_evtPqBase_log2Size p 0 (bits v 4 0) else s
  (s.fset rf_evtPqPtr_head p 0 0).fset rf_evtPqPtr_tail p 0 0

def execPqBaseWrite (p : Fin 16) (value : Word) (s : State) : Host.Outcome State Fault Refusal :=
  done (pqBase p value.toNat s)

/-- Up to 64 records go to the host on the admin queue pair of push_port (R560). -/
def execEventPush (s : State) : Host.Outcome State Fault Refusal :=
  let rs := s.evt.toPush.take 64
  done (if rs.isEmpty then s
    else
      let body := leBytes 1 0x08 ++ leBytes 1 rs.length ++ rs.flatMap evBytes
      ((s.withEvt { s.evt with toPush := s.evt.toPush.drop 64 }).withOut (s.out ++ [.push (s.fget rf_evtHostCtl_pushPort) body])))

/-- Records of the archive's ring (R559). -/
def archiveSize : Nat := 1879048192

/-- Records not yet archived are written, in sequence order. -/
def State.archiveAll (s : State) : State :=
  let a := s.evt.archive ++ s.evt.toArchive.map fun r => { r with lost := false }
  let a := a.drop (a.length - archiveSize)
  let s := s.withEvt { s.evt with archive := a, toArchive := [] }
  match a.head?, a.getLast? with
  | some o, some n => (s.fset rf_evtArchStatus_oldest 0 0 o.seq).fset rf_evtArchStatus_newest 0 0 n.seq
  | _, _ => s

def execArchiveFlush (s : State) : Host.Outcome State Fault Refusal := done s.archiveAll

/-- EVT_ARCH_READ.first written (R559, R561). -/
def archRead (v : Nat) (s : State) : State :=
  (s.fset rf_evtArchRead_busy 0 0 1).withEvt { s.evt with archFirst := bits v 31 0 }

def execArchRead (first : BitVec 32) (s : State) : Host.Outcome State Fault Refusal := done (archRead first.toNat s)

/-- The window holds 128 records from the first on; records outside the archive read as zero. -/
def execArchReadDone (s : State) : Host.Outcome State Fault Refusal :=
  done (if s.fbit rf_evtArchRead_busy then
      let w := (List.range 128).flatMap fun i =>
        match s.evt.archive.find? fun r => r.seq = w32 (s.evt.archFirst + i) with
        | some r => evBytes r
        | none => List.replicate 32 0
      ((s.fset rf_evtArchRead_busy 0 0 0).withEvt { s.evt with archWin := w })
    else s)

end Sys2Proof.Machine
end

