-- ==== Sys2Proof/Machine/Issue.lean ====
section
/-! DEFINITION. The streams: fetch windows, when a descriptor may issue (R112 to R115, R120, R124), what issuing and
completing do (R117, R118, R121, R128 to R130). -/
namespace Sys2Proof.Machine

open Eng

-- Stream states (R130).
def ssDisabled : Nat := 0
def ssIdle : Nat := 1
def ssRunning : Nat := 2
def ssStopped : Nat := 3
def ssDraining : Nat := 4
def ssSaved : Nat := 5
def ssHalted : Nat := 6

def State.strState (s : State) (core stream : Nat) : Nat := s.fget rf_corStreamCtl_state core stream
def State.setStr (s : State) (core stream st : Nat) : State := s.fset rf_corStreamCtl_state core stream st
def State.strIssue (s : State) (core stream : Nat) : Nat := s.fget rf_corStreamHead_issue core stream
def State.strRetire (s : State) (core stream : Nat) : Nat := s.fget rf_corStreamHead_retire core stream
def State.strTail (s : State) (core stream : Nat) : Nat := s.fget rf_corStreamTail_tail core stream
def State.ringSize (s : State) (core stream : Nat) : Nat := 2 ^ s.fget rf_corStreamBase_log2Size core stream

/-- Key of a stream in the fetch windows. -/
def strKey (core stream : Nat) : Nat := 3 * core + stream

def State.window (s : State) (core stream : Nat) : List Fetched := smGet [] s.windows (strKey core stream)
def State.setWindow (s : State) (core stream : Nat) (w : List Fetched) : State :=
  s.withWindows (smSet [] s.windows (strKey core stream) w)

-- States of R348.
def psNone : Nat := 0
def psStopping : Nat := 1
def psSaving : Nat := 2
def psSaved : Nat := 3
def psRestoring : Nat := 4

def State.preState (s : State) (p : Nat) : Nat := s.fget rf_prtStatus_preemptState p

/-- The partition admits new work: it is not being pre-empted or saved (R348). -/
def State.admits (s : State) (p : Nat) : Bool := s.fget rf_prtStatus_preemptState p = 0

/-- A wait token outside a header or payload that breaks R117: reserved, or allowed only for signals. -/
def badWait (x : Nat) : Bool := !(tokWaitable x || x = 0xFFFF)

/-- A signal token that breaks R117: reserved, or allowed only for waits. -/
def badSignal (x : Nat) : Bool := !(tokSignalable x || x = 0xFFFF)

/-- The header breaks R117. -/
def hdrIllegal (d : List Byte) (stream : Nat) : Bool :=
  !opUsed (hOpcode d) || fldB d 1 7 6 ≠ 0 || (hDeferrable d && !(hOpcode d ≤ 0x04 || (0x20 ≤ hOpcode d && hOpcode d ≤ 0x25)
    || (0x40 ≤ hOpcode d && hOpcode d ≤ 0x45)))
    || hStream d ≠ stream || hLevel d ≠ 1 || badWait (hWaitToken d) || badSignal (hSignalToken d)

/-- The fence condition of R124: every earlier descriptor of the stream has completed, where the header or SYN.FENCE of
scope 0 asks for it; every descriptor of the core that had issued when SYN.FENCE of scope 1 was fetched. -/
def State.fenceDone (s : State) (core stream : Nat) (f : Fetched) : Bool :=
  let isFence : Bool := hOpcode f.bytes = 0xA2
  let scope := fldBit f.bytes 16 0
  let before (n : Nat) : Bool := subMod 32 n (s.strRetire core stream) < subMod 32 f.n (s.strRetire core stream)
  let earlier : Bool := ((s.inFlight core stream).all fun g => !before g.n) && (s.window core stream).all fun g => !before g.n
  (!(hFence f.bytes || (isFence && !scope)) || earlier)
    && (!(isFence && scope) || f.before.all fun (st, n) => (s.flight core st n).isNone)

/-- The descriptor is treated as deferrable: flagged, and its deferral has not ended (R113). -/
def State.defers (s : State) (core stream : Nat) (f : Fetched) : Bool :=
  hDeferrable f.bytes && !f.expired && f.far < 7 && s.fget rf_corStreamCtl_deferLimit core stream ≠ 0
    && !hdrIllegal f.bytes stream

/-- The descriptor is next in ring order, or passes only deferrable descriptors within the window (R112, R113). -/
def State.inTurn (s : State) (core stream : Nat) (f : Fetched) : Bool :=
  let ahead := (s.window core stream).filter fun g =>
    subMod 32 g.n (s.strIssue core stream) < subMod 32 f.n (s.strIssue core stream)
  ahead.all fun g => s.defers core stream g && !s.defers core stream f && !hFence f.bytes && subMod 32 f.n g.n < 8

/-- The descriptor is ready: its stream runs, its wait and fence hold, fewer than 8 of its stream are in flight, and
no SYN.FENCE of the stream is (R112, R124). -/
def State.ready (s : State) (core stream : Nat) (f : Fetched) : Bool :=
  s.strState core stream = ssRunning
    && (match s.partOf core with | some p => s.admits p && !s.streamHeld p core stream | none => false)
    && (hdrIllegal f.bytes stream || s.tokWait core (hWaitToken f.bytes) (hWaitValue f.bytes))
    && s.fenceDone core stream f && (s.inFlight core stream).length < 8
    && (s.inFlight core stream).all (fun g => hOpcode g.bytes ≠ 0xA2) && s.inTurn core stream f

/-! ### The lattice's hold (R54, R58) -/

def State.lat (s : State) (core : Nat) : Lattice := smGet .reset s.lattices core
def State.setLat (s : State) (core : Nat) (x : Lattice) : State := s.withLattices (smSet .reset s.lattices core x)

def latNone : Nat := 0xF
def latSolver : Nat := 3

/-- A MAT descriptor. -/
def isMat (d : List Byte) : Bool := 0x01 ≤ hOpcode d && hOpcode d ≤ 0x04

def matAcquire (d : List Byte) : Bool := fldBit d 98 1
def matRelease (d : List Byte) : Bool := fldBit d 98 2

/-- A MAT.MMA, or a MAT.LOAD_ACC in mode 2: it works on the live plane. -/
def matLive (d : List Byte) : Bool := hOpcode d = 0x01 || (hOpcode d = 0x02 && fldB d 99 1 0 = 2)

/-- A MAT descriptor's hold rule lets it run now (R58, R59). -/
def State.latOpen (s : State) (core stream : Nat) : Bool :=
  let h := s.fget rf_corLatStatus_holder core
  h = stream || (h = latNone && !s.fbit rf_corLatStatus_solverWaiting core)

/-- No descriptor of the core works on the live plane. -/
def State.liveFree (s : State) (core : Nat) : Bool :=
  s.flights.all fun f => f.core ≠ core || !matLive f.bytes || f.phase = .done

/-- The lattice takes a MAT descriptor: its hold rule, the live plane free, at most two background operations, and for
MAT.SWAP none (R53, R54, R58). -/
def State.latTakes (s : State) (core stream : Nat) (d : List Byte) : Bool :=
  s.latOpen core stream
    && (if hOpcode d = 0x04 then s.liveFree core && (s.lat core).bound.isEmpty
        else if matLive d then s.liveFree core
        else (s.lat core).bound.length < 2)

/-! ### What DMA engines wait for (R261, R286, R317, R481) -/

def State.bkt (s : State) (p n : Nat) : Option Bkt := (s.part p).bkts.find? (·.n = n)

/-- An epoch has reached its settled point or become final without one (R159, R261). -/
def State.epochFinal (s : State) (p e : Nat) : Bool :=
  e < s.epoch p && match (s.part p).hist.find? (·.epoch = e) with
    | some r => r.verdict ≠ 0 || r.settled || r.rolledBack
    | none => true

/-- An epoch is that of the partition's most recent settled point (R159): an epoch whose record shows that it did not
settle is none, whatever the register holds before a first settled point. -/
def State.lastSettled (s : State) (p e : Nat) : Bool :=
  e = s.fget rf_strSettledEpoch_epoch p && match (s.part p).hist.find? (·.epoch = e) with
    | some r => r.settled
    | none => true

/-- A COL.PERMUTE of the partition has issued and not completed (R317). -/
def State.permuting (s : State) (p : Nat) : Bool :=
  s.flights.any fun f => hOpcode f.bytes = 0x64 && s.partOf f.core = some p

def opnBucket (d : List Byte) : Nat := fld d 36 2

/-- The bucket unit accepts an opening: the bucket is IDLE, or CLOSED with a final epoch (R261, R286), and no COL.PERMUTE
runs (R317). -/
def State.bucketFree (s : State) (p : Nat) (d : List Byte) : Bool :=
  !s.permuting p && match s.bkt p (opnBucket d) with
    | none => true
    | some b => (b.state = 3 || (b.state = 0 && !b.failed)) && s.epochFinal p b.epoch

/-- The store takes the descriptor: it is ready, and sapwood does not restart (R480, R481). -/
def tapAccepts (s : State) (_ : List Byte) : Bool :=
  s.fbit rf_tapStatus_ready && !s.fbit rf_glbStatus_sapwoodRestarting

/-- The engine would take the descriptor now: one that it would not is no rival of others (R112, R114). -/
def State.engineTakes (s : State) (core stream : Nat) (d : List Byte) : Bool :=
  if isMat d then s.latTakes core stream d
  else if hOpcode d = 0x44 ∨ hOpcode d = 0x45 then tapAccepts s d
  else if hOpcode d = 0x61 then (match s.partOf core with | some p => s.bucketFree p d | none => false)
  else true

/-! ### Arbitration (R113 to R115) -/

/-- The DMA engine hint of a descriptor: its engine field (R138, R285, R322 to R325, R479); descriptors without one take either. -/
def dmaHint (d : List Byte) : Nat :=
  if 0x40 ≤ hOpcode d ∧ hOpcode d ≤ 0x43 then fldB d 72 1 0
  else if hOpcode d = 0x44 ∨ hOpcode d = 0x45 then fldB d 49 1 0
  else if hOpcode d = 0x60 then fldB d 54 1 0
  else if hOpcode d = 0x63 then fldB d 67 1 0
  else if hOpcode d = 0x64 then fldB d 81 1 0
  else if hOpcode d = 0x65 then fldB d 105 1 0
  else if hOpcode d = 0x66 then fldB d 73 1 0
  else 2

/-- The engines a descriptor needs: that of its opcode, and a DMA engine for the update group's data movement (R115). -/
def enginesOf (d : List Byte) : List Engine :=
  [engineOf (hOpcode d)].filter (· ≠ .none) ++ (if 0x90 ≤ hOpcode d ∧ hOpcode d ≤ 0x93 then [.dma] else [])

/-- A descriptor may use an engine: of a cluster's two DMA engines number eng, or either (R115). -/
def wantsEngine (e : Engine) (eng : Nat) (d : List Byte) : Bool :=
  (enginesOf d).contains e && (e ≠ .dma || dmaHint d = 2 || dmaHint d = eng)

/-- The core's descriptors that are ready for an engine apart from their deferral (R112). -/
def State.candidates (s : State) (core : Nat) (e : Engine) (eng : Nat) : List (Nat × Fetched) :=
  (List.range 3).flatMap fun st =>
    ((s.window core st).filter fun g => s.ready core st g && wantsEngine e eng g.bytes
      && !hdrIllegal g.bytes st && s.engineTakes core st g.bytes).map fun g => (st, g)

/-- The core's non-deferrable descriptors that are ready for an engine (R113). -/
def State.rivals (s : State) (core : Nat) (e : Engine) (eng : Nat) : List (Nat × Fetched) :=
  (s.candidates core e eng).filter fun (st, g) => !s.defers core st g

/-- The core's descriptors among which an engine grants: the non-deferrable ones that are ready, and the deferrable ones
where there is none (R113, R114). -/
def State.contenders (s : State) (core : Nat) (e : Engine) (eng : Nat) : List (Nat × Fetched) :=
  if (s.rivals core e eng).isEmpty then s.candidates core e eng else s.rivals core e eng

/-- The solver unit asks for the engine (R59, R113). -/
def State.solverAsks (s : State) (core : Nat) (d : List Byte) : Bool :=
  engineOf (hOpcode d) = .lattice && s.fbit rf_corLatStatus_solverWaiting core

/-- Number of an engine in the arbiter's memory. -/
def engineNo : Engine → Nat
  | .lattice => 0
  | .vector => 1
  | .dma => 2
  | .gram => 3
  | .solver => 4
  | .sweep => 5
  | .none => 6

/-- Key of an arbiter's memory of its last grant: per core and engine. -/
def grantKey (core : Nat) (e : Engine) : Nat := 8 * core + engineNo e

/-- Distance of a stream after the one granted last, in round-robin order. -/
def rrDist (m last x : Nat) : Nat := (x + m - last - 1 % m) % m

/-- The arbiter's choice among streams: highest priority, then round-robin after the last grant (R114). -/
def State.beats (s : State) (core : Nat) (e : Engine) (a b : Nat) : Bool :=
  let pr := fun st => s.fget rf_corStreamCtl_priority core st
  let last := smGet 2 s.granted (grantKey core e)
  pr b < pr a || (pr a = pr b && rrDist 3 last a ≤ rrDist 3 last b)

/-- The arbiter of a lattice, vector engine or DMA share grants this stream: no other stream's ready descriptor for the
engine beats it (R114). -/
def State.granted? (s : State) (core stream eng : Nat) (d : List Byte) : Bool :=
  (enginesOf d).all fun e => (e ≠ .lattice && e ≠ .vector && e ≠ .dma)
    || (s.contenders core e eng).all fun (st, _) => st = stream || s.beats core e stream st

/-- Core within the cluster that a DMA engine admitted last, by engine (R115). -/
def dmaCoreKey (cluster eng : Nat) : Nat := 512 + 2 * cluster + eng

/-- A cluster's DMA engine admits this core: no other core of the cluster with a ready descriptor for it comes first in
round-robin order (R115). -/
def State.dmaCoreTurn (s : State) (core eng : Nat) (d : List Byte) : Bool :=
  !(enginesOf d).contains .dma ||
    let last := smGet 3 s.granted (dmaCoreKey (clusterOf core) eng)
    ((List.range 4).filter fun k => 4 * clusterOf core + k ≠ core).all fun k =>
      (s.contenders (4 * clusterOf core + k) .dma eng).isEmpty || rrDist 4 last (core % 4) < rrDist 4 last k

/-- A deferrable descriptor gives way: a non-deferrable one is ready for its engine, or the solver unit asks for it
(R113). -/
def State.givesWay (s : State) (core stream eng : Nat) (f : Fetched) : Bool :=
  s.defers core stream f
    && (s.solverAsks core f.bytes || (enginesOf f.bytes).any fun e => !(s.rivals core e eng).isEmpty)

/-- The descriptor may issue now (R112 to R115). -/
def State.mayIssue (s : State) (core stream eng : Nat) (f : Fetched) : Bool :=
  s.ready core stream f
    && (hdrIllegal f.bytes stream
      || (!s.givesWay core stream eng f && s.granted? core stream eng f.bytes && s.dmaCoreTurn core eng f.bytes))

/-- The domain a descriptor's engine lies in (R494). -/
def engineDomain (core : Nat) (e : Engine) : Nat :=
  match e with
  | .gram | .solver => domCluster (clusterOf core)
  | _ => domCore core

/-- A descriptor stands at a pre-emption point (R347): at one of its own, in the solver's queue, at a fault, or waiting for a
condition. A wait is none for a descriptor that completes before its engine stops (R66, R68, R140). -/
def atPoint (fl : Flight) : Bool :=
  match fl.phase with
  | .running point => point
  | .solver | .fault _ => true
  | .tap => fl.hasPoints
  | .awaiting => !(isMat fl.bytes || (0x40 ≤ hOpcode fl.bytes && hOpcode fl.bytes ≤ 0x45 && !hPreemptible fl.bytes))
  | _ => false

/-- The engine may go on past a pre-emption point: its partition admits work, and its domain is awake (R348, R491). -/
def State.goes (s : State) (fl : Flight) : Bool :=
  s.admits (s.partOfFlight fl) && s.awake (engineDomain fl.core (engineOf (hOpcode fl.bytes)))

/-- The number of the oldest descriptor that has not issued, once f has (R110, R113). -/
def nextIssue (w : List Fetched) (f : Fetched) : Nat :=
  match w.filter (fun g => g.n ≠ f.n) with
  | [] => w32 (f.n + f.far + 1)
  | g :: _ => g.n

/-- The window once f has issued: descriptors it passed remember how far (R113). -/
def windowAfter (issue : Nat) (w : List Fetched) (f : Fetched) : List Fetched :=
  (w.filter fun g => g.n ≠ f.n).map fun g =>
    if subMod 32 g.n issue < subMod 32 f.n issue then { g with far := max g.far (subMod 32 f.n g.n) } else g

/-- The flight of a descriptor at issue. -/
def newFlight (s : State) (p core stream : Nat) (f : Fetched) (aux : List Nat) : Flight :=
  { core := core, stream := stream, n := f.n, bytes := f.bytes, startTick := s.tick, epoch := s.epoch p, phase := .done,
    status := stDone, flags := 0, event := 0, detail := 0, point := 0, aux := aux, rx := [], acks := [], scales := [],
    staged := [], tail := false }

/-- The stream and the arbiters once a descriptor is taken for issue: it leaves the window, and the grants of the engines
that take it move on (R110, R113 to R115). `eng` is the DMA engine of a descriptor that uses one. -/
def State.takeDesc (s : State) (core stream : Nat) (f : Fetched) (eng : Nat) : State :=
  let s := s.setWindow core stream (windowAfter (s.strIssue core stream) (s.window core stream) f)
  if hdrIllegal f.bytes stream then s
  else
    let g := (enginesOf f.bytes).foldl (fun g e => smSet 2 g (grantKey core e) stream) s.granted
    s.withGranted (if (enginesOf f.bytes).contains .dma then smSet 3 g (dmaCoreKey (clusterOf core) eng) (core % 4) else g)

/-- What a flight's aux holds at issue: the DMA engine of a DMA descriptor. -/
def auxAtIssue (d : List Byte) (eng : Nat) : List Nat := if engineOf (hOpcode d) = .dma then [eng] else []

/-- The state once a taken descriptor's engine has left `r`: the descriptor is in flight, and issue moves on (R110). -/
def Run.issued (r : Run) (s : State) (core stream : Nat) (f : Fetched) : State :=
  (r.s.withFlights (r.s.flights ++ [r.fl])).fset rf_corStreamHead_issue core stream
    (nextIssue (s.window core stream) f)

/-- Runs a flight on from its recorded point. -/
def State.resumeWith (s : State) (fl : Flight) (run : Eng Unit) (toEnd : Bool := false) : State :=
  let r := runEng run s fl toEnd
  r.s.putFlight r.fl

/-- A flight that was stopped goes on. At a pre-emption point it stays while its partition is being pre-empted or is saved,
or its engine's domain is entering or in a low state, and goes on as time passes afterwards. -/
def State.goOn (s : State) (fl : Flight) (run : Eng Unit) (toEnd : Bool := false) : State :=
  if atPoint fl && !s.goes fl then s.putFlight { fl with phase := .running true }
  else s.resumeWith fl run (toEnd && s.goes fl)

/-- Issues a fetched descriptor: `legal` is its chapter's check, `run` its engine's computation. A descriptor that
breaks a rule completes ILLEGAL with no effect (R5, R117); one of another epoch completes VOIDED (R118). -/
def State.issueFetched (s : State) (p core stream : Nat) (f : Fetched) (eng : Nat)
    (legal : State → List Byte → Bool) (run : Eng Unit) : State :=
  let s0 := s.takeDesc core stream f eng
  let fl := newFlight s0 p core stream f (auxAtIssue f.bytes eng)
  let d := engineDomain core (engineOf (hOpcode f.bytes))
  let r : Run :=
    if hdrIllegal f.bytes stream || !legal s0 f.bytes then { s := s0, fl := { fl with status := stIllegal } }
    else if hEpochCheck f.bytes && hEpoch f.bytes ≠ s0.epoch p % 65536 then { s := s0, fl := { fl with status := stVoided } }
    else if s0.awake d then runEng run s0 fl
    else stopRun (.asleep d) { s := s0, fl }
  r.issued s core stream f

/-- The DMA engine that takes a descriptor, and the state with the draw it took: where the engine field says either, the module chooses
(R138), which is a free value. -/
def State.pickEngine (s : State) (f : Fetched) : Nat × State :=
  let hint := dmaHint f.bytes
  if (enginesOf f.bytes).contains .dma ∧ hint = 2 then
    let (x, s1) := s.draw
    (x % 2, s1)
  else (hint % 2, s)

/-- A command that issues descriptor n of a stream: it has an effect where the descriptor is in the fetch window, is
the kind the command names, may issue, and its engine accepts it. A sleeping engine domain that wakes on access holds
the issue and wakes (R494). -/
def State.issueDesc (s : State) (core stream n : Nat) (kind : List Byte → Bool) (accepts : State → List Byte → Bool)
    (legal : State → List Byte → Bool) (run : Eng Unit) : State :=
  match (s.window core stream).find? (fun f => f.n = n), s.partOf core with
  | some f, some p =>
    let (eng, s1) := s.pickEngine f
    let d := engineDomain core (engineOf (hOpcode f.bytes))
    if kind f.bytes && s.mayIssue core stream eng f && accepts s f.bytes then
      if !s.awake d && s.holds d then s.holdAccess d
      else s1.issueFetched p core stream f eng legal run
    else s
  | _, _ => s

/-- Any descriptor of one opcode. -/
def isOp (op : Nat) (d : List Byte) : Bool := hOpcode d = op

/-- An engine that is always free to accept. -/
def always (_ : State) (_ : List Byte) : Bool := true

/-! ### The lattice's status (R78) -/

/-- COR_LAT_STATUS follows the lattice's descriptors (R78). -/
def State.syncLat (s : State) (core : Nat) : State :=
  let mine := s.flights.filter fun f => f.core = core && isMat f.bytes && f.phase ≠ .done
  let b := (s.lat core).bound
  let row := match b with
    | [] => 0
    | (st, n) :: _ => match s.flight core st n with
      | some f => ((if hOpcode f.bytes = 0x02 ∧ fldB f.bytes 99 1 0 = 1 then 0 else fldB f.bytes 96 6 0) + f.point) % 128
      | none => 0
  let waiting := s.flights.filter fun f => clusterOf f.core = clusterOf core && f.phase = .tap
  let s := (List.range 16).foldl (fun s j => s.fset rf_corTapSlot_tapFull core j
    (b2n (waiting.any fun f => isMat f.bytes && fldB f.bytes 99 3 0 = j))) s
  let s := s.fset rf_corLatStatus_bgRow core 0 row
  let s := s.fset rf_corLatStatus_bgCount core 0 b.length
  let s := s.fset rf_corLatStatus_tapWait core 0 (b2n (mine.any fun f => f.phase = .tap))
  let s := s.fset rf_corLatStatus_seqPreload core 0 (b2n (mine.any fun f => hOpcode f.bytes = 0x02 && matLive f.bytes))
  s.fset rf_corLatStatus_mmaActive core 0 (b2n (mine.any fun f => hOpcode f.bytes = 0x01))

/-! ### Completion (R121, R128 to R130) -/

/-- The 32 bytes of a completion record (R128). -/
def cplBytes (tag status flags op phase stream ev start stop detail : Nat) : List Byte :=
  leBytes 2 tag ++ leBytes 1 status ++ leBytes 1 (flags % 32) ++ leBytes 1 op
    ++ leBytes 1 ((phase % 2) * 128 + stream % 4) ++ leBytes 2 ev ++ leBytes 8 start ++ leBytes 8 stop ++ leBytes 8 detail

/-- Bit log2(size) of a descriptor number (R128). -/
def phaseBit (s : State) (core stream n : Nat) : Nat := n / s.ringSize core stream % 2

/-- A stream stops with a cause (R130). -/
def State.stopStream (s : State) (core stream cause : Nat) : State :=
  if s.strState core stream = ssRunning then
    (s.setStr core stream ssStopped).fset rf_corStreamCtl_stopCause core stream cause
  else s

/-- Writes a completion record; a write that fails stops the stream (R128, R345). -/
def State.writeCpl (s : State) (p core stream n : Nat) (bs : List Byte) : State :=
  let va := s.fget rf_corStreamCpl_cplBase core stream * 4096 + 32 * (n % s.ringSize core stream)
  let r : XReq := { p := p, kind := 0, unit := core, pinned := true }
  match s.ownE (writeLocal r va bs) with
  | (.ok _, s) => s
  | (.error (.fault c v w a _), s) =>
    -- the fault record takes the opcode and tag that the completion record names
    let hdr := slice bs 4 1 ++ [0] ++ slice bs 0 2
    let fl := { noFlight with core := core, stream := stream, n := n, bytes := hdr }
    let (reported, s) := s.faultOwed p r fl c v w a (.completion core stream)
    if reported then s.stopStream core stream stFault else s
  | (.error .uncorr, s) => s.stopStream core stream stUncorr
  | (.error (.asleep d), s) => (s.asleepEvent d (some p) 0).stopStream core stream stAsleep
  | (.error (.held d), s) =>
    -- the access is held and then proceeds (R494): the record is written once the domain wakes
    match (s.holdAccess d).ownE (writeLocal { r with account := true } va bs) with
    | (_, s) => s
  | (.error _, s) => s

/-- The oldest of some descriptor numbers, counted from `base`. -/
def oldest (base : Nat) (ns : List Nat) (d : Nat) : Nat :=
  ns.foldl (fun a n => if subMod 32 n base < subMod 32 a base then n else a) d

/-- The stream's state and counters once a descriptor has left it (R110, R130): retire passes every completed
descriptor, a drained stream becomes DISABLED, a finished one IDLE. -/
def State.afterComplete (s : State) (core stream : Nat) : State :=
  let fl := (s.inFlight core stream).map (·.n)
  let issue := s.strIssue core stream
  let s := s.fset rf_corStreamHead_retire core stream (oldest (s.strRetire core stream) fl issue)
  let st := s.strState core stream
  if st = ssDraining ∧ fl.isEmpty then s.setStr core stream ssDisabled
  else if st = ssRunning ∧ issue = s.strTail core stream ∧ fl.isEmpty then s.setStr core stream ssIdle
  else s

/-- A flight leaves the fault it waits at: the fault goes on for its other requesters (R344). -/
def State.leaveFault (s : State) (p : Nat) (fl : Flight) : State :=
  match fl.phase with
  | .fault id =>
    let q := s.part p
    let me := (fl.core, fl.stream, fl.n)
    let left := q.faults.map fun f =>
      if f.id = id then { f with joined := f.joined.filter (· ≠ me), fails := f.fails.filter (· ≠ me) } else f
    (s.setPart p { q with faults := left }).syncFaults p
  | _ => s

/-- Requests of a flight that no answer is awaited for any more. -/
def State.dropRequests (s : State) (fl : Flight) : State :=
  s.withRequests (s.requests.filter fun q => ¬ (q.core = fl.core ∧ q.stream = fl.stream ∧ q.n = fl.n))

/-- A wait of the lattice for room in a tap queue, or of the solver unit for a lattice, ends: its cycles count; how long it was is not
modelled, so the count is a free value (R65, R79, R223). -/
def State.waitEnds (s : State) (fl : Flight) : State :=
  if fl.phase = .tap ∧ hOpcode fl.bytes = 0x01 then
    let (n, s) := s.draw
    s.count .corLatCount fl.core 3 n
  else if fl.phase = .awaiting ∧ engineOf (hOpcode fl.bytes) = .solver then
    let (n, s) := s.draw
    s.count .slvCount (clusterOf fl.core) 6 n
  else s

/-- The unit in progress is one that a cut or a void lets finish: a row of the lattice or the vector engine, a k-group, an
operation of a DMA engine, that stands at a remote access or at a sleeping domain; and a sequential preload (R71, R103,
R132). -/
def Flight.midUnit (fl : Flight) : Bool :=
  let op := hOpcode fl.bytes
  (op ≤ 0x03 || (0x20 ≤ op && op ≤ 0x25) || (0x40 ≤ op && op ≤ 0x45)) && (match fl.phase with
    | .remote _ | .held _ => true
    | .running _ | .awaiting => isPreload fl.bytes
    | _ => false)

/-- A flight ends with a status at its recorded point: cut, voided, pre-empted or late (R131, R344); its completion is
DESCRIPTOR_COMPLETE. A unit in progress is finished first. -/
def State.endFlight (s : State) (fl : Flight) (st : Nat) : State :=
  if (st = stCut ∨ st = stVoided) ∧ fl.midUnit then s.putFlight { fl with status := stMax fl.status st }
  else
    let p := s.partOfFlight fl
    let s := ((s.waitEnds fl).leaveFault p fl).dropRequests fl
    s.putFlight { fl with phase := .done, status := stMax fl.status st }

end Sys2Proof.Machine
end

