-- ==== Sys2Proof/Machine/Mgmt.lean ====
section
/-! DEFINITION. Frames and messages every chapter sends: responses (R405), and management messages with their resending
and acknowledgement (R275, R403, R433). -/
namespace Sys2Proof.Machine

/-- A partition of this module as frames name it. -/
def State.here (s : State) (p : Nat) : Addr :=
  ⟨s.fget rf_fabCoord_x, s.fget rf_fabCoord_y, s.fget rf_fabCoord_z, p⟩

/-- Module index (R457): x + 16y + 256z. -/
def addrModule (a : Addr) : Nat := a.x + 16 * a.y + 256 * a.z

/-- The module a module index names. -/
def moduleAddr (i p : Nat) : Addr := ⟨i % 16, i / 16 % 16, i / 256 % 16, p⟩

/-- Two addresses name one module. -/
def sameModule (a b : Addr) : Bool := a.x = b.x && a.y = b.y && a.z = b.z

/-- The requester of a port's accesses (R341, R343); `pinned` where R340 asks for pinned pages. -/
def portReq (p port : Nat) (pinned : Bool) : XReq := { p := p, kind := 6, unit := port, pinned := pinned }

/-- The dimensions in which a frame from an address has travelled, in order: place there, place here, and modules around. -/
def State.travelled (s : State) (a : Addr) : List (Nat × Nat × Nat × Nat) :=
  [(0, a.x, s.fget rf_fabCoord_x, s.fget rf_fabCoord_kxM1 + 1), (1, a.y, s.fget rf_fabCoord_y, s.fget rf_fabCoord_kyM1 + 1),
    (2, a.z, s.fget rf_fabCoord_z, s.fget rf_fabCoord_kzM1 + 1)].filter fun (_, src, dst, _) => src ≠ dst

/-- The port whose cache and number stand for a request frame from an address: the even one of the direction from which
dimension order brings it (R407). One from the module itself comes by no port. DESIGN CHOICE (log 153): the commands do not say by
which of a direction's two ports a frame came, or that it came by the detour set. -/
def State.arrivalPort (s : State) (a : Addr) : Nat :=
  match (s.travelled a).getLast? with
  | some (i, src, dst, k) => if (dst + k - src) % k ≤ k - (dst + k - src) % k then 4 + 2 * (2 * i + 1) else 4 + 2 * (2 * i)
  | none => 255

/-- The requester of what a request frame asks of its target. -/
def State.frameReq (s : State) (f : Frame) (pinned : Bool) : XReq := portReq f.dst.part (s.arrivalPort f.src) pinned

/-- A port's access meets a fault: it is recorded and raises its event, and does not wait (R343, R344). -/
def State.portFault (s : State) (q : XReq) (cause va : Nat) (wr acc : Bool) : State :=
  (s.faultOwed q.p q noFlight cause va wr acc (.unit 5 q.unit)).2

/-- The manager of the grove (R457). -/
def State.manager (s : State) : Addr := moduleAddr (s.fget rf_grvManager_manager) 0

def State.send (s : State) (m : Msg) : State := s.withOut (s.out ++ [m])

-- Answer codes (R405).
def anAccepted : Nat := 0
def anDuplicate : Nat := 1
def anOutOfOrder : Nat := 2
def anNotOpen : Nat := 3
def anLate : Nat := 4
def anRejected : Nat := 5
def anNotReady : Nat := 6
def anUncorr : Nat := 7
def anDone : Nat := 8

/-- The RESPONSE to a frame (R403, R405). -/
def State.respond (s : State) (f : Frame) (answer mark : Nat) (payload : List Byte := []) (crc : Nat := 0) : State :=
  s.send (.frame { cls := 1, dst := f.src, src := f.dst, op := 0x10, reqId := f.reqId,
                   ops := leBytes 1 answer ++ leBytes 1 (mark / 65536) ++ leBytes 2 (mark % 65536) ++ leBytes 4 crc
                     ++ List.replicate 8 0,
                   payload := payload })

/-- The module serves requests from outside: it is ready (R527). -/
def State.serves (s : State) : Bool := s.fbit rf_glbStatus_ready

/-- Sapwood runs (R436, R538). -/
def State.sapwood (s : State) : Bool := !s.fbit rf_glbStatus_sapwoodRestarting && !s.fbit rf_glbStatus_sapwoodFailed

-- Message types (R275, R433).
def mtStepReady : Nat := 0x01
def mtVerdict : Nat := 0x02
def mtSweepDone : Nat := 0x03
def mtCommit : Nat := 0x04
def mtParityApplied : Nat := 0x05
def mtSettled : Nat := 0x06
def mtPulse : Nat := 0x07
def mtCoordOffer : Nat := 0x08
def mtJoin : Nat := 0x09
def mtAdmit : Nat := 0x0A
def mtLinkReport : Nat := 0x0B
def mtFaultMap : Nat := 0x0C
def mtLost : Nat := 0x0D
def mtRollbackDone : Nat := 0x0E
def mtActivate : Nat := 0x0F
def mtActivated : Nat := 0x10
def mtReconstruct : Nat := 0x11
def mtReconstructDone : Nat := 0x12
def mtReshard : Nat := 0x13
def mtReshardDone : Nat := 0x14
def mtResume : Nat := 0x15
def mtMirror : Nat := 0x16
def mtTakeover : Nat := 0x17
def mtConfigImage : Nat := 0x18
def mtEncode : Nat := 0x19

/-- A MANAGEMENT frame (R403). A message longer than a frame's payload travels in as many frames as it needs; the model
sends it as one. -/
def State.mgmtFrame (s : State) (p id type job : Nat) (dst : Addr) (body : List Byte) : Msg :=
  .frame { cls := 0, dst := dst, src := s.here p, op := 0x20, reqId := id,
           ops := leBytes 2 type ++ leBytes 2 job ++ List.replicate 12 0, payload := body }

/-- Sends a message that is resent until it is acknowledged, under the next request_id (R275). -/
def State.mgmtMsg (s : State) (type job epoch : Nat) (m : Msg) : State :=
  let id := s.nextReq
  let m := withReqId id m
  (((s.send m).withNextReq (w32 (id + 1))).withMgmt (s.mgmt ++ [⟨id, type, job, epoch, m, s.tick⟩]))

/-- Sends a step message, whose layout R276 to R278 give. -/
def State.mgmtSend (s : State) (p type job epoch : Nat) (dst : Addr) (body : List Byte) : State :=
  s.mgmtMsg type job epoch (s.mgmtFrame p 0 type job dst body)

/-- Sends a grove message, whose contents R433 gives. -/
def State.grvSend (s : State) (p type job epoch : Nat) (dst : Addr) (b : GBody) : State :=
  s.mgmtMsg type job epoch (.grove { job := job, src := s.here p, dst := dst } b)

/-- Sends a grove message that is neither acknowledged nor resent (R433). -/
def State.grvOnce (s : State) (p : Nat) (dst : Addr) (b : GBody) : State :=
  s.send (.grove { job := 0, src := s.here p, dst := dst } b)

/-- The 16 bytes of SWEEP_DONE, COMMIT, PARITY_APPLIED and SETTLED (R275). -/
def stepBody (epoch job : Nat) : List Byte := leBytes 8 epoch ++ leBytes 2 job ++ List.replicate 6 0

/-- Fields of a management frame. -/
def mgType (f : Frame) : Nat := fld f.ops 0 1
def mgJob (f : Frame) : Nat := fld f.ops 2 2
def mgEpoch (f : Frame) : Nat := fld f.payload 0 8

/-- A management frame of a type reaches this module. -/
def State.mgArrives (s : State) (type : Nat) (f : Frame) : Bool :=
  s.serves && s.sapwood && f.op = 0x20 && f.cls = 0 && mgType f = type && sameModule f.dst (s.here 0)

/-- Receives a management message: every copy is acknowledged, and the first of each type, job, epoch and sender is acted
on (R275). -/
def State.mgReceive (s : State) (type epoch : Nat) (f : Frame) (act : State → State) : State :=
  if s.mgArrives type f then
    let s := s.respond f anAccepted 0
    let k := (type, mgJob f, epoch, f.src)
    if s.seen.contains k then s else act (s.withSeen (s.seen ++ [k]))
  else s

/-- A grove message reaches this module. -/
def State.grvArrives (s : State) (g : Mg) : Bool := s.serves && s.sapwood && sameModule g.dst (s.here 0)

/-- The acknowledgement of a grove message (R275). -/
def State.ackMg (s : State) (g : Mg) : State :=
  s.send (.frame { cls := 1, dst := g.src, src := g.dst, op := 0x10, reqId := g.reqId,
                   ops := leBytes 1 anAccepted ++ List.replicate 15 0, payload := [] })

/-- Receives a grove message of a type and epoch: every copy is acknowledged, the first is acted on (R275, R433). -/
def State.grvReceive (s : State) (type epoch : Nat) (g : Mg) (act : State → State) : State :=
  if s.grvArrives g then
    let s := s.ackMg g
    let k := (type, g.job, epoch, g.src)
    if s.seen.contains k then s else act (s.withSeen (s.seen ++ [k]))
  else s

/-- The sender may act as manager: it is the manager of the highest term seen, or no manager is known yet (R453). -/
def State.fromManager (s : State) (a : Addr) : Bool :=
  !s.fbit rf_grvManager_managerValid || sameModule a s.manager

/-- As `grvReceive`, for messages of the manager. -/
def State.grvOrder (s : State) (type epoch : Nat) (g : Mg) (act : State → State) : State :=
  if s.fromManager g.src then s.grvReceive type epoch g act else s

/-- As `mgReceive`, for messages of the manager. -/
def State.mgOrder (s : State) (type : Nat) (f : Frame) (act : State → State) : State :=
  if s.fromManager f.src then s.mgReceive type (mgEpoch f) f act else s

/-- This module is the active manager (R427). -/
def State.isManager (s : State) : Bool := s.fget rf_grvRole_managerMode = 1

/-- An unacknowledged message is sent again after 1 ms (R275). -/
def execStepMessageResend (reqId : BitVec 32) (s : State) : Host.Outcome State Fault Refusal :=
  done (match s.mgmt.find? (fun m => m.id = reqId.toNat) with
    | some m =>
      if s.since m.sent (ms 1) then
        (s.send m.msg).withMgmt (s.mgmt.map fun x => if x.id = m.id then { x with sent := s.tick } else x)
      else s
    | none => s)

/-- An acknowledgement stops a message's resending (R275); the standby's acknowledgement of MIRROR releases the broadcast
that waits for it (R444). -/
def State.acked (s : State) (id : Nat) : State :=
  let s := s.withMgmt (s.mgmt.filter fun m => m.id ≠ id)
  match s.grove.held.find? (·.mirror = id) with
  | some h =>
    let s := s.withGrove { s.grove with
      held := s.grove.held.filter (·.mirror ≠ id)
      jobs := s.grove.jobs.map fun j => if j.job = h.job then { j with tStart := s.tick } else j }
    h.casts.foldl (fun s (t, e, m) => s.mgmtMsg t h.job e m) s
  | none => s

def execStepMessageAck (reqId : BitVec 32) (s : State) : Host.Outcome State Fault Refusal := done (s.acked reqId.toNat)

end Sys2Proof.Machine
end

