-- ==== Sys2Proof/Machine/Operands.lean ====
section
/-! DEFINITION. Operand forms: tensor references (R126, R127, R579), their extents and overlaps, the reads and writes of
rows in every layout and format (R20, R21), and the scale table (R38 to R43, R582). -/
namespace Sys2Proof.Machine

open Eng

/-- A tensor reference (R126). -/
structure TRef where
  addr : Nat
  rows : Nat
  cols : Nat
  stride : Nat
  fmt : Nat
  layout : Nat
  scale : Nat
deriving DecidableEq, Repr

/-- The reference at a byte offset of a descriptor. -/
def tref (d : List Byte) (o : Nat) : TRef :=
  ⟨fld d o 8, fld d (o + 8) 4, fld d (o + 12) 4, fld d (o + 16) 4, fldB d (o + 20) 3 0, fld d (o + 21) 1,
    fld d (o + 22) 2⟩

/-- Bytes of one element of a format that is no MX format. -/
def elemBytes (c : Nat) : Nat := fmtBits c / 8

namespace TRef

/-- Bytes of one padded element row of an MX tensor (R20). -/
def mxRowBytes (t : TRef) : Nat := ceilDiv t.cols 32 * 32 * fmtBits t.fmt / 8

/-- First byte of the scale plane (R20). -/
def scalePlane (t : TRef) : Nat := roundUp (t.addr + t.rows * t.stride) 64

/-- Bytes of one scale row (R20), padded. -/
def scaleRow (t : TRef) : Nat := roundUp (ceilDiv t.cols 32) 64

/-- The same bytes with rows and columns exchanged (R127). -/
def transposed (t : TRef) : TRef := { t with rows := t.cols, cols := t.rows, layout := 1 - t.layout }

/-- The bytes of row i in layout 0 or 1, and of its block scales (R20, R127). -/
def rowExtent (t : TRef) (i : Nat) : List (Nat × Nat) :=
  if fmtIsMX t.fmt then [(t.addr + i * t.stride, t.mxRowBytes), (t.scalePlane + i * t.scaleRow, t.scaleRow)]
  else if t.layout = 1 then (List.range t.cols).map fun j => (t.addr + j * t.stride + i * elemBytes t.fmt, elemBytes t.fmt)
  else [(t.addr + i * t.stride, t.cols * elemBytes t.fmt)]

/-- Element index of row i of a packed triangle (R127). -/
def packedRow (t : TRef) (i : Nat) : Nat := i * (2 * t.rows - i + 1) / 2

/-- The extent: families of equal, equally spaced byte runs (base, spacing, count, length). -/
def extent (t : TRef) : List (Nat × Nat × Nat × Nat) :=
  if fmtIsMX t.fmt then
    [(t.addr, t.stride, t.rows, t.mxRowBytes), (t.scalePlane, t.scaleRow, t.rows, t.scaleRow)]
  else if t.layout = 0 then [(t.addr, t.stride, t.rows, t.cols * elemBytes t.fmt)]
  else if t.layout = 1 then [(t.addr, t.stride, t.cols, t.rows * elemBytes t.fmt)]
  else [(t.addr, 0, 1, t.packedRow t.rows * elemBytes t.fmt)]

/-- One past the highest byte of the extent. -/
def top (t : TRef) : Nat := t.extent.foldl (fun a (b, s, n, l) => max a (b + s * (n - 1) + l)) 0

/-- The reference is legal (R126, R127, R20); packed triangles only where the descriptor allows them. -/
def legal (t : TRef) (packed : Bool) : Bool :=
  t.addr < 2 ^ 48 && 1 ≤ t.rows && t.rows ≤ 16777216 && 1 ≤ t.cols && t.cols ≤ 16777216 && fmtValid t.fmt
    && (if fmtIsMX t.fmt then
          t.layout = 0 && t.addr % 64 = 0 && t.stride % 64 = 0 && t.mxRowBytes ≤ t.stride
        else
          t.addr % elemBytes t.fmt = 0
            && (if t.layout = 0 then t.cols * elemBytes t.fmt ≤ t.stride
                else if t.layout = 1 then t.rows * elemBytes t.fmt ≤ t.stride
                else t.layout = 2 && packed && t.rows = t.cols && t.stride = 0))

/-- Address of element (i, j) in layouts 0, 1 and 2 of a format that is no MX format. -/
def elemAddr (t : TRef) (i j : Nat) : Nat :=
  if t.layout = 0 then t.addr + i * t.stride + j * elemBytes t.fmt
  else if t.layout = 1 then t.addr + j * t.stride + i * elemBytes t.fmt
  else t.addr + (t.packedRow i + (j - i)) * elemBytes t.fmt

end TRef

/-- The reserved bits of the reference at an offset are zero (R5). -/
def trefReserved (d : List Byte) (o : Nat) : Bool := fldB d (o + 20) 7 4 = 0

/-- The reference at an offset is legal. -/
def trefOk (d : List Byte) (o : Nat) (packed : Bool := false) : Bool := trefReserved d o && (tref d o).legal packed

/-- A reference that the descriptor's mode does not use carries no reserved encoding (R5). -/
def trefIdle (d : List Byte) (o : Nat) : Bool := trefReserved d o && fmtValid (tref d o).fmt && (tref d o).layout ≤ 2

/-- A run [x, x + l) meets a family of runs. -/
def runMeets (x l : Nat) : Nat × Nat × Nat × Nat → Bool
  | (b, s, n, m) =>
    if l = 0 ∨ m = 0 ∨ n = 0 then false
    else if s = 0 then decide (b < x + l) && decide (x < b + m)
    else
      let j := if x < b + m then 0 else (x - b - m) / s + 1
      decide (j < n) && decide (b + j * s < x + l) && decide (x < b + j * s + m)

/-- Two families of runs share a byte. -/
def familiesMeet : Nat × Nat × Nat × Nat → Nat × Nat × Nat × Nat → Bool
  | (b, s, n, l), g => (List.range n).any fun i => runMeets (b + i * s) l g

/-- Two extents share a byte. -/
def overlap (a b : List (Nat × Nat × Nat × Nat)) : Bool := a.any fun f => b.any fun g => familiesMeet f g

/-- One run of bytes as an extent. -/
def runOf (va n : Nat) : List (Nat × Nat × Nat × Nat) := [(va, 0, 1, n)]

/-- Where an operand resides: memory, or a tile buffer of the core (R81). -/
inductive Site where
  | mem
  | tile (buf : Nat)
deriving DecidableEq, Repr

def tileKey (core buf off : Nat) : Nat := core * 262144 + buf * 65536 + off

/-- Bytes of an operand. -/
def siteRead (q : XReq) (core : Nat) (w : Site) (a n : Nat) : Eng (List Byte) :=
  match w with
  | .mem => readVA q a n
  | .tile b => do
    let s ← getS
    return (List.range n).map fun i => smGet 0 s.tiles (tileKey core b (a + i))

/-- Writes bytes of operands, whole or not at all. -/
def siteWrite (q : XReq) (core : Nat) (w : Site) (ws : List (Nat × List Byte)) : Eng Unit :=
  match w with
  | .mem => writeAll q ws
  | .tile b => modS fun s => s.withTiles (ws.foldl (fun m (a, bs) =>
      (bs.zipIdx).foldl (fun m (x, i) => smSet 0 m (tileKey core b (a + i)) x) m) s.tiles)

/-- The n codes of w bits that little-endian bytes hold (R21). -/
def unpack (w n : Nat) (bs : List Byte) : List Nat :=
  let x := leNat bs
  (List.range n).map fun i => (x >>> (w * i)) % 2 ^ w

/-- The bytes of codes of w bits (R21). -/
def pack (w : Nat) (xs : List Nat) : List Byte :=
  leBytes (ceilDiv (w * xs.length) 8) ((xs.zipIdx).foldl (fun a (x, i) => a + ((x % 2 ^ w) <<< (w * i))) 0)

/-- Columns [c0, c0 + n) of a row as their encodings, in a format that is no MX format. -/
def rowCodes (q : XReq) (core : Nat) (w : Site) (t : TRef) (i c0 n : Nat) : Eng (List Nat) := do
  let e := elemBytes t.fmt
  if t.layout = 1 then
    mapE (rangeFrom c0 (c0 + n)) fun j => do return leNat (← siteRead q core w (t.elemAddr i j) e)
  else
    return unpack (fmtBits t.fmt) n (← siteRead q core w (t.elemAddr i c0) (n * e))

/-- Blocks [b0, b0 + n) of an MX row: the scale byte and 32 codes of each (R20). -/
def mxBlocks (q : XReq) (core : Nat) (w : Site) (t : TRef) (i b0 n : Nat) : Eng (List (Nat × List Nat)) := do
  let wd := fmtBits t.fmt
  let es ← siteRead q core w (t.addr + i * t.stride + b0 * 4 * wd) (n * 4 * wd)
  let ss ← siteRead q core w (t.scalePlane + i * t.scaleRow + b0) n
  return (List.range n).map fun k => ((ss.getD k 0).toNat, unpack wd 32 (slice es (k * 4 * wd) (4 * wd)))

/-- Pieces that write codes of some columns of a row, adjacent columns joined. -/
def codePieces (t : TRef) (i : Nat) : List (Nat × Nat) → List (Nat × List Byte)
  | [] => []
  | (j, c) :: rest =>
    let here := t.elemAddr i j
    let bs := leBytes (elemBytes t.fmt) c
    match codePieces t i rest with
    | (a, cs) :: ps => if a = here + bs.length then (here, bs ++ cs) :: ps else (here, bs) :: (a, cs) :: ps
    | [] => [(here, bs)]

/-- Pieces that write MX blocks of a row: element bytes and scale byte of each. -/
def blockPieces (t : TRef) (i : Nat) (bs : List (Nat × Nat × List Nat)) : List (Nat × List Byte) :=
  let wd := fmtBits t.fmt
  bs.flatMap fun (b, sc, es) =>
    [(t.addr + i * t.stride + b * 4 * wd, pack wd es), (t.scalePlane + i * t.scaleRow + b, leBytes 1 sc)]

/-! ### The scale table (R38 to R43) -/

/-- Address of a scale-table entry (R38). -/
def State.scaleAddr (s : State) (p idx : Nat) : Nat := s.fget rf_prtScaleBase_base p * 4096 + 128 * idx

/-- FP32 bits of a positive power of two from 2^−126 to 2^127. -/
def isPow2 (x : Nat) : Bool := x % 2 ^ 23 = 0 && 1 ≤ x / 2 ^ 23 && x / 2 ^ 23 ≤ 254

/-- The exponent of such a power of two. -/
def pow2Exp (x : Nat) : Int := (x / 2 ^ 23 : Nat) - 127

/-- FP32 bits of a positive power of two, subnormal or not. -/
def isPow2Any (x : Nat) : Bool := isPow2 x || (List.range 23).any fun i => x = 2 ^ i

/-- The exponent of any such power of two. -/
def pow2AnyExp (x : Nat) : Int := if x / 2 ^ 23 = 0 then (Nat.log2 x : Nat) - 149 else pow2Exp x

-- Fields of a scale-table entry (R39).
def seHistory (e : List Byte) (i : Nat) : Nat := fld e (4 * i) 4
def seRunning (e : List Byte) : Nat := fld e 64 4
def seNext (e : List Byte) : Nat := fld e 68 4
def seStored (e : List Byte) : Nat := fld e 72 4
def seCount (e : List Byte) : Nat := fldB e 76 7 4
def seHead (e : List Byte) : Nat := fldB e 76 3 0
def seFull (e : List Byte) : Bool := fldBit e 77 7
def seMargin (e : List Byte) : Nat := fldB e 77 6 4
def sePolicy (e : List Byte) : Nat := fldB e 77 1 0
def seValid (e : List Byte) : Bool := fldBit e 78 2
def seSaturated (e : List Byte) : Bool := fldBit e 78 0
def seFormat (e : List Byte) : Nat := fldB e 79 3 0

/-- The formats whose stored data carry a per-tensor scale (R39). -/
def scaledFmt (c : Nat) : Bool := c = cE4M3 || c = cE5M2 || c = cINT8

/-- The entry is well formed (R582). -/
def seWellFormed (e : List Byte) : Bool :=
  sePolicy e ≤ 1 && (scaledFmt (seFormat e) || fmtIsMX (seFormat e)) && fldB e 77 3 2 = 0 && fldB e 78 7 3 = 0
    && fldB e 79 7 4 = 0 && zeroBytes e 80 48 && isPow2 (seNext e) && isPow2 (seStored e)

/-- Reads the entry a reference names, where it names one; a descriptor whose entry is not valid or not well formed
completes ILLEGAL (R38, R582). -/
def scaleEntry (q : XReq) (idx : Nat) : Eng (Option (List Byte)) := do
  if idx = 0xFFFF then return none
  let e ← readVA q ((← getS).scaleAddr q.p idx) 128
  if seValid e && seWellFormed e then return some e else stop (.status stIllegal 0)

/-- The check of R38 on every reference of a descriptor, at issue. -/
def checkScales (q : XReq) (ts : List TRef) : Eng Unit := do
  if (← getF).point = 0 then eachM ts fun t => do let _ ← scaleEntry q t.scale

/-- Exponent of the factor 1 / scale_stored that a reader of an FP8 or INT8 tensor applies (R41). -/
def readFactor (q : XReq) (t : TRef) : Eng Int := do
  if scaledFmt t.fmt then
    match ← scaleEntry q t.scale with
    | some e => return -(pow2Exp (seStored e))
    | none => return 0
  else return 0

/-- Values of columns [c0, c0 + n) of a row, widened exactly (R34) with the scale of R41 or the block scales. A value that
1 / scale_stored carries out of FP32 range stays exact until its destination's rounding: DESIGN CHOICE, log entry 136. -/
def rowVals (q : XReq) (core : Nat) (w : Site) (t : TRef) (k : Int) (i c0 n : Nat) : Eng (List FV) := do
  if fmtIsMX t.fmt then
    let b0 := c0 / 32
    let bs ← mxBlocks q core w t i b0 (ceilDiv (c0 + n) 32 - b0)
    let all := bs.flatMap fun (sc, es) => es.map (decMX t.fmt sc)
    return (all.drop (c0 - 32 * b0)).take n
  else
    return (← rowCodes q core w t i c0 n).map fun c => (decElem t.fmt c).scale2 k

/-- What a narrowing conversion applies and records for its destination's entry (R40): the entry's index, the exponent
of scale_next for FP8 and INT8, and scale_next itself. -/
structure OutScale where
  idx : Nat
  k : Int
  bits : Nat
deriving DecidableEq, Repr

/-- The entry of a conversion's destination, resolved when the descriptor issues: entry contents may be rolled while it
waits, and it goes on with the scale it started with. A destination in FP32, BF16 or FP16 that names an entry captures for it
too: DESIGN CHOICE, log entry 136. -/
def outScale (q : XReq) (t : TRef) : Eng (Option OutScale) := do
  match ← scaleEntry q t.scale with
  | none => return none
  | some e =>
    let fl ← getF
    match (fl.scales.find? (·.idx = t.scale)).bind (·.stored) with
    | some x => return some ⟨t.scale, pow2Exp x, x⟩
    | none => return some ⟨t.scale, if scaledFmt t.fmt then pow2Exp (seNext e) else 0, seNext e⟩

/-- The FP32 bits of a finite magnitude, as running_amax keeps it: rounded to nearest even, no larger than the largest finite
value, and a subnormal with its value. The spec gives no rounding: DESIGN CHOICE, log entry 136. -/
def amaxBits (v : FV) : Nat :=
  match v with
  | .fin _ m e =>
    if m = 0 then 0
    else
      let (m', q, _) := roundMag 24 (-149) .rne m e
      let (mm, me) := fmtMax cFP32
      if cmpMag m' q mm me == .gt then encFin fFP32 false mm me else encFin fFP32 false m' q
  | _ => 0

/-- What a conversion has seen of its source: the largest finite magnitude before scaling, a NaN or infinity, and a finite value
that saturated (R40). -/
structure Seen where
  amax : Nat
  nonfinite : Bool
  saturated : Bool
deriving DecidableEq, Repr

def Seen.of (src : List FV) (saturated : Bool) : Seen :=
  ⟨amaxBits (fvAmax src), src.any fun v => v.isNan || v.isInf, saturated⟩

/-- The larger of two FP32 magnitudes. -/
def amaxMax (a b : Nat) : Nat := if fvLt (dec32 a) (dec32 b) then b else a

/-- A conversion has written values to its destination: it has touched the entry in this epoch (R42), and keeps what it has seen
for the merge (R40, R94). -/
def capture (q : XReq) (t : TRef) (o : OutScale) (x : Seen) : Eng Unit := do
  modS fun s =>
    let y := s.part q.p
    if y.touched.contains o.idx then s else s.setPart q.p { y with touched := y.touched ++ [o.idx] }
  modF fun fl =>
    if fl.scales.any (·.idx = o.idx) then
      { fl with scales := fl.scales.map fun c => if c.idx = o.idx then
          { c with amax := amaxMax c.amax x.amax, nonfinite := c.nonfinite || x.nonfinite
                   saturated := c.saturated || x.saturated } else c }
    else { fl with scales := fl.scales ++
      [⟨o.idx, if scaledFmt t.fmt then some o.bits else none, x.amax, x.nonfinite, x.saturated⟩] }

/-- Merges what a conversion has seen into its entry, and stores the scale of the data it has written (R40). -/
def mergeCapture (q : XReq) (c : Capture) : Eng Unit := do
  let a := (← getS).scaleAddr q.p c.idx
  let e ← readVA q a 80
  let amax := amaxMax (seRunning e) c.amax
  let b78 := fld e 78 1 ||| (2 * b2n c.nonfinite) ||| b2n c.saturated
  writeAll q ((if amax ≠ seRunning e then [(a + 64, leBytes 4 amax)] else [])
    ++ (c.stored.toList.map fun x => (a + 72, leBytes 4 x))
    ++ (if b78 ≠ fld e 78 1 then [(a + 78, leBytes 1 b78)] else []))

/-- A format holds a value exactly. -/
def fmtHolds (c : Nat) (v : FV) : Bool :=
  match v with
  | .fin _ m e =>
    m = 0 ||
      let (p, qmin) := fmtPrec c
      let (m', q, inexact) := roundMag p qmin .rne m e
      let (mm, me) := fmtMax c
      !inexact && cmpMag m' q mm me != .gt
  | _ => true

/-- Conversion of the values of some columns of a row to their destination (R28, R22, R40). `held` gives the format in which
each column's value is held: an FP32 value that is subnormal enters as zero (R31). A destination in an MX format takes whole
blocks: a column of a block that is not given is padding and enters as +0 (R20, R75). The answer is the pieces to write, and
what the conversion has seen. With `keep`, a value that is returned unchanged is written unchanged, subnormal or not (R31). -/
def convertCells (cls : NumClass) (held : Nat → Nat) (t : TRef) (o : Option OutScale) (stoch : Bool) (i : Nat)
    (cells : List (Nat × FV)) (keep : Bool := false) : Eng (List (Nat × List Byte) × Seen) := do
  let before := (← getF).flags
  let k : Int := match o with | some o => o.k | none => 0
  modF fun fl => { fl with flags := 0 }
  let ps ←
    if fmtIsMX t.fmt then
      let blocks := (List.range (ceilDiv t.cols 32)).filter fun b => cells.any fun (j, _) => j / 32 = b
      let bs ← mapE blocks fun b => do
        let xs := (List.range 32).map fun l => match cells.find? fun c => c.1 = 32 * b + l with
          | some (j, v) => (v, held j)
          | none => (FV.zero, cFP32)
        let r ← num (mxBlock cls t.fmt stoch xs)
        return (b, r.1, r.2)
      pure (blockPieces t i bs)
    else
      let cs ← mapE cells fun (j, v) => do
        if keep && o.isNone && fmtHolds t.fmt v && v.isFinite then return (j, encElem t.fmt v)
        let v ← num (enterHeld cls (held j) v)
        return (j, ← num (convert cls cFP64 t.fmt stoch (v.scale2 k)))
      pure (codePieces t i cs)
  let mine := (← getF).flags
  modF fun fl => { fl with flags := before ||| mine }
  return (ps, if o.isSome then Seen.of (cells.map (·.2)) (scaledFmt t.fmt && mine &&& flOF ≠ 0) else ⟨0, false, false⟩)

/-- The largest finite value of a scaled format (R42). -/
def rollMax (c : Nat) : Nat := if c = cE4M3 then 448 else if c = cE5M2 then 57344 else 127

/-- The exponent of scale_next that a roll chooses (R42 step 3). -/
def rollExp (c margin : Nat) (amax : FV) : Int :=
  match amax with
  | .fin _ m e =>
    -- floor(log2(fmax / amax)): the largest k with amax · 2^k ≤ fmax
    let f := rollMax c
    let k0 : Int := fvLog2 f 0 - fvLog2 m e
    let k := if cmpMag m (e + k0) f 0 == .gt then k0 - 1 else k0
    max (-126) (min 127 (k - margin))
  | _ => 0

/-- The largest of FP32 magnitudes. -/
def maxMag (xs : List Nat) : FV := xs.foldl (fun a x => if fvLt a (dec32 x) then dec32 x else a) FV.zero

/-- A roll of one entry's bytes (R42, R582). -/
def rollBytes (e : List Byte) : List Byte :=
  let ra := seRunning e
  let h := if ra % 2 ^ 31 ≠ 0 then (seHead e + 1) % 16 else seHead e
  let e1 := if ra % 2 ^ 31 ≠ 0 then
      let c := if seFull e then seCount e else if seCount e = 15 then 15 else seCount e + 1
      let full : Bool := seFull e || seCount e = 15
      patchN (patchN (patchN e (4 * h) 4 ra) 76 1 (c * 16 + h)) 77 1 (fld e 77 1 % 128 + 128 * b2n full)
    else e
  let e2 := if seWellFormed e then
      let slots := if seFull e1 then List.range 16 else (List.range (seCount e1)).map fun i => (h + 16 - i) % 16
      let slots := if sePolicy e = 1 then slots.filter (· = h) else slots
      let sel := maxMag (slots.map (seHistory e1))
      if sel.isZero ∨ !scaledFmt (seFormat e) then e1
      else patchN e1 68 4 ((rollExp (seFormat e) (seMargin e) sel + 127).toNat <<< 23)
    else e1
  patchN (patchN e2 64 4 0) 78 1 (fld e 78 1 &&& 0xFC)

/-- Rolls an entry on the module's own account, at the verdict of an epoch (R42, R43): a failed access leaves it unrolled and
touched. -/
def State.rollEntry (s : State) (p ep idx : Nat) : State :=
  let a := s.scaleAddr p idx
  match s.accountRead p stScale a 128 with
  | (none, s) => s
  | (some e, s) =>
    match s.ownE (writeLocal (accountReq p) a (rollBytes e)) with
    | (.ok _, s) =>
      let q := s.part p
      let s := s.setPart p { q with touched := q.touched.filter (· ≠ idx),
                                    saturated := q.saturated + b2n (seSaturated e) }
      if seSaturated e then s.raise 0x1001 p ⟨8, p, 0, idx, ep⟩ else s
    | (.error x, s) => s.tableFailed p stScale a (stopCause x)

/-- Rolls every entry touched in an epoch, at its verdict (R42). -/
def State.rollScales (s : State) (p ep : Nat) : State := (s.part p).touched.foldl (fun s i => s.rollEntry p ep i) s

end Sys2Proof.Machine
end

