-- ==== Sys2Proof/Machine/Tap.lean ====
section
/-! DEFINITION. The tap queue and the Gram unit (R144 to R160, R168): sampling, row allocation, batches, slot closes
and the accumulation of Gram sums; and the 64-byte matrix header (R161). -/
namespace Sys2Proof.Machine

open Eng

def tapKey (cluster slot : Nat) : Nat := 16 * cluster + slot

def State.tap (s : State) (cluster slot : Nat) : Option TapSlot := smGet none s.taps (tapKey cluster slot)

namespace TapSlot

def m (t : TapSlot) : Nat := 2 ^ t.log2m
def width (t : TapSlot) : Nat := if t.buf = cBF16 then 16 else 32

/-- Bytes of a row (R148). -/
def rowBytes (t : TapSlot) : Nat := 64 * ceilDiv (t.d * t.width) 512

def blocks (t : TapSlot) : Nat := ceilDiv t.d t.b
def blockLen (t : TapSlot) (j : Nat) : Nat := min ((j + 1) * t.b) t.d - j * t.b
def gramBase (t : TapSlot) (e : Nat) : Nat := if e % 2 = 0 then t.gram0 else t.gram1
def headerAddr (t : TapSlot) (e j : Nat) : Nat := t.gramBase e + 64 * j
def triAddr (t : TapSlot) (e j : Nat) : Nat := t.gramBase e + 64 * t.blocks + 2 * t.b * (t.b + 1) * j
def inHalf (t : TapSlot) (h : Nat) : List TapRow := t.rows.filter (·.half = h)

/-- Every row of a batch holds a complete token (R150). -/
def readyHalf (t : TapSlot) (h : Nat) : Bool := (t.inHalf h).length = t.m && (t.inHalf h).all (·.count = t.d)

/-- The oldest ready batch. -/
def ready (t : TapSlot) : Option Nat :=
  if t.readyHalf (1 - t.fill) then some (1 - t.fill) else if t.readyHalf t.fill then some t.fill else none

/-- The formats of R146. -/
def formatsOk (src buf : Nat) : Bool :=
  src ≤ cINT8 && (buf = cFP32 || (buf = cBF16 && src ≠ cFP32 && src ≠ cFP16))

/-- A token index is sampled in an epoch (R144). -/
def samples (t : TapSlot) (token epoch16 : Nat) : Bool :=
  let ph := if t.rotate then t.phase + epoch16 else t.phase
  subMod 32 token ph % 2 ^ t.log2s = 0

/-- A row for a token: its own incomplete row, or the next free row of the filling batch, moving to the other batch
when that is full (R149, R150). None where there is no room. -/
def rowFor (t : TapSlot) (token : Nat) : Option (TapRow × TapSlot) :=
  match t.rows.find? fun r => r.token = token ∧ r.count < t.d with
  | some r => some (r, t)
  | none =>
    let put (h : Nat) : TapRow × TapSlot :=
      let r : TapRow := ⟨token, h, (t.inHalf h).length, 0⟩
      (r, { t with fill := h, rows := t.rows ++ [r] })
    if (t.inHalf t.fill).length < t.m then some (put t.fill)
    else if (t.inHalf (1 - t.fill)).isEmpty then some (put (1 - t.fill))
    else none

/-- Rows for a list of tokens, in order. -/
def rowsFor (t : TapSlot) : List Nat → Option (List TapRow × TapSlot)
  | [] => some ([], t)
  | x :: xs =>
    match t.rowFor x with
    | none => none
    | some (r, t) =>
      match t.rowsFor xs with
      | none => none
      | some (rs, t) => some (r :: rs, t)

/-- n more elements have arrived for a row. -/
def arrive (t : TapSlot) (r : TapRow) (n : Nat) : TapSlot :=
  { t with rows := t.rows.map fun x =>
      if x.half = r.half ∧ x.idx = r.idx then { x with count := min t.d (x.count + n) } else x }

/-- Address of a row in the queue. -/
def rowAddr (t : TapSlot) (half idx : Nat) : Nat := t.queue + (half * t.m + idx) * t.rowBytes

end TapSlot

/-- The slot of a cluster whose batch is being accumulated. -/
def State.gramSlot (s : State) (cluster : Nat) : Option Nat := (List.range 16).find? fun j => match s.tap cluster j with
  | some t => t.job.isSome
  | none => false

/-- The Gram unit's status follows its batches and the CRV.NORMAL of its cluster (R177). -/
def State.syncGram (s : State) (cluster : Nat) : State :=
  let busy := s.gramSlot cluster
  let normal := s.flights.any fun f => clusterOf f.core = cluster && hOpcode f.bytes = 0x74 && f.phase ≠ .done
  (s.fset rf_corGramStatus_gramBusy (4 * cluster) 0 (b2n (busy.isSome || normal))).fset rf_corGramStatus_activeSlot
    (4 * cluster) 0 (busy.getD 0)

/-- The status registers of a slot and of the Gram unit follow the slot (R177, R178). -/
def State.syncTap (s : State) (cluster slot : Nat) : State :=
  let k := 4 * cluster
  let s := match s.tap cluster slot with
    | none => s
    | some t =>
      let s := s.fset rf_corTapSlot_rowsAllocated k slot t.rows.length
      let s := s.fset rf_corTapSlot_epoch k slot (t.epoch % 65536)
      let s := s.fset rf_corTapSlot_log2S k slot t.log2s
      let s := s.fset rf_corTapSlot_batchBusy k slot (b2n t.job.isSome)
      s.fset rf_corTapSlot_configured k slot 1
  s.syncGram cluster

def State.setTap (s : State) (cluster slot : Nat) (t : TapSlot) : State :=
  (s.withTaps (smSet none s.taps (tapKey cluster slot) (some t))).syncTap cluster slot

/-- A 16-bit epoch widened to the most recent epoch at or before the partition's current one (R157); where none has those
bits, to the first that will (a choice of the model's). -/
def widenEpoch (current e16 : Nat) : Nat :=
  let c := current / 65536 * 65536 + e16
  if c ≤ current ∨ c < 65536 then c else c - 65536

/-- The 64-bit step epoch of the flight's descriptor: its header's, widened (R116, R157). -/
def hdrEpoch (p : Nat) : Eng Nat := do
  let fl ← getF
  return widenEpoch ((← getS).epoch p) (hEpoch fl.bytes)

/-- The loss scale's exponent in force for an epoch (R146). -/
def State.lossExp (s : State) (p epoch : Nat) : Int :=
  match (s.part p).lossScale.find? (·.1 = epoch) with
  | some (_, x) => x
  | none => sext 8 (s.fget rf_strLossScale_lsExp p)

/-! ### The matrix header (R161) -/

/-- Fields of a matrix header. -/
structure MatHdr where
  epoch : Nat
  count : Nat
  /-- FP64 bits. -/
  dmax : Nat
  aux : Nat
  n : Nat
  kind : Nat
  fmt : Nat
  initialised : Bool
  torn : Bool
  nonfinite : Bool
  block : Nat
  lambda : Nat
deriving DecidableEq, Repr

def matHdr (b : List Byte) : MatHdr :=
  ⟨fld b 0 8, fld b 8 8, fld b 16 8, fld b 24 8, fld b 32 4, fldB b 36 7 4, fldB b 36 3 0, fldBit b 37 2, fldBit b 37 1,
    fldBit b 37 0, fld b 38 2, fld b 40 4⟩

def matHdrBytes (h : MatHdr) : List Byte :=
  leBytes 8 h.epoch ++ leBytes 8 h.count ++ leBytes 8 h.dmax ++ leBytes 8 h.aux ++ leBytes 4 h.n
    ++ leBytes 1 (h.kind * 16 + h.fmt)
    ++ leBytes 1 (4 * b2n h.initialised + 2 * b2n h.torn + b2n h.nonfinite) ++ leBytes 2 h.block
    ++ leBytes 4 h.lambda ++ List.replicate 20 0

/-- A header's kind is not reserved (R161). -/
def matKindOk (b : List Byte) : Bool := fldB b 36 7 4 ≤ 3

/-! ### Gram sums -/

/-- Runs an access outside any descriptor and answers what is left of it as well. -/
def State.ownRun (s : State) (c : Eng Unit) : Except Stop Unit × Run := c.run { s, fl := noFlight }

/-- Elements [e, e + n) of one token's row in a queue. -/
def gramRow (q : XReq) (t : TapSlot) (half idx e n : Nat) : Eng (List FV) := do
  let bs ← readLocal q (t.rowAddr half idx + e * t.width / 8) (n * t.width / 8)
  let xs := (unpack t.width n bs).map (decElem t.buf)
  num (xs.mapM (enterHeld .tensor t.buf))

/-- Adds the tokens' products to some elements of a row of the triangle: of each token its element of the row, and its
elements of the columns (R153, R156). -/
def gramAddRow (toks : List (FV × List FV)) (acc : List FV) : FlM (List FV) :=
  acc.zipIdx.mapM fun (a, f) => do
    let a ← enterHeld .tensor cFP32 a
    toks.foldlM (fun a (x, ys) => fFma .tensor cFP32 x (ys.getD f FV.zero) a) a

/-- C(T) of R154. -/
def gramCycles (n : Nat) : Nat := let t := ceilDiv n 64; t * (t - 1) / 2 + ceilDiv t 2

/-- The largest magnitude on the diagonal, as FP64 bits: NaN and infinity count as the largest. -/
def dmaxBits (diag : List FV) : Nat :=
  if diag.any FV.isNan then encIEEE fFP64 .nan
  else encIEEE fFP64 (diag.foldl (fun a x => fvMax a x.abs) FV.zero)

/-- The tiles of a triangle of n elements a side, as rows and columns of 64 elements (R154). Their order is the model's: log
entry 140. -/
def gramTiles (n : Nat) : List (Nat × Nat) :=
  let k := ceilDiv n 64
  (List.range k).flatMap fun i => (rangeFrom i k).map fun j => (i, j)

/-- Accumulates the batch into one tile of a block's Gram sum (R153, R155 to R157); with the block's last tile its header is
updated (R157, R158). The answer is the batch with its block's dmax and nonfinite so far. -/
def gramTile (q : XReq) (t : TapSlot) (g : GramJob) (ti tj : Nat) (last : Bool) : Eng GramJob := do
  let e := t.epoch
  let j := g.block
  let n := t.blockLen j
  let h := matHdr (← readLocal q (t.headerAddr e j) 64)
  let first := if g.tile = 0 then decide (h.epoch ≠ e) else g.first
  let cols := fun (c : Nat) => mapE g.rows fun (hf, i) => gramRow q t hf i (j * t.b + 64 * c) (min 64 (n - 64 * c))
  let xs ← cols ti
  let ys ← if ti = tj then pure xs else cols tj
  let out ← mapE (rangeFrom (64 * ti) (min n (64 * ti + 64))) fun r => do
    let f0 := max r (64 * tj)
    let w := min n (64 * tj + 64) - f0
    let a := t.triAddr e j + 4 * (r * (2 * n - r + 1) / 2 + (f0 - r))
    let acc ← if first then pure (List.replicate w FV.zero)
      else do pure ((unpack 32 w (← readLocal q a (4 * w))).map dec32)
    let toks := (xs.zip ys).map fun (x, y) => (x.getD (r - 64 * ti) FV.zero, y.drop (f0 - 64 * tj))
    let zs ← num (gramAddRow toks acc)
    writeLocal q a (pack 32 (zs.map enc32))
    return (if ti = tj then zs.take 1 else [], zs.any fun z => z.isNan || z.isInf)
  let g := { g with first := first, dmax := dmaxBits (decIEEE fFP64 g.dmax :: out.flatMap (·.1)), bad := g.bad || out.any (·.2) }
  if last then
    writeLocal q (t.headerAddr e j) (matHdrBytes { h with
      epoch := e, count := w64 ((if first then 0 else h.count) + g.rows.length), dmax := g.dmax, aux := 0, n := n, kind := 0,
      fmt := cFP32, initialised := false, torn := !first && h.torn, nonfinite := (!first && h.nonfinite) || g.bad, block := j,
      lambda := 0 })
  return g

/-- The request with which a cluster's Gram unit reaches memory: no descriptor stands behind it. -/
def gramReq (p cluster : Nat) : XReq := { p := p, kind := 4, unit := cluster, account := true }

/-- Sets torn in the header of a block the batch reached, where it can be read and written (R168, R169). In the block
at which the batch stopped (`last`) the header was not yet written: its tokens count as accumulated, in the batch's
epoch. -/
def State.setTorn (s : State) (q : XReq) (t : TapSlot) (e tokens j : Nat) (last : Bool) : State :=
  (s.own (do
    let h := matHdr (← readLocal q (t.headerAddr e j) 64)
    let h' : MatHdr :=
      if ¬ last then { h with torn := true }
      else if h.epoch = e then { h with torn := true, count := w64 (h.count + tokens) }
      else { h with
        epoch := e, count := tokens, dmax := 0, aux := 0, n := t.blockLen j, kind := 0, fmt := cFP32,
        initialised := false, torn := true, nonfinite := false, block := j, lambda := 0 }
    writeLocal q (t.headerAddr e j) (matHdrBytes h'))).2

/-- The Gram unit has done with a batch: its tokens count as accumulated and its rows are free (R150, R179). -/
def State.gramOver (s : State) (cluster slot : Nat) (t : TapSlot) (g : GramJob) : State :=
  (s.count .corGramCount (4 * cluster) 1 g.rows.length).setTap cluster slot
    { t with rows := t.rows.filter (fun r => !g.rows.contains (r.half, r.idx)), job := none }

/-- A batch stops short of its end, at a tile that failed or that a cut has kept it from: the blocks that it reached are torn
(R168, R169). The cycles spent in the block at which it stopped are not stated, and are a free value up to the block's. -/
def State.gramTear (s : State) (p cluster slot : Nat) (t : TapSlot) (g : GramJob) (reached : Bool) : State :=
  let (x, s) := s.draw
  let s := s.count .corGramCount (4 * cluster) 0 (x % (g.rows.length * gramCycles (t.blockLen g.block) + 1))
  let torn := List.range (g.block + b2n reached)
  let s := torn.foldl
    (fun s j => s.setTorn (gramReq p cluster) t t.epoch g.rows.length j (decide (j = g.block))) s
  let s := s.gramOver cluster slot t g
  if torn.isEmpty then s else s.raise 0x1005 p ⟨2, cluster, 0, slot <<< 16, t.epoch⟩

/-- A CRV.EMA in progress has begun to read a Gram sum of the slot's epoch (R160). -/
def State.emaReads (s : State) (t : TapSlot) (e : Nat) : Bool :=
  s.flights.any fun f => hOpcode f.bytes = 0x72 && f.phase ≠ .done && (f.point ≠ 0 || !f.aux.isEmpty)
    && decide (t.gramBase e ≤ fld f.bytes 48 8) && decide (fld f.bytes 48 8 < t.gramBase e + 64 * t.blocks)

/-- The Gram unit accumulates the next tile of a slot's batch (R153 to R158). A failed access stops the batch, with the fault's
own event (R168). It waits while a CRV.EMA reads the sum (R160). -/
def State.gramStep (s : State) (p cluster slot : Nat) (t : TapSlot) (g : GramJob) : State :=
  if s.emaReads t t.epoch then s
  else
    let q := gramReq p cluster
    let n := t.blockLen g.block
    let tiles := gramTiles n
    let (ti, tj) := tiles.getD g.tile (0, 0)
    let last : Bool := g.tile + 1 = tiles.length
    let c := gramTile q t g ti tj last
    let (res, r) := c.run { s, fl := noFlight }
    let s := r.s.fset rf_corFlags_gram t.core 0 (r.s.fget rf_corFlags_gram t.core ||| (r.fl.flags % 16))
    match res with
    | .ok g =>
      if last then
        let s := s.count .corGramCount (4 * cluster) 0 (g.rows.length * gramCycles n)
        if g.block + 1 = t.blocks then s.gramOver cluster slot t g
        else s.setTap cluster slot { t with job := some { g with block := g.block + 1, tile := 0, dmax := 0, bad := false } }
      else s.setTap cluster slot { t with job := some { g with tile := g.tile + 1 } }
    | .error x =>
      let s := match x with
        | .fault c va wr acc _ => (s.faultOwed p q noFlight c va wr acc (.unit 1 t.core)).2
        | _ => s
      s.gramTear p cluster slot t g true

/-- A cluster's batch in progress: its partition, slot and configuration. -/
def State.gramJob (s : State) (cluster : Nat) : Option (Nat × Nat × TapSlot × GramJob) :=
  match s.gramSlot cluster, s.partOfCluster cluster with
  | some slot, some p => match s.tap cluster slot with
    | some t => t.job.map fun g => (p, slot, t, g)
    | none => none
  | _, _ => none

/-- Work in progress in a domain runs to its end: the domain is awake, or has not drained (R491). -/
def State.finishes (s : State) (d : Nat) : Bool := s.domState d = 0 && s.domPhase d ≤ 2

/-- The Gram unit of a cluster goes on by a tile. -/
def State.gramNext (s : State) (cluster : Nat) : State :=
  match s.gramJob cluster with
  | some (p, slot, t, g) => if s.finishes (domCluster cluster) then s.gramStep p cluster slot t g else s
  | none => s

/-- Goes on by at most k tiles. -/
def State.gramSteps (s : State) (cluster : Nat) : Nat → State
  | 0 => s
  | k + 1 => (s.gramNext cluster).gramSteps cluster k

/-- The batch in progress comes to its end, unless it has to wait. -/
def State.gramToEnd (s : State) (cluster : Nat) : State :=
  match s.gramJob cluster with
  | some (_, _, t, _) => s.gramSteps cluster (t.blocks * (gramTiles t.b).length)
  | none => s

/-- The Gram units go on, each by a tile; a batch in progress is finished whatever becomes of its partition (R168). -/
def State.gramTick (s : State) : State := (List.range 16).foldl State.gramNext s

/-- A cut reaches a cluster's Gram unit with a batch in progress: it has stopped at a tile boundary (R169). -/
def State.gramCut (s : State) (cluster : Nat) (which : TapSlot → Bool) : State :=
  match s.gramJob cluster with
  | some (p, slot, t, g) => if which t then s.gramTear p cluster slot t g (g.tile ≠ 0) else s
  | none => s

/-- The Gram unit takes a batch of a slot: rows as (batch, row), in order. -/
def State.gramStart (s : State) (cluster slot : Nat) (t : TapSlot) (rows : List TapRow) : State :=
  s.setTap cluster slot { t with job := some ⟨rows.map fun r => (r.half, r.idx), 0, 0, false, 0, false⟩ }

/-! ### The close of a slot (R152) -/

/-- The next batch of a close: an older batch that is ready, or else the complete rows as a short batch. -/
def TapSlot.closeRows (t : TapSlot) : List TapRow :=
  if t.readyHalf (1 - t.fill) then t.inHalf (1 - t.fill)
  else (t.inHalf (1 - t.fill) ++ t.inHalf t.fill).filter (·.count = t.d)

/-- Waits until the cluster's Gram unit has no batch in progress. -/
def gramWait (cluster : Nat) (x : Stop) : Eng Unit := do
  if (← get).toEnd then modS fun s => s.gramToEnd cluster
  if ((← getS).gramJob cluster).isSome then stop x

/-- A batch of a close: it waits for the Gram unit and for a CRV.EMA that reads the sum (R160), and a descriptor with pre-emption
points stops before it while its partition is being pre-empted (R167). -/
def closeBatch (cluster slot : Nat) (x : Stop) : Eng Unit := do
  gramWait cluster x
  let r ← get
  match r.s.tap cluster slot with
  | some t =>
    unless t.closeRows.isEmpty do
      if !r.s.goes r.fl && r.fl.hasPoints then stop (.pause true)
      if r.s.emaReads t t.epoch then stop x
      modS fun s => s.gramStart cluster slot t t.closeRows
  | none => return ()

/-- The incomplete rows of a slot that closes are dropped (R152). -/
def State.closeDrop (s : State) (p cluster slot : Nat) : State :=
  match s.tap cluster slot with
  | none => s
  | some t =>
    let bad := t.rows.length
    let s := if bad = 0 then s else
      (s.count .corGramCount (4 * cluster) 2 bad).raise 0x1003 p ⟨2, cluster, 0, bad + (slot <<< 16), t.epoch⟩
    s.setTap cluster slot { t with rows := [], fill := 0 }

/-- Closes a slot (R152): a batch that is ready and then a short one are accumulated, and incomplete rows are dropped with
0x1003. It stops with `x` while the Gram unit works. -/
def closeRun (cluster slot : Nat) (x : Stop) : Eng Unit := do
  closeBatch cluster slot x
  closeBatch cluster slot x
  gramWait cluster x
  let p ← Eng.part
  modS fun s => s.closeDrop p cluster slot

/-- A CRV.TAP_CFG or CRV.GRAM has begun to close the slot: copies for it wait (R170, log entry 140). -/
def State.slotCloses (s : State) (cluster slot : Nat) : Bool :=
  s.flights.any fun f => clusterOf f.core = cluster && (hOpcode f.bytes = 0x70 || (hOpcode f.bytes = 0x71 && fldB f.bytes 17 1 0 = 0))
    && f.phase ≠ .done && f.point = 1 && fldB f.bytes 16 3 0 = slot

/-- The prescale of a slot for a descriptor's epoch, as an exponent of two (R146). -/
def State.prescale (s : State) (p : Nat) (t : TapSlot) (epoch : Nat) : Int :=
  if t.prescaleMode = 0 then 0
  else if t.prescaleMode = 1 then -(s.lossExp p epoch)
  else pow2AnyExp t.prescale

/-- Copies of elements of tokens into a slot (R146, R149, R150, R152): `toks` are token index and values, elements
`pos` on. It stops where the queue lacks room, before any copy. -/
def tapOffer (slot epoch16 pos : Nat) (toks : List (Nat × List FV)) : Eng Unit := do
  let fl ← getF
  let p ← Eng.part
  let q ← Eng.req
  let c := clusterOf fl.core
  match (← getS).tap c slot with
  | none => return ()
  | some t0 =>
    let e := widenEpoch ((← getS).epoch p) epoch16
    let mine := toks.filter fun (x, _) => t0.samples x epoch16
    let cur := (← getS).epoch p
    let ref := if t0.rows.isEmpty then cur else t0.epoch
    if e < ref then
      -- a copy of an earlier epoch is discarded (R152)
      if pos = 0 then modS fun s => s.count .corGramCount (4 * c) 2 mine.length
      return ()
    if mine.isEmpty then return ()
    if (← getS).slotCloses c slot then stop .tap
    if ¬ t0.rows.isEmpty ∧ t0.epoch < e then closeRun c slot .tap
    let t1 : TapSlot := match (← getS).tap c slot with
      | some t => { t with epoch := e }
      | none => t0
    match t1.rowsFor (mine.map (·.1)) with
    | none => stop .tap
    | some (rs, t2) =>
      let k := (← getS).prescale p t2 e
      let flags := (← getF).flags
      modF fun f => { f with flags := 0 }
      let ws ← mapE (rs.zip mine) fun (r, _, vs) => do
        let cs ← num (vs.mapM fun v => do
          let v ← enterHeld .tensor t2.src v
          convert .tensor cFP64 t2.buf false (v.scale2 k))
        return (t2.rowAddr r.half r.idx + pos * t2.width / 8, pack t2.width cs)
      let mineFl := (← getF).flags
      modF fun f => { f with flags := flags }
      let pas ← mapE (ws.flatMap fun (va, bs) => (chunksOf va bs.length).map fun (v, n) => (v, (bs.drop (v - va)).take n))
        fun (v, bs) => do return (← xltLocal q v true false, bs)
      paStoreAll q pas
      modS fun s => s.fset rf_corFlags_gram t2.core 0 (s.fget rf_corFlags_gram t2.core ||| (mineFl % 16))
      let t3 := (rs.zip mine).foldl (fun t (r, _, vs) => t.arrive r vs.length) t2
      modS fun s => s.setTap c slot t3

/-- The command GRAM_BATCH: the Gram unit takes the oldest ready batch of the slot (R150, R153), once a CRV.EMA that has begun
to read the sum has ended (R160), unless its partition is being pre-empted or is saved (R168). It accumulates it by a tile at
each tick; where the slot's batch is already in progress, the command takes it to its end. -/
def execGramBatch (cluster : Fin 16) (slot : Fin 16) (s : State) : Host.Outcome State Fault Refusal :=
  done (match s.partOfCluster cluster, s.tap cluster slot with
    | some p, some t =>
      if s.gramSlot cluster = some slot.val then s.gramToEnd cluster
      else match s.gramSlot cluster, t.ready with
        | none, some h => if s.emaReads t t.epoch ∨ ¬ s.awake (domCluster cluster) ∨ ¬ s.admits p then s
          else s.gramStart cluster slot t (t.inHalf h)
        | _, _ => s
    | _, _ => s)

end Sys2Proof.Machine
end

