-- ==== Sys2Proof/Machine/Bucket.lean ====
section
/-! DEFINITION. The bucket unit and the channel adders (R254 to R274, R581): accumulate requests and their answers, the
addition of lines, poison, and the completion of buckets. -/
namespace Sys2Proof.Machine

open Eng

/-! ### What the unit knows -/

/-- GRV_RED_STATUS follows the buckets (R292). -/
def State.syncBkts (s : State) (p : Nat) : State :=
  let b := (s.part p).bkts
  let s := s.fset rf_grvRedStatus_open p 0 (countIf (·.state = 1) b)
  let s := s.fset rf_grvRedStatus_complete p 0 (countIf (·.state = 2) b)
  s.fset rf_grvRedStatus_poisoned p 0 (countIf (fun x => x.epoch = s.epoch p && (x.poisoned || x.failed)) b)

def State.setBkt (s : State) (p : Nat) (b : Bkt) : State :=
  let q := s.part p
  (s.setPart p { q with bkts := q.bkts.filter (·.n ≠ b.n) ++ [b] }).syncBkts p

def State.bktAddr (s : State) (p n : Nat) : Nat := s.fget rf_grvBucketBase_base p * 4194304 + 64 * n

-- Fields of a bucket table entry (R258).
def beEpoch (e : List Byte) : Nat := fld e 0 8
def beLines (e : List Byte) : Nat := fld e 8 8
def beCount (e : List Byte) : Nat := fld e 16 4
def beExpected (e : List Byte) : Nat := fld e 20 2
def beDone (e : List Byte) : Nat := fld e 22 2
def beFormat (e : List Byte) : Nat := fldB e 24 7 4
def beLimit (e : List Byte) : Nat := fldB e 24 3 0
def beState (e : List Byte) : Nat := fldB e 25 2 0
def beGf (e : List Byte) : Bool := fldBit e 26 5
/-- The poison bits: ovf 1, inv 2, config 4, damaged 8. -/
def bePoison (e : List Byte) : Nat := fldB e 26 3 0
def beControl (e : List Byte) : Nat := fld e 32 8
def beTick (e : List Byte) : Nat := fld e 48 8

def cauOvf : Nat := 1
def cauInv : Nat := 2
def cauConfig : Nat := 4
def cauDamaged : Nat := 8

/-- Bytes of the control block's bitmap, padded, and of the whole block (R259). -/
def bitmapBytes (limit : Nat) : Nat := roundUp (ceilDiv (2 ^ limit) 8) 64
def controlBytes (limit : Nat) : Nat := bitmapBytes limit + roundUp (2 * 2 ^ limit) 64

/-- An event of a bucket (R294, R555 class 0x5). -/
def State.bktEvent (s : State) (p code n contributor detail : Nat) : State :=
  s.raise code p ⟨8, p, 0, n % 65536 + ((contributor % 4096) <<< 16), detail⟩

/-- A bucket whose entry or control block cannot be reached is failed for its epoch (R581). -/
def State.bktFails (s : State) (p n epoch : Nat) (x : Stop) : State :=
  let b := (s.bkt p n).getD ⟨n, epoch, 0, false, false, false, 0, 0, false, false⟩
  if b.failed then s
  else
    let s := match x with
      | .fault c va wr acc _ => (s.faultOwed p (pinnedReq p) noFlight c va wr acc (.unit 8 p)).2
      | _ => s
    let s := s.bktEvent p 0x5009 n 0 b.epoch
    let q := s.part p
    (s.setPart p { q with adds := q.adds.filter (·.bucket ≠ n) }).setBkt p { b with failed := true }

/-- Runs an access of the bucket unit to a bucket's structures. -/
def State.bktTry {α : Type} (s : State) (p n epoch : Nat) (c : Eng α) : Option α × State :=
  match s.ownE c with
  | (.ok a, s) => (some a, s)
  | (.error x, s) => (none, s.bktFails p n epoch x)

/-- A contributor's bit and mark (R259). -/
def bktMark (p : Nat) (e : List Byte) (c : Nat) : Eng (Bool × Nat) := do
  let q := pinnedReq p
  let byte ← readLocal q (beControl e + c / 8) 1
  let m ← readLocal q (beControl e + bitmapBytes (beLimit e) + 2 * c) 2
  return (bit (leNat byte) (c % 8), leNat m)

/-- A poisoning of a bucket's entry; the first of an epoch records itself (R270, R272). -/
def State.poison (s : State) (p n : Nat) (e : List Byte) (causes contributor line : Nat) : List Byte × State :=
  let first : Bool := bePoison e = 0
  let b26 := fld e 26 1 ||| causes
  let e' := if first then
      patchN (patchN (patchN e 26 1 (b26 ||| (16 * b2n (causes &&& cauInv ≠ 0)))) 28 2 contributor) 30 2 line
    else patchN e 26 1 b26
  let s := if first then s.bktEvent p 0x5001 n contributor (beEpoch e) else s
  let s := match s.bkt p n with
    | some b => s.setBkt p { b with poisoned := true }
    | none => s
  (e', s)

/-! ### Accumulate requests (R262 to R267, R272) -/

/-- The fields of an accumulate request (R262, R404). -/
structure AccReq where
  tag : Nat
  contributor : Nat
  first : Nat
  lines : Nat
  gf : Bool
  bfmt : Nat
  dfmt : Nat
  coef : Nat
  data : List Byte
deriving DecidableEq, Repr

/-- The 16 bytes that carry a request's fields (R404). -/
def accFields (r : AccReq) : List Byte :=
  leBytes 4 r.tag ++ leBytes 2 (r.contributor % 4096) ++ leBytes 2 r.first
    ++ leBytes 1 (r.lines % 64 + 128 * b2n r.gf) ++ leBytes 1 (r.bfmt * 16 + r.dfmt) ++ leBytes 2 r.coef
    ++ List.replicate 4 0

def accReq (f data : List Byte) : AccReq :=
  ⟨fld f 0 4, fld f 4 2 % 4096, fld f 6 2, fldB f 8 5 0, fldBit f 8 7, fldB f 9 7 4, fldB f 9 3 0, fld f 10 2, data⟩

/-- Bytes of an element in a bucket or contribution format. -/
def accBytes (c : Nat) : Nat := if c = cFP32 then 4 else 2

/-- The request is well formed for a bucket's format (R262). -/
def AccReq.wellFormed (r : AccReq) (fmt : Nat) : Bool :=
  (if r.gf then r.dfmt = cGF16 else r.dfmt ≤ cFP16)
    && 1 ≤ r.lines && r.lines ≤ 32 && r.lines * accBytes r.dfmt ≤ 32 * accBytes fmt
    && r.data.length = r.lines * (128 / accBytes fmt) * accBytes r.dfmt

/-- Signed 16-bit difference of epochs (R257). -/
def epochDiff (a b : Nat) : Int := sext 16 (subMod 16 a b)

/-- Lines of a request dropped as duplicates or refused as LATE, with the event of their first request of the epoch
(R263, R294): the entry's counter lies at `off`. -/
def State.bktDrop (s : State) (p n : Nat) (e : List Byte) (late : Bool) (c k : Nat) : List Byte × State :=
  let off := if late then 44 else 40
  let e' := patchN e off 4 (w32 (fld e off 4 + k))
  let s := s.count .grvRedCount p (if late then 2 else 1) k
  match s.bkt p n with
  | some b =>
    if (if late then b.lateEvt else b.dupEvt) then (e', s)
    else
      let s := s.setBkt p (if late then { b with lateEvt := true } else { b with dupEvt := true })
      (e', s.bktEvent p (if late then 0x5004 else 0x5006) n c ((satBits 16 k <<< 48) + beEpoch e % 2 ^ 48))
  | none => (e', s)

/-- Writes an entry back and gives the answer; NOT_OPEN where the entry cannot be written (R581). -/
def State.bktAnswer (s : State) (p n : Nat) (e : List Byte) (ans : Nat × Nat) : (Nat × Nat) × State :=
  match s.bktTry p n (beEpoch e) (writeLocal (pinnedReq p) (s.bktAddr p n) e) with
  | (some _, s) => (ans, s)
  | (none, s) => ((anNotOpen, 0), s)

/-- The bucket's state: CLOSED once its verdict has closed it, also where its entry could not be written (R261, R581). -/
def State.bktState (s : State) (p n : Nat) (e : List Byte) : Nat :=
  match s.bkt p n with
  | some b => if b.state = 3 ∧ b.epoch = beEpoch e then 3 else beState e
  | none => beState e

/-- The bucket is complete once done equals expected and every accepted line is written (R261). -/
def State.bktComplete (s : State) (p n : Nat) (e : List Byte) : List Byte × State :=
  match s.bkt p n with
  | some b =>
    if s.bktState p n e = 1 ∧ beDone e = beExpected e ∧ (s.part p).adds.all (·.bucket ≠ n) then
      (patchN (patchN e 25 1 2) 48 8 s.tick, s.setBkt p { b with state := 2, completed := true })
    else (e, s)
  | none => (e, s)

/-- The bucket unit's answer to a request of an accepted origin, which came by a port, by the order of R263: answer and mark.
`fault` is the answer where the lines cannot be translated (R345). -/
def State.bktHandle (s : State) (p : Nat) (r : AccReq) (port : Nat) (fault : Nat := anRejected) : (Nat × Nat) × State :=
  let n := r.tag % 65536
  let q := pinnedReq p
  if !s.admits p then ((anNotOpen, 0), s)
  else
    match s.bktTry p n (widenEpoch (s.epoch p) (r.tag / 65536)) (readLocal q (s.bktAddr p n) 64) with
    | (none, s) => ((anNotOpen, 0), s)
    | (some e, s) =>
      let d := epochDiff (r.tag / 65536) (beEpoch e)
      if beState e = 0 ∨ 0 < d then ((anNotOpen, 0), s)
      else
        let failed : Bool := match s.bkt p n with
          | some b => b.failed
          | none => false
        let known : Bool := r.contributor < 2 ^ beLimit e
        if d = 0 ∧ failed then ((anNotOpen, 0), s)
        else
          match (if known then s.bktTry p n (beEpoch e) (bktMark p e r.contributor) else (some (false, 0), s)) with
          | (none, s) => ((anNotOpen, 0), s)
          | (some (full, m0), s) =>
            let m := if full then beCount e else m0
            if d < 0 then
              let (e, s) := s.bktDrop p n e true r.contributor r.lines
              s.bktAnswer p n e (anLate, m)
            else if !r.wellFormed (beFormat e) || r.bfmt ≠ beFormat e || r.gf ≠ beGf e then ((anRejected, m), s)
            else
              let refuse (s : State) : (Nat × Nat) × State :=
                let (e, s) := s.poison p n e cauConfig r.contributor r.first
                (s.bktEvent p 0x5008 n r.contributor (beEpoch e)).bktAnswer p n e (anRejected, m)
              let late (s : State) : (Nat × Nat) × State :=
                let (e, s) := s.bktDrop p n e true r.contributor r.lines
                s.bktAnswer p n e (anLate, m)
              let dup (s : State) : (Nat × Nat) × State :=
                let (e, s) := s.bktDrop p n e false r.contributor r.lines
                s.bktAnswer p n e (anDuplicate, m)
              let last := r.first + r.lines
              let st := s.bktState p n e
              if !known then (if st = 3 then late s else refuse s)
              else if full then dup s
              else if st = 3 then late s
              else if st = 2 ∨ beDone e = beExpected e then refuse s
              else if m < r.first then ((anOutOfOrder, m), s)
              else if last ≤ m then dup s
              else
                -- the lines are translated before anything is accepted (R260)
                let via := { q with unit := port }
                match s.ownE (mapE (rangeFrom m last) fun l => xltLocal via (beLines e + 128 * l) true true) with
                | (.error (.fault c va wr acc _), s) => ((fault, m), s.portFault via c va wr acc)
                | (.error _, s) => ((fault, m), s)
                | (.ok pas, s) =>
                  let full' : Bool := last = beCount e
                  let e1 := if full' then patchN e 22 2 (beDone e + 1) else e
                  let (e1, s1) := if r.first < m then s.bktDrop p n e1 false r.contributor (m - r.first) else (e1, s)
                  let ca := beControl e
                  match s1.bktTry p n (beEpoch e) (do
                      let b ← readLocal q (ca + r.contributor / 8) 1
                      writeLocals q ([(ca + bitmapBytes (beLimit e) + 2 * r.contributor, leBytes 2 last),
                          (s.bktAddr p n, e1)]
                        ++ if full' then
                            [(ca + r.contributor / 8, leBytes 1 (leNat b ||| 2 ^ (r.contributor % 8)))] else [])) with
                  | (none, s) => ((anNotOpen, 0), s)
                  | (some _, s) =>
                    let per := 128 / accBytes (beFormat e) * accBytes r.dfmt
                    let new := (rangeFrom m last).zip pas |>.map fun (l, pa) =>
                      (⟨n, beEpoch e, r.contributor, l, r.gf, beFormat e, r.dfmt, r.coef,
                        slice r.data ((l - r.first) * per) per, pa⟩ : LineAdd)
                    let x := s.part p
                    let s := (s.setPart p { x with adds := x.adds ++ new }).count .grvRedCount p 0 (last - m)
                    ((anAccepted, last), s)

/-- A sender is in the partition's peer set: its job map names it in a valid entry (R267, R295). -/
def State.isPeer (s : State) (p : Nat) (a : Addr) : Bool × State :=
  let n := s.fget rf_grvJobMapBase_count p
  if n = 0 then (false, s)
  else
    match s.accountRead p stJobMap (s.fget rf_grvJobMapBase_base p * 64) (8 * n) with
    | (none, s) => (false, s)
    | (some bs, s) =>
      ((List.range n).any fun i =>
        let e := slice bs (8 * i) 8
        fldBit e 6 0 && fldB e 0 3 0 = a.x && fldB e 0 7 4 = a.y && fldB e 1 3 0 = a.z && fldB e 1 7 4 = a.part, s)

/-- Answers that a contributor counts (R293): OUT_OF_ORDER and NOT_OPEN. -/
def State.noteAnswer (s : State) (p ans : Nat) : State :=
  if ans = anOutOfOrder then s.count .grvRedCount p 3 else if ans = anNotOpen then s.count .grvRedCount p 4 else s

/-- The bucket's mark for a request's contributor, as every answer but NOT_OPEN carries it (R264); 0 where it has none or it
cannot be read. -/
def State.bktMarkOf (s : State) (p : Nat) (r : AccReq) : Nat :=
  ((s.own (do
    let e ← readLocal (pinnedReq p) (s.bktAddr p (r.tag % 65536)) 64
    if beState e = 0 ∨ 2 ^ beLimit e ≤ r.contributor then return 0
    let (full, m) ← bktMark p e r.contributor
    return if full then beCount e else m)).1).getD 0

/-- The answer to an accumulate request from a module and partition (R263, R267). -/
def State.bktAsk (s : State) (p : Nat) (src : Addr) (r : AccReq) : (Nat × Nat) × State :=
  if !s.admits p then ((anNotOpen, 0), s)
  else
    match s.isPeer p src with
    | (true, s) => s.bktHandle p r (s.arrivalPort src)
    | (false, s) => ((anRejected, s.bktMarkOf p r), s)

/-- An ACCUMULATE frame reaches its target (R263, R403). -/
def execAccumulate (f : Frame) (s : State) : Host.Outcome State Fault Refusal :=
  done (if s.serves ∧ f.op = 0x03 ∧ sameModule f.dst (s.here 0) then
      let (a, s) := s.bktAsk f.dst.part f.src (accReq f.ops f.payload)
      s.respond f a.1 a.2
    else s)

/-! ### The adders (R254 to R256, R269 to R271) -/

/-- Multiplication in GF(2^16) modulo 0x1100B (R256). -/
def gfMul : Nat → Nat → Nat → Nat
  | 0, _, _ => 0
  | k + 1, a, b =>
    let r := gfMul k (let d := 2 * a; if d ≥ 65536 then (d % 65536) ^^^ 0x100B else d) (b / 2)
    if b % 2 = 1 then r ^^^ a else r

def gf (c d : Nat) : Nat := gfMul 16 c d

/-- One element's sum, and the poison it brings (R255, R269). -/
def addElem (fmt dfmt x y : Nat) : Nat × Nat :=
  let enter := fun (c : Nat) (v : FV) => match v with
    | .fin n m e => if c = cFP32 ∧ m ≠ 0 ∧ fvLog2 m e < -126 then FV.fin n 0 0 else v
    | _ => v
  let a := enter fmt (decElem fmt x)
  let b := enter dfmt (decElem dfmt y)
  let z := (roundTo .tensor fmt .rne (fvAdd a b).1).1
  let inv : Bool := b.isNan || (z.isNan && !(a.isInf && b.isInf) && a.isFinite)
  let ovf : Bool := b.isInf || (z.isInf && a.isFinite) || (z.isNan && a.isInf && b.isInf)
  (encElem fmt z, (if ovf then cauOvf else 0) ||| (if inv then cauInv else 0))

/-- A line's new bytes and the poison it brings. -/
def addLine (l : LineAdd) (old : List Byte) : List Byte × Nat :=
  let n := 128 / accBytes l.fmt
  if l.gf then
    (pack16 ((List.range n).map fun i => fld old (2 * i) 2 ^^^ gf l.coef (fld l.data (2 * i) 2)), 0)
  else
    let e := accBytes l.fmt
    let d := accBytes l.dfmt
    let rs := (List.range n).map fun i => addElem l.fmt l.dfmt (fld old (e * i) e) (fld l.data (d * i) d)
    (rs.flatMap fun r => leBytes e r.1, rs.foldl (fun a r => a ||| r.2) 0)
where
  pack16 (xs : List Nat) : List Byte := xs.flatMap (leBytes 2)

/-- The poison that an old line's NaN and infinities bring where the bucket is not yet poisoned: they were in a line that was not
zeroed, and the adder writes them again (R269, R258). In a poisoned bucket they come from what poisoned it (assumption 147). -/
def oldCauses (l : LineAdd) (old : List Byte) : Nat :=
  let e := accBytes l.fmt
  if l.gf then 0
  else (List.range (128 / e)).foldl (fun c i => match decElem l.fmt (fld old (e * i) e) with
    | .nan => c ||| cauInv
    | .inf _ => c ||| cauOvf
    | .fin .. => c) 0

/-- An adder adds an accepted line (R254): `contributor` and `line` name it among those that wait. A line that its code
cannot correct turns to NaN (R271); a GF16 symbol has no NaN (R17), so in GF mode the symbols written are free values. -/
def State.lineAdd (s : State) (p : Nat) (l : LineAdd) : State :=
  let x := s.part p
  let s := s.setPart p { x with adds := x.adds.erase l }
  let (bad, s) := s.lineRead 2 l.pa
  let old := s.bytes l.pa 128
  let ((bs, causes), s) := if bad then
      if l.gf then
        let (xs, s) := s.drawBytes 128
        ((xs, cauDamaged), s)
      else
        let v := encElem l.fmt .nan
        (((List.range (128 / accBytes l.fmt)).flatMap fun _ => leBytes (accBytes l.fmt) v, cauDamaged), s)
    else (addLine l old, s)
  let s := (s.paWrite l.pa bs).2
  let s := match region l.pa with
    | .hbm _ => s.count .hbmCount (s.hbmPlace l.pa).stack 2
    | _ => s
  match s.bktTry p l.bucket l.epoch (readLocal (pinnedReq p) (s.bktAddr p l.bucket) 64) with
  | (none, s) => s
  | (some e, s) =>
    if beEpoch e ≠ l.epoch then s
    else
      let causes := if causes = 0 ∧ bePoison e = 0 then oldCauses l old else causes
      let (e1, s) := if causes = 0 then (e, s) else s.poison p l.bucket e causes l.contributor l.line
      let s := if bad then s.bktEvent p 0x5009 l.bucket l.contributor l.epoch else s
      let (e2, s) := s.bktComplete p l.bucket e1
      if e2 = e then s else (s.bktAnswer p l.bucket e2 (0, 0)).2

/-- The line named is added where it is the next of its bucket: additions within a bucket occur in arrival order (R273). -/
def execLineAdd (p : Fin 16) (bucket : BitVec 16) (contributor : Fin 4096) (line : BitVec 16) (s : State) :
    Host.Outcome State Fault Refusal :=
  done (match (s.part p).adds.find? (fun l => l.bucket = bucket.toNat) with
    | some l => if l.contributor = contributor.val ∧ l.line = line.toNat then s.lineAdd p l else s
    | none => s)

/-- A bucket is CLOSED at the verdict of its epoch (R261). A failed mark ends, and the entry of such a bucket is closed where it
can be reached (R581). -/
def State.closeBucket (s : State) (p : Nat) (b : Bkt) : State :=
  let q := pinnedReq p
  let shut : Eng Unit := do
    let x ← readLocal q (s.bktAddr p b.n) 64
    writeLocal q (s.bktAddr p b.n) (patchN x 25 1 3)
  let s := if b.failed then (s.own shut).2 else (s.bktTry p b.n b.epoch shut).2
  let now := (s.bkt p b.n).getD b
  s.setBkt p { now with state := 3, failed := false, poisoned := now.poisoned || now.failed }

/-- The accepted lines of a bucket that still wait are added, in arrival order (R254). -/
def State.flushAdds (s : State) (p n : Nat) : State :=
  ((s.part p).adds.filter (·.bucket = n)).foldl (fun s l => s.lineAdd p l) s

/-- The partition receives the verdict of epoch e: its buckets are CLOSED (R261). -/
def State.closeBuckets (s : State) (p e : Nat) : State :=
  ((s.part p).bkts.filter fun b => b.epoch = e ∧ (b.state = 1 ∨ b.state = 2 ∨ b.failed)).foldl (fun s b => s.closeBucket p b) s

/-- Virtual ranges of the partition's poisoned bucket lines of an epoch. -/
def State.poisonedLines (s : State) (p e : Nat) : List (Nat × Nat) :=
  ((s.part p).bkts.filter fun b => b.epoch = e && (b.poisoned || b.failed)).map fun b => (b.lines, 128 * b.count)

/-! ### The buckets that RED.BUCKET_WAIT waits for (R274, R287) -/

def bwFirst (d : List Byte) : Nat := fld d 16 2
def bwCount (d : List Byte) : Nat := fld d 20 4

/-- The poisoned buckets of the descriptor's range in its epoch, ascending. -/
def State.poisonedIn (s : State) (p : Nat) (d : List Byte) : List Nat :=
  (rangeFrom (bwFirst d) (bwFirst d + bwCount d)).filter fun n => match s.bkt p n with
    | some b => b.epoch = widenEpoch (s.epoch p) (hEpoch d) && (b.poisoned || b.failed)
    | none => false

/-- The detail field of its completion: the number of poisoned buckets, and the lowest of them or 0xFFFF (R274). -/
def State.waitDetail (s : State) (p : Nat) (d : List Byte) : Nat :=
  ((s.poisonedIn p d).length <<< 32) + (s.poisonedIn p d).headD 0xFFFF

end Sys2Proof.Machine
end

