-- ==== Sys2Proof/Machine/Lattice.lean ====
section
/-! DEFINITION. The matrix lattice (chapter The matrix lattice, R49 to R79): MAT.MMA, MAT.LOAD_ACC, the sequential
preload, MAT.STORE_ACC, MAT.SWAP, the hold, and the tap's wait for room. -/
namespace Sys2Proof.Machine

open Eng

/-! ### Planes -/

def cellKey (r l : Nat) : Nat := 128 * r + l

namespace Lattice

/-- A cell's FP32 bits in a plane; undefined contents are free values (R59). -/
def cell (x : Lattice) (plane r l : Nat) : Nat :=
  let k := cellKey r l
  match smGet none (if plane = 0 then x.p0 else x.p1) k, (if plane = 0 then x.free0 else x.free1) with
  | some v, _ => v
  | none, some f => w32 (Config.freeWord (f + k)).toNat
  | none, none => 0

def setCell (x : Lattice) (plane r l v : Nat) : Lattice :=
  if plane = 0 then { x with p0 := smSet none x.p0 (cellKey r l) (some (w32 v)) }
  else { x with p1 := smSet none x.p1 (cellKey r l) (some (w32 v)) }

def rows (x : Lattice) (plane : Nat) : Nat := if plane = 0 then x.rows0 else x.rows1
def lanes (x : Lattice) (plane : Nat) : Nat := if plane = 0 then x.lanes0 else x.lanes1

def setFoot (x : Lattice) (plane r l : Nat) : Lattice :=
  if plane = 0 then { x with rows0 := r, lanes0 := l } else { x with rows1 := r, lanes1 := l }

/-- Both planes undefined and both footprints empty (R59). -/
def scrambled (x : Lattice) (f : Nat) : Lattice :=
  { x with p0 := [], p1 := [], free0 := some f, free1 := some (f + 16384), rows0 := 0, lanes0 := 0, rows1 := 0,
           lanes1 := 0 }

end Lattice

def State.live (s : State) (core : Nat) : Nat := s.fget rf_corLatStatus_livePlane core
def State.shadow (s : State) (core : Nat) : Nat := 1 - s.live core

/-- Writes cells of a plane: row, lane and FP32 bits. -/
def latWrite (core plane : Nat) (xs : List (Nat × Nat × Nat)) : Eng Unit :=
  modS fun s => s.setLat core (xs.foldl (fun l (r, c, v) => l.setCell plane r c v) (s.lat core))

/-! ### The hold (R58, R59) -/

/-- At the issue of a MAT descriptor its stream becomes the holder, whatever the descriptor waits for afterwards (R58). -/
def takeHold : Eng Unit := do
  let fl ← getF
  modS fun s => s.fset rf_corLatStatus_holder fl.core 0 fl.stream

/-- The hold is one taken by acquire from the start of the descriptor on: one that is ILLEGAL takes none (R58). -/
def acquire : Eng Unit := do
  let fl ← getF
  modS fun s =>
    let l := s.lat fl.core
    s.setLat fl.core { l with acquired := l.acquired || matAcquire fl.bytes }

/-! ### Layout checks (R72 to R77, R147) -/

def matBase (d : List Byte) : Nat × Nat := (fldB d 96 6 0, fldB d 97 6 0)

/-- Reserved bits that all MAT descriptors with bases share. -/
def matReserved (d : List Byte) : Bool := fldB d 96 7 7 = 0 && fldB d 97 7 7 = 0

/-- Operand pairings of R36. -/
def pairOk (a b : Nat) : Bool :=
  let fp8 := [cE4M3, cE5M2]
  let mx8 := [cMXE4M3, cMXE5M2, cMXE3M2, cMXE2M3]
  (a = b && [cFP32, cBF16, cFP16, cMXINT8, cINT8, cMXFP4].contains a)
    || (fp8.contains a && fp8.contains b) || (mx8.contains a && mx8.contains b)

/-- M, K and N of a MAT.MMA, with the index that A gives for K (R49). -/
def mmaDims (d : List Byte) : Nat × Nat × Nat × Nat :=
  let a := tref d 16
  let b := tref d 40
  if fmtIsMX b.fmt then (a.rows, b.cols, b.rows, a.cols) else (a.rows, b.rows, b.cols, a.cols)

def mmaLegal (core : Nat) (s : State) (d : List Byte) : Bool :=
  let (m, k, n, ka) := mmaDims d
  let (rb, lb) := matBase d
  trefOk d 16 && trefOk d 40 && matReserved d && fldB d 98 7 5 = 0 && fldB d 99 7 4 = 0 && zeroBytes d 108 20
    && m ≤ 128 && n ≤ 128 && k = ka && pairOk (tref d 16).fmt (tref d 40).fmt && rb + m ≤ 128 && lb + n ≤ 128
    && (hPreemptible d || k ≤ 16384)
    && (!fldBit d 98 3 || match s.tap (clusterOf core) (fldB d 99 3 0) with
      | none => false
      | some t => (if fldBit d 98 4 then (tref d 40).fmt else (tref d 16).fmt) = t.src && fld d 104 4 + k ≤ t.d
          && TapSlot.formatsOk t.src t.buf)

def maskOf (d : List Byte) (off : Nat) : Nat := fld d off 16
def allOnes : Nat := 2 ^ 128 - 1

def loadLegal (_ : State) (d : List Byte) : Bool :=
  let t := tref d 16
  let (rb, lb) := matBase d
  let mode := fldB d 99 1 0
  matReserved d && zeroBytes d 40 24 && fldB d 98 7 3 = 0 && fldB d 98 0 0 = 0 && fldB d 99 7 2 = 0
    && zeroBytes d 100 28 && mode ≠ 3
    && (mode = 1 || (trefOk d 16 && t.rows ≤ 128 && t.cols ≤ 128 && rb + t.rows ≤ 128 && lb + t.cols ≤ 128
      && [cFP32, cBF16, cFP16].contains t.fmt))
    && (mode ≠ 2 || (t.rows = 128 && t.cols = 128 && rb = 0 && lb = 0 && maskOf d 64 = allOnes && maskOf d 80 = allOnes))

def storeLegal (_ : State) (d : List Byte) : Bool :=
  let t := tref d 16
  let (rb, lb) := matBase d
  matReserved d && zeroBytes d 40 24 && fldB d 98 7 3 = 0 && fldB d 98 0 0 = 0 && fldB d 99 7 3 = 0
    && zeroBytes d 100 28 && trefOk d 16 && t.rows ≤ 128 && t.cols ≤ 128 && rb + t.rows ≤ 128 && lb + t.cols ≤ 128
    && t.fmt ≤ cINT8 && !(fldBit d 99 0 && t.fmt = cFP32)

def swapLegal (_ : State) (d : List Byte) : Bool :=
  zeroBytes d 16 82 && fldB d 98 7 3 = 0 && fldB d 98 0 0 = 0 && zeroBytes d 99 29

/-! ### MAT.MMA (R49 to R52, R60 to R65, R69) -/

/-- Fed rows or lanes: lattice index and operand index (R60). -/
def fed (mask base n : Nat) : List (Nat × Nat) :=
  ((List.range n).filter fun i => bit mask (base + i)).map fun i => (base + i, i)

/-- Columns [c0, c0 + n) of operand rows, with each element's block-scale exponent where the format has one: element
value before the block scale, and the exponent, none for a block that is NaN (R19). -/
def operandRow (q : XReq) (core : Nat) (t : TRef) (i c0 n : Nat) : Eng (List (FV × Option Int)) := do
  if fmtIsMX t.fmt then
    let bs ← mxBlocks q core .mem t i (c0 / 32) (ceilDiv n 32)
    return (bs.flatMap fun (sc, es) => es.map fun x => (decElem t.fmt x, decScale sc)).take n
  else
    return (← rowVals q core .mem t 0 i c0 n).map fun v => (v, some 0)

/-- The element as a value. -/
def operandVal (x : FV × Option Int) : FV :=
  match x.2 with
  | some k => x.1.scale2 k
  | none => .nan

/-- The exact product of two elements as the lattice adds it: every zero product is +0 (R35, R62). -/
def zeroPlus (r : FV × Nat) : FV × Nat := if r.1.isZero then (FV.zero, r.2) else r

/-- The exact sum of the products of some k-steps (R35). -/
def exactDot : List (FV × FV) → FV × Nat
  | [] => (FV.zero, 0)
  | (a, b) :: r =>
    let p := zeroPlus (fvMul a b)
    let q := exactDot r
    let z := fvAdd p.1 q.1
    (z.1, p.2 ||| q.2 ||| z.2)

/-- k-steps whose products are summed exactly before one rounding (R35, R50). -/
def sumSteps (fmt : Nat) : Nat := if fmtIsMX fmt then 32 else if fmtBits fmt = 8 then 2 else 1

/-- The value added at once for some k-steps (R34, R35): the exact sum, under the block scales for MX, where the
product's scale may fall below 2^−126. -/
def groupSum (mx : Bool) (xs : List ((FV × Option Int) × (FV × Option Int))) : FV × Nat :=
  if mx then
    match xs with
    | [] => (FV.zero, 0)
    | ((_, ka), (_, kb)) :: _ =>
      match ka, kb with
      | some ka, some kb =>
        let d := exactDot (xs.map fun (a, b) => (a.1, b.1))
        let v := d.1.scale2 (ka + kb)
        match v with
        | .fin n m e => if ka + kb < -126 ∧ m ≠ 0 ∧ fvLog2 m e < -126 then (.fin n 0 0, d.2) else (v, d.2)
        | _ => (v, d.2)
      | _, _ => (.nan, 0)
  else exactDot (xs.map fun (a, b) => (a.1, b.1))

/-- A list in consecutive pieces of n. -/
def pieces {α : Type} (n : Nat) : Nat → List α → List (List α)
  | 0, _ => []
  | _ + 1, [] => []
  | f + 1, xs => xs.take n :: pieces n f (xs.drop n)

/-- A cell's accumulation over a k-group: `k` is the exponent of the tensors' scales (R41). -/
def accumulate (fmt : Nat) (k : Int) (acc : FV) (xs : List ((FV × Option Int) × (FV × Option Int))) : FlM FV :=
  (pieces (sumSteps fmt) xs.length xs).foldlM (fun acc g => do
    let acc ← enterHeld .tensor cFP32 acc
    let d := groupSum (fmtIsMX fmt) g
    FlM.raise d.2
    fAdd .tensor cFP32 acc (d.1.scale2 k)) acc

/-- Broadcast cycles of n k-steps (R50, R52). -/
def mmaCycles (fmt n : Nat) : Nat :=
  if fmt = cFP32 then 4 * n else if fmt = cMXFP4 then ceilDiv n 4 else if fmtBits fmt = 16 then n else ceilDiv n 2

/-- A broadcast element turns its multipliers off: it is zero and none of its partners is an infinity or NaN (R62). -/
def gated (x : FV) (partners : List FV) : Bool := x.isZero && partners.all (·.isFinite)

/-- One k-group of a MAT.MMA: operands, tap, sums and counters. -/
def mmaGroup (g : Nat) : Eng Unit := do
  let fl ← getF
  let q ← Eng.req
  let d := fl.bytes
  let core := fl.core
  let a := tref d 16
  let b := tref d 40
  let (m, kk, n, _) := mmaDims d
  let (rb, lb) := matBase d
  let rows := fed (maskOf d 64) rb m
  let lanes := fed (maskOf d 80) lb n
  let k0 := 128 * g
  let kn := min 128 (kk - k0)
  let plane := (← getS).live core
  -- every operand byte of the group before its broadcast (R51)
  let av0 ← mapE rows fun (_, i) => operandRow q core a i k0 kn
  let av ← mapE av0 fun r => mapE r fun (v, e) => do return (← num (enterHeld .tensor a.fmt v), e)
  -- elements of unfed lanes are not fetched where each lane's lie together (R61)
  let bv0 ← if fmtIsMX b.fmt then mapE lanes fun (_, j) => operandRow q core b j k0 kn
    else if b.layout = 1 then mapE lanes fun (_, j) => operandRow q core b.transposed j k0 kn
    else do
      let cs ← mapE (rangeFrom k0 (k0 + kn)) fun k => do
        match lanes, lanes.getLast? with
        | (_, j0) :: _, some (_, j1) => rowVals q core .mem b 0 k j0 (j1 + 1 - j0)
        | _, _ => return []
      let j0 := (lanes.headD (0, 0)).2
      pure (lanes.map fun (_, j) => cs.map fun r => (r.getD (j - j0) FV.zero, some (0 : Int)))
  let bv ← mapE bv0 fun r => mapE r fun (v, e) => do return (← num (enterHeld .tensor b.fmt v), e)
  let fa ← readFactor q a
  let fb ← readFactor q b
  -- the tap (R63 to R65)
  if fldBit d 98 3 then
    let toks := if fldBit d 98 4 then
        (lanes.zip bv0).map fun ((_, j), r) => (w32 (fld d 100 4 + j), r.map fun x => (operandVal x).scale2 fb)
      else (rows.zip av0).map fun ((_, i), r) => (w32 (fld d 100 4 + i), r.map fun x => (operandVal x).scale2 fa)
    tapOffer (fldB d 99 3 0) (hEpoch d) (fld d 104 4 + k0) toks
  -- the sums (R35, R41)
  let l := (← getS).lat core
  let cells ← mapE (rows.zip av) fun ((r, _), xs) => mapE (lanes.zip bv) fun ((c, _), ys) => do
    let acc := if g = 0 ∧ fldBit d 98 0 then FV.zero else dec32 (l.cell plane r c)
    return (r, c, enc32 (← num (accumulate a.fmt (fa + fb) acc (xs.zip ys))))
  latWrite core plane cells.flatten
  -- the counters (R79)
  let col := fun (vs : List (List (FV × Option Int))) k => vs.map fun r => operandVal (r.getD k (FV.zero, some 0))
  let gr := (List.range kn).foldl (fun t k => t + countIf (fun x => gated x (col bv k)) (col av k)) 0
  let gl := (List.range kn).foldl (fun t k => t + countIf (fun x => gated x (col av k)) (col bv k)) 0
  modS fun s => ((s.count .corLatCount core 0 (mmaCycles a.fmt kn)).count .corLatCount core 1 gr).count
    .corLatCount core 2 gl

/-- A set of lattice indices as a mask. -/
def setOf (xs : List (Nat × Nat)) : Nat := xs.foldl (fun a (i, _) => a ||| 2 ^ i) 0

def mmaRun : Eng Unit := do
  let fl ← getF
  let q ← Eng.req
  let d := fl.bytes
  takeHold
  checkScales q [tref d 16, tref d 40]
  acquire
  let (m, kk, n, _) := mmaDims d
  let (rb, lb) := matBase d
  modS fun s =>
    let l := s.lat fl.core
    let p := s.live fl.core
    s.setLat fl.core (l.setFoot p (l.rows p ||| setOf (fed (maskOf d 64) rb m))
      (l.lanes p ||| setOf (fed (maskOf d 80) lb n)))
  units (ceilDiv kk 128) mmaGroup

/-! ### Background operations and the preload (R53 to R57, R70, R74, R75) -/

/-- A background operation binds to the shadow when it issues (R54). -/
def bindShadow : Eng Unit := do
  let fl ← getF
  modS fun s =>
    let l := s.lat fl.core
    if l.bound.contains (fl.stream, fl.n) then s
    else s.setLat fl.core { l with bound := l.bound ++ [(fl.stream, fl.n)] }

/-- It runs once every older one bound to the plane has completed (R54, R56). -/
def awaitOlder : Eng Unit := do
  let fl ← getF
  unless (((← getS).lat fl.core).bound.takeWhile (· ≠ (fl.stream, fl.n))).isEmpty do stop .await

/-- FP32 bits of a source's row, widened exactly (R34, R74). -/
def loadRow (q : XReq) (core : Nat) (t : TRef) (i : Nat) : Eng (List Nat) := do
  let xs ← rowCodes q core .mem t i 0 t.cols
  return xs.map fun x => if t.fmt = cFP32 then x else enc32 (decElem t.fmt x)

def loadAccRow (i : Nat) : Eng Unit := do
  let fl ← getF
  let q ← Eng.req
  let d := fl.bytes
  let plane := (← getS).shadow fl.core
  let (rb, lb) := matBase d
  if fldB d 99 1 0 = 1 then
    if bit (maskOf d 64) i then
      latWrite fl.core plane (((List.range 128).filter (bit (maskOf d 80) ·)).map fun c => (i, c, 0))
  else if bit (maskOf d 64) (rb + i) then
    let xs ← loadRow q fl.core (tref d 16) i
    latWrite fl.core plane ((xs.zipIdx.filter fun (_, j) => bit (maskOf d 80) (lb + j)).map fun (v, j) =>
      (rb + i, lb + j, v))

def loadAccRun : Eng Unit := do
  let fl ← getF
  let q ← Eng.req
  let d := fl.bytes
  let zero : Bool := fldB d 99 1 0 = 1
  takeHold
  bindShadow
  if ¬ zero then checkScales q [tref d 16]
  acquire
  awaitOlder
  if fl.point = 0 then
    modS fun s => s.setLat fl.core ((s.lat fl.core).setFoot (s.shadow fl.core) 0 0)
  units (if zero then 128 else (tref d 16).rows) loadAccRow

/-- The sequential preload (R57). The source's rows are read in the order in which they are shifted in, and every cell keeps its
content where a read stops it: DESIGN CHOICE, log entry 134. -/
def preloadRun : Eng Unit := do
  let fl ← getF
  let q ← Eng.req
  let t := tref fl.bytes 16
  takeHold
  checkScales q [t]
  acquire
  let plane := (← getS).live fl.core
  -- one that stops early leaves the footprint empty too (R56)
  modS fun s => s.setLat fl.core ((s.lat fl.core).setFoot plane 0 0)
  units 1 fun _ => do
    let xs := (← mapE (List.range 128).reverse fun i => loadRow q fl.core t i).reverse
    latWrite fl.core plane (xs.zipIdx.flatMap fun (r, i) => r.zipIdx.map fun (v, j) => (i, j, v))
    modS fun s => s.count .corLatCount fl.core 4 131

/-- Columns of a destination row that a drain writes (R56, R75). -/
def drainCols (l : Lattice) (plane : Nat) (d : List Byte) (i : Nat) : List Nat :=
  let t := tref d 16
  let (rb, lb) := matBase d
  let foot := fldBit d 99 1
  if bit (maskOf d 64) (rb + i) && (!foot || bit (l.rows plane) (rb + i)) then
    (List.range t.cols).filter fun j => bit (maskOf d 80) (lb + j) && (!foot || bit (l.lanes plane) (lb + j))
  else []

/-- The columns are whole blocks of an MX destination (R77). -/
def wholeBlocks (cols : Nat) (js : List Nat) : Bool :=
  js.all fun j => (rangeFrom (j / 32 * 32) (min cols (j / 32 * 32 + 32))).all js.contains

def storeAccRow (o : Option OutScale) (i : Nat) : Eng Unit := do
  let fl ← getF
  let q ← Eng.req
  let d := fl.bytes
  let s ← getS
  let plane := s.shadow fl.core
  let l := s.lat fl.core
  let (rb, lb) := matBase d
  let js := drainCols l plane d i
  if js.isEmpty then return ()
  let cells := js.map fun j => (j, dec32 (l.cell plane (rb + i) (lb + j)))
  let (ps, seen) ← convertCells .tensor (fun _ => cFP32) (tref d 16) o (fldBit d 99 0) i cells
  -- the row's whole extent is translated before any of it is written (R70)
  eachM ((tref d 16).rowExtent i) fun (va, n) => translateWrite q va n
  writeAll q ps
  eachM o.toList fun o => capture q (tref d 16) o seen
  if fldBit d 99 2 then latWrite fl.core plane (js.map fun j => (rb + i, lb + j, 0))

def storeAccRun : Eng Unit := do
  let fl ← getF
  let q ← Eng.req
  let t := tref fl.bytes 16
  takeHold
  bindShadow
  checkScales q [t]
  acquire
  awaitOlder
  let s ← getS
  if fl.point = 0 ∧ fmtIsMX t.fmt then
    if ¬ ((List.range t.rows).all fun i => wholeBlocks t.cols (drainCols (s.lat fl.core) (s.shadow fl.core) fl.bytes i)) then
      stop (.status stIllegal 0)
  let o ← outScale q t
  units t.rows (storeAccRow o)

def swapRun : Eng Unit := do
  let fl ← getF
  takeHold
  acquire
  modS fun s => s.fset rf_corLatStatus_livePlane fl.core 0 (s.shadow fl.core)

/-! ### The commands -/

/-- A lattice descriptor issues; COR_LAT_STATUS follows. -/
def State.issueMat (s : State) (core stream n : Nat) (kind : List Byte → Bool)
    (legal : State → List Byte → Bool) (run : Eng Unit) : State :=
  (s.issueDesc core stream n kind (fun s d => s.latTakes core stream d) legal run).syncLat core

def isLoadBg (d : List Byte) : Bool := isOp 0x02 d && fldB d 99 1 0 ≠ 2

def execMatMma (core : Fin 64) (stream : Fin 3) (n : BitVec 32) (s : State) : Host.Outcome State Fault Refusal :=
  done (s.issueMat core stream n.toNat (isOp 0x01) (mmaLegal core) mmaRun)

def execMatLoadAcc (core : Fin 64) (stream : Fin 3) (n : BitVec 32) (s : State) : Host.Outcome State Fault Refusal :=
  done (s.issueMat core stream n.toNat isLoadBg loadLegal loadAccRun)

def execSequentialPreload (core : Fin 64) (stream : Fin 3) (n : BitVec 32) (s : State) :
    Host.Outcome State Fault Refusal :=
  done (s.issueMat core stream n.toNat (fun d => isOp 0x02 d && fldB d 99 1 0 = 2) loadLegal preloadRun)

def execMatStoreAcc (core : Fin 64) (stream : Fin 3) (n : BitVec 32) (s : State) : Host.Outcome State Fault Refusal :=
  done (s.issueMat core stream n.toNat (isOp 0x03) storeLegal storeAccRun)

def execMatSwap (core : Fin 64) (stream : Fin 3) (n : BitVec 32) (s : State) : Host.Outcome State Fault Refusal :=
  done (s.issueMat core stream n.toNat (isOp 0x04) swapLegal swapRun)

/-- The solver unit's hold ends (R59). -/
def State.solverDrops (s : State) (core : Nat) : State :=
  let s := s.fset rf_corLatStatus_solverWaiting core 0 0
  if s.fget rf_corLatStatus_holder core = latSolver then
    let s := s.setLat core ((s.lat core).scrambled s.free)
    (s.withFree (s.free + 32768)).fset rf_corLatStatus_holder core 0 latNone
  else s

/-- Room frees in the tap queue: the lattice goes on with the group it waited before, and has counted its wait; how
long it waited is not modelled, so the count is a free value (R65, R79). -/
def State.tapRoom (s : State) (core : Nat) : State :=
  match s.flights.find? fun f => f.core = core && hOpcode f.bytes = 0x01 && f.phase = .tap with
  | some fl => ((s.waitEnds fl).goOn fl mmaRun).syncLat core
  | none => s

def execTapQueueRoom (core : Fin 64) (s : State) : Host.Outcome State Fault Refusal := done (s.tapRoom core)

end Sys2Proof.Machine
end

