-- ==== Sys2Proof/Machine/Vector.lean ====
section
/-! DEFINITION. The vector engine (chapter The vector engine, R80 to R108). -/
namespace Sys2Proof.Machine

open Eng

/-! ### Fields of the VEC payload (R105) -/

def vDst (d : List Byte) : TRef := tref d 16
def vA (d : List Byte) : TRef := tref d 40
def vB (d : List Byte) : TRef := tref d 64
def vC (d : List Byte) : TRef := tref d 88
def vOp (d : List Byte) : Nat := fld d 112 1
def vBScalar (d : List Byte) : Bool := fldBit d 113 1
def vRound (d : List Byte) : Bool := fldBit d 113 0
def vPlaceA (d : List Byte) : Nat := fldB d 114 7 4
def vPlaceDst (d : List Byte) : Nat := fldB d 114 3 0
def vPlaceC (d : List Byte) : Nat := fldB d 115 7 4
def vPlaceB (d : List Byte) : Nat := fldB d 115 3 0
def vS0 (d : List Byte) : FV := dec32 (fld d 116 4)
def vS1 (d : List Byte) : FV := dec32 (fld d 120 4)
def vMode (d : List Byte) : Nat := fld d 124 1
def vN (d : List Byte) : Nat := fldB d 125 6 0

def placeOk (x : Nat) : Bool := x = 0 || (8 ≤ x && x ≤ 0xB)
def siteOf (x : Nat) : Site := if x = 0 then .mem else .tile (x - 8)

/-- A reference with its place code is legal; in a tile buffer its whole extent lies inside (R81). -/
def placedOk (d : List Byte) (o place : Nat) : Bool :=
  trefOk d o && placeOk place && (place = 0 || (tref d o).top ≤ 65536)

/-- Exact alias of R84: the rule does not name the layout. -/
def sameRef (x y : TRef) : Bool :=
  x.addr = y.addr && x.rows = y.rows && x.cols = y.cols && x.stride = y.stride && x.fmt = y.fmt

/-- A destination and a source do not overlap, or alias exactly (R84). -/
def aliasOk (pd : Nat) (dst : TRef) (ps : Nat) (src : TRef) : Bool :=
  pd ≠ ps || sameRef dst src || !overlap dst.extent src.extent

/-- A source matches one of the shapes of R83. -/
def shapeOk (dst src : TRef) : Bool :=
  (src.rows = dst.rows || src.rows = 1) && (src.cols = dst.cols || src.cols = 1)

/-- Formats 0x0 to 0xB, on which the engine computes (R17, R18). -/
def computes (c : Nat) : Bool := c ≤ cINT8
def narrowSrc (c : Nat) : Bool := c = cFP32 || c = cBF16 || c = cFP16

/-- The rounding bit is legal: stochastic rounding has no FP32 destination (R106). -/
def roundOk (d : List Byte) : Bool := !(vRound d && (vDst d).fmt = cFP32)

/-- Unused fields are zero (R105): b, c, op, b_scalar, round, s0, s1, mode and n where the opcode uses none of them. -/
def unused (d : List Byte) (b c op bs rd s0 s1 mode n : Bool) : Bool :=
  (b || (zeroBytes d 64 24 && vPlaceB d = 0)) && (c || (zeroBytes d 88 24 && vPlaceC d = 0)) && (op || vOp d = 0)
    && (bs || !vBScalar d) && (rd || !vRound d) && (s0 || zeroBytes d 116 4) && (s1 || zeroBytes d 120 4)
    && (mode || vMode d = 0) && (n || vN d = 0) && fldB d 113 7 2 = 0 && fldB d 125 7 7 = 0 && zeroBytes d 126 2

/-- Operations of VEC.MAP that use source b, source c, the immediates (R88). -/
def mapUsesB (op : Nat) : Bool := [0x01, 0x02, 0x03, 0x04, 0x06, 0x07, 0x0B, 0x0C].contains op
def mapUsesC (op : Nat) : Bool := op = 0x04 || op = 0x0B
def mapUsesImm (op : Nat) : Bool := op = 0x05 || op = 0x0A

/-- The engine runs the descriptor in packed BF16 mode (R87). With b_scalar set there is no source b, so that the FP32 immediate in
its place does not end the mode: DESIGN CHOICE, log entry 127. -/
def packed (d : List Byte) : Bool :=
  hOpcode d = 0x20 && vOp d ≤ 0x0C && (vDst d).fmt = cBF16 && (vA d).fmt = cBF16
    && (!mapUsesB (vOp d) || vBScalar d || (vB d).fmt = cBF16) && (!mapUsesC (vOp d) || (vC d).fmt = cBF16)

/-- Elements of one issue cycle (R80, R95). -/
def perCycle (d : List Byte) : Nat :=
  if packed d ∨ (hOpcode d = 0x25 ∧ (vDst d).fmt ≠ cFP32) then 256 else 128

/-- Rows that the engine reads, and issue cycles of one. -/
def vecRows (d : List Byte) : Nat := if hOpcode d = 0x21 then (vA d).rows else (vDst d).rows

def vecRowCycles (d : List Byte) : Nat :=
  let c := if hOpcode d = 0x21 then (vA d).cols else (vDst d).cols
  let k := ceilDiv c (perCycle d)
  if hOpcode d = 0x24 ∧ vMode d = 0 ∧ 256 < c then 2 * k else k

/-- The limits of R83 and R101. -/
def vecLimits (d : List Byte) : Bool :=
  (vDst d).cols ≤ 1048576 && vecRows d * vecRowCycles d ≤ 65536

def mapLegal (_ : State) (d : List Byte) : Bool :=
  let op := vOp d
  let dst := vDst d
  let ub : Bool := mapUsesB op && !vBScalar d
  let uc := mapUsesC op
  op ≤ 0x10 && placedOk d 16 (vPlaceDst d) && placedOk d 40 (vPlaceA d)
    -- an operation without a source b takes b_scalar, which then replaces nothing (R86)
    && unused d ub uc true (!mapUsesImm op) true (mapUsesImm op || vBScalar d) (mapUsesImm op) false false
    && computes dst.fmt && narrowSrc (vA d).fmt && shapeOk dst (vA d) && aliasOk (vPlaceDst d) dst (vPlaceA d) (vA d)
    && (!ub || (placedOk d 64 (vPlaceB d) && narrowSrc (vB d).fmt && shapeOk dst (vB d)
      && aliasOk (vPlaceDst d) dst (vPlaceB d) (vB d)))
    && (!uc || (placedOk d 88 (vPlaceC d) && narrowSrc (vC d).fmt && shapeOk dst (vC d)
      && aliasOk (vPlaceDst d) dst (vPlaceC d) (vC d)))
    && !(op = 0x0A && fvLt (vS1 d) (vS0 d)) && roundOk d && vecLimits d

def reduceLegal (_ : State) (d : List Byte) : Bool :=
  let dst := vDst d
  let a := vA d
  vOp d ≤ 4 && vMode d ≤ 1 && placedOk d 16 (vPlaceDst d) && placedOk d 40 (vPlaceA d)
    && unused d false false true false true true false true false && computes dst.fmt && narrowSrc a.fmt
    && (if vMode d = 0 then dst.rows = a.rows && dst.cols = 1 else dst.rows = 1 && dst.cols = a.cols)
    && aliasOk (vPlaceDst d) dst (vPlaceA d) a && roundOk d && vecLimits d

def shuffleLegal (_ : State) (d : List Byte) : Bool :=
  let dst := vDst d
  let a := vA d
  vMode d ≤ 3 && (vMode d ≠ 3 || vN d = 0) && placedOk d 16 (vPlaceDst d) && placedOk d 40 (vPlaceA d)
    && unused d false false false false false false false true true
    && dst.fmt = a.fmt && [cFP32, cBF16, cFP16, cE4M3, cE5M2, cINT8, cGF16].contains a.fmt && dst.cols % 128 = 0
    && shapeOk dst a && aliasOk (vPlaceDst d) dst (vPlaceA d) a && vecLimits d

def convertLegal (_ : State) (d : List Byte) : Bool :=
  let dst := vDst d
  let a := vA d
  placedOk d 16 (vPlaceDst d) && placedOk d 40 (vPlaceA d)
    && unused d false false false false true false false false false && computes dst.fmt && computes a.fmt
    && shapeOk dst a && aliasOk (vPlaceDst d) dst (vPlaceA d) a && roundOk d && vecLimits d

def widenLegal (_ : State) (d : List Byte) : Bool :=
  let dst := vDst d
  let a := vA d
  placedOk d 16 (vPlaceDst d) && placedOk d 40 (vPlaceA d)
    && unused d false false false false false false false false false && narrowSrc dst.fmt
    && [cE4M3, cE5M2, cMXE4M3, cMXE5M2].contains a.fmt && shapeOk dst a
    && aliasOk (vPlaceDst d) dst (vPlaceA d) a && vecLimits d

/-- The state tensor of VEC.SOFTMAX_ONLINE (R96). -/
def stateOk (d : List Byte) (rows : Nat) : Bool :=
  placedOk d 64 (vPlaceB d) && (vB d).fmt = cFP32 && (vB d).rows = rows && (vB d).cols = 4

def softmaxLegal (_ : State) (d : List Byte) : Bool :=
  let dst := vDst d
  let a := vA d
  placedOk d 16 (vPlaceDst d) && placedOk d 40 (vPlaceA d) && stateOk d dst.rows && vMode d ≤ 1
    && unused d true false false false (vMode d = 0) (vMode d = 0) false true false
    && a.rows = dst.rows && a.cols = dst.cols
    && (if vMode d = 0 then a.fmt = cFP32 && a.cols ≤ 65536 && [cBF16, cFP16, cE4M3, cE5M2].contains dst.fmt
        else (a.fmt = cFP32 || a.fmt = cBF16) && computes dst.fmt)
    && aliasOk (vPlaceDst d) dst (vPlaceA d) a && aliasOk (vPlaceDst d) dst (vPlaceB d) (vB d)
    && (vMode d = 1 || aliasOk (vPlaceB d) (vB d) (vPlaceA d) a) && vecLimits d

/-! ### Rows -/

/-- The sources of a descriptor other than a softmax state: number, place and reference. -/
def vecSources (d : List Byte) : List (Nat × Nat × TRef) :=
  let map : Bool := hOpcode d = 0x20
  [(0, vPlaceA d, vA d)] ++ (if map && mapUsesB (vOp d) && !vBScalar d then [(1, vPlaceB d, vB d)] else [])
    ++ (if map && mapUsesC (vOp d) then [(2, vPlaceC d, vC d)] else [])

/-- A destination that aliases a source in another layout: each element is read before it is written (R84), so that the source
is read before the first row is written. -/
def stageSources (q : XReq) : Eng Unit := do
  let fl ← getF
  let d := fl.bytes
  let xs := (vecSources d).filter fun (_, place, t) => place = vPlaceDst d && sameRef (vDst d) t && t.layout ≠ (vDst d).layout
  if fl.point = 0 ∧ fl.staged.isEmpty ∧ ¬ xs.isEmpty then
    let rows ← mapE xs fun (k, place, t) => mapE (List.range t.rows) fun i => do
      return (k, i, ← rowCodes q fl.core (siteOf place) t i 0 t.cols)
    modF fun f => { f with staged := rows.flatten }

/-- The element codes of row i of source k. -/
def vecCodes (q : XReq) (k place : Nat) (t : TRef) (i : Nat) : Eng (List Nat) := do
  let fl ← getF
  match fl.staged.find? fun x => x.1 = k && x.2.1 = i with
  | some x => return x.2.2
  | none => rowCodes q fl.core (siteOf place) t i 0 t.cols

/-- The values of row i of source k; `f` is the exponent of its tensor's scale. -/
def vecVals (q : XReq) (k place : Nat) (t : TRef) (f : Int) (i : Nat) : Eng (List FV) := do
  if fmtIsMX t.fmt then rowVals q (← getF).core (siteOf place) t f i 0 t.cols
  else return (← vecCodes q k place t i).map fun c => (decElem t.fmt c).scale2 f

/-- Row i of source k, broadcast to C columns (R83). -/
def bcastVals (q : XReq) (k place : Nat) (t : TRef) (i c : Nat) : Eng (List FV) := do
  let f ← readFactor q t
  let xs ← vecVals q k place t f (if t.rows = 1 then 0 else i)
  return if t.cols = 1 then List.replicate c (xs.headD FV.zero) else xs

/-- Writes of several operands together: those in memory whole or not at all, then those in tile buffers. -/
def vecWrite (q : XReq) (core : Nat) (ws : List (Site × List (Nat × List Byte))) : Eng Unit := do
  writeAll q ((ws.filter (·.1 = .mem)).flatMap (·.2))
  eachM (ws.filter (·.1 ≠ .mem)) fun (w, ps) => siteWrite q core w ps

/-- Converts a row's values, each with the format in which it is held, and writes it (R28, R22, R40). -/
def putRow (q : XReq) (d : List Byte) (o : Option OutScale) (i : Nat) (xs : List (FV × Nat)) (keep : Bool := false) :
    Eng Unit := do
  let fl ← getF
  let (ps, seen) ← convertCells .tensor (fun j => (xs.getD j (FV.zero, cFP32)).2) (vDst d) o (vRound d) i
    (xs.zipIdx.map fun (v, j) => (j, v.1)) keep
  vecWrite q fl.core [(siteOf (vPlaceDst d), ps)]
  eachM o.toList fun o => capture q (vDst d) o seen

/-! ### Counters (R80, R82, R108) -/

/-- Elements of a row's chunks (R80). -/
def chunkSizes (per c : Nat) : List Nat := (List.range (ceilDiv c per)).map fun k => min per (c - per * k)

/-- Bytes that n columns of a row of an operand need from a port. -/
def portBytes (t : TRef) (n : Nat) : Nat :=
  let m := if t.cols = 1 then 1 else n
  ceilDiv (m * fmtBits t.fmt) 8 + (if fmtIsMX t.fmt then ceilDiv m 32 else 0)

/-- Cycles of a chunk, by the busiest port of the tile buffers (R82): what it reads and writes, as place and bytes. -/
def portCycles (reads writes : List (Nat × Nat)) : Nat :=
  let busiest := fun (xs : List (Nat × Nat)) => ((List.range 4).map fun b =>
    ceilDiv ((xs.filter (·.1 = 8 + b)).map (·.2)).sum 512).foldl max 1
  max (busiest reads) (busiest writes)

/-- Lanes of a chunk without an element: in a chunk of 256 elements each lane takes two adjacent ones, which the spec does not
say: DESIGN CHOICE, log entry 137. -/
def idleLanes (per n : Nat) : Nat := 128 - (if per = 256 then ceilDiv n 2 else n)

/-- Chunks of a row as the engine issues them: elements, reads and writes. A wide softmax row is read twice (R99). -/
def rowChunks (d : List Byte) : List (Nat × List (Nat × Nat) × List (Nat × Nat)) :=
  let c := if hOpcode d = 0x21 then (vA d).cols else (vDst d).cols
  let soft : Bool := hOpcode d = 0x24
  let sizes := chunkSizes (perCycle d) c
  let reads := fun n => (vecSources d).map fun (_, place, t) => (place, portBytes t n)
  let state := if soft then [(vPlaceB d, 16)] else []
  let writes := fun n => if hOpcode d = 0x21 then [] else [(vPlaceDst d, portBytes (vDst d) n)]
  let last := sizes.length - 1
  (if soft && vMode d = 0 && decide (256 < c) then sizes.map fun n => (n, reads n, []) else [])
    ++ sizes.zipIdx.map fun (n, k) => (n, reads n ++ (if k = 0 then state else []),
      writes n ++ (if soft && vMode d = 0 && k = last then [(vPlaceB d, 16)] else []))

/-- Counts some chunks: issue cycles, packed ones, waits for a port, idle lanes (R108). How long an operand in memory keeps a
chunk waiting is not modelled, so that count is then a free value. -/
def countChunks (d : List Byte) (xs : List (Nat × List (Nat × Nat) × List (Nat × Nat))) : Eng Unit := do
  let fl ← getF
  let far : Bool := vPlaceDst d = 0 || (vecSources d).any (fun x => x.2.1 = 0) || (hOpcode d = 0x24 && vPlaceB d = 0)
  let wait := (xs.map fun (_, r, w) => portCycles r w - 1).sum
  let more ← if far then draw else pure 0
  let idle := (xs.map fun x => idleLanes (perCycle d) x.1).sum
  modS fun s =>
    let s := s.count .corVecCount fl.core 0 xs.length
    let s := if packed d then s.count .corVecCount fl.core 1 xs.length else s
    (s.count .corVecCount fl.core 2 (wait + more)).count .corVecCount fl.core 3 idle

def countRow (d : List Byte) : Eng Unit := countChunks d (rowChunks d)

/-! ### VEC.MAP (R85 to R88) -/

/-- Minimum and maximum with the zero rule of R88. -/
def vecMin (a b : FV) : FV :=
  if a.isZero && b.isZero then (if a.sign then a else b) else fvMin a b
def vecMax (a b : FV) : FV :=
  if a.isZero && b.isZero then (if a.sign then b else a) else fvMax a b

/-- The operations that return one of their operands unchanged (R31). They choose among the operands by their own values, subnormal or
not, SELECT by the own value of c: DESIGN CHOICE, log entry 138. -/
def mapExact (op : Nat) : Bool := [0x00, 0x06, 0x07, 0x08, 0x09, 0x0A, 0x0B].contains op

/-- The result of an exact operation. -/
def mapChosen (op : Nat) (s0 s1 a b c : FV) : FV :=
  if op = 0x00 then a
  else if op = 0x06 then vecMin a b
  else if op = 0x07 then vecMax a b
  else if op = 0x08 then a.abs
  else if op = 0x09 then a.neg
  else if op = 0x0A then vecMin (vecMax a s0) s1
  else if fvLt FV.zero c then a else b

/-- The format in which an exact operation's result is held: that of the operand it returns. -/
def mapHeld (op fa fb : Nat) (s0 s1 a b c : FV) : Nat :=
  if op = 0x00 ∨ op = 0x08 ∨ op = 0x09 then fa
  else
    let r := mapChosen op s0 s1 a b c
    if op = 0x0A then (if r = a then fa else cFP32)
    else if op = 0x0B then (if fvLt FV.zero c then fa else fb)
    else if r = a then fa else fb

/-- The result of one element before its conversion to the destination. `fa`, `fb`, `fc` are the formats in which the
operands are held. -/
def mapElem (op fa fb fc : Nat) (s0 s1 a b c : FV) : FlM FV := do
  let ha := enterHeld .tensor fa a
  let hb := enterHeld .tensor fb b
  let hc := enterHeld .tensor fc c
  let exact := fun (r : FV × Nat) => FlM.ofPair r
  if mapExact op then return mapChosen op s0 s1 a b c
  else if op = 0x01 then exact (fvAdd (← ha) (← hb))
  else if op = 0x02 then exact (fvAdd (← ha) (← hb).neg)
  else if op = 0x03 then exact (fvMul (← ha) (← hb))
  else if op = 0x04 then exact (fvFma (← ha) (← hb) (← hc))
  else if op = 0x05 then exact (fvFma (← ha) (← enterHeld .tensor cFP32 s0) (← enterHeld .tensor cFP32 s1))
  else if op = 0x0C then return if fvLt (← hb) (← ha) then FV.one else FV.zero
  else if op = 0x0D then let x ← ha; faithful .tensor opExp2 cFP32 x (fvExp2 x, 0)
  else if op = 0x0E then let x ← ha; faithful .tensor opRcp cFP32 x (fvDiv FV.one x)
  else if op = 0x0F then fSqrt .tensor cFP32 (← ha)
  else let x ← ha; faithful .tensor opRsqrtVec cFP32 x (fvRsqrt x)

def mapRow (q : XReq) (o : Option OutScale) (i : Nat) : Eng Unit := do
  let fl ← getF
  let d := fl.bytes
  let op := vOp d
  let c := (vDst d).cols
  let xs ← bcastVals q 0 (vPlaceA d) (vA d) i c
  let ys ← if vBScalar d then pure (List.replicate c (vS0 d))
    else if mapUsesB op then bcastVals q 1 (vPlaceB d) (vB d) i c
    else pure (List.replicate c FV.zero)
  let zs ← if mapUsesC op then bcastVals q 2 (vPlaceC d) (vC d) i c
    else pure (List.replicate c FV.zero)
  let fa := (vA d).fmt
  let fb := if vBScalar d then cFP32 else (vB d).fmt
  let rs ← num ((xs.zip (ys.zip zs)).mapM fun (x, y, z) => do
    let r ← mapElem op fa fb (vC d).fmt (vS0 d) (vS1 d) x y z
    -- a result of arithmetic below 2^-126 becomes zero as an FP32 value that is subnormal does (R31)
    return (r, if mapExact op then mapHeld op fa fb (vS0 d) (vS1 d) x y z else cFP32))
  putRow q d o i rs (mapExact op)
  countRow d

def mapRun : Eng Unit := do
  let q ← Eng.req
  let d := (← getF).bytes
  checkScales q ([vDst d] ++ (vecSources d).map (·.2.2))
  let o ← outScale q (vDst d)
  stageSources q
  units (vDst d).rows (mapRow q o)

/-! ### VEC.REDUCE (R89, R90) -/

/-- What one element contributes: its square for SUMSQ, its magnitude for MAXABS. -/
def redEnter (op fmt : Nat) (x : FV) : FlM FV := do
  let x ← enterHeld .tensor fmt x
  if op = 1 then fMul .tensor cFP32 x x else return if op = 4 then x.abs else x

/-- The combination of two values, and the value of an idle lane. -/
def redOp (op : Nat) (a b : FV) : FlM FV :=
  if op ≤ 1 then fAdd .tensor cFP32 a b else return if op = 3 then vecMin a b else vecMax a b

def redIdle (op : Nat) : FV :=
  if op ≤ 1 then FV.zero else if op = 2 then .inf true else if op = 3 then .inf false else FV.zero

/-- A butterfly stage at a distance. -/
def butterfly (op : Nat) (v : List FV) (dist : Nat) : FlM (List FV) :=
  (List.range 128).mapM fun l => redOp op (v.getD l FV.zero) (v.getD (l ^^^ dist) FV.zero)

/-- Reduction of the elements of a row in the order of R90. -/
def redRow (op : Nat) (xs : List FV) : FlM FV := do
  let lanes ← (List.range 128).mapM fun l =>
    match (xs.zipIdx.filter fun (_, j) => j % 128 = l).map (·.1) with
    | [] => return redIdle op
    | x :: r => r.foldlM (redOp op) x
  let v ← [64, 32, 16, 8, 4, 2, 1].foldlM (butterfly op) lanes
  return v.getD 0 FV.zero

/-- The reduced value times s0 with one rounding (R89). -/
def redScale (d : List Byte) (x : FV) : FlM FV := do fMul .tensor cFP32 x (← enterHeld .tensor cFP32 (vS0 d))

def reduceAxis0 (q : XReq) (o : Option OutScale) (i : Nat) : Eng Unit := do
  let fl ← getF
  let d := fl.bytes
  let a := vA d
  let xs ← vecVals q 0 (vPlaceA d) a 0 i
  let r ← num (do redScale d (← redRow (vOp d) (← xs.mapM (redEnter (vOp d) a.fmt))))
  putRow q d o i [(r, cFP32)]
  countRow d

/-- Rows of an axis-1 reduction accumulate into the flight's lane accumulators, one chunk of 128 columns at a time with rows
innermost (R90, R102): unit u reads row u mod R of chunk u / R; the last unit writes. -/
def reduceAxis1 (q : XReq) (o : Option OutScale) (u : Nat) : Eng Unit := do
  let fl ← getF
  let d := fl.bytes
  let a := vA d
  let k := u / a.rows
  let c0 := 128 * k
  if c0 < a.cols then
    let n := min 128 (a.cols - c0)
    let xs ← rowVals q fl.core (siteOf (vPlaceA d)) a 0 (u % a.rows) c0 n
    let ys ← num (xs.mapM (redEnter (vOp d) a.fmt))
    let acc ← if u % a.rows = 0 then pure ys
      else num (((fl.aux.drop c0).zip ys).mapM fun (x, y) => redOp (vOp d) (decIEEE fFP64 x) y)
    modF fun f => { f with aux := f.aux.take c0 ++ acc.map (encIEEE fFP64) }
    countChunks d [(n, [(vPlaceA d, portBytes a n)], [])]
  else
    let rs ← num (fl.aux.mapM fun x => redScale d (decIEEE fFP64 x))
    putRow q d o 0 (rs.map fun r => (r, cFP32))

def reduceRun : Eng Unit := do
  let q ← Eng.req
  let d := (← getF).bytes
  let a := vA d
  checkScales q [vDst d, a]
  let o ← outScale q (vDst d)
  if vMode d = 0 then
    stageSources q
    units a.rows (reduceAxis0 q o)
  else units (ceilDiv a.cols 128 * a.rows + 1) (reduceAxis1 q o)

/-! ### VEC.SHUFFLE (R92) -/

/-- The element of its chunk that lane l receives. -/
def shuffleFrom (mode n l : Nat) : Nat :=
  if mode = 0 then l ^^^ n else if mode = 1 then (l + n) % 128 else if mode = 2 then n else 127 - l

def shuffleRow (q : XReq) (i : Nat) : Eng Unit := do
  let fl ← getF
  let d := fl.bytes
  let a := vA d
  let dst := vDst d
  let xs ← vecCodes q 0 (vPlaceA d) a (if a.rows = 1 then 0 else i)
  let cs := (List.range dst.cols).map fun j =>
    (j, xs.getD (if a.cols = 1 then 0 else j / 128 * 128 + shuffleFrom (vMode d) (vN d) (j % 128)) 0)
  siteWrite q fl.core (siteOf (vPlaceDst d)) (codePieces dst i cs)
  countRow d

def shuffleRun : Eng Unit := do
  let q ← Eng.req
  let d := (← getF).bytes
  checkScales q [vDst d, vA d]
  stageSources q
  units (vDst d).rows (shuffleRow q)

/-! ### VEC.CONVERT and VEC.WIDEN (R93 to R95) -/

def convertVecRow (q : XReq) (o : Option OutScale) (i : Nat) : Eng Unit := do
  let fl ← getF
  let d := fl.bytes
  let xs ← bcastVals q 0 (vPlaceA d) (vA d) i (vDst d).cols
  putRow q d o i (xs.map fun x => (x, (vA d).fmt))
  countRow d

def convertRun : Eng Unit := do
  let q ← Eng.req
  let d := (← getF).bytes
  checkScales q [vDst d, vA d]
  let o ← if hOpcode d = 0x23 then outScale q (vDst d) else pure none
  stageSources q
  units (vDst d).rows (convertVecRow q o)

/-! ### VEC.SOFTMAX_ONLINE (R96 to R98) -/

/-- Row i of the state tensor: m and l, and the FP32 bits of l. -/
def softState (q : XReq) (fl : Flight) (i : Nat) : Eng (FV × FV × Nat) := do
  let xs ← rowCodes q fl.core (siteOf (vPlaceB fl.bytes)) (vB fl.bytes) i 0 4
  let l := xs.getD 1 0
  return (← num (enterHeld .tensor cFP32 (dec32 (xs.getD 0 0))), ← num (enterHeld .tensor cFP32 (dec32 l)), l)

/-- exp2 of a difference. -/
def expDiff (x m : FV) : FlM FV := do
  let z ← fSub .tensor cFP32 x m
  faithful .tensor opExp2 cFP32 z (fvExp2 z, 0)

def softStep (q : XReq) (o : Option OutScale) (i : Nat) : Eng Unit := do
  let fl ← getF
  let d := fl.bytes
  let dst := vDst d
  let (m, l, lBits) ← softState q fl i
  let ss ← rowVals q fl.core (siteOf (vPlaceA d)) (vA d) 0 i 0 (vA d).cols
  let s0 ← num (enterHeld .tensor cFP32 (vS0 d))
  let xs ← num (ss.mapM fun x => do fMul .tensor cFP32 s0 (← enterHeld .tensor cFP32 x))
  let m' := xs.foldl vecMax m
  let k : Int := match o with | some o => o.k | none => 0
  let masked : Bool := m' = .inf true
  let es ← if masked then pure (xs.map fun _ => FV.zero) else num (xs.mapM (expDiff · m'))
  let alpha ← if masked then pure FV.one else num (expDiff m m')
  let before := (← getF).flags
  modF fun f => { f with flags := 0 }
  let cs ← num (es.mapM fun e => convert .tensor cFP64 dst.fmt (vRound d) (e.scale2 k))
  let sat : Bool := (← getF).flags &&& flOF ≠ 0
  modF fun f => { f with flags := before ||| f.flags }
  -- a masked row leaves l unchanged
  let l' ← if masked then pure lBits else num (do
    let sum ← redRow 0 (cs.map fun c => (decElem dst.fmt c).scale2 (-k))
    return enc32 (← fAdd .tensor cFP32 (← fMul .tensor cFP32 alpha l) sum))
  vecWrite q fl.core
    [(siteOf (vPlaceDst d), codePieces dst i (cs.zipIdx.map fun (c, j) => (j, c))),
     (siteOf (vPlaceB d), codePieces (vB d) i [(0, enc32 m'), (1, l'), (2, enc32 alpha)])]
  eachM o.toList fun o => capture q dst o (Seen.of es (scaledFmt dst.fmt && sat))
  countRow d

def softFinal (q : XReq) (o : Option OutScale) (i : Nat) : Eng Unit := do
  let fl ← getF
  let d := fl.bytes
  let (_, l, _) ← softState q fl i
  let xs ← vecVals q 0 (vPlaceA d) (vA d) 0 i
  let rs ← if l.isZero && !l.sign then pure (xs.map fun _ => FV.zero)
    else num (xs.mapM fun x => do fDiv .tensor cFP32 (← enterHeld .tensor (vA d).fmt x) l)
  putRow q d o i (rs.map fun r => (r, cFP32))
  countRow d

def softmaxRun : Eng Unit := do
  let q ← Eng.req
  let d := (← getF).bytes
  checkScales q [vDst d, vA d, vB d]
  let o ← outScale q (vDst d)
  stageSources q
  units (vDst d).rows (if vMode d = 0 then softStep q o else softFinal q o)

/-! ### The commands -/

/-- COR_VEC_STATUS follows the engine's descriptors (R107). -/
def State.syncVec (s : State) (core : Nat) : State :=
  match s.flights.find? fun f => f.core = core && engineOf (hOpcode f.bytes) = .vector && f.phase ≠ .done with
  | none => s.setReg .corVecStatus core 0 (regReset .corVecStatus)
  | some f =>
    let row := if hOpcode f.bytes = 0x21 ∧ vMode f.bytes = 1 then f.point % (vA f.bytes).rows else f.point
    let wait : Bool := match f.phase with
      | .fault _ => true
      | _ => false
    let s := s.fset rf_corVecStatus_nextRow core 0 row
    let s := s.fset rf_corVecStatus_opcode core 0 (hOpcode f.bytes)
    let s := s.fset rf_corVecStatus_stream core 0 f.stream
    let s := s.fset rf_corVecStatus_faultWait core 0 (b2n wait)
    s.fset rf_corVecStatus_busy core 0 1

/-- The engine runs one descriptor at a time (R100). -/
def State.vecFree (s : State) (core : Nat) : Bool :=
  s.flights.all fun f => f.core ≠ core || engineOf (hOpcode f.bytes) ≠ .vector || f.phase = .done

def State.issueVec (s : State) (core stream n : Nat) (kind : List Byte → Bool) (legal : State → List Byte → Bool)
    (run : Eng Unit) : State :=
  (s.issueDesc core stream n kind (fun s _ => s.vecFree core) legal run).syncVec core

def execVecMap (core : Fin 64) (stream : Fin 3) (n : BitVec 32) (s : State) : Host.Outcome State Fault Refusal :=
  done (s.issueVec core stream n.toNat (isOp 0x20) mapLegal mapRun)

def execVecReduce (core : Fin 64) (stream : Fin 3) (n : BitVec 32) (s : State) : Host.Outcome State Fault Refusal :=
  done (s.issueVec core stream n.toNat (isOp 0x21) reduceLegal reduceRun)

def execVecShuffle (core : Fin 64) (stream : Fin 3) (n : BitVec 32) (s : State) : Host.Outcome State Fault Refusal :=
  done (s.issueVec core stream n.toNat (isOp 0x22) shuffleLegal shuffleRun)

def execVecConvert (core : Fin 64) (stream : Fin 3) (n : BitVec 32) (s : State) : Host.Outcome State Fault Refusal :=
  done (s.issueVec core stream n.toNat (isOp 0x23) convertLegal convertRun)

def execSoftmaxStep (core : Fin 64) (stream : Fin 3) (n : BitVec 32) (s : State) : Host.Outcome State Fault Refusal :=
  done (s.issueVec core stream n.toNat (fun d => isOp 0x24 d && vMode d ≠ 1) softmaxLegal softmaxRun)

def execSoftmaxFinal (core : Fin 64) (stream : Fin 3) (n : BitVec 32) (s : State) : Host.Outcome State Fault Refusal :=
  done (s.issueVec core stream n.toNat (fun d => isOp 0x24 d && vMode d = 1) softmaxLegal softmaxRun)

def execVecWiden (core : Fin 64) (stream : Fin 3) (n : BitVec 32) (s : State) : Host.Outcome State Fault Refusal :=
  done (s.issueVec core stream n.toNat (isOp 0x25) widenLegal convertRun)

end Sys2Proof.Machine
end

