-- ==== Sys2Proof/Machine/Dma.lean ====
section
/-! DEFINITION. The DMA group (R134 to R140): DMA.COPY, DMA.GATHER, DMA.SCATTER and DMA.FILL. -/
namespace Sys2Proof.Machine

open Eng

/-! ### Operations of a descriptor

A descriptor's bytes are cut into operations of at most 4,096 bytes, plane by plane and row by row (R134). Unit k of a
descriptor is its operation k, and bytes_done counts the bytes of the operations before its recorded point. -/

/-- An operation: plane (0 elements, 1 scales), row, offset in the row and bytes. -/
structure DmaOp where
  plane : Nat
  row : Nat
  off : Nat
  len : Nat
deriving DecidableEq, Repr

namespace TRef

/-- Bytes of a row of a plane. -/
def planeRow (t : TRef) (plane : Nat) : Nat :=
  if fmtIsMX t.fmt then (if plane = 0 then t.mxRowBytes else t.scaleRow) else t.cols * elemBytes t.fmt

def planes (t : TRef) : Nat := if fmtIsMX t.fmt then 2 else 1

/-- Address of a row of a plane, in layout 0 or an MX tensor. -/
def planeAddr (t : TRef) (plane i : Nat) : Nat :=
  if plane = 0 then t.addr + i * t.stride else t.scalePlane + i * t.scaleRow

/-- Bytes that a whole move of the tensor counts. -/
def moveBytes (t : TRef) : Nat :=
  t.rows * t.planeRow 0 + (if fmtIsMX t.fmt then t.rows * t.planeRow 1 else 0)

/-- Operations of a row of a plane. -/
def rowOps (t : TRef) (plane : Nat) : Nat := ceilDiv (t.planeRow plane) 4096

def dmaOps (t : TRef) : Nat := t.rows * t.rowOps 0 + (if fmtIsMX t.fmt then t.rows * t.rowOps 1 else 0)

/-- Operation k. -/
def dmaOp (t : TRef) (k : Nat) : DmaOp :=
  let n0 := t.rows * t.rowOps 0
  let plane := if k < n0 then 0 else 1
  let j := k - plane * n0
  let per := t.rowOps plane
  let off := 4096 * (j % per)
  ⟨plane, j / per, off, min 4096 (t.planeRow plane - off)⟩

/-- Bytes of the operations before k. -/
def bytesBefore (t : TRef) (k : Nat) : Nat :=
  if k < t.dmaOps then
    let o := t.dmaOp k
    (if o.plane = 0 then 0 else t.rows * t.planeRow 0) + o.row * t.planeRow o.plane + o.off
  else t.moveBytes

end TRef

/-- Bytes of an operation, read from a tensor; in layout 1 its elements one by one. -/
def dmaRead (q : XReq) (core : Nat) (t : TRef) (row : Nat) (o : DmaOp) : Eng (List Byte) := do
  if fmtIsMX t.fmt || t.layout = 0 then readVA q (t.planeAddr o.plane row + o.off) o.len
  else
    let e := elemBytes t.fmt
    return pack (8 * e) (← rowCodes q core .mem t row (o.off / e) (o.len / e))

/-- The pieces that write an operation's bytes to a tensor. -/
def dmaPieces (t : TRef) (row : Nat) (o : DmaOp) (bs : List Byte) : List (Nat × List Byte) :=
  if fmtIsMX t.fmt || t.layout = 0 then [(t.planeAddr o.plane row + o.off, bs)]
  else
    let e := elemBytes t.fmt
    codePieces t row ((unpack (8 * e) (o.len / e) bs).zipIdx.map fun (c, i) => (o.off / e + i, c))

/-- Runs the operations of a tensor (R134). -/
def dmaUnits (t : TRef) (f : Nat → DmaOp → Eng Unit) : Eng Unit :=
  movingUnits t.dmaOps t.bytesBefore fun k => f k (t.dmaOp k)

/-! ### Layout checks (R135 to R140) -/

def dmaEngineOk (d : List Byte) : Bool := fldB d 72 1 0 ≠ 3
def dmaOob (d : List Byte) : Bool := fldBit d 72 2

/-- The engine byte and the reserved bytes after it. -/
def dmaCommon (d : List Byte) (oob : Bool) : Bool :=
  dmaEngineOk d && fldB d 72 7 3 = 0 && (oob || !dmaOob d) && zeroBytes d 73 7 && (oob || zeroBytes d 80 8)
    && zeroBytes d 88 40

/-- The limit of a descriptor without pre-emption points (R140). -/
def dmaLimit (d : List Byte) (bytes : Nat) : Bool := hPreemptible d || bytes ≤ 1048576

def sameTensor (a b : TRef) : Bool := sameRef a b && a.layout = b.layout

def copyLegal (_ : State) (d : List Byte) : Bool :=
  let dst := tref d 16
  let src := tref d 40
  trefOk d 16 && trefOk d 40 && dmaCommon d false && zeroBytes d 64 8
    && dst.rows = src.rows && dst.cols = src.cols && dst.fmt = src.fmt
    && (sameTensor dst src || (!overlap dst.extent src.extent && dmaLimit d dst.moveBytes))

/-- GATHER and SCATTER: `dst` and `src`, and the number of index entries. -/
def indexedLegal (d : List Byte) (dst src : TRef) (n : Nat) (moved : Nat) : Bool :=
  let ia := fld d 64 8
  let ca := fld d 80 8
  let idx := runOf ia (4 * n)
  trefOk d 16 && trefOk d 40 && dmaCommon d true && dst.fmt = src.fmt && dst.cols = src.cols
    && dst.layout = 0 && src.layout = 0 && ia < 2 ^ 48 && ia % 4 = 0 && ca < 2 ^ 48 && ca % 4 = 0
    && !overlap dst.extent src.extent && !overlap dst.extent idx
    && (ca = 0 || !(overlap (runOf ca 4) dst.extent || overlap (runOf ca 4) src.extent || overlap (runOf ca 4) idx))
    && dmaLimit d moved

def gatherLegal (_ : State) (d : List Byte) : Bool :=
  indexedLegal d (tref d 16) (tref d 40) (tref d 16).rows (tref d 16).moveBytes

def scatterLegal (_ : State) (d : List Byte) : Bool :=
  indexedLegal d (tref d 16) (tref d 40) (tref d 40).rows (tref d 40).moveBytes

def fillLegal (_ : State) (d : List Byte) : Bool :=
  let dst := tref d 16
  trefOk d 16 && dmaCommon d false && zeroBytes d 40 24 && !fmtIsMX dst.fmt && dmaLimit d dst.moveBytes

/-! ### What they do -/

def copyRun : Eng Unit := do
  let fl ← getF
  let q ← Eng.req
  let dst := tref fl.bytes 16
  let src := tref fl.bytes 40
  checkScales q [dst, src]
  if sameTensor dst src then modF fun f => { f with detail := dst.moveBytes }
  else dmaUnits dst fun _ o => do
    writeAll q (dmaPieces dst o.row o (← dmaRead q fl.core src o.row o))

def fillRun : Eng Unit := do
  let fl ← getF
  let q ← Eng.req
  let dst := tref fl.bytes 16
  checkScales q [dst]
  let e := elemBytes dst.fmt
  let pat := leBytes e (fld fl.bytes 64 8)
  dmaUnits dst fun _ o => writeAll q (dmaPieces dst o.row o ((List.replicate (o.len / e) pat).flatten))

-- Marks of GATHER and SCATTER: the rows have started, the count of out-of-range rows is written.
def oobStarted : Nat := 1
def oobWritten : Nat := 2

/-- GATHER and SCATTER keep in the flight the DMA engine, the count of out-of-range rows, and a mark. -/
def oobAux (count mark : Nat) : Eng Unit := modF fun f => { f with aux := [f.aux.headD 0, count, mark] }

/-- Operations of rows named by an index list (R136, R137): `t` is the tensor whose rows the list counts, `table` the
one it indexes. -/
def indexedRun (t table : TRef) (move : Nat → DmaOp → Nat → Eng Unit) (skip : DmaOp → Eng Unit) : Eng Unit := do
  let fl ← getF
  let q ← Eng.req
  let d := fl.bytes
  checkScales q [tref d 16, tref d 40]
  if fl.aux.length < 3 then oobAux 0 oobStarted
  dmaUnits t fun k o => do
    let idx := leNat (← readVA q (fld d 64 8 + 4 * o.row) 4)
    if idx < table.rows then move k o idx
    else if ¬ dmaOob d then stop (.status stFault 0)
    else
      skip o
      -- a row is counted once, with its first operation
      let c := (← getF).aux.getD 1 0
      if o.plane = 0 ∧ o.off = 0 then oobAux (c + 1) oobStarted

/-- The count of out-of-range rows is still to be written, which is the descriptor's last access (R136). -/
def Flight.countDue (fl : Flight) : Bool :=
  (hOpcode fl.bytes = 0x41 || hOpcode fl.bytes = 0x42) && fld fl.bytes 80 8 ≠ 0 && fl.aux.getD 2 0 = oobStarted

def countWrite (q : XReq) : Eng Unit := do
  let fl ← getF
  writeVA q (fld fl.bytes 80 8) (leBytes 4 (fl.aux.getD 1 0))

def gatherRun : Eng Unit := do
  let fl ← getF
  let q ← Eng.req
  let dst := tref fl.bytes 16
  let src := tref fl.bytes 40
  indexedRun dst src
    (fun _ o i => do writeAll q (dmaPieces dst o.row o (← dmaRead q fl.core src i o)))
    (fun o => writeAll q (dmaPieces dst o.row o (List.replicate o.len 0)))

def scatterRun : Eng Unit := do
  let fl ← getF
  let q ← Eng.req
  let dst := tref fl.bytes 16
  let src := tref fl.bytes 40
  indexedRun src dst
    (fun _ o i => do writeAll q (dmaPieces dst i o (← dmaRead q fl.core src o.row o)))
    (fun _ => return ())

def execDmaCopy (core : Fin 64) (stream : Fin 3) (n : BitVec 32) (s : State) : Host.Outcome State Fault Refusal :=
  done (s.issueDesc core stream n.toNat (isOp 0x40) always copyLegal copyRun)

def execDmaGather (core : Fin 64) (stream : Fin 3) (n : BitVec 32) (s : State) : Host.Outcome State Fault Refusal :=
  done (s.issueDesc core stream n.toNat (isOp 0x41) always gatherLegal gatherRun)

def execDmaScatter (core : Fin 64) (stream : Fin 3) (n : BitVec 32) (s : State) : Host.Outcome State Fault Refusal :=
  done (s.issueDesc core stream n.toNat (isOp 0x42) always scatterLegal scatterRun)

def execDmaFill (core : Fin 64) (stream : Fin 3) (n : BitVec 32) (s : State) : Host.Outcome State Fault Refusal :=
  done (s.issueDesc core stream n.toNat (isOp 0x43) always fillLegal fillRun)

end Sys2Proof.Machine
end

