-- ==== Sys2Proof/Machine/Curvature.lean ====
section
/-! DEFINITION. The CRV group (R159 to R176): tap configuration, CRV.GRAM, and the assembly stage's recipes CRV.EMA,
CRV.DAMP, CRV.NORMAL and CRV.STENCIL. -/
namespace Sys2Proof.Machine

open Eng

/-! ### Slots: CRV.TAP_CFG and CRV.GRAM (R170, R171) -/

/-- The configuration that a CRV.TAP_CFG carries. -/
def tapOf (core : Nat) (d : List Byte) : TapSlot :=
  { log2s := fldB d 17 3 0, rotate := fldBit d 18 0, prescaleMode := fldB d 19 1 0, phase := fld d 20 4, d := fld d 24 4,
    b := fld d 28 4, src := fldB d 32 7 4, buf := fldB d 32 3 0, log2m := fldB d 33 3 0, prescale := fld d 36 4,
    queue := fld d 40 8, gram0 := fld d 56 8, gram1 := fld d 64 8, core := core, epoch := 0, fill := 0, rows := [], job := none }

def va48 (a align : Nat) : Bool := a < 2 ^ 48 && a % align = 0

def tapCfgLegal (core : Nat) (_ : State) (d : List Byte) : Bool :=
  let t := tapOf core d
  fldB d 16 7 4 = 0 && fldB d 17 7 4 = 0 && fldB d 18 7 1 = 0 && fldB d 19 7 2 = 0 && fldB d 33 7 4 = 0
    && zeroBytes d 34 2 && zeroBytes d 52 4 && zeroBytes d 72 56
    && t.log2s ≤ 12 && t.prescaleMode ≤ 2 && t.phase < 2 ^ t.log2s && 1 ≤ t.d && t.d ≤ 1048576 && t.b % 64 = 0
    && 64 ≤ t.b && t.b ≤ 8192 && TapSlot.formatsOk t.src t.buf && 6 ≤ t.log2m && t.log2m ≤ 10
    && (t.prescaleMode ≠ 2 || isPow2Any t.prescale) && va48 t.queue 64 && 2 * t.m * t.rowBytes ≤ fld d 48 4
    && va48 t.gram0 64 && va48 t.gram1 64

/-- CRV.TAP_CFG: its queue lies wholly in the cluster's store (R148, R176); then the slot closes, and the new configuration is in
force (R170). The close begun is the flight's point. -/
def tapCfgRun : Eng Unit := do
  let fl ← getF
  let q ← Eng.req
  let c := clusterOf fl.core
  let t := tapOf fl.core fl.bytes
  let slot := fldB fl.bytes 16 3 0
  if fl.point = 0 then
    let pas ← mapE (chunksOf t.queue (fld fl.bytes 48 4)) fun (v, n) => do return (← xltLocal q v true false, n)
    if pas.any fun (pa, n) => region pa ≠ .clusterStore c || region (pa + n - 1) ≠ .clusterStore c then
      stop (.status stIllegal 0)
    modF fun f => { f with point := 1 }
  closeRun c slot (.pause false)
  modS fun s => s.setTap c slot t

def isFlush (d : List Byte) : Bool := isOp 0x71 d && fldB d 17 1 0 ≠ 1

def gramLegal (core : Nat) (s : State) (d : List Byte) : Bool :=
  fldB d 16 7 4 = 0 && fldB d 17 7 2 = 0 && zeroBytes d 18 6 && zeroBytes d 52 76 && fldB d 17 1 0 ≤ 1
    && (if fldB d 17 1 0 = 0 then trefIdle d 24 else trefOk d 24)
    && match s.tap (clusterOf core) (fldB d 16 3 0) with
      | none => false
      | some t => fldB d 17 1 0 = 0
          || ((tref d 24).cols = t.d && (tref d 24).fmt = t.src && (tref d 24).layout = 0)

/-- CRV.GRAM in mode 0: it completes when the close is done (R152). -/
def gramFlushRun : Eng Unit := do
  let fl ← getF
  modF fun f => { f with point := 1 }
  closeRun (clusterOf fl.core) (fldB fl.bytes 16 3 0) (.pause false)

/-- CRV.GRAM in mode 1: the rows of x enter the slot one by one, and wait where it has no room until a batch has been
accumulated (R150, R171). Its pre-emption points are the batches that it completes (R167). -/
def gramExplicitRun : Eng Unit := do
  let fl ← getF
  let q ← Eng.req
  let d := fl.bytes
  let x := tref d 24
  checkScales q [x]
  let k ← readFactor q x
  let full : Eng Bool := do
    match (← getS).tap (clusterOf fl.core) (fldB d 16 3 0) with
    | some t => return t.readyHalf t.fill
    | none => return true
  unitsAt x.rows (fun _ => full) fun i => do
    let vs ← rowVals q fl.core .mem x k i 0 x.cols
    tryCatch (tapOffer (fldB d 16 3 0) (hEpoch d) 0 [(w32 (fld d 48 4 + i), vs)])
      (fun z => stop (if z = .tap then .await else z))

/-! ### The assembly stage -/

/-- The numeric class of a cluster's assembly stage and solver unit (R32). -/
def solverClass (s : State) (core : Nat) : NumClass := .solver (s.fbit rf_slvNumCtl_ftz (clusterOf core))

def asmFmt (c : Nat) : Bool := c = cFP32 || c = cFP64

def packedCount (n : Nat) : Nat := n * (n + 1) / 2
def packedIdx (n i j : Nat) : Nat := i * (2 * n - i + 1) / 2 + (j - i)

/-- Row and column of the packed elements [a, b), in order. -/
def triPairs (n a b : Nat) : List (Nat × Nat) :=
  (List.range n).flatMap fun i =>
    let s0 := packedIdx n i i
    (rangeFrom (max a s0) (min b (s0 + (n - i)))).map fun x => (i, i + (x - s0))

/-- Row and column of the elements [a, b) of a full matrix. -/
def fullPairs (n a b : Nat) : List (Nat × Nat) := (rangeFrom a b).map fun x => (x / n, x % n)

/-- A finite FP32 immediate that is zero or positive. -/
def nonNeg32 (x : Nat) : Bool := (dec32 x).isFinite && x < 2 ^ 31 || x = 2 ^ 31
def finite32 (x : Nat) : Bool := (dec32 x).isFinite

/-- An operand as it enters assembly arithmetic. -/
def asmIn (cls : NumClass) (c : Nat) (v : FV) : Eng FV := num (enterHeld cls c v)

-- What an assembly descriptor keeps in its flight: its λ or c as FP64 bits, dmax so far, and whether an element is NaN
-- or infinite.
def asmScalar (fl : Flight) : FV := decIEEE fFP64 (fl.aux.getD 0 0)
def asmDmax (fl : Flight) : Nat := fl.aux.getD 1 0
def asmBad (fl : Flight) : Bool := fl.aux.getD 2 0 ≠ 0

/-- Notes the values written: dmax over those on the diagonal, nonfinite over all (R158, R161, R166). -/
def asmNote (xs : List ((Nat × Nat) × FV)) : Eng Unit := modF fun fl =>
  let diag := (xs.filter fun ((i, j), _) => i = j).map (·.2)
  let bad : Bool := asmBad fl || xs.any fun (_, v) => v.isNan || v.isInf
  { fl with aux := [fl.aux.getD 0 0, dmaxBits (decIEEE fFP64 (asmDmax fl) :: diag), b2n bad] ++ fl.aux.drop 3 }

/-- The values of some elements of a square matrix in layout 0 or 2. -/
def matElems (q : XReq) (cls : NumClass) (t : TRef) (ps : List (Nat × Nat)) : Eng (List FV) :=
  mapE ps fun (i, j) => do
    asmIn cls t.fmt (decElem t.fmt (leNat (← readVA q (t.elemAddr i j) (elemBytes t.fmt))))

/-- Pieces that write elements. -/
def elemPieces (t : TRef) (xs : List ((Nat × Nat) × FV)) : List (Nat × List Byte) :=
  xs.map fun ((i, j), v) => (t.elemAddr i j, leBytes (elemBytes t.fmt) (encElem t.fmt v))

/-- Elements of one pre-emption step: 64 KiB of output (R167). -/
def asmStep (fmt : Nat) : Nat := 65536 / elemBytes fmt

/-- Writes `total` output elements of dst in steps, then the header. The cycles this takes depend on when operands
arrive, so COR_GRAM_COUNT[3] gains a free value (R179). -/
def asmUnits (dst : TRef) (total : Nat) (pairs : Nat → Nat → List (Nat × Nat))
    (f : List (Nat × Nat) → Eng (List ((Nat × Nat) × FV))) (header : Eng Unit) : Eng Unit := do
  let q ← Eng.req
  let step := asmStep dst.fmt
  let k := ceilDiv total step
  units (k + 1) fun u =>
    if u < k then do
      let xs ← f (pairs (u * step) (min total ((u + 1) * step)))
      writeAll q (elemPieces dst xs)
      asmNote xs
    else do
      header
      let n ← draw
      modS fun s => s.count .corGramCount (4 * q.unit) 3 n

/-- Reads a header and stops the descriptor where its kind is reserved (R161). -/
def readHeader (q : XReq) (a : Nat) : Eng (List Byte) := do
  let b ← readVA q a 64
  if matKindOk b then return b else stop (.status stIllegal 0)

/-! ### CRV.EMA (R159, R162, R172) -/

def emaLegal (_ : State) (d : List Byte) : Bool :=
  let f := tref d 16
  let g := tref d 56
  trefOk d 16 true && trefOk d 56 true && f.layout = 2 && g.layout = 2 && asmFmt f.fmt && g.fmt = cFP32
    && f.rows = g.rows && va48 (fld d 40 8) 1 && va48 (fld d 48 8) 1
    && fvLe FV.zero (dec32 (fld d 80 4)) && fvLe (dec32 (fld d 80 4)) FV.one && finite32 (fld d 84 4)
    && fldB d 96 7 2 = 0 && zeroBytes d 97 3 && zeroBytes d 108 20
    && !overlap (f.extent ++ runOf (fld d 40 8) 64) (g.extent ++ runOf (fld d 48 8) 64)
    && !overlap f.extent (runOf (fld d 40 8) 64)

def emaRun : Eng Unit := do
  let fl ← getF
  let q ← Eng.req
  let d := fl.bytes
  let f := tref d 16
  let g := tref d 56
  let cls := solverClass (← getS) fl.core
  checkScales q [f, g]
  let fh ← readHeader q (fld d 40 8)
  let gb ← readHeader q (fld d 48 8)
  let gh := matHdr gb
  let count := if fldBit d 96 1 then fld d 100 8 else gh.count
  let init : Bool := fldBit d 96 0 || !(matHdr fh).initialised
  if fl.point = 0 ∧ fl.aux.isEmpty then
    let e := fld d 88 8
    if !(← getS).lastSettled q.p e ∨ gh.epoch ≠ e then stop (.status stVoided 0)
    if gh.nonfinite || gh.torn then
      Eng.event 0x1004 0 e
      raiseFl flNV
      return ()
    if count = 0 then return ()
    -- c = (1 − β) × gain / count, a rounding after each operation
    let b ← asmIn cls cFP32 (dec32 (fld d 80 4))
    let gain ← asmIn cls cFP32 (dec32 (fld d 84 4))
    let c ← num (do
      let x ← fSub cls f.fmt FV.one b
      let x ← fMul cls f.fmt x gain
      fDiv cls f.fmt x (FV.ofNat count))
    modF fun fl => { fl with aux := [encIEEE fFP64 c, 0, 0] }
  if (← getF).aux.isEmpty then return ()
  let c := asmScalar (← getF)
  let beta ← asmIn cls cFP32 (dec32 (fld d 80 4))
  asmUnits f (packedCount f.rows) (triPairs f.rows)
    (fun ps => do
      let gs ← matElems q cls g ps
      let fs ← if init then pure (ps.map fun _ => FV.zero) else matElems q cls f ps
      let ys ← num ((gs.zip fs).mapM fun (x, y) => do
        let p ← fMul cls f.fmt c x
        if init then return p else fFma cls f.fmt beta y p)
      return ps.zip ys)
    (do
      let r ← getF
      let h := matHdr fh
      writeVA q (fld d 40 8) (matHdrBytes { h with
        epoch := gh.epoch, count := gh.count, dmax := asmDmax r, aux := 0, n := f.rows, kind := 1, fmt := f.fmt,
        initialised := true, torn := false, nonfinite := asmBad r }))

/-! ### CRV.DAMP (R163, R173) -/

def dampLegal (_ : State) (d : List Byte) : Bool :=
  let t := tref d 16
  let s := tref d 40
  let dh := fld d 64 8
  let sh := fld d 72 8
  let sym := fldBit d 84 2
  let shx := if sh = 0 then [] else runOf sh 64
  trefOk d 16 true && trefOk d 40 true && t.layout = 2 && asmFmt t.fmt && asmFmt s.fmt
    && s.layout = (if sym then 0 else 2) && s.rows = t.rows && s.cols = t.cols && va48 dh 1 && va48 sh 1
    && nonNeg32 (fld d 80 4) && fldB d 84 7 3 = 0 && fldB d 84 1 0 ≠ 3 && zeroBytes d 85 1 && fld d 86 2 ≤ 16383
    && zeroBytes d 88 40
    && (if !sym && sameRef t s then !overlap (runOf dh 64) (s.extent ++ shx) && !overlap t.extent shx
        else !overlap (t.extent ++ runOf dh 64) (s.extent ++ shx))

/-- sym(src) at some elements, rounded to the output format (R163). -/
def dampSym (q : XReq) (cls : NumClass) (t s : TRef) (sym : Bool) (ps : List (Nat × Nat)) : Eng (List FV) := do
  let xs ← matElems q cls s ps
  let ys ← if sym then matElems q cls s (ps.map fun (i, j) => (j, i)) else pure xs
  num ((xs.zip ys).mapM fun (x, y) =>
    if sym then rnd cls t.fmt (let z := fvAdd x y; (z.1.scale2 (-1), z.2)) else rnd cls t.fmt (x, 0))

def dampRun : Eng Unit := do
  let fl ← getF
  let q ← Eng.req
  let d := fl.bytes
  let t := tref d 16
  let s := tref d 40
  let sym := fldBit d 84 2
  let cls := solverClass (← getS) fl.core
  checkScales q [t, s]
  let sh ← if fld d 72 8 = 0 then pure none else do pure (some (matHdr (← readHeader q (fld d 72 8))))
  if fl.point = 0 then
    let given ← asmIn cls cFP32 (dec32 (fld d 80 4))
    let mode := fldB d 84 1 0
    let lam ← if mode = 0 then pure given
      else if mode = 1 then do
        let diag ← dampSym q cls t s sym ((List.range t.rows).map fun i => (i, i))
        num (do
          let tr ← fSumAsc cls t.fmt FV.zero diag
          fMul cls t.fmt given (← fDiv cls t.fmt tr (FV.ofNat t.rows)))
      else do
        let b := (← getS).fget rf_strStatsBase_base q.p * 128 + 128 * fld d 86 2 + 32
        asmIn cls cFP32 (dec32 (leNat (← readVA q b 4)))
    modF fun f => { f with aux := [encIEEE fFP64 lam, 0, 0] }
  let lam := asmScalar (← getF)
  asmUnits t (packedCount t.rows) (triPairs t.rows)
    (fun ps => do
      let xs ← dampSym q cls t s sym ps
      let ys ← num ((ps.zip xs).mapM fun ((i, j), x) => if i = j then fAdd cls t.fmt x lam else return x)
      return ps.zip ys)
    (do
      let r ← getF
      let l32 ← num (rnd cls cFP32 (lam, 0))
      writeVA q (fld d 64 8) (matHdrBytes
        ⟨(sh.map (·.epoch)).getD 0, (sh.map (·.count)).getD 0, asmDmax r, 0, t.rows, 2, t.fmt, false, false, asmBad r,
          (sh.map (·.block)).getD 0, enc32 l32⟩))

/-! ### CRV.NORMAL (R164, R174) -/

def normalLegal (_ : State) (d : List Byte) : Bool :=
  let t := tref d 16
  let j := tref d 40
  let r := tref d 64
  let useR := fldBit d 116 0
  let useW := fldBit d 116 1
  let wa := fld d 88 8
  let ra := fld d 96 8
  let dh := fld d 104 8
  let rhs := if useR then runOf ra (t.rows * elemBytes t.fmt) else []
  let outs := t.extent ++ runOf dh 64 ++ rhs
  let ins := j.extent ++ (if useR then r.extent else []) ++ (if useW then runOf wa (4 * j.rows) else [])
  trefOk d 16 true && trefOk d 40 && t.layout = 2 && asmFmt t.fmt && 1 ≤ t.rows && t.rows ≤ 8192 && j.cols = t.rows
    && j.layout ≤ 1 && narrowSrc j.fmt
    && (if useR then trefOk d 64 && r.rows = j.rows && r.cols = 1 && r.fmt = cFP32 else trefIdle d 64)
    && va48 wa 4 && va48 ra 1 && va48 dh 1 && nonNeg32 (fld d 112 4) && fldB d 116 7 3 = 0
    && zeroBytes d 117 11 && !overlap outs ins
    -- with accumulate, dst, rhs and the header are inputs too
    && (!fldBit d 116 2 || (!overlap t.extent (runOf dh 64 ++ rhs) && !overlap rhs (runOf dh 64)))

/-- Rows of one pre-emption step (R167). -/
def normalStep : Nat := 256

/-- The flags a Gram-unit computation raises go eight bits higher in the flight (R45). -/
def asGram {α : Type} (c : Eng α) : Eng α := do
  let before := (← getF).flags
  modF fun f => { f with flags := 0 }
  let a ← c
  modF fun f => { f with flags := before ||| ((f.flags % 16) <<< 8) }
  return a

/-- One row [J_i, r_i] added to the sums of products of its n + 1 elements, in FP32 in the tensor class. Which factor
takes the weight is not stated, so it is a free value. -/
def normalRow (w : FV) (left : Bool) (x : List FV) (acc : List FV) : FlM (List FV) := do
  let xw ← x.mapM fun v => fMul .tensor cFP32 w v
  let n := x.length
  (((List.range n).flatMap fun i => (rangeFrom i n).map fun j => (i, j)).zip acc).mapM fun ((i, j), a) =>
    if left then fFma .tensor cFP32 (xw.getD i FV.zero) (x.getD j FV.zero) a
    else fFma .tensor cFP32 (x.getD i FV.zero) (xw.getD j FV.zero) a

def normalRun : Eng Unit := do
  let fl ← getF
  let q ← Eng.req
  let d := fl.bytes
  let t := tref d 16
  let j := tref d 40
  let r := tref d 64
  let n := t.rows
  let useR := fldBit d 116 0
  let acc := fldBit d 116 2
  let cls := solverClass (← getS) fl.core
  checkScales q ([t, j] ++ if useR then [r] else [])
  let old ← if acc then do pure (some (matHdr (← readHeader q (fld d 104 8)))) else pure none
  if fl.aux.isEmpty then
    let side ← draw
    modF fun f => { f with aux := [side % 2, 0, 0] ++ List.replicate (packedCount (n + 1)) 0 }
  let k := ceilDiv j.rows normalStep
  units (k + 1) fun u =>
    if u < k then do
      let rows := rangeFrom (u * normalStep) (min j.rows ((u + 1) * normalStep))
      let s := (← getF).aux
      let sums ← rows.foldlM (init := s.drop 3) fun sums i => do
        let xs ← rowVals q fl.core .mem j 0 i 0 n
        let ri ← if useR then do pure ((← rowVals q fl.core .mem r 0 i 0 1).headD FV.zero) else pure FV.zero
        let w ← if fldBit d 116 1 then do pure (dec32 (leNat (← readVA q (fld d 88 8 + 4 * i) 4))) else pure FV.one
        let ys ← asGram (num (do
          let xs ← xs.mapM (enterHeld .tensor j.fmt)
          let ri ← enterHeld .tensor cFP32 ri
          let w ← enterHeld .tensor cFP32 w
          normalRow w (s.headD 0 = 0) (xs ++ [ri]) (sums.map dec32)))
        return ys.map enc32
      modF fun f => { f with aux := s.take 3 ++ sums }
      modS fun s => s.count .corGramCount (4 * q.unit) 0 (rows.length * gramCycles (n + 1))
    else do
      let s := (← getF).aux.drop 3
      let sum := fun i l => dec32 (s.getD (packedIdx (n + 1) i l) 0)
      let ps := triPairs n 0 (packedCount n)
      let lam ← asmIn cls cFP32 (dec32 (fld d 112 4))
      let olds ← if acc then matElems q cls t ps else pure (ps.map fun _ => FV.zero)
      let ys ← num ((ps.zip olds).mapM fun ((i, l), o) => do
        let x ← enterHeld cls cFP32 (sum i l)
        if acc then fAdd cls t.fmt o x
        else if i = l then fAdd cls t.fmt x lam else return x)
      let e := elemBytes t.fmt
      let rhs ← if useR then mapE (List.range n) fun i => do
          let x ← asmIn cls cFP32 (sum i n)
          let a := fld d 96 8 + e * i
          let y ← if acc then do
              let o ← asmIn cls t.fmt (decElem t.fmt (leNat (← readVA q a e)))
              num (fAdd cls t.fmt o x)
            else pure x
          return (a, leBytes e (encElem t.fmt y))
        else pure []
      let a0 ← asmIn cls cFP64 (decIEEE fFP64 ((old.map (·.aux)).getD 0))
      let aux ← if useR then do
          let x ← asmIn cls cFP32 (sum n n)
          if acc then num (fAdd cls cFP64 a0 x) else pure x
        else pure (if acc then a0 else FV.zero)
      let diag := ((ps.zip ys).filter fun ((i, l), _) => i = l).map (·.2)
      let hdr : MatHdr := ⟨0, w64 ((old.map (·.count)).getD 0 + j.rows), dmaxBits diag, encIEEE fFP64 aux, n, 3, t.fmt, false,
        false, ys.any fun v => v.isNan || v.isInf, 0, if acc then (old.map (·.lambda)).getD 0 else fld d 112 4⟩
      writeAll q (elemPieces t (ps.zip ys) ++ rhs ++ [(fld d 104 8, matHdrBytes hdr)])
      let m ← draw
      modS fun s => s.count .corGramCount (4 * q.unit) 3 m

/-! ### CRV.STENCIL (R165, R175) -/

def stencilLegal (_ : State) (d : List Byte) : Bool :=
  let t := tref d 16
  let c := tref d 40
  let k := fldB d 72 6 0
  let outs := t.extent ++ runOf (fld d 80 8) 64
  trefOk d 16 true && trefOk d 40 && t.rows = t.cols && t.rows ≤ 8192 && (t.layout = 0 || t.layout = 2) && asmFmt t.fmt
    && c.rows = t.rows && c.cols = k && c.layout ≤ 1 && (narrowSrc c.fmt || c.fmt = cFP64)
    && va48 (fld d 64 8) 4 && 1 ≤ k && k ≤ 64 && fldB d 72 7 7 = 0 && fldB d 73 7 3 = 0 && zeroBytes d 74 2
    && finite32 (fld d 76 4) && va48 (fld d 80 8) 1 && zeroBytes d 88 40 && (t.layout = 0 || fldBit d 73 1)
    && !overlap outs (c.extent ++ runOf (fld d 64 8) (4 * k))
    -- with keep, dst is an input too
    && !(fldBit d 73 2 && overlap t.extent (runOf (fld d 80 8) 64))

/-- The offsets, as the flight keeps them. -/
def stencilOffs (fl : Flight) : List Int := (fl.aux.drop 3).map (sext 32)

/-- The coefficients that reach element (i, j), in list order. -/
def stencilHits (n : Nat) (periodic : Bool) (offs : List Int) (i j : Nat) : List Nat :=
  (offs.zipIdx.filter fun (o, _) =>
    let c := (i : Int) + o
    if periodic then c % (n : Int) = (j : Int) else c = (j : Int)).map (·.2)

/-- Element (i, j) of A before λ, none where no offset reaches it. -/
def stencilElem (q : XReq) (core : Nat) (cls : NumClass) (t c : TRef) (periodic : Bool) (offs : List Int) (i j : Nat) :
    Eng (Option FV) := do
  match stencilHits t.rows periodic offs i j with
  | [] => return none
  | ks => do
    let xs ← mapE ks fun k => do asmIn cls c.fmt ((← rowVals q core .mem c 0 i k 1).headD FV.zero)
    return some (← num (xs.foldlM (fAdd cls t.fmt) FV.zero))

def stencilRun : Eng Unit := do
  let fl ← getF
  let q ← Eng.req
  let d := fl.bytes
  let t := tref d 16
  let c := tref d 40
  let n := t.rows
  let k := fldB d 72 6 0
  let keep := fldBit d 73 2
  let sym := fldBit d 73 1
  let per := fldBit d 73 0
  let cls := solverClass (← getS) fl.core
  checkScales q [t, c]
  if fl.point = 0 then
    let bs ← readVA q (fld d 64 8) (4 * k)
    let offs := unpack 32 k bs
    if offs.any fun o => n ≤ (sext 32 o).natAbs then stop (.status stIllegal 0)
    modF fun f => { f with aux := [0, 0, 0] ++ offs }
  let offs := stencilOffs (← getF)
  let lam ← asmIn cls cFP32 (dec32 (fld d 76 4))
  let withLam := fun (i j : Nat) (x : Option FV) => (do
    if i ≠ j ∨ (lam.isZero ∧ x.isNone) then return x
    let base ← match x with
      | some v => pure v
      | none => if keep then do pure ((← matElems q cls t [(i, j)]).headD FV.zero) else pure FV.zero
    return some (← num (fAdd cls t.fmt base lam)) : Eng (Option FV))
  let total := if t.layout = 2 then packedCount n else n * n
  asmUnits t total (if t.layout = 2 then triPairs n else fullPairs n)
    (fun ps => do
      let xs ← mapE ps fun (i, j) => do
        let x ← withLam i j (← stencilElem q fl.core cls t c per offs i j)
        if sym ∧ i ≠ j then
          match x, ← stencilElem q fl.core cls t c per offs j i with
          | none, none => return ((i, j), none)
          | a, b =>
            let z := fvAdd (a.getD FV.zero) (b.getD FV.zero)
            return ((i, j), some (← num (rnd cls t.fmt (z.1.scale2 (-1), z.2))))
        else return ((i, j), x)
      return xs.filterMap fun (ij, x) => match x with
        | some v => some (ij, v)
        | none => if keep then none else some (ij, FV.zero))
    (do
      let r ← getF
      -- elements that keep left unchanged count for the header as they stand
      let diag ← if keep then matElems q cls t ((List.range n).map fun i => (i, i)) else pure []
      let dm := dmaxBits (decIEEE fFP64 (asmDmax r) :: diag)
      writeVA q (fld d 80 8) (matHdrBytes
        ⟨0, 0, dm, 0, n, 2, t.fmt, false, false, asmBad r, 0, enc32 lam⟩))

/-! ### The commands -/

def isAsm (d : List Byte) : Bool := 0x72 ≤ hOpcode d && hOpcode d ≤ 0x75

/-- The assembly stage of a cluster runs one descriptor at a time. -/
def State.asmFree (s : State) (core : Nat) : Bool :=
  s.flights.all fun f => clusterOf f.core ≠ clusterOf core || !isAsm f.bytes || f.phase = .done

/-- COR_GRAM_STATUS follows the assembly stage (R177). -/
def State.syncAsm (s : State) (core : Nat) : State :=
  let f := s.flights.find? fun f => clusterOf f.core = clusterOf core && isAsm f.bytes && f.phase ≠ .done
  ((s.fset rf_corGramStatus_asmBusy core 0 (b2n f.isSome)).fset rf_corGramStatus_asmOpcode core 0
    ((f.map fun f => hOpcode f.bytes).getD 0)).syncGram (clusterOf core)

def State.issueAsm (s : State) (core stream n op : Nat) (accepts : State → List Byte → Bool)
    (legal : State → List Byte → Bool) (run : Eng Unit) : State :=
  (s.issueDesc core stream n (isOp op) (fun s d => s.asmFree core && accepts s d) legal run).syncAsm core

def execCrvTapCfg (core : Fin 64) (stream : Fin 3) (n : BitVec 32) (s : State) : Host.Outcome State Fault Refusal :=
  done (s.issueDesc core stream n.toNat (isOp 0x70) always (tapCfgLegal core) tapCfgRun)

def execGramFlush (core : Fin 64) (stream : Fin 3) (n : BitVec 32) (s : State) : Host.Outcome State Fault Refusal :=
  done (s.issueDesc core stream n.toNat isFlush always (gramLegal core) gramFlushRun)

def execGramExplicit (core : Fin 64) (stream : Fin 3) (n : BitVec 32) (s : State) : Host.Outcome State Fault Refusal :=
  done (s.issueDesc core stream n.toNat (fun d => isOp 0x71 d && fldB d 17 1 0 = 1) always (gramLegal core)
    gramExplicitRun)

def execCrvEma (core : Fin 64) (stream : Fin 3) (n : BitVec 32) (s : State) : Host.Outcome State Fault Refusal :=
  done (s.issueAsm core stream n.toNat 0x72
    (fun s d => match s.partOf core with
      | some p => s.epochFinal p (fld d 88 8)
      | none => false) emaLegal emaRun)

def execCrvDamp (core : Fin 64) (stream : Fin 3) (n : BitVec 32) (s : State) : Host.Outcome State Fault Refusal :=
  done (s.issueAsm core stream n.toNat 0x73 always dampLegal dampRun)

def execCrvNormal (core : Fin 64) (stream : Fin 3) (n : BitVec 32) (s : State) : Host.Outcome State Fault Refusal :=
  done (s.issueAsm core stream n.toNat 0x74 always normalLegal normalRun)

def execCrvStencil (core : Fin 64) (stream : Fin 3) (n : BitVec 32) (s : State) : Host.Outcome State Fault Refusal :=
  done (s.issueAsm core stream n.toNat 0x75 always stencilLegal stencilRun)

end Sys2Proof.Machine
end

