-- ==== Sys2Proof/Machine/SolverNum.lean ====
section
/-! DEFINITION. What the solver unit computes (R189 to R202): factorisations with regularised pivots, triangular solves
and inverses, inverse p-th roots and Jacobi eigendecompositions. Matrices are lists of rows; a packed upper triangle is
the list of its rows from the diagonal on. -/
namespace Sys2Proof.Machine

/-- What lies between one pre-emption point of an attempt and the one before it (R209): DSU operations issued (R223), pivots
below the threshold and of zero that were replaced (R191), iterations or sweeps completed, and whether it is an output tile on a
lattice (R184). -/
structure SlvPoint where
  dsu : Nat := 0
  small : Nat := 0
  zero : Nat := 0
  iters : Nat := 0
  tile : Bool := false
deriving DecidableEq, Repr

/-- What an attempt gives. -/
structure Attempt where
  /-- Elements of the result in ascending address order; none when the attempt was abandoned. -/
  out : Option (List FV)
  /-- It reached max_iter without meeting its tolerance. -/
  limit : Bool
  points : List SlvPoint
  residual : FV
deriving DecidableEq, Repr

/-- The quantities of an attempt (R190). -/
structure Quant where
  sigma : FV
  threshold : FV
  delta : FV
deriving DecidableEq, Repr

/-- A triangle's rows from its packed elements. -/
def triRows : Nat → List FV → List (List FV)
  | 0, _ => []
  | n + 1, xs => xs.take (n + 1) :: triRows n (xs.drop (n + 1))

/-- A number that is neither NaN nor infinite. -/
def allFinite (xs : List FV) : Bool := xs.all (·.isFinite)

/-- σ added to every diagonal element (R190). -/
def addSigma (cls : NumClass) (c : Nat) (sigma : FV) (rows : List (List FV)) : FlM (List (List FV)) :=
  rows.mapM fun r => match r with
    | [] => return []
    | d :: r => do return (← fAdd cls c d sigma) :: r

/-- The pivot that a column step uses, and whether a small or a zero pivot was replaced (R191). -/
def pivot (cls : NumClass) (c : Nat) (q : Quant) (indefinite : Bool) (p : FV) : FlM (FV × Nat × Nat) := do
  if indefinite then
    if fvLt p.abs q.threshold then
      let p' ← if fvLt p FV.zero then fSub cls c p q.delta else fAdd cls c p q.delta
      return (p', if p.isZero then 0 else 1, if p.isZero then 1 else 0)
    else return (p, 0, 0)
  else if p.isZero then return (q.delta, 0, 1)
  else if fvLt p q.threshold then return (← fAdd cls c p q.delta, 1, 0)
  else return (p, 0, 0)

/-- A multiply-add on a lattice: a zero product adds as +0 (R33, R62). -/
def latFma (cls : NumClass) (x y acc : FV) : FlM FV := do
  let (p, f) := zeroPlus (fvMul x y)
  FlM.raise f
  rnd cls cFP32 (fvAdd acc p)

/-- One column step at column j: the result's row, and the triangle that trails it (R191). An FP32 trailing triangle beyond the
block row is updated on the lattices, the rest on the panel processor (R181, R189). -/
def columnStep (cls : NumClass) (c : Nat) (q : Quant) (ldlt indefinite : Bool) (j : Nat) (rows : List (List FV)) :
    FlM (List FV × List (List FV) × Nat × Nat) := do
  match rows with
  | (p0 :: as) :: rest =>
    let (p, ns, nz) ← pivot cls c q (ldlt && indefinite) p0
    let r ← if ldlt then fDiv cls c FV.one p else fRsqrt cls c p
    let d ← if ldlt then pure p else fMul cls c p r
    let us ← as.mapM fun a => fMul cls c a r
    let left := if ldlt then as else us
    let trail ← ((rest.zip left).zipIdx).mapM fun ((row, a), k) =>
      (row.zip (us.drop k)).mapM fun (x, u) =>
        if c = cFP32 ∧ (j + 1 + k) / 256 ≠ j / 256 then latFma cls a.neg u x else fFma cls c a.neg u x
    return (d :: us, trail, ns, nz)
  | _ => return ([], [], 0, 0)

/-- The points of a factorisation of order n over the columns processed, of which each gives the pivots it replaced: column steps,
pieces of 64 columns and output tiles of each block row (R189, R209). -/
def factorPoints (c n : Nat) (cs : List (Nat × Nat)) : List SlvPoint :=
  ((pieces 256 cs.length cs).zipIdx).flatMap fun (col, b) =>
    let rest := n - 256 * (b + 1)
    let t := ceilDiv rest 128
    (col.map fun (s, z) => { dsu := 1, small := s, zero := z }) ++ List.replicate (ceilDiv rest 64) {}
      ++ List.replicate (t * (t + 1) / 2) { tile := c = cFP32 }

/-- Column steps of a whole triangle; the elements written are examined after every block row of 256 (R189, R192). The pivots
replaced are listed by column. -/
def factorFrom (cls : NumClass) (c : Nat) (q : Quant) (ldlt indefinite : Bool) :
    Nat → List (List FV) → List (List FV) → List (Nat × Nat) → FlM (Option (List FV) × List (Nat × Nat))
  | 0, done, _, cs => return (some done.flatten, cs)
  | k + 1, done, rows, cs => do
    let j := cs.length
    let (u, trail, a, b) ← columnStep cls c q ldlt indefinite j rows
    let done := done ++ [u]
    let cs := cs ++ [(a, b)]
    if (j % 256 = 255 ∨ k = 0) ∧ !(done.all allFinite && trail.all allFinite) then return (none, cs)
    else factorFrom cls c q ldlt indefinite k done trail cs

/-- SLV.CHOL and SLV.LDLT of a packed triangle (R189 to R192). -/
def factorise (cls : NumClass) (c : Nat) (q : Quant) (ldlt indefinite : Bool) (n : Nat) (a : List FV) : FlM Attempt := do
  let (out, cs) ← factorFrom cls c q ldlt indefinite n [] (← addSigma cls c q.sigma (triRows n a)) []
  return ⟨out, false, factorPoints c n cs, FV.zero⟩

/-- The reciprocals of a triangle's diagonal; 1 where the diagonal is taken as unit (R196). -/
def diagRcp (cls : NumClass) (c : Nat) (unit : Bool) (u : List (List FV)) : FlM (List FV) :=
  u.mapM fun r => if unit then return FV.one else fDiv cls c FV.one (r.headD FV.zero)

/-- Element (i, j), i ≤ j, of a triangle. -/
def triAt (u : List (List FV)) (i j : Nat) : FV := (u.getD i []).getD (j - i) FV.zero

/-- A free order of a list (R27). -/
def freeOrder {α : Type} : Nat → List α → FlM (List α)
  | 0, xs => return xs
  | _ + 1, [] => return []
  | k + 1, x :: xs => do
    let ys := x :: xs
    let i := (← FlM.draw) % ys.length
    match ys[i]? with
    | some y => return y :: (← freeOrder k (ys.eraseIdx i))
    | none => return ys

/-- b minus the products, fused, in an order the manual leaves open (R27), times a reciprocal. -/
def solveOne (cls : NumClass) (c : Nat) (b : FV) (terms : List (FV × FV)) (unit : Bool) (r : FV) : FlM FV := do
  let acc ← (← freeOrder terms.length terms).foldlM (fun a (u, x) => fFma cls c (FV.neg u) x a) b
  if unit then return acc else fMul cls c acc r

/-- Solution of Uᵀx = b: elements in ascending order. -/
def forwardFrom (cls : NumClass) (c : Nat) (unit : Bool) (u : List (List FV)) (rs : List FV) :
    List FV → List FV → FlM (List FV)
  | [], xs => return xs
  | b :: bs, xs => do
    let i := xs.length
    let x ← solveOne cls c b (xs.zipIdx.map fun (x, k) => (triAt u k i, x)) unit (rs.getD i FV.zero)
    forwardFrom cls c unit u rs bs (xs ++ [x])

/-- Solution of Ux = b: elements in descending order; `bs` holds b reversed and `xs` the elements above. -/
def backFrom (cls : NumClass) (c : Nat) (unit : Bool) (u : List (List FV)) (rs : List FV) :
    List FV → List FV → FlM (List FV)
  | [], xs => return xs
  | b :: bs, xs => do
    let i := bs.length
    let x ← solveOne cls c b (xs.zipIdx.map fun (x, k) => (triAt u i (i + 1 + k), x)) unit (rs.getD i FV.zero)
    backFrom cls c unit u rs bs (x :: xs)

/-- Columns of the solution of op(U)X = B, given B's columns (R196). -/
def trsm (cls : NumClass) (c : Nat) (unit trans : Bool) (n : Nat) (u : List FV) (cols : List (List FV)) :
    FlM (List (List FV)) := do
  let t := triRows n u
  let rs ← diagRcp cls c unit t
  cols.mapM fun b => if trans then forwardFrom cls c unit t rs b [] else backFrom cls c unit t rs b.reverse []

/-- The inverse of an upper triangle, packed (R197): column j solves Ux = e_j over its first j + 1 elements. -/
def trinv (cls : NumClass) (c : Nat) (unit : Bool) (n : Nat) (u : List FV) : FlM (List FV) := do
  let t := triRows n u
  let rs ← diagRcp cls c unit t
  let cols ← (List.range n).mapM fun j =>
    backFrom cls c unit t rs (FV.one :: List.replicate j FV.zero) []
  return (List.range n).flatMap fun i => (rangeFrom i n).map fun j => (cols.getD j []).getD i FV.zero

/-- The points of a triangular solve or inverse of order n with m columns: its pieces of 64 columns by block rows (R209, log
entry 141), after the DSU has given the reciprocals of the diagonal (R196). -/
def solvePoints (unit : Bool) (n m : Nat) : List SlvPoint :=
  { dsu := if unit then 0 else n } :: List.replicate (ceilDiv n 256 * ceilDiv m 64 - 1) {}

/-! ### Inverse p-th roots (R198 to R200) -/

/-- The full symmetric matrix of a triangle. -/
def symOf (n : Nat) (t : List (List FV)) : List (List FV) :=
  (List.range n).map fun i => (List.range n).map fun j => triAt t (min i j) (max i j)

/-- A product of symmetric matrices on the lattices: each element in ascending k with one rounding each, the lower
triangle a copy of the upper (R33, R199). -/
def symMul (cls : NumClass) (a b : List (List FV)) : FlM (List (List FV)) := do
  let n := a.length
  let t ← (a.zipIdx).mapM fun (r, i) => (b.drop i).mapM fun s =>
    (r.zip s).foldlM (fun acc (x, y) => latFma cls x y acc) FV.zero
  return symOf n t

/-- log2 p squarings. -/
def symPow (cls : NumClass) : Nat → List (List FV) → FlM (List (List FV))
  | 0, a => return a
  | k + 1, a => do symPow cls k (← symMul cls a a)

/-- Repeated square roots or squarings in FP64. -/
def rootFrom (cls : NumClass) : Nat → FV → FlM FV
  | 0, x => return x
  | k + 1, x => do rootFrom cls k (← fSqrt cls cFP64 x)

def squareFrom (cls : NumClass) : Nat → FV → FlM FV
  | 0, x => return x
  | k + 1, x => do squareFrom cls k (← fMul cls cFP64 x x)

/-- The quotient of an FP32 or FP64 value by an FP64 one, rounded once to FP32. -/
def quot32 (cls : NumClass) (a b : FV) : FlM FV := fDiv cls cFP32 a b

/-- T = ((p + 1)I − M)/p, formed in FP64 and rounded to FP32. -/
def rootT (cls : NumClass) (lg : Nat) (m : List (List FV)) : FlM (List (List FV)) :=
  (m.zipIdx).mapM fun (r, i) => (r.zipIdx).mapM fun (x, j) => do
    let d ← fSub cls cFP64 (if i = j then FV.ofNat (2 ^ lg + 1) else FV.zero) x
    rnd cls cFP32 (d.scale2 (-(lg : Int)), 0)

/-- e = max |M − I| in FP64. -/
def rootE (cls : NumClass) (m : List (List FV)) : FlM FV := do
  let es ← (m.zipIdx).mapM fun (r, i) => (r.zipIdx).mapM fun (x, j) => do
    return (← fSub cls cFP64 x (if i = j then FV.one else FV.zero)).abs
  return es.flatten.foldl fvMax FV.zero

/-- How the iterations of an attempt end: the result or none, whether max_iter was reached, the iterations, and the last e. -/
abbrev RootEnd := Option (List FV) × Bool × Nat × FV

/-- The iterations of an attempt. At the first, X is I/c with 1/c rounded to FP32, so its product with T is that of T's
elements by the number, each rounded once. -/
def rootIter (cls : NumClass) (lg : Nat) (ic eps : FV) :
    Nat → Nat → List (List FV) → List (List FV) → FV → FlM RootEnd
  | 0, k, _, _, e => return (none, true, k, e)
  | f + 1, k, x, m, ePrev => do
    let t ← rootT cls lg m
    let x ← if k = 0 then t.mapM fun r => r.mapM fun y => fMul cls cFP32 y ic else symMul cls x t
    let m ← symMul cls (← symPow cls lg t) m
    let e ← rootE cls m
    if !e.isFinite || fvLt (ePrev.scale2 1) e then return (none, false, k + 1, e)
    else if fvLe e eps then return (some ((x.zipIdx).flatMap fun (r, i) => r.drop i), false, k + 1, e)
    else rootIter cls lg ic eps f (k + 1) x m e

/-- The points of k iterations of order n: the output tiles of their products, of which the first iteration has one product less
(R198, R209). The square roots of c are the DSU's (R198, log entry 141). -/
def rootPoints (lg n k : Nat) : List SlvPoint :=
  let t := ceilDiv n 128
  let ps := (List.range k).flatMap fun i =>
    List.replicate ((lg + (if i = 0 then 1 else 2)) * (t * (t + 1) / 2) - 1) ({ tile := true } : SlvPoint)
      ++ [{ tile := true, iters := 1 }]
  match ps with
  | p :: r => { p with dsu := lg } :: r
  | [] => []

/-- SLV.IROOT of a packed triangle. -/
def iroot (cls : NumClass) (q : Quant) (lg maxIter : Nat) (eps : FV) (n : Nat) (a : List FV) : FlM Attempt := do
  let a1 := symOf n (← addSigma cls cFP32 q.sigma (triRows n a))
  let sq ← a1.flatten.mapM fun x => fMul cls cFP64 x x
  let fro ← fSqrt cls cFP64 (← fSumFree cls cFP64 sq)
  let c ← rootFrom cls lg (← fDiv cls cFP64 (fro.scale2 1) (FV.ofNat (2 ^ lg + 1)))
  let cp ← squareFrom cls lg c
  let ic ← rnd cls cFP32 (← fDiv cls cFP64 FV.one c, 0)
  let m ← a1.mapM fun r => r.mapM fun y => quot32 cls y cp
  let (out, limit, k, e) ← rootIter cls lg ic eps maxIter 0 [] m (.inf false)
  return ⟨out, limit, rootPoints lg n k, e⟩

/-! ### Jacobi eigendecomposition (R201, R202) -/

def matAt (a : List (List FV)) (i j : Nat) : FV := (a.getD i []).getD j FV.zero

def matSet (a : List (List FV)) (i j : Nat) (v : FV) : List (List FV) := a.set i ((a.getD i []).set j v)

/-- Round-robin sets of disjoint pairs over a list of an even number of indices (circle method). -/
def circleSets : Nat → List Nat → List (List (Nat × Nat))
  | 0, _ => []
  | k + 1, xs =>
    let h := xs.length / 2
    let pairs := (xs.take h).zip (xs.drop h).reverse
    let next := match xs with
      | [] => []
      | y :: ys => match ys.reverse with
        | [] => [y]
        | z :: zs => y :: z :: zs.reverse
    pairs :: circleSets k next

/-- The rotation of R201 for a pair, none where it is skipped: t, c and s. -/
def jacobiRot (cls : NumClass) (c : Nat) (a : List (List FV)) (p q : Nat) : FlM (Option (FV × FV × FV)) := do
  let apq := matAt a p q
  let g ← fSqrt cls c (← fMul cls c (matAt a p p) (matAt a q q)).abs
  if fvLe apq.abs (g.scale2 (if c = cFP32 then -24 else -53)) then return none
  else
    let z ← fDiv cls c (← fSub cls c (matAt a q q) (matAt a p p)) (apq.scale2 1)
    let w ← fSqrt cls c (← fFma cls c z z FV.one)
    let t ← fDiv cls c (if z.sign then FV.one.neg else FV.one) (← fAdd cls c z.abs w)
    let cc ← fRsqrt cls c (← fFma cls c t t FV.one)
    return some (t, cc, ← fMul cls c t cc)

/-- Two elements turned by a rotation. -/
def turn (cls : NumClass) (c : Nat) (cc s x y : FV) : FlM (FV × FV) := do
  let x' ← fFma cls c s.neg y (← fMul cls c cc x)
  let y' ← fFma cls c cc y (← fMul cls c s x)
  return (x', y')

/-- One rotation applied to A and to the vectors V; the third component counts the rotations that are not skipped. -/
def jacobiApply (cls : NumClass) (c n : Nat) (av : List (List FV) × List (List FV) × Nat) (pq : Nat × Nat) :
    FlM (List (List FV) × List (List FV) × Nat) := do
  let (a, v, k) := av
  let (p, q) := (min pq.1 pq.2, max pq.1 pq.2)
  match ← jacobiRot cls c a p q with
  | none => return (a, v, k)
  | some (t, cc, s) =>
    let apq := matAt a p q
    let app ← fFma cls c t.neg apq (matAt a p p)
    let aqq ← fFma cls c t apq (matAt a q q)
    let a ← (List.range n).foldlM (fun a i => do
      if i = p ∨ i = q then return a
      let (x, y) ← turn cls c cc s (matAt a i p) (matAt a i q)
      return matSet (matSet (matSet (matSet a i p x) p i x) i q y) q i y) a
    let a := matSet (matSet (matSet (matSet a p p app) q q aqq) p q FV.zero) q p FV.zero
    let v ← (List.range n).foldlM (fun v i => do
      let (x, y) ← turn cls c cc s (matAt v i p) (matAt v i q)
      return matSet (matSet v i p x) i q y) v
    return (a, v, k + 1)

/-- Squares accumulated by fused multiply-adds (R181): each into an accumulator in use or a new one, which the manual leaves open
(R27). -/
def fusedSquares (cls : NumClass) (c : Nat) : List FV → List FV → FlM (List FV)
  | [], accs => return accs
  | x :: xs, accs => do
    let i := (← FlM.draw) % (accs.length + 1)
    let a ← fFma cls c x x (accs.getD i FV.zero)
    fusedSquares cls c xs (if i = accs.length then accs ++ [a] else accs.set i a)

/-- √ of a sum of squares in an open order (R27). -/
def norm2 (cls : NumClass) (c : Nat) (xs : List FV) : FlM FV := do
  fSqrt cls c (← fSumFree cls c (← fusedSquares cls c (← freeOrder xs.length xs) []))

def offDiag (a : List (List FV)) : List FV :=
  (a.zipIdx).flatMap fun (r, i) => (r.zipIdx.filter fun (_, j) => j ≠ i).map (·.1)

/-- Insertion of an index by its eigenvalue, ascending. -/
def insertBy (vals : List FV) (x : Nat) : List Nat → List Nat
  | [] => [x]
  | y :: ys => if fvLt (vals.getD x FV.zero) (vals.getD y FV.zero) then x :: y :: ys else y :: insertBy vals x ys

/-- A vector signed so that its component of largest magnitude, the first of several, is positive (R202). -/
def signVector (xs : List FV) : List FV :=
  let big := xs.foldl (fun m x => if fvLt m.abs x.abs then x else m) FV.zero
  if big.sign then xs.map FV.neg else xs

/-- Eigenvalues and vectors in the result's order (R202). -/
def eigResult (n : Nat) (a v : List (List FV)) : List FV :=
  let vals := (List.range n).map fun i => matAt a i i
  let order := (List.range n).foldl (fun l x => insertBy vals x l) []
  (order.map fun i => vals.getD i FV.zero)
    ++ order.flatMap fun j => signVector ((List.range n).map fun i => matAt v i j)

/-- Sweeps over the sets of rotations, each of which is a point (R209). Of a rotation the DSU computes four operations (R201). -/
def sweeps (cls : NumClass) (c n : Nat) (eps fro : FV) (sets : List (List (Nat × Nat))) :
    Nat → List SlvPoint → List (List FV) → List (List FV) → FlM Attempt
  | 0, ps, _, _ => return ⟨none, true, ps, FV.zero⟩
  | f + 1, ps, a, v => do
    let (a, v, mine) ← sets.foldlM (fun (a, v, mine) set => do
      let (a, v, k) ← set.foldlM (jacobiApply cls c n) (a, v, 0)
      return (a, v, mine ++ [({ dsu := 4 * k } : SlvPoint)])) (a, v, [])
    let ps := ps ++ mine.dropLast ++ (mine.getLast?.toList.map fun p => { p with iters := 1 })
    if !(a.all allFinite && v.all allFinite) then return ⟨none, false, ps, FV.zero⟩
    else
      let off ← norm2 cls c (offDiag a)
      let lim ← fMul cls c eps fro
      if fvLe off lim then
        let r ← fDiv cls c off fro
        return ⟨some (eigResult n a v), false, ps, if off.isZero then FV.zero else r⟩
      else sweeps cls c n eps fro sets f ps a v

/-- SLV.EIGJ of a packed triangle. Which round-robin ordering is used is not stated: the indices stand on the circle in
a free order. -/
def eigj (cls : NumClass) (c : Nat) (q : Quant) (maxIter : Nat) (eps : FV) (n : Nat) (a : List FV) : FlM Attempt := do
  let a := symOf n (← addSigma cls c q.sigma (triRows n a))
  let even := if n % 2 = 0 then n else n + 1
  let xs ← freeOrder even (List.range even)
  let sets := (circleSets (even - 1) xs).map fun s => s.filter fun (p, r) => p < n && r < n
  let fro ← norm2 cls c a.flatten
  let v := (List.range n).map fun i => (List.range n).map fun j => if i = j then FV.one else FV.zero
  sweeps cls c n eps fro sets maxIter [] a v

end Sys2Proof.Machine
end

