-- ==== Sys2Proof/Machine/Streams.lean ====
section
/-! DEFINITION. The stream commands and the SYN and CTL descriptors (chapter Streams, descriptors and the Tilanash
contract). -/
namespace Sys2Proof.Machine

open Eng

/-- A register command to a domain (R494, R495): it takes effect where the domain is awake, is held where it wakes on
access, and is ignored otherwise. -/
def State.regAccess (s : State) (d : Nat) (a : Agent) (k : RegKey) (v : Word) (f : State → State) : State :=
  if s.awake d then f s
  else if s.holds d then
    let s := s.holdAccess d
    let x := s.dom d
    s.setDom d { x with heldWrites := x.heldWrites ++ [(a, k, v)] }
  else s.asleepEvent d none 0

/-- IDLE becomes RUNNING when descriptors are posted (R130). -/
def State.wakeStream (s : State) (core stream : Nat) : State :=
  if s.strState core stream = ssIdle ∧ s.strTail core stream ≠ s.strIssue core stream then
    s.setStr core stream ssRunning
  else s

/-- A write of COR_DOORBELL (R111, R141). -/
def doorbell (core : Nat) (v : Nat) (s : State) : State :=
  let stream := bits v 33 32
  let tail := bits v 31 0
  if stream = 3 then s
  else
    let retire := s.strRetire core stream
    let d := subMod 32 tail retire
    if subMod 32 (s.strTail core stream) retire ≤ d ∧ d ≤ s.ringSize core stream then
      (s.fset rf_corStreamTail_tail core stream tail).wakeStream core stream
    else s.fset rf_corStreamCtl_doorbellError core stream 1

def execDoorbell (core : Fin 64) (value : Word) (s : State) : Host.Outcome State Fault Refusal :=
  done (s.regAccess (domCore core) .sapwood ⟨.corDoorbell, core, 0⟩ value (doorbell core value.toNat))

/-- The next descriptor the core would fetch: past the window and past what issued beyond it (R111, R113). -/
def State.fetchNext (s : State) (core stream : Nat) : Nat :=
  let issue := s.strIssue core stream
  w32 (issue + (s.window core stream).foldl (fun a g => max a (subMod 32 g.n issue + g.far + 1)) 0)

/-- A descriptor cannot be fetched: a record with opcode 0 and tag 0, and the stream stops (R128). -/
def State.fetchFails (s : State) (p core stream n st ev : Nat) : State :=
  (s.writeCpl p core stream n (cplBytes 0 st 0 0 (phaseBit s core stream n) stream ev s.tick s.tick 0)).stopStream core stream st

/-- Fetches descriptor n (R109 to R111); a fault is recorded before the stream stops (R343). -/
def State.fetchOne (s : State) (p core stream n : Nat) : Bool × State :=
  let r : XReq := { p := p, kind := 0, unit := core, pinned := true }
  let va := s.fget rf_corStreamBase_ringBase core stream * 4096 + 128 * (n % s.ringSize core stream)
  match s.ownE (readLocal r va 128) with
  | (.ok bs, s) =>
    let f : Fetched := ⟨n, bs, none, false, 0, (s.flights.filter (·.core = core)).map fun g => (g.stream, g.n)⟩
    (true, s.setWindow core stream (s.window core stream ++ [f]))
  | (.error (.fault c v w a _), s) =>
    let (reported, s) := s.faultOwed p r { noFlight with core := core, stream := stream, n := n } c v w a (.fetch core stream n)
    (false, if reported then s.fetchFails p core stream n stFault (faultEvent c) else s)
  | (.error .uncorr, s) => (false, s.fetchFails p core stream n stUncorr 0x3002)
  | (.error (.asleep d), s) => (false, (s.asleepEvent d (some p) 0).fetchFails p core stream n stAsleep 0x8005)
  | (.error (.held d), s) => (false, s.holdAccess d)
  | (.error _, s) => (false, s)

/-- Fetches ahead until 8 descriptors from issue on are fetched, the tail is reached, or a fetch stops (R111). -/
def State.fetchAhead (s : State) (p core stream : Nat) : Nat → State
  | 0 => s
  | k + 1 =>
    let n := s.fetchNext core stream
    if subMod 32 n (s.strIssue core stream) < 8 ∧ n ≠ s.strTail core stream ∧ s.strState core stream = ssRunning
        ∧ ¬ s.streamHeld p core stream then
      let (ok, s) := s.fetchOne p core stream n
      if ok then s.fetchAhead p core stream k else s
    else s

def execDescriptorFetch (core : Fin 64) (stream : Fin 3) (s : State) : Host.Outcome State Fault Refusal :=
  done (match s.partOf core with
    | some p => if s.admits p ∧ s.awake (domCore core) then s.fetchAhead p core stream 8 else s
    | none => s)

/-- A deferrable descriptor is ready apart from its deferral: what the defer_limit counts (R113). -/
def State.readyToDefer (s : State) (core stream : Nat) (f : Fetched) : Bool :=
  hDeferrable f.bytes && s.ready core stream f

/-- The deferral of a descriptor ready for defer_limit microseconds ends (R113). -/
def execDeferLimitExpire (core : Fin 64) (stream : Fin 3) (n : BitVec 32) (s : State) :
    Host.Outcome State Fault Refusal :=
  let limit := us (s.fget rf_corStreamCtl_deferLimit core stream)
  done (s.setWindow core stream ((s.window core stream).map fun f =>
    match f.ready with
    | some t => if f.n = n.toNat ∧ hDeferrable f.bytes ∧ s.since t limit then { f with expired := true } else f
    | none => f))

/-- COR_STREAM_CTL.enable written 1 (R130). -/
def streamEnable (core stream : Nat) (s : State) : State :=
  -- a core that failed its self-test stays disabled until the next cold boot (R522)
  if s.age.dead.any fun f => match f with
      | .core k => k.val = core
      | _ => false then s
  else
  let s := s.fset rf_corStreamCtl_enable core stream 1
  if s.strState core stream = ssDisabled then (s.setStr core stream ssIdle).wakeStream core stream else s

def ctlWord (s : State) (core stream : Nat) (enable restart : Bool) : Word :=
  BitVec.ofNat 64 (insBits (insBits (s.reg .corStreamCtl core stream).toNat 0 0 (b2n enable)) 2 2 (b2n restart))

def execStreamEnable (core : Fin 64) (stream : Fin 3) (s : State) : Host.Outcome State Fault Refusal :=
  done (s.regAccess (domCore core) .sapwood ⟨.corStreamCtl, core, stream⟩ (ctlWord s core stream true false)
    (streamEnable core stream))

/-- Notes that a function's drain began at a tick (R131). -/
def State.startDrain (s : State) (f : Func) : State :=
  s.withDrains (s.drains.filter (·.1 ≠ f) ++ [(f, s.tick)])

/-- The stream stops admitting and drains; with nothing in flight it is DISABLED at once (R130, R131). -/
def State.drainStream (s : State) (core : Fin 64) (stream : Fin 3) : State :=
  let st := s.strState core stream
  if st = ssIdle ∨ st = ssRunning ∨ st = ssHalted ∨ st = ssStopped then
    ((s.setStr core stream ssDraining).startDrain (.stream core stream)).afterComplete core stream
  else s

/-- COR_STREAM_CTL.enable written 0 (R130, R131); while the partition is being pre-empted or is saved the request waits
(R133). -/
def streamDisable (core : Fin 64) (stream : Fin 3) (s : State) : State :=
  let s := s.fset rf_corStreamCtl_enable core stream 0
  match s.partOf core with
  | some p =>
    if s.admits p then s.drainStream core stream
    else
      let q := s.part p
      s.setPart p { q with deferred := q.deferred ++ [.stream core stream] }
  | none => s.drainStream core stream

def execStreamDisable (core : Fin 64) (stream : Fin 3) (s : State) : Host.Outcome State Fault Refusal :=
  -- a disable of a function of a sleeping domain is a wake event and is not held (R492); a running test is waited for (R521)
  done (if s.testHeld (domCore core) then
      s.regAccess (domCore core) .sapwood ⟨.corStreamCtl, core, stream⟩ (ctlWord s core stream false false) id
    else if s.awake (domCore core) then streamDisable core stream s
    else streamDisable core stream (s.wakeEvent (domCore core)))

/-- COR_STREAM_CTL.restart written 1 (R130): issue resumes with the oldest descriptor that had not issued. -/
def streamRestart (core stream : Nat) (s : State) : State :=
  let st := s.strState core stream
  if st = ssStopped ∨ st = ssHalted then (s.setStr core stream ssRunning).afterComplete core stream else s

def execStreamRestart (core : Fin 64) (stream : Fin 3) (s : State) : Host.Outcome State Fault Refusal :=
  done (s.regAccess (domCore core) .sapwood ⟨.corStreamCtl, core, stream⟩
    (ctlWord s core stream (s.fbit rf_corStreamCtl_enable core stream) true) (streamRestart core stream))

/-- A write of COR_STREAM_BASE: log2_size, which a reserved encoding leaves (R4), and in DISABLED the ring's base, where it
also zeroes issue, retire and tail (R130, R141). -/
def streamBase (core stream : Nat) (v : Nat) (s : State) : State :=
  let lg := bits v 4 0
  let s := if 4 ≤ lg ∧ lg ≤ 16 then s.fset rf_corStreamBase_log2Size core stream lg else s
  if s.strState core stream = ssDisabled then
    let s := s.fset rf_corStreamBase_ringBase core stream (bits v 47 12)
    let s := s.setWindow core stream []
    (s.setReg .corStreamHead core stream 0).setReg .corStreamTail core stream 0
  else s

def execStreamBaseWrite (core : Fin 64) (stream : Fin 3) (value : Word) (s : State) :
    Host.Outcome State Fault Refusal :=
  done (s.regAccess (domCore core) .sapwood ⟨.corStreamBase, core, stream⟩ value (streamBase core stream value.toNat))

/-- A write of a token counter (R122). Each hardware increment is a command of its own, so none falls in the same
cycle and none is lost. -/
def tokenWrite (core : Nat) (cluster : Bool) (t v : Nat) (s : State) : State :=
  if cluster then (if t < 64 then s.fset rf_corClusterToken_value core t (bits v 31 0) else s)
  else s.fset rf_corToken_value core t (bits v 31 0)

def execTokenWrite (core : Fin 64) (cluster : Bool) (t : Fin 256) (value : Word) (s : State) :
    Host.Outcome State Fault Refusal :=
  let d := if cluster then domCluster (clusterOf core) else domCore core
  done (s.regAccess d .sapwood ⟨if cluster then .corClusterToken else .corToken, core, t⟩ value
    (tokenWrite core cluster t value.toNat))

/-! ### SYN and CTL descriptors (R124, R125) -/

/-- The four further waits of SYN.WAIT hold (R125). -/
def State.synWaits (s : State) (core : Nat) (d : List Byte) : Bool :=
  (List.range 4).all fun i => s.tokWait core (fld d (16 + 8 * i) 2) (fld d (20 + 8 * i) 4)

def synWaitLegal (_ : State) (d : List Byte) : Bool :=
  (List.range 4).all (fun i => !badWait (fld d (16 + 8 * i) 2) && zeroBytes d (18 + 8 * i) 2) && zeroBytes d 48 80

def synSignalLegal (_ : State) (d : List Byte) : Bool :=
  (List.range 4).all (fun i =>
    let t := fld d (16 + 8 * i) 2
    let a := fld d (20 + 8 * i) 4
    !badSignal t && zeroBytes d (18 + 8 * i) 2 && (t = 0xFFFF || (1 ≤ a && a ≤ 0x7FFFFFFF))) && zeroBytes d 48 80

def synFenceLegal (_ : State) (d : List Byte) : Bool := fldB d 16 7 1 = 0 && zeroBytes d 17 111

def synStepLegal (_ : State) (d : List Byte) : Bool :=
  let m := fld d 16 1
  let a := fld d 20 4
  3 ≤ m && m ≤ 7 && 1 ≤ a && a ≤ 0x7FFFFFFF && zeroBytes d 17 3 && zeroBytes d 24 104

def ctlLegal (_ : State) (d : List Byte) : Bool := zeroBytes d 16 112

/-- SYN.WAIT waits until its four further tokens are satisfied. -/
def synWaitRun : Eng Unit := do
  let r ← get
  if r.s.synWaits r.fl.core r.fl.bytes then return () else stop .await

def nothing : Eng Unit := return ()

def execSynWait (core : Fin 64) (stream : Fin 3) (n : BitVec 32) (s : State) : Host.Outcome State Fault Refusal :=
  done (s.issueDesc core stream n.toNat (isOp 0xA0) always synWaitLegal synWaitRun)

def execSynSignal (core : Fin 64) (stream : Fin 3) (n : BitVec 32) (s : State) : Host.Outcome State Fault Refusal :=
  done (s.issueDesc core stream n.toNat (isOp 0xA1) always synSignalLegal nothing)

def execSynFence (core : Fin 64) (stream : Fin 3) (n : BitVec 32) (s : State) : Host.Outcome State Fault Refusal :=
  done (s.issueDesc core stream n.toNat (isOp 0xA2) always synFenceLegal nothing)

def execSynStep (core : Fin 64) (stream : Fin 3) (n : BitVec 32) (s : State) : Host.Outcome State Fault Refusal :=
  done (s.issueDesc core stream n.toNat (isOp 0xA3) always synStepLegal nothing)

def execCtlNop (core : Fin 64) (stream : Fin 3) (n : BitVec 32) (s : State) : Host.Outcome State Fault Refusal :=
  done (s.issueDesc core stream n.toNat (isOp 0xF0) always ctlLegal nothing)

def execCtlHalt (core : Fin 64) (stream : Fin 3) (n : BitVec 32) (s : State) : Host.Outcome State Fault Refusal :=
  done (s.issueDesc core stream n.toNat (isOp 0xF1) always ctlLegal nothing)

end Sys2Proof.Machine
end

