-- ==== Sys2Proof/Machine/Solver.lean ====
section
/-! DEFINITION. The solver unit (R181 to R224): its queue and deadlines, the result slots and their publication, and the
commands of the SLV group. -/
namespace Sys2Proof.Machine

open Eng

/-! ### Result slots (R205, R206) -/

-- Fields of a result slot record.
def slBuf (b : List Byte) (i : Nat) : Nat := fld b (8 * i) 8
def slGeneration (b : List Byte) : Nat := fld b 16 8
def slHeld (b : List Byte) : Bool := fldBit b 24 1
def slCurrent (b : List Byte) : Nat := fldB b 24 0 0
def slNext (b : List Byte) : Nat := fldB b 25 1 0
def slKind (b : List Byte) : Nat := fldB b 26 0 0
def slLayer (b : List Byte) : Nat := fld b 28 2
def slInfo (b : List Byte) (i : Nat) : List Byte := slice b (32 + 32 * i) 32
def slInfoN (b : List Byte) (i : Nat) : Nat := fld (slInfo b i) 28 4
def slInfoRetries (b : List Byte) (i : Nat) : Nat := fldB (slInfo b i) 25 3 0

def slEmpty : Nat := 0
def slWriting : Nat := 1
def slReady : Nat := 2
def slDiscarded : Nat := 3

/-- Byte 24 of a record. -/
def slByte24 (stale held : Bool) (current : Nat) : Nat := 4 * b2n stale + 2 * b2n held + current % 2

/-- Address of a layer's entry in the layer statistics table (R242). -/
def State.statsAddr (s : State) (p layer : Nat) : Nat := s.fget rf_strStatsBase_base p * 128 + 128 * layer

/-- Changes a layer's statistics entry on the module's own account (R206, R242, R580). -/
def State.statsUpdate (s : State) (p layer off n : Nat) (f : List Byte → Nat) : State :=
  let a := s.statsAddr p layer
  match s.accountRead p stStats a 128 with
  | (some e, s) => s.accountWrite p stStats (a + off) (leBytes n (f e))
  | (none, s) => s

/-- The stale indication of a layer (R206). -/
def State.statsStale (s : State) (p layer : Nat) (v : Bool) : State :=
  s.statsUpdate p layer 54 1 fun e => (fld e 54 1 &&& 0xFE) ||| b2n v

/-- One of 0x6003 to 0x6006 was raised on a slot of the layer (R242). -/
def State.statsEvent (s : State) (p layer : Nat) : State :=
  s.statsUpdate p layer 48 4 fun e => w32 (fld e 48 4 + 1)

/-- A publish on a slot of the layer whose result raised none of those events (R242). -/
def State.statsPublish (s : State) (p layer : Nat) : State :=
  s.statsUpdate p layer 52 2 fun e => satBits 16 (fld e 52 2 + 1)

/-! ### What a computing descriptor keeps in its flight -/

def sxDeadline : Nat := 0
/-- 0 queued or entering the queue, 1 selected, 2 started. -/
def sxStage : Nat := 1
def sxOutcome : Nat := 2
def sxA : Nat := 3
def sxKind : Nat := 4
def sxLayer : Nat := 5
def sxNextIdx : Nat := 6
def sxNextBuf : Nat := 7
def sxFtz : Nat := 8
def sxTau32 : Nat := 9
def sxTau64 : Nat := 10
def sxRetryMax : Nat := 11
def sxShift : Nat := 12
def sxResidual : Nat := 13
def sxIters : Nat := 14
/-- The attempt, from 0. -/
def sxRetries : Nat := 15
/-- Pivots replaced so far, over all attempts: below the threshold, and zero. -/
def sxSmall : Nat := 16
def sxZero : Nat := 17
/-- The tick at which the attempt began, its λ and the dmax found, as FP64 bits. -/
def sxTick : Nat := 18
def sxLambda : Nat := 19
def sxDmax : Nat := 20
/-- What the unit does next, and the flags of the attempt, which count when it ends. -/
def sxDoes : Nat := 21
def sxFlags : Nat := 22
/-- How the attempt ends: 0 with a result, 1 abandoned, 2 at max_iter. -/
def sxEnd : Nat := 23
/-- Points passed, and points in all (R209, R210). -/
def sxPos : Nat := 24
def sxPoints : Nat := 25
/-- The descriptor has entered the queue. -/
def sxQueued : Nat := 26
/-- From here on: the attempt's points, five numbers each, and the result's codes. -/
def sxData : Nat := 27

-- What a started descriptor does next.
def sdPrepare : Nat := 0
def sdBegin : Nat := 1
def sdWork : Nat := 2
def sdResult : Nat := 3
def sdInfo : Nat := 4
def sdEnd : Nat := 5

def Flight.sx (fl : Flight) (i : Nat) : Nat := fl.aux.getD i 0
def setSx (i v : Nat) : Eng Unit := modF fun fl => { fl with aux := fl.aux.set i v }

/-- Pivots replaced over all attempts (R195). -/
def Flight.pivots (fl : Flight) : Nat := fl.sx sxSmall + fl.sx sxZero

-- Outcomes of R203, R204.
def ocReady : Nat := 0
def ocUnstable : Nat := 1
def ocLimit : Nat := 2
def ocDeadline : Nat := 3
def ocNonfinite : Nat := 4
def ocStopped : Nat := 5

def isSlv (d : List Byte) : Bool := 0x80 ≤ hOpcode d && hOpcode d ≤ 0x85

/-! ### Layout checks (R213 to R215) -/

def slvA (d : List Byte) : TRef := tref d 16
def slvB (d : List Byte) : TRef := tref d 40
def slvR (d : List Byte) : TRef := tref d 64
def slvAAux (d : List Byte) : Nat := fld d 88 8
def slvSlot (d : List Byte) : Nat := fld d 96 8
def slvDeadline (d : List Byte) : Nat := fld d 104 8
def slvLambda (d : List Byte) : Nat := fld d 112 4
def slvEps (d : List Byte) : Nat := fld d 116 4
def slvMode (d : List Byte) : Nat := fldB d 120 7 6
def slvFromSlot (d : List Byte) : Bool := fldBit d 120 5
def slvMaxIter (d : List Byte) : Nat := fld d 121 1
def slvCtlB (d : List Byte) : Nat := fld d 122 1

def slvLegal (_ : State) (d : List Byte) : Bool :=
  let op := hOpcode d
  let a := slvA d
  let b := slvB d
  let r := slvR d
  let n := a.rows
  let tri : Bool := op = 0x82 || op = 0x83
  let iter : Bool := op = 0x84 || op = 0x85
  trefOk d 16 true && trefOk d 64 true && r.addr = 0 && a.layout = 2 && asmFmt a.fmt && r.fmt = a.fmt
    && n ≤ (if op = 0x85 then 512 else 8192) && (op ≠ 0x84 || a.fmt = cFP32)
    && (if op = 0x82 then r.rows = b.rows && r.cols = b.cols && r.layout ≤ 1
        else if op = 0x85 then r.rows = n && r.cols = n + 1 && r.layout = 1
        else r.rows = n && r.cols = n && r.layout = 2)
    && (if op = 0x82 then trefOk d 40 && b.layout ≤ 1 && b.fmt = a.fmt
          && (if bit (slvCtlB d) 2 then b.cols = n && b.rows ≤ 8192 else b.rows = n && b.cols ≤ 8192)
        else if op = 0x84 then trefOk d 40 && b.layout = 0 && b.fmt = cFP32 && b.rows = 4 * n && b.cols = n
        else zeroBytes d 40 24)
    && slvSlot d < 2 ^ 48 && slvSlot d % 128 = 0 && slvAAux d < 2 ^ 48
    && (!tri || ((slvFromSlot d && a.addr = 0 && slvAAux d % 128 = 0) || (!slvFromSlot d && slvAAux d = 0)))
    && (tri || !slvFromSlot d) && (if tri then slvLambda d = 0 else nonNeg32 (slvLambda d))
    && (if iter then nonNeg32 (slvEps d) else slvEps d = 0)
    && (if op = 0x84 then slvMaxIter d ≤ 64 else if op = 0x85 then slvMaxIter d ≤ 32 else slvMaxIter d = 0)
    && slvMode d ≠ 3 && fldB d 120 4 0 = 0 && zeroBytes d 123 5
    && slvCtlB d < (if op = 0x81 then 2 else if op = 0x82 then 8 else if op = 0x83 then 2 else if op = 0x84 then 4 else 1)

def publishLegal (_ : State) (d : List Byte) : Bool :=
  let a := fld d 16 8
  a ≠ 0 && a < 2 ^ 48 && a % 128 = 0 && fldB d 24 7 1 = 0 && zeroBytes d 25 103

/-! ### Events, stale layers and the end of a descriptor -/

/-- An event of a solver descriptor (R224), counted for its layer where it is one of 0x6003 to 0x6006 (R242). -/
def slvEvent (code aux : Nat) : Eng Unit := do
  let fl ← getF
  let p ← Eng.part
  Eng.event code aux (← hdrEpoch p)
  if fl.sx sxKind = 1 ∧ 0x6003 ≤ code ∧ code ≤ 0x6006 then modS fun s => s.statsEvent p (fl.sx sxLayer)

/-- The deadline of a descriptor has passed. -/
def Flight.late (fl : Flight) (s : State) : Bool := fl.sx sxDeadline ≤ s.tick

/-- The descriptor ends DEADLINE (R183, R185). -/
def slvLate {α : Type} : Eng α := do
  slvEvent 0x6003 0
  setSx sxOutcome ocDeadline
  stop (.status stDeadline 0)

/-- Sets or clears stale in a slot of kind 1 and in its layer's statistics (R206). -/
def State.slotStale (s : State) (q : XReq) (slot layer : Nat) (v : Bool) : State :=
  let s := (s.own (do
    let b := leNat (← readLocal q (slot + 24) 1)
    writeLocal q (slot + 24) (leBytes 1 ((b &&& 0xFB) ||| 4 * b2n v)))).2
  s.statsStale q.p layer v

/-- Releases the cluster's lattices (R184). -/
def State.releaseLattices (s : State) (cluster : Nat) : State :=
  (List.range 4).foldl (fun s k => (s.solverDrops (4 * cluster + k)).syncLat (4 * cluster + k)) s

/-- An event that a computing descriptor raises as it completes (R195, R224). -/
def State.slvRaise (s : State) (p : Nat) (fl : Flight) (code n : Nat) : State × Flight :=
  if n = 0 then (s, fl)
  else (s.raise code p ⟨1, fl.core, hTag fl.bytes, n, widenEpoch (s.epoch p) (hEpoch fl.bytes)⟩, { fl with event := code })

/-- A slot that is WRITING becomes DISCARDED (R206). -/
def slotDiscard (q : XReq) (slot : Nat) : Eng Unit := do
  if leNat (← readLocal q (slot + 25) 1) % 4 = slWriting then writeLocal q (slot + 25) (leBytes 1 slDiscarded)

/-- What the completion of a computing descriptor does to its slot, and the events and counts of its pivots and its end (R195, R203,
R204, R206, R223). -/
def State.slvDone (s : State) (fl : Flight) (st : Nat) : State × Flight :=
  if isSlv fl.bytes ∧ st ≠ stIllegal ∧ fl.aux ≠ [] then
    let p := s.partOfFlight fl
    let c := clusterOf fl.core
    let q := fl.req p
    let oc := if st = stDone ∨ st = stDoneFlags ∨ st = stDeadline then fl.sx sxOutcome else ocStopped
    let slot := slvSlot fl.bytes
    let s := if fl.sx sxStage = 2 ∧ oc ≠ ocReady then
        let s := (s.own (slotDiscard q slot)).2
        if fl.sx sxKind = 1 ∧ oc ≠ ocStopped then s.slotStale q slot (fl.sx sxLayer) true else s
      else if oc = ocDeadline ∧ fl.sx sxKind = 1 then s.slotStale q slot (fl.sx sxLayer) true
      else s
    let s := if oc = ocReady then s.count .slvCount c 1 else if oc = ocDeadline then s.count .slvCount c 2 else s
    let (s, fl) := s.slvRaise p fl 0x6001 (fl.sx sxSmall)
    let (s, fl) := s.slvRaise p fl 0x6002 (fl.sx sxZero)
    (s, { fl with detail := ((fl.pivots % 2 ^ 32) <<< 32) + ((fl.sx sxIters % 256) <<< 24)
      + ((fl.sx sxRetries % 4) <<< 8) + oc })
  else (s, fl)

/-! ### The stages of a computing descriptor -/

/-- The checks that need memory, at issue, and the entry into the queue (R182, R207, R215). The deadline runs from the issue on
(R186). -/
def slvEnqueue : Eng Unit := do
  let fl ← getF
  let q ← Eng.req
  let d := fl.bytes
  let op := hOpcode d
  let a := slvA d
  if fl.aux = [] then
    let dl := if slvMode d = 0 then slvDeadline d else if slvMode d = 1 then fl.startTick + slvDeadline d else 2 ^ 64 - 1
    modF fun f => { f with aux := [dl, 0, ocStopped] ++ List.replicate (sxData - 3) 0 }
  checkScales q ([a, slvR d] ++ if op = 0x82 ∨ op = 0x84 then [slvB d] else [])
  let rec0 ← readVA q (slvSlot d) 128
  let bufs := [slBuf rec0 0, slBuf rec0 1]
  if slNext rec0 = slWriting ∨ bufs.any (fun b => !va48 b 64) ∨ (slKind rec0 = 1 ∧ 16383 < slLayer rec0) then
    stop (.status stIllegal 0)
  setSx sxKind (slKind rec0)
  setSx sxLayer (slLayer rec0)
  let aAddr ← if slvFromSlot d then do
      let src ← readVA q (slvAAux d) 128
      let buf := slBuf src (slCurrent src)
      if slInfoN src (slCurrent src) = 0 ∨ slInfoN src (slCurrent src) ≠ a.rows ∨ ¬ va48 buf 64 then
        stop (.status stIllegal 0)
      pure buf
    else do
      if slvAAux d ≠ 0 then let _ ← readHeader q (slvAAux d)
      pure a.addr
  if op = 0x84 then
    let w := (slvB d).extent
    if overlap w a.extent || overlap w (runOf (slvSlot d) 128)
        || bufs.any (fun b => overlap w ({ slvR d with addr := b }).extent) then stop (.status stIllegal 0)
  setSx sxA aAddr
  setSx sxQueued 1
  stop .queued

/-- The descriptor starts: its slot goes to WRITING, a held publish is dropped, and the unit latches its control
registers (R206). -/
def slvStart : Eng Unit := do
  let fl ← getF
  let q ← Eng.req
  let slot := slvSlot fl.bytes
  if fl.late (← getS) then slvLate
  let b ← readVA q slot 128
  let nxt := 1 - slCurrent b
  writeLocals q [(slot + 16, leBytes 8 (w64 (slGeneration b + 1))),
    (slot + 24, leBytes 2 (slByte24 (fldBit b 24 2) false (slCurrent b) + 256 * slWriting)),
    (slot + 60 + 32 * nxt, leBytes 4 0)]
  if slHeld b then
    slvEvent 0x6007 0
    modS fun s =>
      let x := s.part q.p
      s.setPart q.p { x with heldPubs := x.heldPubs.filter (·.2 ≠ slot) }
  let s ← getS
  let c := clusterOf fl.core
  setSx sxNextIdx nxt
  setSx sxNextBuf (slBuf b nxt)
  setSx sxFtz (s.fget rf_slvNumCtl_ftz c)
  setSx sxTau32 (s.fget rf_slvPivotTau_tau32Exp c)
  setSx sxTau64 (s.fget rf_slvPivotTau_tau64Exp c)
  setSx sxRetryMax (s.fget rf_slvRetryMax_retryMax c)
  setSx sxStage 2

/-- The unit asks for the cluster's lattices, and waits until it holds one (R59, R184). -/
def slvLattices : Eng Unit := do
  let fl ← getF
  let c := clusterOf fl.core
  let ks := (List.range 4).map (4 * c + ·)
  modS fun s => ks.foldl (fun s k =>
    if s.fget rf_corLatStatus_holder k = latSolver then s else s.fset rf_corLatStatus_solverWaiting k 0 1) s
  let s ← getS
  if ¬ ks.any (fun k => s.fget rf_corLatStatus_holder k = latSolver) then stop .await

/-- n free bytes. -/
def freeBytes (n : Nat) : Eng (List Byte) := do
  let ws ← mapE (List.range (ceilDiv n 8)) fun _ => draw
  return (ws.flatMap (leBytes 8)).take n

/-- The contents of a buffer become undefined, by writes of it (R199, R206). -/
def scramble (put : Nat → List Byte → Eng Unit) (t : TRef) : Eng Unit :=
  eachM t.extent fun (b, sp, n, l) => eachM (List.range n) fun i => do
    put (b + i * sp) (← freeBytes l)

/-- The tolerance of SLV.IROOT or SLV.EIGJ (R32, R198, R201). -/
def slvEpsilon (cls : NumClass) (d : List Byte) (default : Int) : FlM FV := do
  let e := dec32 (slvEps d)
  if e.isZero then return .fin false 1 default else enterHeld cls cFP32 e

/-- One attempt of a descriptor (R190 to R202). -/
def slvAttempt (cls : NumClass) (d : List Byte) (q : Quant) (a : List FV) (bcols : List (List FV)) : FlM Attempt := do
  let op := hOpcode d
  let c := (slvA d).fmt
  let n := (slvA d).rows
  let ctl := slvCtlB d
  if op = 0x80 then factorise cls c q false false n a
  else if op = 0x81 then factorise cls c q true (bit ctl 0) n a
  else if op = 0x82 then
    -- X·op(U) = B is op(U)ᵀ·Xᵀ = Bᵀ
    let side := bit ctl 2
    let xs ← trsm cls c (bit ctl 0) (if side then !bit ctl 1 else bit ctl 1) n a bcols
    return ⟨if xs.all allFinite then some xs.flatten else none, false, solvePoints (bit ctl 0) n bcols.length, FV.zero⟩
  else if op = 0x83 then
    let xs ← trinv cls c (bit ctl 0) n a
    return ⟨if allFinite xs then some xs else none, false, solvePoints (bit ctl 0) n n, FV.zero⟩
  else if op = 0x84 then
    let eps ← slvEpsilon cls d (-12)
    iroot cls q (ctl % 4) (if slvMaxIter d = 0 then 32 else slvMaxIter d) eps n a
  else
    let eps ← slvEpsilon cls d (if c = cFP32 then -22 else -50)
    eigj cls c q (if slvMaxIter d = 0 then 16 else slvMaxIter d) eps n a

/-- The quantities of attempt k, and λₖ, from λ₀ or λₖ₋₁ (R190). SLV.TRSM and SLV.TRINV use none (R196, R197). -/
def slvQuant (cls : NumClass) (c k : Nat) (tau lam dmax : FV) : FlM (Quant × FV) := do
  let dmax ← rnd cls c (dmax, 0)
  let dmax := if dmax.isZero || !dmax.isFinite then FV.one else dmax
  let lam ← if k = 0 then enterHeld cls cFP32 lam else rnd cls c ((fvMax lam tau).scale2 4, 0)
  return (⟨← fMul cls c lam dmax, ← fMul cls c tau dmax, ← fMul cls c (fvMax lam tau) dmax⟩, lam)

/-- The columns of TRSM's right-hand side as op(U) meets them: B's columns for side 0, B's rows for side 1 (R196). -/
def slvRhs (q : XReq) (cls : NumClass) (d : List Byte) (core : Nat) : Eng (List (List FV)) := do
  let b := slvB d
  let rows ← mapE (List.range b.rows) fun i => do
    let xs ← rowVals q core .mem b 0 i 0 b.cols
    num (xs.mapM (enterHeld cls b.fmt))
  if bit (slvCtlB d) 2 then return rows
  else return (List.range b.cols).map fun j => rows.map fun r => r.getD j FV.zero

/-- A solve or an inverse of a triangle. -/
def isTri (d : List Byte) : Bool := hOpcode d = 0x82 || hOpcode d = 0x83

/-- The started descriptor's input. -/
def Flight.slvIn (fl : Flight) : TRef := { slvA fl.bytes with addr := fl.sx sxA }

def Flight.slvClass (fl : Flight) : NumClass := .solver (fl.sx sxFtz ≠ 0)

/-- The descriptor ends with an outcome other than READY and DEADLINE (R203). -/
def slvFails (oc : Nat) : Eng Unit := do
  raiseFl flNV
  setSx sxOutcome oc
  setSx sxDoes sdEnd

/-- Before the first attempt: dmax is found, and an input that is not finite fails the descriptor (R190, R194). -/
def slvPrepare : Eng Unit := do
  let fl ← getF
  let q ← Eng.req
  let d := fl.bytes
  let a := fl.slvIn
  let cls := fl.slvClass
  -- a result slot is no remote page (R338)
  scramble (writeLocal q) { slvR d with addr := fl.sx sxNextBuf }
  if hOpcode d = 0x84 then scramble (writeVA q) (slvB d)
  if isTri d then setSx sxDoes sdBegin
  else
    let (bad, dmax) ← if slvAAux d ≠ 0 then do
        let h := matHdr (← readVA q (slvAAux d) 64)
        pure (h.nonfinite, h.dmax)
      else do
        let xs ← matElems q cls a ((List.range a.rows).map fun i => (i, i))
        pure (!allFinite xs, encIEEE fFP64 (xs.foldl (fun m x => fvMax m x.abs) FV.zero))
    if bad then
      slvEvent 0x6004 0
      slvFails ocNonfinite
    else
      setSx sxDmax dmax
      setSx sxDoes sdBegin

/-- An attempt begins: it reads the unchanged input (R193). What it gives is held with its points, and shows as they are passed. -/
def slvBegin : Eng Unit := do
  let fl ← getF
  let q ← Eng.req
  let d := fl.bytes
  let a := fl.slvIn
  let c := a.fmt
  let cls := fl.slvClass
  -- the reported flags are those of the last attempt (R203)
  modF fun f => { f with flags := 0 }
  let codes := unpack (fmtBits c) (packedCount a.rows) (← readVA q a.addr (packedCount a.rows * elemBytes c))
  let xs ← num (codes.mapM fun x => enterHeld cls c (decElem c x))
  let bcols ← if hOpcode d = 0x82 then slvRhs q cls d fl.core else pure []
  let k := fl.sx sxRetries
  let tau := FV.fin false 1 (-((if c = cFP32 then fl.sx sxTau32 else fl.sx sxTau64 : Nat) : Int))
  let lam := if k = 0 then dec32 (slvLambda d) else decIEEE fFP64 (fl.sx sxLambda)
  let (z, lam) ← if isTri d then pure (⟨FV.zero, FV.zero, FV.zero⟩, FV.zero)
    else num (slvQuant cls c k tau lam (decIEEE fFP64 (fl.sx sxDmax)))
  let r ← num (slvAttempt cls d z xs bcols)
  let r32 ← num (rnd cls cFP32 (r.residual, 0))
  let ys := (r.out.getD []).map (encElem c)
  let s ← getS
  let flags := (← getF).flags
  modF fun f => { f with
    flags := 0
    aux := f.aux.take sxData ++ (r.points.flatMap fun x => [x.dsu, x.small, x.zero, x.iters, b2n x.tile]) ++ ys }
  setSx sxShift (encIEEE fFP64 z.sigma)
  setSx sxResidual (enc32 r32)
  setSx sxIters 0
  setSx sxTick s.tick
  setSx sxLambda (encIEEE fFP64 lam)
  setSx sxFlags flags
  setSx sxEnd (if r.limit then 2 else if r.out.isNone then 1 else 0)
  setSx sxPos 0
  setSx sxPoints r.points.length
  setSx sxDoes sdWork

/-- A field of a point of the attempt. -/
def Flight.slvPoint (fl : Flight) (i k : Nat) : Nat := fl.sx (sxData + 5 * i + k)

/-- The codes of an attempt's result. -/
def Flight.slvCodes (fl : Flight) : List Nat := fl.aux.drop (sxData + 5 * fl.sx sxPoints)

/-- The work up to the attempt's next point (R209): an output tile on the lattices needs one (R184). -/
def slvPass : Eng Unit := do
  let fl ← getF
  let c := clusterOf fl.core
  let i := fl.sx sxPos
  if fl.slvPoint i 4 = 1 then slvLattices
  let small := fl.slvPoint i 1
  let none0 := fl.slvPoint i 2
  setSx sxSmall (fl.sx sxSmall + small)
  setSx sxZero (fl.sx sxZero + none0)
  setSx sxIters (fl.sx sxIters + fl.slvPoint i 3)
  setSx sxPos (i + 1)
  modS fun s => (s.count .slvCount c 5 (fl.slvPoint i 0)).count .slvCount c 3 (small + none0)

/-- The attempt has passed its last point: it has a result, or it is abandoned and another may begin (R193, R200). -/
def slvAttemptEnd : Eng Unit := do
  let fl ← getF
  let k := fl.sx sxRetries
  modF fun f => { f with flags := fl.sx sxFlags }
  if fl.sx sxEnd = 0 then setSx sxDoes sdResult
  else
    let limit : Bool := fl.sx sxEnd = 2
    slvEvent (if limit then 0x6006 else 0x6004) k
    let s ← getS
    let op := hOpcode fl.bytes
    if (op = 0x80 ∨ op = 0x81 ∨ op = 0x84) ∧ k < fl.sx sxRetryMax ∧ ¬ fl.late s
        ∧ s.tick - fl.sx sxTick ≤ fl.sx sxDeadline - s.tick then
      slvEvent 0x6005 (k + 1)
      modS fun s => s.count .slvCount (clusterOf fl.core) 4
      setSx sxRetries (k + 1)
      setSx sxDoes sdBegin
    else slvFails (if limit then ocLimit else ocUnstable)

/-- The pieces that write a result: packed or in layout 1 its elements stand in address order; the columns that TRSM
solved are B's columns for side 0 and its rows for side 1. -/
def slvPieces (d : List Byte) (r : TRef) (codes : List Nat) : List (Nat × List Byte) :=
  let e := elemBytes r.fmt
  if r.layout = 2 then [(r.addr, pack (8 * e) codes)]
  else
    let side : Bool := hOpcode d = 0x82 && bit (slvCtlB d) 2
    let len := if side then r.cols else r.rows
    (codes.zipIdx).map fun (x, k) =>
      let (i, j) := if side then (k / len, k % len) else (k % len, k / len)
      (r.elemAddr i j, leBytes e x)

/-- The result's information (R205). -/
def slvInfo (fl : Flight) (epoch : Nat) : List Byte :=
  leBytes 8 epoch ++ leBytes 8 (fl.sx sxShift) ++ leBytes 4 (fl.sx sxResidual) ++ leBytes 4 fl.pivots
    ++ leBytes 1 (hOpcode fl.bytes) ++ leBytes 1 ((slvR fl.bytes).fmt * 16 + fl.sx sxRetries % 16)
    ++ leBytes 1 (fl.sx sxIters) ++ leBytes 1 0 ++ leBytes 4 (slvA fl.bytes).rows

/-- The result is in memory, and then its slot becomes READY (R206). -/
def slvResult : Eng Unit := do
  let fl ← getF
  writeLocals (← Eng.req) (slvPieces fl.bytes { slvR fl.bytes with addr := fl.sx sxNextBuf } fl.slvCodes)
  setSx sxDoes sdInfo

def slvReady : Eng Unit := do
  let fl ← getF
  let q ← Eng.req
  let slot := slvSlot fl.bytes
  writeLocals q [(slot + 32 + 32 * fl.sx sxNextIdx, slvInfo fl (← hdrEpoch q.p)), (slot + 25, leBytes 1 slReady)]
  setSx sxOutcome ocReady
  setSx sxDoes sdEnd

/-- One piece of a started descriptor's work. The cycles it takes depend on when operands arrive, so SLV_COUNT[0] gains a free value
(R223). -/
def slvPiece : Eng Unit := do
  let fl ← getF
  let does := fl.sx sxDoes
  if does = sdPrepare then slvPrepare
  else if does = sdBegin then slvBegin
  else if does = sdWork then if fl.sx sxPos < fl.sx sxPoints then slvPass else slvAttemptEnd
  else if does = sdResult then slvResult
  else slvReady
  let n ← draw
  modS fun s => s.count .slvCount (clusterOf fl.core) 0 n

/-- Pieces until the descriptor ends, at most k. -/
def slvPieceRun : Nat → Eng Unit
  | 0 => return ()
  | k + 1 => do
    let before := (← getF).sx sxDoes
    if before = sdEnd then return ()
    unitOf slvPiece
    modF fun f => { f with rx := [], acks := [] }
    if (← getF).sx sxDoes ≠ sdEnd then pause (before = sdWork)
    slvPieceRun k

/-- More pieces than any descriptor has. -/
def slvPieceMax (d : List Byte) : Nat :=
  let n := (slvA d).rows
  let t := ceilDiv n 128 * (ceilDiv n 128 + 1)
  8 + 4 * (4 + n + ceilDiv n 256 * (ceilDiv n 64 + 128 + t) + 320 * t + 32 * (n + 1))

/-- A computing descriptor from where it stands. -/
def slvRun : Eng Unit := do
  let fl ← getF
  if fl.sx sxQueued = 0 then slvEnqueue
  else if fl.sx sxStage = 0 then stop .queued
  else if fl.sx sxStage = 1 then
    slvStart
    stop (.pause false)
  else
    if fl.late (← getS) then slvLate
    slvPieceRun (slvPieceMax fl.bytes)

/-! ### Publication (R206, R208, R214) -/

/-- A READY slot becomes current: one write of bytes 24 and 25, and stale cleared for its layer. -/
def flipSlot (q : XReq) (slot : Nat) (b : List Byte) : Eng Unit := do
  writeLocal q (slot + 24) (leBytes 2 (slByte24 false false (1 - slCurrent b) + 256 * slEmpty))
  if slKind b = 1 then
    modS fun s =>
      let s := s.statsStale q.p (slLayer b) false
      if slInfoRetries b (1 - slCurrent b) = 0 then s.statsPublish q.p (slLayer b) else s

def publishRun : Eng Unit := do
  let fl ← getF
  let q ← Eng.req
  let slot := fld fl.bytes 16 8
  let b ← readVA q slot 128
  if ¬ va48 (slBuf b 0) 64 ∨ ¬ va48 (slBuf b 1) 64 ∨ (slKind b = 1 ∧ 16383 < slLayer b) then stop (.status stIllegal 0)
  let drop := fun s : State =>
    let x := s.part q.p
    s.setPart q.p { x with heldPubs := x.heldPubs.filter (·.2 ≠ slot) }
  if slNext b ≠ slReady then Eng.event 0x6007 0 (← hdrEpoch q.p)
  else if fldBit fl.bytes 24 0 then
    writeLocal q (slot + 24) (leBytes 2 (slByte24 (fldBit b 24 2) false (slCurrent b) + 256 * slDiscarded))
    modS drop
  else if slKind b = 1 ∧ ((← getS).part q.p).held.contains (slLayer b) then
    writeLocal q (slot + 24) (leBytes 1 (slByte24 (fldBit b 24 2) true (slCurrent b)))
    modS fun s =>
      let x := (drop s).part q.p
      s.setPart q.p { x with heldPubs := x.heldPubs ++ [(slLayer b, slot)] }
  else
    flipSlot q slot b
    modS drop

/-- The hold of R11 ends for a layer: its held publishes take effect (R206). -/
def State.endHold (s : State) (p layer : Nat) : State :=
  let x := s.part p
  let mine := x.heldPubs.filter (·.1 = layer)
  let s := s.setPart p { x with held := x.held.filter (· ≠ layer), heldPubs := x.heldPubs.filter (·.1 ≠ layer) }
  mine.foldl (fun s (_, slot) =>
    (s.own (do
      let b ← readLocal (accountReq p) slot 128
      if slNext b = slReady ∧ slHeld b then flipSlot (accountReq p) slot b)).2) s

/-! ### The unit's status and the commands -/

/-- The unit's queue: descriptors that have issued and have not been selected (R182), and of those the ones that may be. -/
def State.slvWaiting (s : State) (c : Nat) : List Flight :=
  s.flights.filter fun f => clusterOf f.core = c && isSlv f.bytes && f.phase ≠ .done && f.sx sxStage = 0

def State.slvQueued (s : State) (c : Nat) : List Flight := (s.slvWaiting c).filter (·.phase = .solver)

/-- The descriptor that has the unit, until it completes (R183). -/
def State.slvRunning (s : State) (c : Nat) : Option Flight :=
  s.flights.find? fun f => clusterOf f.core = c && isSlv f.bytes && f.sx sxStage ≠ 0

/-- The unit works for its descriptor: it has not ended, and waits at no fault. -/
def Flight.slvWorks (fl : Flight) : Bool :=
  match fl.phase with
  | .done | .fault _ => false
  | _ => true

/-- SLV_UNIT_STATUS and SLV_RUN_DEADLINE follow the unit (R221, R222); one that does not work holds no lattice and asks for none
(R184). -/
def State.syncSlv (s : State) (c : Nat) : State :=
  let run := (s.slvRunning c).filter (·.phase ≠ .done)
  let s := if run.any Flight.slvWorks then s else s.releaseLattices c
  let held := (List.range 4).filter fun k => s.fget rf_corLatStatus_holder (4 * c + k) = latSolver
  let s := s.fset rf_slvUnitStatus_latticesHeld c 0 (held.foldl (fun a k => a + 2 ^ k) 0)
  let s := s.fset rf_slvUnitStatus_queueDepth c 0 (s.slvWaiting c).length
  match run with
  | none =>
    let s := [rf_slvUnitStatus_opcode, rf_slvUnitStatus_tag, rf_slvUnitStatus_stream, rf_slvUnitStatus_core,
      rf_slvUnitStatus_attempt, rf_slvUnitStatus_latticeWait, rf_slvUnitStatus_faultWait, rf_slvUnitStatus_busy].foldl
        (fun s f => s.fset f c 0 0) s
    s.fset rf_slvRunDeadline_deadline c 0 (2 ^ 64 - 1)
  | some f =>
    let s := s.fset rf_slvUnitStatus_opcode c 0 (hOpcode f.bytes)
    let s := s.fset rf_slvUnitStatus_tag c 0 (hTag f.bytes)
    let s := s.fset rf_slvUnitStatus_stream c 0 f.stream
    let s := s.fset rf_slvUnitStatus_core c 0 (f.core % 4)
    let s := s.fset rf_slvUnitStatus_attempt c 0 (f.sx sxRetries)
    let wait : Bool := held.isEmpty && (List.range 4).any fun k => s.fbit rf_corLatStatus_solverWaiting (4 * c + k)
    let s := s.fset rf_slvUnitStatus_latticeWait c 0 (b2n wait)
    let s := s.fset rf_slvUnitStatus_faultWait c 0 (b2n (match f.phase with | .fault _ => true | _ => false))
    let s := s.fset rf_slvUnitStatus_busy c 0 1
    s.fset rf_slvRunDeadline_deadline c 0 (min (2 ^ 64 - 1) (f.sx sxDeadline))

/-- A computing descriptor issues: the unit accepts it where it is enabled and its queue has room (R182, R216). -/
def State.issueSlv (s : State) (core stream n op : Nat) : State :=
  let c := clusterOf core
  (s.issueDesc core stream n (isOp op)
    (fun s _ => s.fbit rf_slvCtl_enable c && (s.slvWaiting c).length < 32) slvLegal slvRun).syncSlv c

def execSlvChol (core : Fin 64) (stream : Fin 3) (n : BitVec 32) (s : State) : Host.Outcome State Fault Refusal :=
  done (s.issueSlv core stream n.toNat 0x80)

def execSlvLdlt (core : Fin 64) (stream : Fin 3) (n : BitVec 32) (s : State) : Host.Outcome State Fault Refusal :=
  done (s.issueSlv core stream n.toNat 0x81)

def execSlvTrsm (core : Fin 64) (stream : Fin 3) (n : BitVec 32) (s : State) : Host.Outcome State Fault Refusal :=
  done (s.issueSlv core stream n.toNat 0x82)

def execSlvTrinv (core : Fin 64) (stream : Fin 3) (n : BitVec 32) (s : State) : Host.Outcome State Fault Refusal :=
  done (s.issueSlv core stream n.toNat 0x83)

def execSlvIroot (core : Fin 64) (stream : Fin 3) (n : BitVec 32) (s : State) : Host.Outcome State Fault Refusal :=
  done (s.issueSlv core stream n.toNat 0x84)

def execSlvEigj (core : Fin 64) (stream : Fin 3) (n : BitVec 32) (s : State) : Host.Outcome State Fault Refusal :=
  done (s.issueSlv core stream n.toNat 0x85)

def execSlvPublish (core : Fin 64) (stream : Fin 3) (n : BitVec 32) (s : State) : Host.Outcome State Fault Refusal :=
  done (s.issueDesc core stream n.toNat (fun d => isOp 0x86 d && !fldBit d 24 0) always publishLegal publishRun)

def execPublishDiscard (core : Fin 64) (stream : Fin 3) (n : BitVec 32) (s : State) :
    Host.Outcome State Fault Refusal :=
  done (s.issueDesc core stream n.toNat (fun d => isOp 0x86 d && fldBit d 24 0) always publishLegal publishRun)

/-- The queued descriptor with the earliest deadline, the first issued among equals (R183). -/
def earliest : List Flight → Option Flight
  | [] => none
  | f :: r => match earliest r with
    | none => some f
    | some g => if g.sx sxDeadline < f.sx sxDeadline then some g else some f

/-- The free unit selects a descriptor and starts it, or ends it DEADLINE (R183). -/
def execSolverSelect (cluster : Fin 16) (s : State) : Host.Outcome State Fault Refusal :=
  done (match s.partOfCluster cluster, s.slvRunning cluster, earliest (s.slvQueued cluster) with
    | some p, none, some fl =>
      if s.admits p ∧ s.awake (domCluster cluster) then
        (s.resumeWith { fl with aux := fl.aux.set sxStage 1 } slvRun).syncSlv cluster
      else s
    | _, _, _ => s)

/-- A descriptor of the unit whose deadline may end it: the one that it runs, or one that waits at a fault before the queue (R185,
R346). -/
def State.slvTimed (s : State) (c : Nat) : Option Flight :=
  match (s.slvRunning c).filter (·.phase ≠ .done) with
  | some fl => some fl
  | none => (s.slvWaiting c).find? fun f => f.late s && (match f.phase with | .fault _ => true | _ => false)

/-- The running descriptor's deadline has been reached, or that of one that waits at a fault: it ends DEADLINE (R185, R346), while
its domain sleeps once that is back in D0 (R493). -/
def execSolverDeadline (cluster : Fin 16) (s : State) : Host.Outcome State Fault Refusal :=
  done (match s.partOfCluster cluster, s.slvTimed cluster with
    | some p, some fl =>
      if fl.late s ∧ s.admits p ∧ s.domState (domCluster cluster) = 0 then
        let s := ((s.waitEnds fl).leaveFault p fl).dropRequests fl
        (s.resumeWith fl slvLate).syncSlv cluster
      else s
    | _, _ => s)

/-- The drain of a function whose request waits while its partition is pre-empted or saved (R133). -/
def State.deferOr (s : State) (p : Option Nat) (f : Func) (now : State → State) : State :=
  match p with
  | some p =>
    if s.admits p then now s
    else
      let x := s.part p
      s.setPart p { x with deferred := x.deferred ++ [f] }
  | none => now s

/-- SLV_CTL.enable written 0: the unit accepts nothing more and drains (R131, R212). -/
def solverDisable (c : Fin 16) (s : State) : State :=
  (s.fset rf_slvCtl_enable c 0 0).deferOr (s.partOfCluster c) (.solver c) (·.startDrain (.solver c))

def execSolverDisable (cluster : Fin 16) (s : State) : Host.Outcome State Fault Refusal :=
  -- a disable of a function of a sleeping domain is a wake event and is not held (R492); a running test is waited for (R521)
  let d := domCluster cluster
  done (if s.testHeld d then
      s.regAccess d .sapwood ⟨.slvCtl, cluster, 0⟩ (BitVec.ofNat 64 (insBits (s.reg .slvCtl cluster).toNat 0 0 0)) id
    else if s.awake d then solverDisable cluster s
    else solverDisable cluster (s.wakeEvent d))

/-- The solver unit takes a lattice; where it waited for one, its descriptor goes on (R59, R184). -/
def State.solverTakes (s : State) (core : Nat) : State :=
  let c := clusterOf core
  let s := (s.fset rf_corLatStatus_holder core 0 latSolver).fset rf_corLatStatus_solverWaiting core 0 0
  let s := match s.slvRunning c with
    | some fl => if fl.phase = Phase.awaiting then (s.waitEnds fl).goOn fl slvRun else s
    | none => s
  s.syncSlv c

/-- The waiting solver unit takes a lattice that nobody holds (R59, R184). -/
def execLatticeSolverGrant (core : Fin 64) (s : State) : Host.Outcome State Fault Refusal :=
  done (if s.fbit rf_corLatStatus_solverWaiting core ∧ s.fget rf_corLatStatus_holder core = latNone then s.solverTakes core
    else s)

end Sys2Proof.Machine
end

