-- ==== Sys2Proof/Machine/Update.lean ====
section
/-! DEFINITION. Parameter state and the update sweep (R225 to R253): staging, the journalled sweep with its roll-forward,
statistics, rollback, and the steering unit. -/
namespace Sys2Proof.Machine

open Eng

/-! ### Layer records (R225, R226) -/

structure LayerRec where
  master : Nat
  moment : Nat
  sketch : Nat
  copy : Nat
  rows : Nat
  cols : Nat
  staging : Nat
  gradient : Nat
  slotG : Nat
  slotA : Nat
  eta : Nat
  beta1 : Nat
  beta2 : Nat
  epsilon : Nat
  decay : Nat
  gradFmt : Nat
  copyFmt : Nat
  damp : Bool
  graft : Bool
  precond : Bool
  scale : Nat
  firstChunk : Nat
deriving DecidableEq, Repr

def layerRec (b : List Byte) : LayerRec :=
  ⟨fld b 0 8, fld b 8 8, fld b 16 8, fld b 24 8, fld b 32 4, fld b 36 4, fld b 40 8, fld b 48 8, fld b 56 8, fld b 64 8,
    fld b 72 4, fld b 76 4, fld b 80 4, fld b 84 4, fld b 88 4, fldB b 92 7 4, fldB b 92 3 0, fldBit b 93 2, fldBit b 93 1,
    fldBit b 93 0, fld b 94 2, fld b 96 4⟩

namespace LayerRec

def n (r : LayerRec) : Nat := r.rows * r.cols

/-- Chunks of the record (R226). -/
def chunkCount (r : LayerRec) : Nat := max (ceilDiv r.n 262144) (ceilDiv (r.rows + r.cols) 16384)

/-- Parameters [a, b) of chunk j. -/
def params (r : LayerRec) (j : Nat) : Nat × Nat := (min r.n (262144 * j), min r.n (262144 * (j + 1)))

/-- Sketch values [a, b) of chunk j. -/
def sketchVals (r : LayerRec) (j : Nat) : Nat × Nat :=
  (min (r.rows + r.cols) (16384 * j), min (r.rows + r.cols) (16384 * (j + 1)))

/-- Addresses of the staging region's parts (R231). -/
def dAddr (r : LayerRec) : Nat := r.staging + 64
def r1Addr (r : LayerRec) : Nat := r.staging + roundUp (64 + 4 * r.n) 64
def c1Addr (r : LayerRec) : Nat := r.staging + roundUp (roundUp (64 + 4 * r.n) 64 + 4 * r.rows) 64

/-- The record's own fields keep R225. -/
def legal (r : LayerRec) (b : List Byte) : Bool :=
  let pos := fun x => (dec32 x).isFinite && !(dec32 x).isZero && x < 2 ^ 31
  let unit := fun x => fvLe FV.zero (dec32 x) && fvLe (dec32 x) FV.one
  let top := if r.precond then 8192 else 16777216
  [r.master, r.moment, r.sketch, r.copy, r.staging, r.gradient, r.slotG, r.slotA].all (· < 2 ^ 48)
    && r.master % 64 = 0 && r.staging % 64 = 0
    && 1 ≤ r.rows && r.rows ≤ top && 1 ≤ r.cols && r.cols ≤ top
    && pos r.eta && unit r.beta1 && unit r.beta2 && pos r.epsilon && nonNeg32 r.decay
    && r.gradFmt ≤ cFP16 && [cBF16, cE4M3, cE5M2].contains r.copyFmt
    && fldB b 93 7 3 = 0 && zeroBytes b 100 28

/-- The compute copy as a tensor. -/
def copyRef (r : LayerRec) : TRef := ⟨r.copy, r.rows, r.cols, r.cols * elemBytes r.copyFmt, r.copyFmt, 0, r.scale⟩

end LayerRec

def State.layerAddr (s : State) (p i : Nat) : Nat := s.fget rf_strLayerBase_base p * 128 + 128 * i

/-- Layer record i as a descriptor reads it. -/
def readLayer (q : XReq) (i : Nat) : Eng (List Byte) := do readVA q ((← getS).layerAddr q.p i) 128

/-- The result slot of one side of a record: the current buffer's index, address, order and format (R207). -/
def slotNow (q : XReq) (slot : Nat) : Eng (Nat × Nat × Nat × Nat × Nat) := do
  let b ← readVA q slot 128
  let i := slCurrent b
  return (slKind b, i, slBuf b i, slInfoN b i, fldB (slInfo b i) 25 7 4)

/-- The record's slots hold what R225 asks for: kind 1, and roots of the record's sides. -/
def slotsOk (q : XReq) (r : LayerRec) : Eng Bool := do
  if ¬ r.precond then return true
  let (kg, _, _, ng, _) ← slotNow q r.slotG
  let (ka, _, _, na, _) ← slotNow q r.slotA
  return kg = 1 && ka = 1 && ng = r.rows && na = r.cols

/-- The current buffers of a record's slots, as a descriptor resolves them at issue (R207). -/
def slotBufs (q : XReq) (r : LayerRec) : Eng (List Nat) := do
  if ¬ r.precond then return [0, 0]
  let (_, bg, _, _, _) ← slotNow q r.slotG
  let (_, ba, _, _, _) ← slotNow q r.slotA
  return [bg, ba]

/-- Two chunk ranges share no chunk. -/
def chunksApart (a b : LayerRec) : Bool :=
  a.firstChunk + a.chunkCount ≤ b.firstChunk || b.firstChunk + b.chunkCount ≤ a.firstChunk

/-- Layer record i of the table as the module finds it on its own account; an absent record has rows 0. -/
def State.layerAt (s : State) (p i : Nat) : Option LayerRec :=
  match (s.own (readLocal (accountReq p) (s.layerAddr p i) 128)).1 with
  | some b => if (layerRec b).rows = 0 then none else some (layerRec b)
  | none => none

/-- The layer records of the partition's table. -/
def State.layerTable (s : State) (p : Nat) : List (Nat × LayerRec) :=
  (List.range 16384).filterMap fun i => (s.layerAt p i).map fun r => (i, r)

/-- A record's chunks overlap those of no other record of the table (R226). -/
def State.chunksFree (s : State) (p i : Nat) (r : LayerRec) : Bool :=
  (s.layerTable p).all fun (k, x) => k = i || chunksApart r x

-- Ranges of UPD descriptors (R245).
def updFirst (d : List Byte) : Nat := fld d 16 2
def updCount (d : List Byte) : Nat := fld d 18 2
def updRange (d : List Byte) : List Nat := rangeFrom (updFirst d) (updFirst d + updCount d)

/-- The records of a descriptor's range; it completes ILLEGAL where one breaks R225 or R226. -/
def readRange (q : XReq) (d : List Byte) : Eng (List (Nat × LayerRec)) := do
  let rs ← mapE (updRange d) fun i => do
    let b ← readLayer q i
    let r := layerRec b
    if ¬ r.legal b then stop (.status stIllegal 0)
    if ¬ (← slotsOk q r) then stop (.status stIllegal 0)
    return (i, r)
  let s ← getS
  if ¬ rs.all (fun (i, r) => s.chunksFree q.p i r) then stop (.status stIllegal 0)
  return rs

/-! ### The arithmetic of R229 and R230 -/

def tAdd (a b : FV) : FlM FV := fAdd .tensor cFP32 a b
def tMul (a b : FV) : FlM FV := fMul .tensor cFP32 a b
def tDiv (a b : FV) : FlM FV := fDiv .tensor cFP32 a b

/-- A constant of a record. -/
def cst (x : Nat) : FlM FV := enterHeld .tensor cFP32 (dec32 x)

/-- ‖x‖² in FP64, in an open order (R27). -/
def norm64 (xs : List FV) : FlM FV := do
  let sq ← xs.mapM fun x => fMul (.solver false) cFP64 x x
  fSumFree (.solver false) cFP64 sq

/-- The Frobenius norm in FP32, in an open order (R27). -/
def frob32 (xs : List FV) : FlM FV := do
  let sq ← xs.mapM fun x => tMul x x
  fSqrt .tensor cFP32 (← fSumFree .tensor cFP32 sq)

/-- m1 of one element. -/
def moment1 (b1 m g : FV) : FlM FV := do
  let c ← tAdd FV.one b1.neg
  let x ← tAdd (← tMul b1 m) (← tMul c g)
  FlM.ofPair (roundTo .tensor cBF16 .rne x)

/-- A row or column sum of the new sketch from its old value and its gradients. -/
def sketch1 (b2 old : FV) (gs : List FV) : FlM FV := do
  let sq ← gs.mapM fun g => tMul g g
  let c ← tAdd FV.one b2.neg
  tAdd (← tMul b2 old) (← tMul c (← fSumFree .tensor cFP32 sq))

/-- Gradient elements as ĝ (R229). -/
def ghatOf (fmt : Nat) (ls : Int) (codes : List Nat) : FlM (List FV) :=
  codes.mapM fun c => do
    let v ← enterHeld .tensor fmt (decElem fmt c)
    rnd .tensor cFP32 (v.scale2 (-ls), 0)

/-- Parameters [a, b) of ĝ. -/
def readGhat (q : XReq) (r : LayerRec) (ls : Int) (a b : Nat) : Eng (List FV) := do
  let e := elemBytes r.gradFmt
  let bs ← readVA q (r.gradient + e * a) (e * (b - a))
  num (ghatOf r.gradFmt ls (unpack (8 * e) (b - a) bs))

def read32 (q : XReq) (va n : Nat) : Eng (List FV) := do
  let bs ← readVA q va (4 * n)
  num ((unpack 32 n bs).mapM fun c => enterHeld .tensor cFP32 (dec32 c))

def readBF (q : XReq) (va n : Nat) : Eng (List FV) := do
  return (unpack 16 n (← readVA q va (2 * n))).map (decElem cBF16)

def bytes32 (xs : List FV) : List Byte := pack 32 (xs.map enc32)
def bytesBF (xs : List FV) : List Byte := pack 16 (xs.map (encElem cBF16))

/-- A root as a full matrix of FP32 rows, from its packed triangle. -/
def readRoot (q : XReq) (addr n fmt : Nat) : Eng (List (List FV)) := do
  let e := elemBytes fmt
  let codes := unpack (8 * e) (packedCount n) (← readVA q addr (packedCount n * e))
  let xs ← num (codes.mapM fun c => do rnd .tensor cFP32 (← enterHeld .tensor fmt (decElem fmt c), 0))
  return (List.range n).map fun i => (List.range n).map fun j =>
    xs.getD (packedIdx n (min i j) (max i j)) FV.zero

/-- A product on the lattice in FP32; the order of a cell's additions is open (R27). -/
def product (a b : List (List FV)) (cols : Nat) : FlM (List (List FV)) :=
  a.mapM fun row => (List.range cols).mapM fun j => do
    let terms ← freeOrder row.length (row.zip (b.map fun r => r.getD j FV.zero))
    terms.foldlM (fun acc (x, y) => fFma .tensor cFP32 x y acc) FV.zero

/-- What the computation of a direction gives. -/
structure Direction where
  d : List FV
  graft : FV
  clip : FV
  clipped : Bool
  fallback : Bool
  nonfinite : Bool
  norm2 : FV
deriving DecidableEq, Repr

/-- How a direction is clipped: by a factor given, or by the rule with the entry's w_norm2 (FP64) and clip. -/
inductive Clip where
  | factor (f : FV)
  | rule (wNorm2 clip : FV) (enable : Bool)
deriving DecidableEq, Repr

/-- The direction of a record from m1, r1 and c1 (R230). -/
def direction (r : LayerRec) (roots : Option (List (List FV) × List (List FV))) (m1 r1 c1 : List FV) (cl : Clip) :
    FlM Direction := do
  let tot ← fSumFree .tensor cFP32 r1
  let eps ← cst r.epsilon
  let a ← ((List.range r.rows).zip r1).mapM fun (i, ri) => c1.zipIdx.mapM fun (cj, j) => do
    let v ← if tot.isZero then pure FV.zero else do tDiv (← tMul ri cj) tot
    tDiv (m1.getD (i * r.cols + j) FV.zero) (← tAdd (← fSqrt .tensor cFP32 v) eps)
  let a := a.flatten
  let u ← match roots with
    | none => pure a
    | some (rg, ra) => do
      let x ← product rg (pieces r.cols r.rows m1) r.cols
      pure (← product x ra r.cols).flatten
  let s ← if r.graft then do
      let fu ← frob32 u
      if fu.isZero then pure FV.zero else tDiv (← frob32 a) fu
    else pure FV.one
  let bad : Bool := !(u.all (·.isFinite)) || !s.isFinite
  let d0 ← if bad then pure a else u.mapM (tMul s)
  let nf : Bool := !(d0.all (·.isFinite))
  let d1 := if nf then d0.map fun _ => FV.zero else d0
  let (f, clipped) ← match cl with
    | .factor f => pure (f, false)
    | .rule w c en => do
      if en && fvLt FV.zero c && fvLt FV.zero w then
        let k ← tDiv (← tMul (← cst r.eta) (← frob32 d1)) (← rnd .tensor cFP32 (fvSqrt w))
        if fvLt c k then pure (← tDiv c k, true) else pure (FV.one, false)
      else pure (FV.one, false)
  let d2 ← if f = dec32 0x3F800000 ∨ f = FV.one then pure d1 else d1.mapM (tMul f)
  return ⟨d2, s, f, clipped, bad, nf, ← norm64 d2⟩

/-! ### Staging (R230 to R232) -/

-- Fields of a staging header (R231).
def shEpoch (b : List Byte) : Nat := fld b 0 8
def shGNorm (b : List Byte) : Nat := fld b 8 8
def shDNorm (b : List Byte) : Nat := fld b 16 8
def shClip (b : List Byte) : Nat := fld b 28 4
def shBufG (b : List Byte) : Nat := fldB b 32 0 0
def shBufA (b : List Byte) : Nat := fldB b 33 0 0
def shPoisoned (b : List Byte) : Bool := fldBit b 34 3
def shNonfinite (b : List Byte) : Bool := fldBit b 34 2
def shFallback (b : List Byte) : Bool := fldBit b 34 1
def shValid (b : List Byte) : Bool := fldBit b 34 0

/-- The 64 bytes of a valid staging header. -/
def stagingHeader (e : Nat) (gn : FV) (d : Direction) (bg ba : Nat) (poisoned : Bool) : List Byte :=
  leBytes 8 e ++ leBytes 8 (encIEEE fFP64 gn) ++ leBytes 8 (encIEEE fFP64 d.norm2) ++ leBytes 4 (enc32 d.graft)
    ++ leBytes 4 (enc32 d.clip) ++ leBytes 1 bg ++ leBytes 1 ba
    ++ leBytes 1 (8 * b2n poisoned + 4 * b2n d.nonfinite + 2 * b2n d.fallback + 1) ++ List.replicate 29 0

/-- The roots of a record in the buffers named (R207). -/
def readRoots (q : XReq) (r : LayerRec) (bg ba : Nat) : Eng (Option (List (List FV) × List (List FV))) := do
  if ¬ r.precond then return none
  let g ← readVA q r.slotG 128
  let a ← readVA q r.slotA 128
  let rg ← readRoot q (slBuf g bg) r.rows (fldB (slInfo g bg) 25 7 4)
  let ra ← readRoot q (slBuf a ba) r.cols (fldB (slInfo a ba) 25 7 4)
  return some (rg, ra)

/-- The clipping rule of R230 for a record, with its statistics entry as it stands. -/
def clipRule (q : XReq) (i : Nat) : Eng Clip := do
  let s ← getS
  let e ← readVA q (s.statsAddr q.p i) 128
  return .rule (decIEEE fFP64 (fld e 8 8)) (dec32 (fld e 44 4)) (s.fbit rf_strCtl_clipEnable q.p)

/-- The record's gradient carries bucket poison of an epoch (R232). -/
def State.gradPoisoned (s : State) (p e : Nat) (r : LayerRec) : Bool :=
  (s.poisonedLines p e).any fun (a, n) => a < r.gradient + elemBytes r.gradFmt * r.n && r.gradient < a + n

/-- The events of a direction (R253), and the count of clipped records. -/
def noteDirection (p i e : Nat) (d : Direction) (events : Bool) : Eng Unit := do
  if events then
    if d.fallback then Eng.event 0x7005 i e
    if d.nonfinite then Eng.event 0x7006 i e
    if d.clipped then Eng.event 0x7004 i e
  if d.clipped then modS fun s => s.count .strCount p 3

/-- Clears valid in a record's staging header, before anything of the record is written (R232). -/
def clearValid (q : XReq) (r : LayerRec) : Eng Unit := do
  let b ← readVA q (r.staging + 34) 1
  writeVA q (r.staging + 34) (leBytes 1 (leNat b &&& 0xFE))

/-- Stages a record whose valid bit is clear (R230 to R232). -/
def stageRecord (q : XReq) (i e : Nat) (r : LayerRec) (bg ba : Nat) (events : Bool) : Eng Unit := do
  let s ← getS
  let ls := s.lossExp q.p e
  let g ← readGhat q r ls 0 r.n
  let m ← readBF q r.moment r.n
  let sk ← read32 q r.sketch (r.rows + r.cols)
  let roots ← readRoots q r bg ba
  let cl ← clipRule q i
  let (m1, r1, c1, gn) ← num do
    let b1 ← cst r.beta1
    let b2 ← cst r.beta2
    let m1 ← (m.zip g).mapM fun (m, g) => moment1 b1 m g
    let gr := pieces r.cols r.rows g
    let r1 ← ((sk.take r.rows).zip gr).mapM fun (x, gs) => sketch1 b2 x gs
    let c1 ← ((sk.drop r.rows).zipIdx).mapM fun (x, j) => sketch1 b2 x (gr.map fun row => row.getD j FV.zero)
    return (m1, r1, c1, ← norm64 g)
  let d ← num (direction r roots m1 r1 c1 cl)
  writeAll q [(r.dAddr, bytes32 d.d), (r.r1Addr, bytes32 r1), (r.c1Addr, bytes32 c1)]
  writeVA q r.staging (stagingHeader e gn d bg ba (s.gradPoisoned q.p e r))
  noteDirection q.p i e d events

/-- A hold of R11 begins for the layers of a range. -/
def State.beginHold (s : State) (p : Nat) (layers : List Nat) : State :=
  let x := s.part p
  s.setPart p { x with held := x.held ++ layers.filter fun i => !x.held.contains i }

def updReserved (d : List Byte) : Bool := 1 ≤ updCount d && updFirst d + updCount d ≤ 16384

def stageLegal (_ : State) (d : List Byte) : Bool := updReserved d && zeroBytes d 20 108

/-- 128 × 128 output tiles of the two products of a record's direction (R247). -/
def productTiles (r : LayerRec) : Nat := if r.precond then 2 * (ceilDiv r.rows 128 * ceilDiv r.cols 128) else 0

/-- A part of a record's staging: the start of the record, a tile of its products, or its end. -/
inductive StagePart where
  | start
  | tile
  | finish
deriving DecidableEq, Repr

/-- The parts of a descriptor's work, each with the number of its record in the range. What the products give shows in the
staging region only at the record's end, where it is computed. -/
def stageParts : Nat → List Nat → List (Nat × StagePart)
  | k, _ :: _ :: tiles :: rest => ((k, .start) :: List.replicate tiles (k, .tile)) ++ (k, .finish) :: stageParts (k + 1) rest
  | _, _ => []

/-- UPD.STAGE: its flight keeps whether a record was poisoned and, for each record, the buffers resolved at issue and the
number of product tiles. Its pre-emption points are its record boundaries and the tile boundaries (R247). -/
def stageRun : Eng Unit := do
  let fl ← getF
  let q ← Eng.req
  let d := fl.bytes
  let e ← hdrEpoch q.p
  if fl.aux.isEmpty then
    let rs ← readRange q d
    let bufs ← mapE rs fun (_, r) => do return (← slotBufs q r) ++ [productTiles r]
    modS (·.beginHold q.p (updRange d))
    modF fun f => { f with aux := 0 :: bufs.flatten }
  let a := (← getF).aux
  let work := stageParts 0 (a.drop 1)
  unitsAt work.length (fun n => return (work.map (·.2))[n - 1]? ≠ some .start) fun n => do
    match work[n]? with
    | none => return ()
    | some (k, part) =>
      let i := updFirst d + k
      match part with
      | .tile => return ()
      | .start => clearValid q (layerRec (← readLayer q i))
      | .finish =>
        let r := layerRec (← readLayer q i)
        let bad := (← getS).gradPoisoned q.p e r
        stageRecord q i e r (a.getD (1 + 3 * k) 0) (a.getD (2 + 3 * k) 0) true
        if bad then modF fun f => { f with aux := f.aux.set 0 1 }
  if (← getF).aux.headD 0 = 1 then stop (.status stPoisoned 0)

def execUpdStage (core : Fin 64) (stream : Fin 3) (n : BitVec 32) (s : State) : Host.Outcome State Fault Refusal :=
  done (s.issueDesc core stream n.toNat (isOp 0x90) always stageLegal stageRun)

/-! ### The chunk journal (R236) -/

-- Fields of a journal entry.
def jeEpoch (b : List Byte) : Nat := fld b 0 8
def jeClaimed (b : List Byte) : Bool := fldBit b 8 5
def jeUndoW (b : List Byte) : Bool := fldBit b 8 4
def jeUndoM (b : List Byte) : Bool := fldBit b 8 3
def jeState (b : List Byte) : Nat := fldB b 8 1 0

def jIdle : Nat := 0
def jMoments : Nat := 1
def jWeights : Nat := 2

def State.journalAddr (s : State) (p k : Nat) : Nat := s.fget rf_strJournalBase_base p * 128 + 16 * k
def State.undoAddr (s : State) (p k : Nat) : Nat := s.fget rf_strUndoBase_base p * 128 + 0x190000 * k

/-- Byte 8 of an entry. -/
def jeByte (claimed w m : Bool) (st : Nat) : Nat := 32 * b2n claimed + 16 * b2n w + 8 * b2n m + st

/-- Bytes 0 to 15 of an entry of a claimed chunk. -/
def jeBytes (e : Nat) (w m : Bool) (st layer j : Nat) : List Byte :=
  leBytes 8 e ++ leBytes 1 (jeByte true w m st) ++ [0] ++ leBytes 2 layer ++ leBytes 4 j

/-- The undo images of an epoch are released: it, or a later epoch, has reached its settled point (R237, R251). -/
def State.undoReleased (s : State) (p e : Nat) : Bool := (s.part p).hist.any fun h => h.settled && decide (e ≤ h.epoch)

/-- An entry relative to a sweep of epoch e: state, undo_m and undo_w (R236), which count as clear once released (R237). -/
def jeFor (b : List Byte) (e : Nat) (released : Bool) : Nat × Bool × Bool :=
  if jeEpoch b = e then (jeState b, jeUndoM b && !released, jeUndoW b && !released) else (jIdle, false, false)

def readEntry (q : XReq) (k : Nat) : Eng (List Byte) := do readVA q ((← getS).journalAddr q.p k) 16

/-- Chunks of a range of records. -/
def chunksOfRange (rs : List (Nat × LayerRec)) : List Nat :=
  rs.flatMap fun (_, r) => rangeFrom r.firstChunk (r.firstChunk + r.chunkCount)

/-- Claims chunks atomically (R234); any claimed chunk makes the descriptor ILLEGAL. -/
def claimChunks (q : XReq) (ks : List Nat) : Eng Unit := do
  let es ← mapE ks fun k => do return (k, ← readEntry q k)
  if es.any fun (_, b) => jeClaimed b then stop (.status stIllegal 0)
  let s ← getS
  writeAll q (es.map fun (k, b) => (s.journalAddr q.p k + 8, leBytes 1 (fld b 8 1 ||| 32)))

/-- The claims of these chunks end (R234), where their entries can be reached. -/
def State.endClaims (s : State) (p : Nat) (q : XReq) (ks : List Nat) : State :=
  ks.foldl (fun s k => (s.own (do
    let b ← readEntry q k
    writeVA q ((← getS).journalAddr p k + 8) (leBytes 1 (fld b 8 1 &&& 0xDF)))).2) s

/-! ### The committed sweep (R233 to R239) -/

/-- Verdict of an epoch that the partition has received, with 0 for COMMIT. -/
def State.verdictOf (s : State) (p e : Nat) : Option Nat := ((s.part p).hist.find? (·.epoch = e)).map (·.verdict)

/-- STR_SWEEP_STATUS follows the descriptors of the partition (R251). -/
def State.syncSweep (s : State) (p : Nat) : State :=
  let mine := s.flights.filter fun f => s.partOf f.core = some p && f.phase ≠ .done && !f.aux.isEmpty
  let sw := mine.filter fun f => hOpcode f.bytes = 0x91
  let s := s.fset rf_strSweepStatus_busy p 0 (b2n !sw.isEmpty)
  let s := s.fset rf_strSweepStatus_rollForward p 0 (b2n (sw.any fun f => f.aux.getD 3 0 = 1))
  s.fset rf_strSweepStatus_rollingBack p 0 (b2n (mine.any fun f => hOpcode f.bytes = 0x93))

-- What a sweep's flight keeps: 0 claimed; 1 the record it is at; 2 that record's stage (0 staging, 1 phase A, 2 phase B);
-- 3 the record is rolled forward; 4 bit 0 a new weight and bit 1 a new direction was not finite; 5 chunks found in
-- MOMENTS_WRITTEN; 6 the number of records found partly swept; then those records, two buffers for each record of the range,
-- and the chunks claimed.
def swRecord : Nat := 1
def swStage : Nat := 2
def swForward : Nat := 3
def swBad : Nat := 4
def swFound : Nat := 5
def swNum : Nat := 6
def swList : Nat := 7

/-- The records that a sweep found partly swept. -/
def swPartly (aux : List Nat) : List Nat := (aux.drop swList).take (aux.getD swNum 0)

/-- A buffer of a sweep's k-th record, resolved at issue (R207): side 0 of slot_g, side 1 of slot_a. -/
def swBuf (aux : List Nat) (k side : Nat) : Nat := aux.getD (swList + aux.getD swNum 0 + 2 * k + side) 0

/-- The chunks that a descriptor has claimed (R234). -/
def updClaims (d : List Byte) (aux : List Nat) : List Nat :=
  if hOpcode d = 0x91 then aux.drop (swList + aux.getD swNum 0 + 2 * updCount d) else aux.drop 1

def setAux (i v : Nat) : Eng Unit := modF fun f => { f with aux := f.aux.set i v }
def auxAt (i : Nat) : Eng Nat := do return (← getF).aux.getD i 0

/-- Phase A of a chunk: new moments and sketch slice from the old ones in undo (R233). -/
def phaseA (q : XReq) (e : Nat) (r : LayerRec) (j k : Nat) : Eng (List (Nat × List Byte)) := do
  let s ← getS
  let ls := s.lossExp q.p e
  let u := s.undoAddr q.p k
  let (a, b) := r.params j
  let (x, y) := r.sketchVals j
  let g ← readGhat q r ls a b
  let m ← readBF q (u + 0x100000) (b - a)
  let sk ← read32 q (u + 0x180000) (y - x)
  let gs ← mapE (rangeFrom x y) fun t => do
    if t < r.rows then readGhat q r ls (t * r.cols) ((t + 1) * r.cols)
    else
      let j := t - r.rows
      return (← mapE (List.range r.rows) fun i => readGhat q r ls (i * r.cols + j) (i * r.cols + j + 1)).flatten
  let (m1, sk1) ← num do
    let b1 ← cst r.beta1
    let b2 ← cst r.beta2
    return (← (m.zip g).mapM fun (m, g) => moment1 b1 m g, ← (sk.zip gs).mapM fun (o, g) => sketch1 b2 o g)
  return [(r.moment + 2 * a, bytesBF m1), (r.sketch + 4 * x, bytes32 sk1)]

/-- Parameters [a, b) of a tensor by row: the row and its columns with values. -/
def byRow (cols a : Nat) (xs : List FV) : List (Nat × List (Nat × FV)) :=
  let rows := (List.range ((a + xs.length - 1) / cols + 1 - a / cols)).map (a / cols + ·)
  if xs.isEmpty then [] else rows.map fun i =>
    (i, (xs.zipIdx.filter fun (_, t) => (a + t) / cols = i).map fun (v, t) => ((a + t) % cols, v))

/-- Phase B of a chunk: new masters from the old ones in undo, and the compute copy (R233). -/
def phaseB (q : XReq) (e layer : Nat) (r : LayerRec) (j k : Nat) (round : Bool) : Eng Unit := do
  let s ← getS
  let u := s.undoAddr q.p k
  let (a, b) := r.params j
  let wb ← readVA q u (4 * (b - a))
  let codes := unpack 32 (b - a) wb
  let d ← read32 q (r.dAddr + 4 * a) (b - a)
  let ws ← num do
    let eta ← cst r.eta
    let dec ← cst r.decay
    (codes.zip d).mapM fun (c, d) => do
      let w ← cst c
      tAdd w (← tMul (← tAdd d (← tMul dec w)) eta).neg
  let new := (codes.zip ws).map fun (c, w) => if w.isFinite then enc32 w else c
  writeVA q (r.master + 4 * a) (pack 32 new)
  if ws.any (!·.isFinite) then
    raiseFl flNV
    let bad ← auxAt swBad
    if bad % 2 = 0 then Eng.event 0x7006 layer e
    setAux swBad (bad ||| 1)
  let o ← outScale q r.copyRef
  eachM (byRow r.cols a ws) fun (i, cells) => do
    let fin := cells.filter fun (_, v) => v.isFinite
    if fin.isEmpty then return ()
    let (ps, seen) ← convertCells .tensor (fun _ => cFP32) r.copyRef o round i fin
    writeAll q ps
    eachM o.toList fun o => capture q r.copyRef o seen

/-- The next step of a chunk (R236). Where the epoch's undo flags no longer count (R237), a copy to undo and the phase that
starts from it are one step. -/
def chunkStep (q : XReq) (e layer : Nat) (r : LayerRec) (j : Nat) (round : Bool) : Eng Unit := do
  let k := r.firstChunk + j
  let s ← getS
  let u := s.undoAddr q.p k
  let ja := s.journalAddr q.p k
  let released := s.undoReleased q.p e
  let (st, um, uw) := jeFor (← readEntry q k) e released
  let (a, b) := r.params j
  let (x, y) := r.sketchVals j
  if st = jIdle then
    if ¬ um then
      let m ← readVA q (r.moment + 2 * a) (2 * (b - a))
      let sk ← readVA q (r.sketch + 4 * x) (4 * (y - x))
      writeAll q [(u + 0x100000, m), (u + 0x180000, sk)]
      writeVA q ja (jeBytes e false true jIdle layer j)
    if um ∨ released then
      let ws ← phaseA q e r j k
      writeAll q ws
      writeVA q ja (jeBytes e false true jMoments layer j)
  else if st = jMoments then
    if ¬ uw then
      let w ← readVA q (r.master + 4 * a) (4 * (b - a))
      writeVA q u w
      writeVA q ja (jeBytes e true (um || released) jMoments layer j)
    if uw ∨ released then
      phaseB q e layer r j k round
      writeVA q ja (jeBytes e true (um || released) jWeights layer j)
      modS fun s =>
        let s := s.count .strCount q.p 0
        s.fset rf_strSweepStatus_chunksDone q.p 0 (s.fget rf_strSweepStatus_chunksDone q.p + 1)

/-- One chunk's steps until it has reached a state (R236): at most two of each phase. The journal records each, and a
pre-emption point follows it (R238). -/
def advance (q : XReq) (e layer : Nat) (r : LayerRec) (j : Nat) (round : Bool) (goal : Nat) : Nat → Eng Unit
  | 0 => return ()
  | f + 1 => do
    let (st, _, _) := jeFor (← readEntry q (r.firstChunk + j)) e false
    if goal ≤ st then return ()
    unitThen (chunkStep q e layer r j round) true
    advance q e layer r j round goal f

/-- The record's new direction from its stored moments, into staging (R239). -/
def rollForward (q : XReq) (e layer : Nat) (r : LayerRec) (bg0 ba0 : Nat) : Eng Unit := do
  let s ← getS
  let h ← readVA q r.staging 64
  let good : Bool := shValid h && shEpoch h = e
  let (bg, ba) := if good then (shBufG h, shBufA h) else (bg0, ba0)
  let m1 ← readBF q r.moment r.n
  let sk ← read32 q r.sketch (r.rows + r.cols)
  let roots ← readRoots q r bg ba
  let cl ← if good then pure (Clip.factor (dec32 (shClip h))) else clipRule q layer
  let g ← readGhat q r (s.lossExp q.p e) 0 r.n
  let gn ← num (norm64 g)
  let d ← num (direction r roots m1 (sk.take r.rows) (sk.drop r.rows) cl)
  writeAll q [(r.dAddr, bytes32 d.d), (r.r1Addr, bytes32 (sk.take r.rows)), (r.c1Addr, bytes32 (sk.drop r.rows))]
  writeVA q r.staging (stagingHeader e gn d bg ba (good && shPoisoned h))
  noteDirection q.p layer e d true
  if d.nonfinite then setAux swBad ((← auxAt swBad) ||| 2)

/-- The record's statistics at the end of its sweep (R242). -/
def sweepStats (q : XReq) (e layer : Nat) (r : LayerRec) : Eng Unit := do
  let s ← getS
  let w1 ← mapE (List.range r.chunkCount) fun j => let (a, b) := r.params j; read32 q (r.master + 4 * a) (b - a)
  let w0 ← mapE (List.range r.chunkCount) fun j =>
    let (a, b) := r.params j
    read32 q (s.undoAddr q.p (r.firstChunk + j)) (b - a)
  let g ← readGhat q r (s.lossExp q.p e) 0 r.n
  let h ← readVA q r.staging 64
  let (wn, gn, dn) ← num do
    let dw ← (w1.flatten.zip w0.flatten).mapM fun (x, y) => fSub (.solver false) cFP64 x y
    return (← norm64 w1.flatten, ← norm64 g, ← norm64 dw)
  let a := s.statsAddr q.p layer
  let st ← readVA q (a + 54) 1
  let bad ← auxAt swBad
  writeAll q [(a, leBytes 8 e ++ leBytes 8 (encIEEE fFP64 wn) ++ leBytes 8 (encIEEE fFP64 gn)
      ++ leBytes 8 (encIEEE fFP64 dn)),
    (a + 54, leBytes 1 ((leNat st &&& 0xF9) + 4 * b2n (shClip h ≠ 0x3F800000) + 2 * b2n (bad ≠ 0)))]

/-- Every chunk of a record is at WEIGHTS_WRITTEN for an epoch. -/
def State.recordSwept (s : State) (p e : Nat) (r : LayerRec) : Bool :=
  (List.range r.chunkCount).all fun j =>
    match (s.own (readLocal (accountReq p) (s.journalAddr p (r.firstChunk + j)) 16)).1 with
    | some b => (jeFor b e false).1 = jWeights
    | none => false

/-- Sweep-done of an epoch (R235): reported to the manager once. -/
def State.sweepDone (s : State) (p e : Nat) : State :=
  if s.fbit rf_strSweepStatus_sweepDone p ∧ s.fget rf_strSweepStatus_epochLo p = e % 65536 then s
  else if (s.layerTable p).all fun (_, r) => s.recordSwept p e r then
    let s := (s.fset rf_strSweepStatus_sweepDone p 0 1).raise 0x7002 p ⟨8, p, 0, 0, e⟩
    let job := (s.part p).job
    s.mgmtSend p mtSweepDone job e s.manager (stepBody e job)
  else s

/-- STR_SWEEP_STATUS names the epoch of a sweep that begins. -/
def State.sweepBegins (s : State) (p e : Nat) : State :=
  if s.fget rf_strSweepStatus_epochLo p = e % 65536 then s
  else ((s.fset rf_strSweepStatus_epochLo p 0 e).fset rf_strSweepStatus_chunksDone p 0 0).fset rf_strSweepStatus_sweepDone p 0 0

/-- A module whose partition's table holds no record has nothing to sweep: it reports at the COMMIT (R235). -/
def State.sweepNone (s : State) (p e : Nat) : State :=
  if (s.layerTable p).isEmpty then (s.sweepBegins p e).sweepDone p e else s

/-- The staging of the record that a sweep comes to (R239): kept where it is valid for the epoch, else the record is staged
again. A record that is rolled forward keeps the number of its chunks in MOMENTS_WRITTEN. -/
def sweepStart (q : XReq) (e layer : Nat) (r : LayerRec) (rolled : Bool) (bg ba : Nat) : Eng Unit := do
  if rolled then
    let st ← mapE (List.range r.chunkCount) fun j => do return (jeFor (← readEntry q (r.firstChunk + j)) e false).1
    setAux swFound (countIf (· = jMoments) st)
    setAux swForward 1
  else
    let h ← readVA q r.staging 64
    if ¬ (shValid h ∧ shEpoch h = e) then
      clearValid q r
      stageRecord q layer e r bg ba false
  setAux swBad 0
  setAux swStage 1

/-- The end of a record's phase A: where the record is rolled forward, its direction is formed anew (R239). -/
def sweepMiddle (q : XReq) (e layer : Nat) (r : LayerRec) (rolled : Bool) (bg ba : Nat) : Eng Unit := do
  if rolled then
    rollForward q e layer r bg ba
    Eng.event 0x7001 layer ((satBits 16 (← auxAt swFound) <<< 48) + e % 2 ^ 48)
    modS fun s => s.count .strCount q.p 1
  setAux swStage 2

/-- A record's sweep from where it stands (R233, R239); k is the record's number in the range. The hold ends and sweep-done is
given once every chunk has reached WEIGHTS_WRITTEN (R235), before the record's statistics are written. -/
def sweepRecord (q : XReq) (e layer k : Nat) (r : LayerRec) (round : Bool) : Eng Unit := do
  let aux := (← getF).aux
  let rolled := (swPartly aux).contains layer
  let (bg, ba) := (swBuf aux k 0, swBuf aux k 1)
  let js := List.range r.chunkCount
  if (← auxAt swStage) = 0 then unitThen (sweepStart q e layer r rolled bg ba) false
  if (← auxAt swStage) = 1 then
    eachM js fun j => advance q e layer r j round jMoments 2
    unitThen (sweepMiddle q e layer r rolled bg ba) false
  if (← auxAt swStage) = 2 then
    eachM js fun j => advance q e layer r j round jWeights 2
    modS fun s => (s.endHold q.p layer).sweepDone q.p e
    setAux swStage 3
  unitOf (sweepStats q e layer r)
  modF fun f => { f with rx := [], acks := [] }
  setAux swForward 0
  setAux swStage 0
  setAux swRecord (k + 1)

def sweepLegal (_ : State) (d : List Byte) : Bool :=
  updReserved d && hStream d = 2 && fldB d 20 7 1 = 0 && zeroBytes d 21 107

def sweepRun : Eng Unit := do
  let fl ← getF
  let q ← Eng.req
  let d := fl.bytes
  let e ← hdrEpoch q.p
  if fl.aux.isEmpty then
    if (← getS).verdictOf q.p e ≠ some 0 then stop (.status stVoided 0)
    let rs ← readRange q d
    eachM rs fun (_, r) => do let _ ← scaleEntry q r.scale
    let found ← mapE rs fun (i, r) => do
      let st ← mapE (List.range r.chunkCount) fun j => do return (jeFor (← readEntry q (r.firstChunk + j)) e false).1
      return if st.any (· ≠ jIdle) then [i] else []
    let bufs ← mapE rs fun (_, r) => slotBufs q r
    let ks := chunksOfRange rs
    claimChunks q ks
    modF fun f => { f with aux := [1, 0, 0, 0, 0, 0, found.flatten.length] ++ found.flatten ++ bufs.flatten ++ ks }
    modS fun s => s.sweepBegins q.p e
  eachM (rangeFrom (← auxAt swRecord) (updCount d)) fun k => do
    let i := updFirst d + k
    sweepRecord q e i k (layerRec (← readLayer q i)) (fldBit d 20 0)
    if k + 1 < updCount d then pause false

/-- Every commit point of the partition has reached its settled point, or a rollback has undone it: markers 1 and 2 are equal
but for the commit points undone (R233, R317, assumption 142). -/
def State.commitsSettled (s : State) (p : Nat) : Bool :=
  let undone := countIf (fun h => h.committed && h.rolledBack && !h.settled) (s.part p).hist
  w32 (s.fget rf_prtStepMarker_value p 2 + undone) = s.fget rf_prtStepMarker_value p 1

/-- UPD.SWEEP may issue: its epoch's verdict has been received and every earlier commit point is settled (R233). -/
def State.sweepMay (s : State) (core : Nat) (d : List Byte) : Bool :=
  !sweepLegal s d || match s.partOf core with
    | some p => (s.verdictOf p (widenEpoch (s.epoch p) (hEpoch d))).isSome && s.commitsSettled p
    | none => false

/-- A UPD descriptor that claims chunks issues. -/
def State.issueClaim (s : State) (core stream n op : Nat) (may : State → List Byte → Bool)
    (legal : State → List Byte → Bool) (run : Eng Unit) : State :=
  match s.partOf core with
  | some p => (s.issueDesc core stream n (isOp op) may legal run).syncSweep p
  | none => s

def execUpdSweep (core : Fin 64) (stream : Fin 3) (n : BitVec 32) (s : State) : Host.Outcome State Fault Refusal :=
  done (s.issueClaim core stream n.toNat 0x91 (fun s d => s.sweepMay core d) sweepLegal sweepRun)

/-! ### Statistics (R246) -/

def statsLegal (_ : State) (d : List Byte) : Bool :=
  updReserved d && fldB d 20 7 1 = 0 && zeroBytes d 21 3 && va48 (fld d 24 8) 64 && zeroBytes d 32 96

/-- Sums and counts of a summary so far. -/
structure Summary where
  w : FV
  g : FV
  dw : FV
  ratio : FV
  stale : Nat
  clipped : Nat
  fallback : Nat
  nonfinite : Nat
  missing : Nat
deriving DecidableEq, Repr

def statsRun : Eng Unit := do
  let fl ← getF
  let q ← Eng.req
  let d := fl.bytes
  let e ← hdrEpoch q.p
  let src : Bool := fldBit d 20 0
  let cls : NumClass := .solver false
  let rs ← readRange q d
  units 1 fun _ => do
    let s ← getS
    let es ← mapE rs fun (i, r) => do
      return (r, ← readVA q (s.statsAddr q.p i) 128, ← if src then readVA q r.staging 64 else pure [])
    let z ← num (es.foldlM (fun (z : Summary) (r, t, h) => do
      if src ∧ ¬ (shValid h ∧ shEpoch h = e) then return { z with missing := z.missing + 1 }
      let w := decIEEE fFP64 (fld t 8 8)
      let eta ← cst r.eta
      let dw ← if src then do fMul cls cFP64 (← fMul cls cFP64 eta eta) (decIEEE fFP64 (shDNorm h))
        else pure (decIEEE fFP64 (fld t 24 8))
      let ratio ← if fvLt FV.zero w then do
          rnd .tensor cFP32 (← fDiv cls cFP64 (← fSqrt cls cFP64 dw) (← fSqrt cls cFP64 w), 0)
        else pure FV.zero
      let wSum ← if src then pure z.w else fAdd cls cFP64 z.w w
      return { z with
        w := wSum
        g := ← fAdd cls cFP64 z.g (decIEEE fFP64 (if src then shGNorm h else fld t 16 8))
        dw := ← fAdd cls cFP64 z.dw dw
        ratio := if fvLt z.ratio ratio then ratio else z.ratio
        stale := z.stale + b2n (fldBit t 54 0)
        clipped := z.clipped + b2n (if src then shClip h ≠ 0x3F800000 else fldBit t 54 2)
        fallback := z.fallback + b2n (src && shFallback h)
        nonfinite := z.nonfinite + b2n (if src then shNonfinite h else fldBit t 54 1) }) ⟨FV.zero, FV.zero, FV.zero,
          FV.zero, 0, 0, 0, 0, 0⟩)
    -- the statistics table keeps no record of 0x7005: with source 0 the number is a free value
    let fb ← if src then pure z.fallback else draw
    writeVA q (fld d 24 8) (leBytes 8 (encIEEE fFP64 z.w) ++ leBytes 8 (encIEEE fFP64 z.g)
      ++ leBytes 8 (encIEEE fFP64 z.dw) ++ leBytes 4 (enc32 z.ratio) ++ leBytes 4 z.stale ++ leBytes 4 z.clipped
      ++ leBytes 4 fb ++ leBytes 4 z.nonfinite ++ leBytes 4 z.missing ++ List.replicate 16 0)

def execUpdStats (core : Fin 64) (stream : Fin 3) (n : BitVec 32) (s : State) : Host.Outcome State Fault Refusal :=
  done (s.issueDesc core stream n.toNat (isOp 0x92) always statsLegal statsRun)

/-! ### Rollback (R240, R241) -/

def rollbackLegal (_ : State) (d : List Byte) : Bool :=
  updReserved d && hStream d = 2 && zeroBytes d 20 4 && zeroBytes d 32 96

/-- The compute copy of parameters [a, b), rewritten from masters without amax capture (R240). -/
def rewriteCopy (q : XReq) (r : LayerRec) (a : Nat) (codes : List Nat) : Eng Unit := do
  let o ← outScale q r.copyRef
  let ws := codes.map dec32
  eachM (byRow r.cols a ws) fun (i, cells) => do
    writeAll q (← convertCells .tensor (fun _ => cFP32) r.copyRef o false i cells).1
  eachM o.toList fun x => modF fun fl =>
    if !scaledFmt r.copyFmt || fl.scales.any (·.idx = x.idx) then fl
    else { fl with scales := fl.scales ++ [⟨x.idx, some x.bits, 0, false, false⟩] }

/-- The merges of conversions made outside a descriptor. -/
def storeOwnScales (q : XReq) : Eng Unit := do
  let fl ← getF
  eachM fl.scales fun c => mergeCapture q c
  modF fun f => { f with scales := [] }

/-- Restores one chunk of the target epoch (R240). -/
def restoreChunk (q : XReq) (t layer : Nat) (r : LayerRec) (j : Nat) : Eng Unit := do
  let k := r.firstChunk + j
  let s ← getS
  let u := s.undoAddr q.p k
  let b ← readEntry q k
  let (st, um, uw) := jeFor b t (s.undoReleased q.p t)
  if jeEpoch b ≠ t ∨ ¬ um then return ()
  let (x, y) := r.params j
  let (sx, sy) := r.sketchVals j
  let m ← readVA q (u + 0x100000) (2 * (y - x))
  let sk ← readVA q (u + 0x180000) (4 * (sy - sx))
  writeAll q [(r.moment + 2 * x, m), (r.sketch + 4 * sx, sk)]
  if st ≠ jIdle ∧ uw then
    let w ← readVA q u (4 * (y - x))
    writeVA q (r.master + 4 * x) w
    rewriteCopy q r x (unpack 32 (y - x) w)
  writeVA q (s.journalAddr q.p k) (jeBytes t false false jIdle layer j)
  modS fun s =>
    let s := s.count .strCount q.p 2
    if st = jWeights ∧ s.fget rf_strSweepStatus_epochLo q.p = t % 65536 then
      s.fset rf_strSweepStatus_chunksDone q.p 0 (s.fget rf_strSweepStatus_chunksDone q.p - 1)
    else s

/-- A record's statistics after a rollback. -/
def rollbackStats (q : XReq) (t layer : Nat) (r : LayerRec) : Eng Unit := do
  let w ← read32 q r.master r.n
  let wn ← num (norm64 w)
  let a := (← getS).statsAddr q.p layer
  writeAll q [(a, leBytes 8 t ++ leBytes 8 (encIEEE fFP64 wn)), (a + 24, leBytes 8 0)]

/-- The target epoch's sweep can be undone (R241). -/
def State.canRollBack (s : State) (p t : Nat) : Bool :=
  match (s.part p).hist.find? (·.epoch = t) with
  | some h => h.verdict = 0 && !h.settled
  | none => false

/-- The work of a rollback on records, in the reverse of a sweep's order: the chunks of each record from its last, then the
record's statistics. -/
def rollbackWork (rs : List (Nat × LayerRec)) : List (Nat × LayerRec × Option Nat) :=
  rs.reverse.flatMap fun (i, r) => ((List.range r.chunkCount).reverse.map fun j => (i, r, some j)) ++ [(i, r, none)]

/-- A piece of a rollback's work (R240). -/
def rollbackPiece (q : XReq) (t : Nat) : Nat × LayerRec × Option Nat → Eng Unit
  | (i, r, some j) => restoreChunk q t i r j
  | (i, r, none) => rollbackStats q t i r

/-- UPD.ROLLBACK: its pre-emption points are its steps on chunks (R240, R241). -/
def rollbackRun : Eng Unit := do
  let fl ← getF
  let q ← Eng.req
  let d := fl.bytes
  let t := fld d 24 8
  if fl.aux.isEmpty then
    if ¬ (← getS).canRollBack q.p t then stop (.status stIllegal 0)
    let rs ← readRange q d
    eachM rs fun (_, r) => do let _ ← scaleEntry q r.scale
    let ks ← mapE (chunksOfRange rs) fun k => do return if jeEpoch (← readEntry q k) = t then [k] else []
    claimChunks q ks.flatten
    modF fun f => { f with aux := 1 :: ks.flatten }
  let work := rollbackWork (← mapE (updRange d) fun i => do return (i, layerRec (← readLayer q i)))
  units work.length fun n => eachM (work[n]?).toList (rollbackPiece q t)
  Eng.event 0x7007 (updFirst d) t

/-- UPD.ROLLBACK may issue: no chunk of its range is claimed (R241). -/
def State.rollbackMay (s : State) (core : Nat) (d : List Byte) : Bool :=
  !rollbackLegal s d || match s.partOf core with
    | some p =>
      match (s.own (do
          let q := accountReq p
          let rs ← mapE (updRange d) fun i => do
            return (i, layerRec (← readLocal q (s.layerAddr p i) 128))
          mapE (chunksOfRange rs) fun k => do return jeClaimed (← readLocal q (s.journalAddr p k) 16))).1 with
      | some cs => !cs.any id
      | none => true
    | none => false

def execUpdRollback (core : Fin 64) (stream : Fin 3) (n : BitVec 32) (s : State) : Host.Outcome State Fault Refusal :=
  done (s.issueClaim core stream n.toNat 0x93 (fun s d => s.rollbackMay core d) rollbackLegal rollbackRun)

/-- What the completion of a UPD descriptor does to its claims (R234). -/
def State.updDone (s : State) (fl : Flight) : State :=
  let op := hOpcode fl.bytes
  if (op = 0x91 ∨ op = 0x93) ∧ ¬ fl.aux.isEmpty then
    let p := s.partOfFlight fl
    s.endClaims p (fl.req p) (updClaims fl.bytes fl.aux)
  else s

/-! ### The steering unit (R227, R228, R242 to R244) -/

/-- The next exponent and clean count by R228. `verdict` is 0 COMMIT, 1 SKIP, 2 REPEAT. -/
def lossNext (verdict : Nat) (ovf : Bool) (x : Int) (clean growth : Nat) (lo hi : Int) : Int × Nat :=
  if verdict = 1 ∧ ovf then (if lo ≤ x - 1 then x - 1 else x, 0)
  else if verdict = 0 ∧ !ovf then
    if growth ≤ clean + 1 then (if x + 1 ≤ hi then x + 1 else x, 0) else (x, clean + 1)
  else (x, clean)

/-- A number of eight bits, two's complement. -/
def enc8 (x : Int) : Nat := (x % 256).toNat

/-- The exponent in force for the next epoch is written (R228), with 0x7003 on a change. -/
def State.setLossScale (s : State) (p e : Nat) (new : Int) : State :=
  let old := sext 8 (s.fget rf_strLossScale_lsExp p)
  let x := s.part p
  let hist := if x.lossScale.any (·.1 = e) then x.lossScale else (e, s.lossExp p e) :: x.lossScale
  let s := (s.fset rf_strLossScale_lsExp p 0 (enc8 new)).setPart p { x with lossScale := (e + 1, new) :: hist }
  if new = old then s else s.raise 0x7003 p ⟨8, p, 0, 0, enc8 old + 256 * enc8 new⟩

/-- The staging of an epoch is discarded (R10): where a record's region holds it, valid is cleared. -/
def State.discardStaging (s : State) (p e : Nat) : State :=
  (s.layerTable p).foldl (fun s (_, r) => (s.own (do
    let q := accountReq p
    let h ← readLocal q r.staging 64
    if shValid h ∧ shEpoch h = e then
      writeLocal q (r.staging + 34) (leBytes 1 (fldB h 34 7 0 &&& 0xFE)))).2) s

/-- The steering unit at a verdict (R228): the verdict's choice, and the count of clean verdicts. -/
def State.steerVerdict (s : State) (p e verdict causes : Nat) (new : Int) : State :=
  let before := s.lossExp p e
  let x := s.part p
  let s := if x.lossScale.any (·.1 = e) then s else s.setPart p { x with lossScale := (e, before) :: x.lossScale }
  let (_, clean) := lossNext verdict (bit causes 0) (sext 8 (s.fget rf_strLossScale_lsExp p))
    (s.fget rf_strLossScale_cleanCount p) (s.fget rf_strLossScale_growthInterval p)
    (sext 8 (s.fget rf_strLossScale_minExp p)) (sext 8 (s.fget rf_strLossScale_maxExp p))
  (s.fset rf_strLossScale_cleanCount p 0 clean).setLossScale p e new

/-- The damping of one record at a settled point (R243). -/
def State.steerRecord (s : State) (p layer : Nat) : State :=
  let a := s.statsAddr p layer
  match s.accountRead p stStats a 128 with
  | (none, s) => s
  | (some e, s) =>
    let lam := dec32 (fld e 32 4)
    let lo := dec32 (fld e 36 4)
    let hi := dec32 (fld e 40 4)
    let up : Bool := fld e 48 4 ≠ 0
    let down : Bool := !up && s.fget rf_strCtl_relaxAfter p ≤ fld e 52 2
    let x := (roundTo (.solver false) cFP32 .rne (if up then lam.scale2 1 else if down then lam.scale2 (-1) else lam)).1
    let (y, clamped) := if fvLt hi x then (hi, true) else if fvLt x lo then (lo, true) else (x, false)
    let old := fld e 32 4
    let new := if x = lam ∧ !clamped then old else enc32 y
    let cr := if up || down then 0 else fld e 52 2
    let b54 := if new = old then fld e 54 1 else (fld e 54 1 &&& 0xF7) + 8 * b2n clamped
    match s.ownE (writeLocals (accountReq p) [(a + 32, leBytes 4 new), (a + 48, leBytes 4 0 ++ leBytes 2 cr ++ leBytes 1 b54)]) with
    | (.ok _, s) =>
      if new = old then s
      else s.raise 0x7008 p ⟨8, p, 0, layer + (b2n clamped <<< 31), old + (new <<< 32)⟩
    | (.error x, s) => s.tableFailed p stStats a (stopCause x)

/-- The steering unit at a settled point (R243). The count of solver events restarts for the records that it does not steer
too (R242). -/
def State.steerSettled (s : State) (p : Nat) : State :=
  (s.layerTable p).foldl (fun s (i, r) =>
    if r.damp ∧ s.fbit rf_strCtl_dampEnable p then s.steerRecord p i else s.statsUpdate p i 48 4 fun _ => 0) s

/-- The steering unit's part of STEP_READY (R244): g_norm2, flagged and stale records, the flags, and saturated scale
entries. -/
structure Steering where
  gNorm : Nat
  flagged : Nat
  stale : Nat
  flags : Nat
  saturated : Nat
deriving DecidableEq, Repr

def State.steering (s : State) (p e : Nat) : Steering × State :=
  let q := accountReq p
  let hs := (s.part p).held.filterMap fun i => match s.layerAt p i with
    | some r => match (s.own (readLocal q r.staging 64)).1 with
      | some h => if shValid h ∧ shEpoch h = e then some h else none
      | none => none
    | none => none
  let (gn, n) := (fSumFree (.solver false) cFP64 (hs.map fun h => decIEEE fFP64 (shGNorm h))).run ⟨0, s.free⟩
  let stale := countIf (fun (i, _) => match (s.own (readLocal q (s.statsAddr p i + 54) 1)).1 with
    | some b => bit (leNat b) 0
    | none => false) (s.layerTable p)
  (⟨encIEEE fFP64 gn, countIf (fun h => shPoisoned h || shFallback h || shNonfinite h) hs, stale,
    (s.coresOf p).foldl (fun a k => a ||| (s.reg .corFlags k).toNat) 0 % 2 ^ 29, (s.part p).saturated⟩,
   (s.withFree n.free))

end Sys2Proof.Machine
end

