-- ==== Sys2Proof/Machine/Manager.lean ====
section
/-! DEFINITION. The manager and the standby (R277 to R284, R427 to R436, R444, R453): the decision of each epoch, the step
and recovery states of a job, liveness and loss, and the takeover. -/
namespace Sys2Proof.MgrJob

open Machine

def workers (j : MgrJob) : List Addr := j.members.map (·.1)

/-- The members that hold parity. -/
def holders (j : MgrJob) : List Addr := (j.members.filter fun m => !m.2.parity.isEmpty).map (·.1)

def isLost (j : MgrJob) (a : Addr) : Bool := j.lost.any (·.1 = a)
def survivors (j : MgrJob) : List Addr := j.workers.filter fun a => !j.isLost a
def spares (j : MgrJob) : List Addr := j.lost.map (·.2)

/-- The members of an image's parity group. -/
def groupOf (j : MgrJob) (im : Image) : List (Addr × Image) := j.members.filter fun m => im.parity.contains m.2.rank

/-- The job map of the members (R295). -/
def map (j : MgrJob) : List Byte :=
  let n := j.members.foldl (fun a m => max a (m.2.rank + 1)) 0
  (List.range n).flatMap fun r => match j.members.find? (·.2.rank = r) with
    | some (a, im) => leBytes 1 (a.x + 16 * a.y) ++ leBytes 1 (a.z + 16 * a.part) ++ leBytes 2 im.group
        ++ leBytes 2 im.position ++ [1, 0]
    | none => List.replicate 8 0

/-- Every worker's STEP_READY is there. -/
def allReady (j : MgrJob) : Bool := j.workers.all fun a => j.ready.any (·.1 = a)

end Sys2Proof.MgrJob

namespace Sys2Proof.Machine

-- Step and recovery states of a job (R279, R444).
def jsCollecting : Nat := 0
def jsSweeping : Nat := 1
def jsSettling : Nat := 2
def jsActivating : Nat := 3
def jsRebuilding : Nat := 4
def jsResharding : Nat := 5
def jsStopped : Nat := 6

def State.mgrJob (s : State) (n : Nat) : Option MgrJob := s.grove.jobs.find? (·.job = n)

def State.setJob (s : State) (j : MgrJob) : State :=
  s.withGrove { s.grove with jobs := s.grove.jobs.filter (·.job ≠ j.job) ++ [j] }


/-- The manager's name in frames: it runs no partition (R427). -/
def State.me (s : State) : Addr := s.here 0

/-! ### Broadcasts (R444) -/

/-- Lost positions of an image's group, each with the spare that takes it. -/
def lostPositions (j : MgrJob) (im : Image) : List (Nat × Addr) :=
  j.lost.filterMap fun (_, sp) => match j.members.find? (·.1 = sp) with
    | some (_, li) => if li.parity = im.parity then (im.parity.findIdx? (· = li.rank)).map fun i => (i, sp) else none
    | none => none

/-- The messages of a job's last broadcast: type, epoch and message. -/
def State.castsOf (s : State) (j : MgrJob) : List (Nat × Nat × Msg) :=
  let step (t e : Nat) (body : List Byte) : List (Nat × Nat × Msg) :=
    j.workers.map fun a => (t, e, s.mgmtFrame 0 0 t j.job a body)
  let dest (t e : Nat) (a : Addr) (b : GBody) : Nat × Nat × Msg := (t, e, .grove { job := j.job, src := s.me, dst := a } b)
  let e := w64 (j.epoch + 2 ^ 64 - 1)
  if j.lastType = mtVerdict then step mtVerdict e j.lastBody
  else if j.lastType = mtCommit then step mtCommit e (stepBody e j.job)
  else if j.lastType = mtSettled then step mtSettled e (stepBody e j.job)
  else if j.lastType = mtLost then
    let ms := (j.lost.map fun (a, _) => addrModule a).eraseDups
    (j.survivors.map fun a => dest mtLost j.epoch a (.lost ms j.epoch j.target))
      ++ j.lost.filterMap fun (a, sp) => (j.members.find? (·.1 = a)).map fun (_, im) =>
        dest mtActivate j.epoch sp (.activate a j.epoch [im.rank] im)
  else if j.lastType = mtReconstruct then
    j.members.filterMap fun (a, im) =>
      let l := lostPositions j im
      if l.isEmpty then none else some (dest mtReconstruct j.epoch a (.reconstruct j.epoch l))
  else if j.lastType = mtReshard then j.workers.map fun a => dest mtReshard j.epoch a (.reshard j.epoch j.map false false)
  else if j.lastType = mtResume then j.workers.map fun a => dest mtResume j.epoch a (.resume j.epoch j.lsExp)
  else []

/-- Sends a job's broadcast; with a standby, MIRROR goes first and the broadcast waits for its acknowledgement (R444). -/
def State.broadcast (s : State) (j : MgrJob) : State :=
  let s := s.setJob { j with tStart := s.tick }
  if s.fbit rf_grvManager_standbyValid then
    let id := s.nextReq
    let s := s.grvSend 0 mtMirror j.job j.epoch (moduleAddr (s.fget rf_grvManager_standby) 0) (.mirror j s.grove.peers)
    (s.withGrove { s.grove with held := s.grove.held ++ [⟨id, j.job, s.castsOf j⟩] })
  else (s.castsOf j).foldl (fun s (t, e, m) => s.mgmtMsg t j.job e m) s

/-! ### The decision of an epoch (R277, R282, R284) -/

-- Fields of STEP_READY.
def srPoison (b : List Byte) : Nat := fldB b 11 4 0
def srContributor (b : List Byte) : Nat := fld b 16 2
def srInv (b : List Byte) : Bool := fldBit b 18 0
def srDigests (b : List Byte) : List (List Byte) := (List.range (min 1024 (fld b 48 2))).map fun i => slice b (64 + 16 * i) 16

/-- The replicas whose digest differs from their owner's: partition and tensor (R284). -/
def mismatches (ready : List (Addr × List Byte)) : List (Addr × Nat) :=
  let all := ready.flatMap fun (a, b) => (srDigests b).map fun d => (a, d)
  let owner := fun (t : Nat) => (all.find? fun (_, d) => fld d 0 2 = t ∧ fld d 2 1 = 0).map fun (_, d) => fld d 8 8
  all.filterMap fun (a, d) =>
    if fld d 2 1 = 1 then match owner (fld d 0 2) with
      | some x => if x = fld d 8 8 then none else some (a, fld d 0 2)
      | none => none
    else none

/-- The worker that a STEP_READY blames: the first poisoner with first_inv set, by its position in the sender's group
(R282, R296). -/
def blamed (j : MgrJob) (r : Addr × List Byte) : Option Addr :=
  if srInv r.2 then
    match j.members.find? (·.1 = r.1) with
    | some (_, im) => (j.members.find? fun m => m.2.group = im.group ∧ m.2.position = srContributor r.2).map (·.1)
    | none => none
  else none

/-- VERDICT's body (R278). -/
def verdictBody (j : MgrJob) (e v causes : Nat) (ls : Int) (ms : List (Addr × Nat)) : List Byte :=
  leBytes 8 e ++ leBytes 1 v ++ leBytes 1 (causes + 64 * b2n (decide (128 < ms.length))) ++ leBytes 1 (enc8 ls) ++ [0]
    ++ leBytes 2 j.job ++ leBytes 2 (min 128 ms.length) ++ leBytes 4 j.ready.length ++ leBytes 4 j.members.length
    ++ List.replicate 8 0
    ++ (ms.take 128).flatMap fun (a, t) =>
      leBytes 1 (a.x + 16 * a.y) ++ leBytes 1 (a.z + 16 * a.part) ++ leBytes 2 t ++ List.replicate 4 0

/-- The verdict's choice from the causes: 0 COMMIT, 1 SKIP, 2 REPEAT (R277). -/
def chooseVerdict (causes : Nat) (timeout lost : Bool) : Nat :=
  if lost then 2
  else if causes &&& (cauOvf ||| cauInv ||| cauConfig) ≠ 0 then 1
  else if timeout ∨ causes &&& cauDamaged ≠ 0 then 2
  else 0

/-- A worker that reached the quarantine limit, with the bucket and contributor of the report and the epoch decided (R282, R294). -/
structure Quarantined where
  worker : Addr
  bucket : Nat
  contributor : Nat
  epoch : Nat
deriving DecidableEq, Repr

/-- The manager decides a collecting job's epoch: the verdict is broadcast, and the answer names the workers that reached
the quarantine limit. COMMIT waits while an encode is not applied (R443). -/
def State.verdictMsgs (s : State) (j : MgrJob) (timeout lost : Bool) : List Quarantined × State :=
  let causes := j.ready.foldl (fun a r => a ||| srPoison r.2 / 2) 0
  let v := chooseVerdict causes timeout lost
  if v = 0 ∧ !j.encoding.isEmpty then ([], s)
  else
    let e := j.epoch
    let (ls, clean) := lossNext v (bit causes 0) j.lsExp j.clean (s.fget rf_strLossScale_growthInterval)
      (sext 8 (s.fget rf_strLossScale_minExp)) (sext 8 (s.fget rf_strLossScale_maxExp))
    let body := verdictBody j e (v + 1) (causes + 16 * b2n timeout + 32 * b2n lost) ls (mismatches j.ready)
    let named := (j.ready.filterMap (blamed j)).eraseDups
    let blame := named.map fun a => (a, ((j.blame.find? (·.1 = a)).map (·.2)).getD 0 + 1)
    let j' := { j with
      state := if v = 0 then jsSweeping else jsCollecting
      epoch := w64 (e + 1), ready := [], swept := [], applied := [], lsExp := ls, clean := clean, blame := blame
      lastType := mtVerdict, lastBody := body }
    let out := blame.filter fun (a, k) => match j.members.find? (·.1 = a) with
      | some (_, im) => im.quarantine && im.limit ≤ k
      | none => false
    let report := fun (a : Addr) => match j.ready.find? fun r => blamed j r = some a with
      | some r => ⟨a, fld r.2 14 2, srContributor r.2, e⟩
      | none => ⟨a, 0, 0, e⟩
    (out.map fun (a, _) => report a, s.broadcast j')

/-! ### Loss and recovery (R435, R444) -/

/-- GRV_RECOVERY shows a job in recovery (R457). -/
def State.showRecovery (s : State) (j : MgrJob) (m : Nat) : State :=
  let s := s.fset rf_grvRecovery_epochLo 0 0 j.epoch
  let s := s.fset rf_grvRecovery_lost 0 0 m
  let s := s.fset rf_grvRecovery_job 0 0 j.job
  s.fset rf_grvRecovery_state 0 0 (if j.state < jsActivating then 0 else j.state - 2)

def State.peer (s : State) (m : Nat) : Option Peer := s.grove.peers.find? (·.m = m)
def State.setPeer (s : State) (x : Peer) : State :=
  s.withGrove { s.grove with peers := s.grove.peers.filter (·.m ≠ x.m) ++ [x] }

/-- A spare that fits a lost module: the same partition layout and carve-unit counts, and not in use (R428). -/
def State.fitSpare (s : State) (m : Nat) (used : List Nat) : Option Nat :=
  match s.peer m with
  | some l => (s.grove.peers.find? fun q => q.spare ∧ !q.lost ∧ q.layout = l.layout ∧ q.units = l.units
      ∧ !used.contains q.m).map (·.m)
  | none => none

/-- Spares in use by recoveries. -/
def State.usedSpares (s : State) : List Nat :=
  s.grove.jobs.flatMap fun j => if j.state < jsActivating then [] else j.spares.map addrModule

/-- LOST and ACTIVATE are broadcast with a new recovery epoch (R444). -/
def State.startRecovery (s : State) (j : MgrJob) (m : Nat) (target : Option Nat) : State :=
  let j := { j with state := jsActivating, epoch := w64 (j.epoch + 1), target := target, reported := []
                    lastType := mtLost }
  (s.showRecovery j m).broadcast j

/-- A group has lost more than two members, has lost one while its encode is not applied, or a member without parity is
lost (R443, R452). -/
def exceeded (j : MgrJob) : Bool :=
  j.lost.any fun (a, sp) => match j.members.find? fun x => x.1 = a ∨ x.1 = sp with
    | some (_, im) => im.parity.isEmpty || 2 < countIf (fun m => j.lost.any fun l => l.1 = m.1 ∨ l.2 = m.1) (j.groupOf im)
        || (j.groupOf im).any fun m => j.encoding.contains m.1
    | none => false

/-- A job that had partitions on a lost module (R444). The answer names the workers that reach the quarantine limit with the
verdict that the loss decides. -/
def State.jobLoses (s : State) (j : MgrJob) (m : Nat) (gone : List Addr) : List Quarantined × State :=
  -- a spare that is lost before it took part takes nobody's place
  let back := (j.lost.filter fun (_, sp) => addrModule sp = m).map (·.1)
  let again := back.filter fun a => j.workers.contains a
  let keep := j.lost.filter fun (_, sp) => addrModule sp ≠ m
  let gone := gone ++ again
  let newLost := fun (sp : Nat) => gone.map fun a => (a, moduleAddr sp a.part)
  if exceeded { j with lost := keep ++ newLost 0 } then
    let j := { j with state := jsStopped, prior := j.state, lost := keep ++ newLost m }
    ([], (s.showRecovery j m).setJob j |>.raiseMod 0xC007 ⟨0, 0, 0, m + (j.job <<< 16), j.epoch⟩)
  else
    match s.fitSpare m s.usedSpares with
    | none =>
      let j := { j with state := jsStopped, prior := j.state, lost := keep ++ newLost m }
      ([], (s.showRecovery j m).setJob j |>.raiseMod 0xC008 ⟨0, 0, 0, m + (j.job <<< 16), j.epoch⟩)
    | some sp =>
      let j := { j with lost := keep ++ newLost sp }
      if j.state = jsCollecting then
        let (out, s) := s.verdictMsgs j false true
        (out, match s.mgrJob j.job with
          | some j => s.startRecovery j m none
          | none => s)
      else if j.state = jsSweeping ∨ j.state = jsSettling then
        ([], s.startRecovery j m (some (w64 (j.epoch + 2 ^ 64 - 1))))
      else if j.state = jsStopped then ([], s.setJob j)
      else ([], s.startRecovery j m none)

/-- FAULT_MAP goes to every module with the next detour generation (R410, R435): to every one that is not lost, and to `also`. -/
def State.sendFaultMap (s : State) (also : List Nat := []) : State :=
  let g := (s.grove.gen + 1) % 16
  let lostM := (s.grove.peers.filter (·.lost)).map (·.m)
  let links := (s.grove.links.filter fun (_, _, st, _) => st = 5).map fun (m, port, _, _) => (m, port)
  let s := s.withGrove { s.grove with gen := g }
  (((s.grove.peers.filter fun q => !q.lost).map (·.m)) ++ addrModule s.me :: also).foldl
    (fun s m => s.grvSend 0 mtFaultMap 0 0 (moduleAddr m 0) (.faultMap lostM links g)) s

/-- The manager declares a module lost (R435); `also` receives the FAULT_MAP although it is lost. The answer names the workers
that the verdicts of jobs losing a partition bring to the quarantine limit. -/
def State.loseModule (s : State) (m : Nat) (also : List Nat) : List Quarantined × State :=
  match s.peer m with
  | some q =>
    if q.lost then ([], s)
    else
      let s := ((s.setPeer { q with lost := true }).count .grvCount 2 0).raiseMod 0xC001 ⟨0, 0, 0, m, 0⟩
      s.grove.jobs.foldl (fun (out, s) j0 => match s.mgrJob j0.job with
        | some j =>
          let gone := j.survivors.filter fun a => addrModule a = m
          if gone.isEmpty ∧ j.spares.all (fun a => addrModule a ≠ m) then (out, s)
          else
            let (more, s) := s.jobLoses j m gone
            (out ++ more, s)
        | none => (out, s)) ([], s.sendFaultMap also)
  | none => ([], s)

/-- Quarantine (R282): 0x5007 is raised at the manager, and at the worker, which hears of its removal by the FAULT_MAP that names
it, or at once where it is a partition of this module; then its module counts as lost. At most one step for each worker. -/
def State.quarantine : Nat → List Quarantined → State → State
  | k + 1, x :: rest, s =>
    let m := addrModule x.worker
    let info : EvInfo := ⟨8, x.worker.part, 0, x.bucket + ((x.contributor % 4096) <<< 16), x.epoch⟩
    let s := if m = addrModule s.me then s.raise 0x5007 x.worker.part info else (s.evNew 0x5007 (some x.worker.part) info).2
    let (more, s) := s.loseModule m [m]
    State.quarantine k (rest ++ more) s
  | _, _, s => s

/-- Quarantine of the workers named, and of those whom the verdicts of the losses bring to the limit: each worker at most once. -/
def State.quarantineAll (s : State) (out : List Quarantined) : State :=
  State.quarantine (out.length + (s.grove.jobs.flatMap (·.members)).length) out s

/-- The manager declares a module lost (R435). -/
def State.declareLost (s : State) (m : Nat) : State :=
  let (out, s) := s.loseModule m []
  s.quarantineAll out

/-- The decision with the quarantine that follows it (R282). -/
def State.decideNow (s : State) (j : MgrJob) (timeout : Bool) : State :=
  let (out, s) := s.verdictMsgs j timeout false
  s.quarantineAll out

/-! ### Step messages at the manager (R279) -/

/-- A step message acts on a job of the active manager. -/
def State.onJob (s : State) (job : Nat) (act : State → MgrJob → State) : State :=
  if s.isManager then match s.mgrJob job with
    | some j => act s j
    | none => s
  else s

def execStepReady (f : Frame) (s : State) : Host.Outcome State Fault Refusal :=
  done (s.mgReceive mtStepReady (mgEpoch f) f fun s => s.onJob (mgJob f) fun s j =>
    if j.state = jsCollecting ∧ mgEpoch f = j.epoch ∧ j.workers.contains f.src then
      let j := { j with ready := j.ready ++ [(f.src, f.payload)] }
      let s := s.setJob j
      if j.allReady then s.decideNow j false else s
    else s)

/-- The step timeout of a job in ticks: its own, or the manager's default (R278). -/
def State.stepTimeout (s : State) (j : MgrJob) : Nat :=
  let own := match j.members with
    | (_, im) :: _ => im.timeoutMs
    | [] => 0
  ms (if own = 0 then s.fget rf_grvMgrCtl_stepTimeoutMs else own)

def execStepTimeout (job : BitVec 16) (s : State) : Host.Outcome State Fault Refusal :=
  done (s.onJob job.toNat fun s j =>
    if j.state = jsCollecting ∧ s.since j.tStart (s.stepTimeout j) ∧ s.grove.held.all (·.job ≠ j.job) then
      s.decideNow j true
    else s)

/-- The settled point once every holder has applied the delta; without holders it follows the commit point (R279). -/
def State.settleJob (s : State) (j : MgrJob) : State :=
  if j.holders.all fun a => j.applied.contains a then
    s.broadcast { j with state := jsCollecting, lastType := mtSettled }
  else s.setJob j

def execSweepDone (f : Frame) (s : State) : Host.Outcome State Fault Refusal :=
  done (s.mgReceive mtSweepDone (mgEpoch f) f fun s => s.onJob (mgJob f) fun s j =>
    if j.state = jsSweeping ∧ w64 (mgEpoch f + 1) = j.epoch ∧ j.workers.contains f.src then
      let j := { j with swept := j.swept ++ [f.src] }
      if j.workers.all fun a => j.swept.contains a then
        let j := { j with state := jsSettling, lastType := mtCommit }
        let s := s.broadcast j
        match s.mgrJob j.job with
        | some j => if j.holders.isEmpty then s.settleJob j else s
        | none => s
      else s.setJob j
    else s)

/-- PARITY_APPLIED reports a delta of the epoch that settles, or an encode (R279, R443). -/
def execParityApplied (f : Frame) (s : State) : Host.Outcome State Fault Refusal :=
  done (s.mgReceive mtParityApplied (mgEpoch f) f fun s => s.onJob (mgJob f) fun s j =>
    if j.encoding.contains f.src ∧ w64 (mgEpoch f + 1) = j.encodeEpoch then
      let j := { j with encoding := j.encoding.filter (· ≠ f.src) }
      let s := s.setJob j
      if j.encoding.isEmpty ∧ j.state = jsCollecting ∧ j.allReady then s.decideNow j false else s
    else if j.state = jsSettling ∧ w64 (mgEpoch f + 1) = j.epoch ∧ j.holders.contains f.src then
      s.settleJob { j with applied := j.applied ++ [f.src] }
    else s)

/-! ### Job load (R432, R443) -/

def emptyJob (n : Nat) (tick : Nat) (ls : Int) : MgrJob :=
  ⟨n, [], jsCollecting, jsCollecting, 0, tick, [], [], [], [], ls, 0, [], [], 0, [], none, 0, []⟩

/-- CONFIG_IMAGE: the manager stores a partition's image and mirrors it; once every member of a parity group has sent its
image, the group is encoded (R443). -/
def execConfigImage (g : Mg) (img : Image) (s : State) : Host.Outcome State Fault Refusal :=
  done (s.grvReceive mtConfigImage g.reqId g fun s =>
    if !s.isManager then s
    else
      let j := (s.mgrJob g.job).getD (emptyJob g.job s.tick (sext 8 (s.fget rf_strLossScale_lsExp)))
      let fresh : Bool := !j.workers.contains g.src
      let j := { j with members := j.members.filter (·.1 ≠ g.src) ++ [(g.src, img)] }
      let group := j.groupOf img
      let encode : Bool := fresh && !img.parity.isEmpty && img.parity.all fun r => j.members.any (·.2.rank = r)
      let j := if encode then { j with encoding := j.encoding ++ group.map (·.1), encodeEpoch := j.epoch } else j
      let s := s.setJob j
      let s := if s.fbit rf_grvManager_standbyValid then
          s.grvSend 0 mtMirror j.job j.epoch (moduleAddr (s.fget rf_grvManager_standby) 0) (.mirror j s.grove.peers)
        else s
      if encode then
        group.foldl (fun s m => s.grvSend 0 mtEncode j.job j.epoch m.1 (.encode j.epoch)) s
      else s)

/-! ### Recovery messages at the manager (R444) -/

/-- A recovery report of a job's epoch in a state. -/
def State.onRecovery (s : State) (type r : Nat) (g : Mg) (st : Nat) (act : State → MgrJob → State) : State :=
  s.grvReceive type r g fun s => s.onJob g.job fun s j =>
    if j.state = st ∧ r = j.epoch then act s j else s

/-- ACTIVATING ends once every survivor has rolled back and every spare is activated: the spares take the lost members'
places. -/
def State.activating (s : State) (j : MgrJob) : State :=
  if j.survivors.all (fun a => j.reported.contains a) ∧ j.spares.all (fun a => j.reported.contains a) then
    let j := { j with
      members := j.members.map fun (a, im) => match j.lost.find? (·.1 = a) with
        | some (_, sp) => (sp, im)
        | none => (a, im)
      state := jsRebuilding, reported := [], lastType := mtReconstruct }
    let taken := j.spares.map addrModule
    let peers := s.grove.peers.map fun q => if taken.contains q.m then { q with spare := false } else q
    let s := s.withGrove { s.grove with peers := peers }
    (s.fset rf_grvRecovery_state 0 0 2).broadcast j
  else s.setJob j

def execRollbackDone (g : Mg) (r : Word) (s : State) : Host.Outcome State Fault Refusal :=
  done (s.onRecovery mtRollbackDone r.toNat g jsActivating fun s j =>
    if j.survivors.contains g.src then s.activating { j with reported := j.reported ++ [g.src] } else s)

def execActivated (g : Mg) (r : Word) (s : State) : Host.Outcome State Fault Refusal :=
  done (s.onRecovery mtActivated r.toNat g jsActivating fun s j =>
    if j.spares.contains g.src then s.activating { j with reported := j.reported ++ [g.src] } else s)

/-- RESHARD follows once every spare has rebuilt its column. The placement constraints have no stated form: the manager
asks for no permutation. -/
def execReconstructDone (g : Mg) (r : Word) (s : State) : Host.Outcome State Fault Refusal :=
  done (s.onRecovery mtReconstructDone r.toNat g jsRebuilding fun s j =>
    let j := { j with reported := j.reported ++ [g.src] }
    if j.spares.all fun a => j.reported.contains a then
      (s.fset rf_grvRecovery_state 0 0 3).broadcast
        { j with state := jsResharding, epoch := w64 (j.epoch + 1), reported := [], lastType := mtReshard }
    else s.setJob j)

/-- RESUME follows once every worker has re-sharded; the job collects again. -/
def execReshardDone (g : Mg) (r : Word) (s : State) : Host.Outcome State Fault Refusal :=
  done (s.onRecovery mtReshardDone r.toNat g jsResharding fun s j =>
    let j := { j with reported := j.reported ++ [g.src] }
    if j.workers.all fun a => j.reported.contains a then
      let s := (s.fset rf_grvRecovery_state 0 0 0).count .grvCount 3 0
      s.broadcast { j with state := jsCollecting, epoch := w64 (j.epoch + 1), reported := [], lost := [], ready := []
                           swept := [], applied := [], lastType := mtResume }
    else s.setJob j)

/-! ### Roles and joining (R427, R428, R430) -/

/-- GRV_MGR_CTL.mode written by the host: writable on a manager-profile module before it takes part (R427, R455). -/
def mgrMode (mode : Nat) (s : State) : State :=
  if s.fget rf_grvRole_role = 1 ∧ s.fget rf_grvMgrCtl_mode = 0 ∧ s.fget rf_grvRole_groveState ≠ 3 then
    let s := (s.fset rf_grvMgrCtl_mode 0 0 mode).fset rf_grvRole_managerMode 0 0 mode
    if mode = 1 then (s.fset rf_grvManager_manager 0 0 (addrModule s.me)).fset rf_grvManager_managerValid 0 0 1 else s
  else s

def execManagerModeActive (s : State) : Host.Outcome State Fault Refusal := done (mgrMode 1 s)
def execManagerModeStandby (s : State) : Host.Outcome State Fault Refusal := done (mgrMode 2 s)

/-- Jobs stopped for want of a spare go on once one that fits is admitted (R444). -/
def State.retrySpares (s : State) : State :=
  s.grove.jobs.foldl (fun s j0 => match s.mgrJob j0.job with
    | some j =>
      if j.state = jsStopped ∧ !exceeded j then
        -- places that no spare took name the lost module itself
        match j.lost.find? (fun l => addrModule l.2 = addrModule l.1) with
        | some (a, _) =>
          let m := addrModule a
          let j := { j with state := j.prior, lost := j.lost.filter fun (b, _) => addrModule b ≠ m }
          if (s.fitSpare m s.usedSpares).isSome then
            let (out, s) := s.jobLoses j m (j.workers.filter fun b => addrModule b = m)
            s.quarantineAll out
          else s
        | none => s
      else s
    | none => s) s

/-- JOIN at the manager: the module is admitted unless its coordinates conflict or its profile is test; `plan` is what the
host's grove plan assigns, true for a spare. A module that was lost is admitted only as a spare (R427 to R430, R435). -/
def execJoin (g : Mg) (role layout : Nat) (units : List Nat) (conflict plan : Bool) (s : State) :
    Host.Outcome State Fault Refusal :=
  done (s.grvReceive mtJoin g.reqId g fun s =>
    if !s.isManager ∨ conflict ∨ 2 ≤ role then s
    else
      let m := addrModule g.src
      let wasLost : Bool := match s.peer m with
        | some q => q.lost
        | none => false
      let spare : Bool := role = 0 && (plan || wasLost)
      let s := s.setPeer ⟨m, spare, layout, units, s.tick, none, false⟩
      let s := s.grvSend 0 mtAdmit 0 0 g.src (.admission (s.fget rf_grvRole_term) (s.fget rf_grvManager_manager)
        (s.fget rf_grvManager_standby) (s.fbit rf_grvManager_standbyValid) spare)
      -- the standby is the manager-profile module that joins
      let s := if role = 1 then
          (s.fset rf_grvManager_standby 0 0 m).fset rf_grvManager_standbyValid 0 0 1 else s
      if spare then s.retrySpares else s)

/-- ADMIT at a module (R430). -/
def execAdmission (g : Mg) (term manager standby : Nat) (standbyValid spare : Bool) (s : State) :
    Host.Outcome State Fault Refusal :=
  done (if term < s.fget rf_grvRole_term then s
    else s.grvReceive mtAdmit g.reqId g fun s =>
      let s := s.fset rf_grvRole_term 0 0 term
      let s := s.fset rf_grvRole_groveState 0 0 3
      let s := s.fset rf_grvRole_spare 0 0 (b2n spare)
      let s := s.fset rf_grvManager_term 0 0 term
      let s := s.fset rf_grvManager_manager 0 0 manager
      let s := s.fset rf_grvManager_managerValid 0 0 1
      let s := s.fset rf_grvManager_standby 0 0 standby
      s.fset rf_grvManager_standbyValid 0 0 (b2n standbyValid))

/-! ### Liveness (R434, R435) -/

/-- Link states of the fabric ports. -/
def State.linkStates (s : State) : List Nat := (List.range 12).map fun k => s.fget rf_fabPortStatus_linkState (k + 4)

/-- PULSE_SEND: every pulse_ms an admitted module, the manager and the standby send a pulse to the manager and to the
standby (R434, R453). -/
def execPulseSend (s : State) : Host.Outcome State Fault Refusal :=
  let due : Bool := match s.grove.pulsed with
    | some t => s.since t (ms (s.fget rf_grvLiveness_pulseMs))
    | none => true
  let mode := s.fget rf_grvRole_managerMode
  done (if s.serves ∧ due ∧ (s.fget rf_grvRole_groveState = 3 ∨ mode = 1 ∨ mode = 2) then
      let b := GBody.pulse (s.fget rf_grvRole_term) (s.fbit rf_glbStatus_sapwoodRestarting)
        (s.fbit rf_glbStatus_sapwoodFailed) s.linkStates ((List.range 16).map s.epoch)
      let dest := (if s.fbit rf_grvManager_managerValid then [s.fget rf_grvManager_manager] else [])
        ++ (if s.fbit rf_grvManager_standbyValid then [s.fget rf_grvManager_standby] else [])
      let s := s.withGrove { s.grove with pulsed := some s.tick }
      (dest.filter (· ≠ addrModule s.me)).foldl (fun s m => (s.grvOnce 0 (moduleAddr m 0) b).count .grvCount 0 0) s
    else s)

/-- The standby takes over (R453). -/
def State.takeOver (s : State) : State :=
  let term := s.fget rf_grvRole_term + 1
  let s := s.fset rf_grvRole_term 0 0 term
  let s := s.fset rf_grvRole_managerMode 0 0 1
  let s := s.fset rf_grvManager_term 0 0 term
  let s := s.fset rf_grvManager_manager 0 0 (addrModule s.me)
  let s := s.fset rf_grvManager_standbyValid 0 0 0
  let s := s.raiseMod 0xC004 ⟨0, 0, 0, addrModule s.me, 0⟩
  let s := (s.grove.peers.filter fun q => !q.lost).foldl
    (fun s q => s.grvSend 0 mtTakeover 0 term (moduleAddr q.m 0) (.takeover term)) s
  s.grove.jobs.foldl (fun s j => (s.castsOf j).foldl (fun s (t, e, m) => s.mgmtMsg t j.job e m) s) s

/-- A module is lost: the manager declares it, and the standby acts where it is the manager (R435, R453). -/
def State.lose (s : State) (m : Nat) : State :=
  let mode := s.fget rf_grvRole_managerMode
  if mode = 1 then s.declareLost m
  else if mode = 2 ∧ s.fbit rf_grvManager_managerValid ∧ s.fget rf_grvManager_manager = m then
    let s := match s.peer m with
      | some q => s.setPeer { q with lost := true }
      | none => s
    s.takeOver
  else s

/-- Module index of a port's partner (R457), from x, y and z as FAB_PORT_STATUS holds them (R420). -/
def State.partner (s : State) (n : Nat) : Nat :=
  let p := s.fget rf_fabPortStatus_partner n
  p / 256 + 16 * (p / 16 % 16) + 256 * (p % 16)

/-- Every fabric port facing a module is reported DOWN by its neighbours; this module is one where it has such a port. -/
def State.allFacingDown (s : State) (m : Nat) : Bool :=
  let theirs := (s.grove.links.filter fun (_, _, _, q) => q = m).map fun (_, _, st, _) => st
  let mine := (rangeFrom 4 16).filterMap fun k =>
    if s.fbit rf_fabPortStatus_partnerValid k ∧ s.partner k = m then
      some (s.fget rf_fabPortStatus_linkState k) else none
  let all := theirs ++ mine
  !all.isEmpty && all.all (· = 5)

/-- PULSE at the manager or the standby (R435, R453). -/
def execPulse (g : Mg) (term : BitVec 16) (restarting failed : Bool) (s : State) : Host.Outcome State Fault Refusal :=
  let mode := s.fget rf_grvRole_managerMode
  done (if s.grvArrives g ∧ (mode = 1 ∨ mode = 2) then
      let m := addrModule g.src
      let s := s.count .grvCount 1 0
      if mode = 1 ∧ s.fget rf_grvRole_term < term.toNat then
        -- a deposed manager stops deciding (R453)
        (s.fset rf_grvRole_managerMode 0 0 3).fset rf_grvRole_term 0 0 term.toNat
      else
        let s := match s.peer m with
          | some q => if q.lost then s else
              s.setPeer { q with last := s.tick
                                 restarting := if restarting then some (q.restarting.getD s.tick) else none }
          | none => if mode = 2 then
              s.setPeer ⟨m, false, 0, [], s.tick, if restarting then some s.tick else none, false⟩ else s
        if failed then s.lose m else s
    else s)

def execLossTimeout (module : BitVec 12) (s : State) : Host.Outcome State Fault Refusal :=
  done (match s.peer module.toNat with
    | some q => if !q.lost ∧ s.since q.last (ms (s.fget rf_grvLiveness_lossMs)) then s.lose q.m else s
    | none => s)

def execSapwoodGraceTimeout (module : BitVec 12) (s : State) : Host.Outcome State Fault Refusal :=
  done (match s.peer module.toNat with
    | some q => match q.restarting with
      | some t => if !q.lost ∧ t + ms (s.fget rf_grvLiveness_sapwoodGraceMs) < s.tick then s.lose q.m else s
      | none => s
    | none => s)

/-- LINK_REPORT: the manager or the standby notes the state of a port and its partner. A lost link changes the fault map
(R410), and a module whose facing ports are all DOWN is lost (R435). -/
def execLinkReport (g : Mg) (port : Fin 16) (state : Fin 8) (partner : BitVec 12) (s : State) :
    Host.Outcome State Fault Refusal :=
  done (s.grvReceive mtLinkReport g.reqId g fun s =>
    let m := addrModule g.src
    let s := s.withGrove { s.grove with
      links := s.grove.links.filter (fun (a, b, _, _) => ¬ (a = m ∧ b = port.val))
        ++ [(m, port.val, state.val, partner.toNat)] }
    if state.val = 5 then
      if s.allFacingDown partner.toNat then s.lose partner.toNat
      else if s.isManager then s.sendFaultMap else s
    else s)

/-! ### The standby (R444, R453) -/

/-- GRV_RECOVERY at the standby follows the mirrored state (R457). -/
def State.mirrorRecovery (s : State) (j : MgrJob) : State :=
  if j.state = jsActivating then s.showRecovery j ((j.lost.getLast?.map fun l => addrModule l.1).getD 0)
  else if jsActivating < j.state then s.fset rf_grvRecovery_state 0 0 (j.state - 2)
  else if j.lastType = mtResume then s.fset rf_grvRecovery_state 0 0 0
  else s

def execMirror (g : Mg) (j : MgrJob) (peers : List Peer) (s : State) : Host.Outcome State Fault Refusal :=
  done (s.grvOrder mtMirror g.reqId g fun s =>
    if s.fget rf_grvRole_managerMode = 2 then
      let s := (s.setJob j).mirrorRecovery j
      peers.foldl (fun s q => match s.peer q.m with
        | some o => s.setPeer { q with last := o.last, restarting := o.restarting }
        | none => s.setPeer { q with last := s.tick }) s
    else s)

/-- A message to the old manager goes to the new one (R453). -/
def redirect (old new : Addr) : Msg → Msg
  | .frame f => .frame (if sameModule f.dst old then { f with dst := new } else f)
  | .grove g b => .grove (if sameModule g.dst old then { g with dst := new } else g) b
  | m => m

/-- TAKEOVER: the module adopts the higher term, and unacknowledged step messages go to the new manager (R453). -/
def execTakeover (g : Mg) (term : BitVec 16) (s : State) : Host.Outcome State Fault Refusal :=
  done (if term.toNat ≤ s.fget rf_grvRole_term then
      -- a copy of the term already taken is acknowledged
      if term.toNat = s.fget rf_grvRole_term ∧ s.grvArrives g then s.ackMg g else s
    else s.grvReceive mtTakeover term.toNat g fun s =>
      let old := s.manager
      let new := { g.src with part := 0 }
      let s := s.fset rf_grvRole_term 0 0 term.toNat
      let s := if s.isManager then s.fset rf_grvRole_managerMode 0 0 3 else s
      let s := s.fset rf_grvManager_term 0 0 term.toNat
      let s := s.fset rf_grvManager_manager 0 0 (addrModule g.src)
      let s := s.fset rf_grvManager_managerValid 0 0 1
      let s := s.fset rf_grvManager_standbyValid 0 0 0
      let s := s.raiseMod 0xC004 ⟨0, 0, 0, addrModule g.src, 0⟩
      let late := s.mgmt.filter fun m => redirect old new m.msg ≠ m.msg
      let s := s.withMgmt (s.mgmt.map fun m => { m with msg := redirect old new m.msg })
      late.foldl (fun s m => s.send (redirect old new m.msg)) s)

end Sys2Proof.Machine
end

