-- ==== Sys2Proof/Machine/Link.lean ====
section
/-! DEFINITION. Fabric ports and routing (R396 to R414): the link's credits and sequence numbers, dimension order and the
detour set, what a port sends, and what enters the fabric. -/
namespace Sys2Proof.Machine

-- Link states (R396).
def lsDisabled : Nat := 0
def lsTraining : Nat := 1
def lsUp : Nat := 2
def lsDegraded : Nat := 3
def lsRelaning : Nat := 4
def lsDown : Nat := 5

def State.port (s : State) (n : Nat) : PortX := smGet .reset s.fab.ports n
def State.setPort (s : State) (n : Nat) (x : PortX) : State :=
  s.withFab { s.fab with ports := smSet .reset s.fab.ports n x }

def State.link (s : State) (n : Nat) : Nat := s.fget rf_fabPortStatus_linkState n

/-- Enters a link state at this tick. -/
def State.setLink (s : State) (n st : Nat) : State :=
  let s := s.fset rf_fabPortStatus_linkState n 0 st
  s.setPort n { s.port n with since := s.tick }

/-- The port is a fabric port (R393). -/
def isFabric (n : Nat) : Bool := 4 ≤ n && n ≤ 15

/-- The link carries frames. -/
def State.alive (s : State) (n : Nat) : Bool := s.link n = lsUp || s.link n = lsDegraded

/-- Routing may choose the port (R399, R409). -/
def State.carries (s : State) (n : Nat) : Bool := s.alive n && !(s.port n).draining

/-- What a record of class 0x4 says of a port (R426, R555): the partner, and the lanes that carry traffic. -/
def State.portInfo (s : State) (n count : Nat) : EvInfo :=
  ⟨5, n, 0, count, (if s.fbit rf_fabPortStatus_partnerValid n then s.partner n else 0)
    + (s.fget rf_fabPortStatus_activeLanes n <<< 12)⟩

/-- A frame is discarded and counted (R421). -/
def State.countDiscard (s : State) (n : Nat) : State := s.count .fabPortCount n 9

/-- An event with a count, at most once per millisecond per port. -/
def dueMs (s : State) : Option Nat → Bool
  | some t => s.since t (ms 1)
  | none => true

/-- A frame is discarded for the hop limit, a missing route or a stale generation (R408 to R410, R426). -/
def State.discard (s : State) (n : Nat) : State :=
  let s := s.countDiscard n
  let x := s.port n
  let c := x.discards + 1
  if dueMs s x.discardTick then
    (s.setPort n { x with discards := 0, discardTick := some s.tick }).raiseMod 0x4006 (s.portInfo n c)
  else s.setPort n { x with discards := c }

/-! ### Credit (R401) -/

def cells (f : Frame) : Nat := ceilDiv (32 + f.payload.length) 64

/-- Bytes of a frame with its MAC header and FCS (R403). -/
def frameBytes (f : Frame) : Nat := 50 + f.payload.length

def vcOf (f : Frame) : Nat := 4 * f.set + f.cls

/-- The shared pool; pools 0 to 11 are the channels'. -/
def sharedPool : Nat := 12

def PortX.credit (x : PortX) (pool : Nat) : Nat :=
  (if pool = sharedPool then 5120 else 256) - subMod 32 (smGet 0 x.drawn pool) (smGet 0 x.peerFreed pool)

/-- Credit a frame's channel has. -/
def PortX.room (x : PortX) (f : Frame) : Nat := x.credit (vcOf f) + (if f.cls = 0 then 0 else x.credit sharedPool)

/-- The pool that a frame draws on; none where credit does not cover it. -/
def PortX.poolFor (x : PortX) (f : Frame) : Option Nat :=
  if f.cls ≠ 0 ∧ cells f ≤ x.credit sharedPool then some sharedPool
  else if cells f ≤ x.credit (vcOf f) then some (vcOf f)
  else none

def smAdd (m : SMap Nat) (k n : Nat) : SMap Nat := smSet 0 m k (w32 (smGet 0 m k + n))

/-- A frame leaves the input buffer it lies in. -/
def State.freeCells (s : State) (q : QFrame) : State :=
  match q.via, q.pool with
  | some n, some k =>
    let x := s.port n
    s.setPort n { x with freed := smAdd x.freed k (cells q.f), owed := x.owed + cells q.f }
  | _, _ => s

/-! ### Routing (R406 to R410) -/

/-- The direction of the next hop by dimension order, and whether it crosses the dateline; none where the frame is at its
destination (R407). -/
def dimOrder : (dim : Nat) → List (Nat × Nat × Nat) → Option (Nat × Bool)
  | _, [] => none
  | i, (cur, dst, k) :: r =>
    if cur = dst then dimOrder (i + 1) r
    else
      let ahead := (dst + k - cur) % k
      if ahead ≤ k - ahead then some (2 * i, cur = k - 1) else some (2 * i + 1, cur = 0)

def State.hop (s : State) (dst : Addr) : Option (Nat × Bool) :=
  dimOrder 0 [(s.fget rf_fabCoord_x, dst.x, s.fget rf_fabCoord_kxM1 + 1),
    (s.fget rf_fabCoord_y, dst.y, s.fget rf_fabCoord_kyM1 + 1), (s.fget rf_fabCoord_z, dst.z, s.fget rf_fabCoord_kzM1 + 1)]

/-- Of a direction's two ports, one that carries traffic: the one with more credit on the frame's channel, the even one on
a tie. -/
def State.pickPort (s : State) (dir : Nat) (f : Frame) : Option Nat :=
  let a := 4 + 2 * dir
  match s.carries a, s.carries (a + 1) with
  | true, true => some (if (s.port a).room f < (s.port (a + 1)).room f then a + 1 else a)
  | true, false => some a
  | false, true => some (a + 1)
  | false, false => none

/-- Where a frame goes next. -/
inductive Way where
  | here
  /-- Discarded; with true, under 0x4006. -/
  | drop (event : Bool)
  /-- Leaves by a port with this header; with true it has just moved to the detour set. -/
  | out (port : Nat) (eg : Frame) (moved : Bool)
deriving DecidableEq, Repr

/-- The detour table's entry for a module: up_dir and down_dir (R423). -/
def State.detourEntry (s : State) (m : Nat) : Nat × Nat :=
  let b := bits (s.reg .fabDetour (m / 8)).toNat (8 * (m % 8) + 7) (8 * (m % 8))
  (b % 16, b / 16)

/-- The detour set (R409, R410). -/
def State.detourWay (s : State) (f : Frame) (moved : Bool) : Way :=
  if ¬ s.fbit rf_fabRouteCtl_detourEnable ∨ f.detourGen ≠ s.fget rf_fabRouteCtl_detourGen then .drop true
  else
    let e := s.detourEntry (addrModule f.dst)
    let dir := if f.detourDown then e.2 else e.1
    let down := !bit (s.fget rf_fabRouteCtl_upMask) dir
    if 5 < dir ∨ (f.detourDown ∧ ¬ down) then .drop true
    else match s.pickPort dir f with
      | some n => .out n { f with detourDown := f.detourDown || down } moved
      | none => .drop true

/-- COORD_OFFER is for the neighbour that receives it (R429). -/
def isOffer (f : Frame) : Bool := f.op = 0x20 && fld f.ops 0 1 = mtCoordOffer

/-- Where a frame that arrived on a port, or was injected, goes. -/
def State.way (s : State) (via : Option Nat) (f : Frame) : Way :=
  if isOffer f then .here
  else if ¬ s.fbit rf_fabCoord_valid then (if f.cls = 0 ∧ f.hop = 0 then .here else .drop false)
  else match s.hop f.dst with
    | none => .here
    | some (dir, cross) =>
      let f := if via.isSome then { f with hop := f.hop + 1 } else f
      if s.fget rf_fabRouteCtl_hopLimit ≤ f.hop then .drop true
      else if f.set = 2 then s.detourWay f false
      else
        let same : Bool := match via with
          | some n => (n - 4) / 4 = dir / 2
          | none => false
        let g := { f with set := if cross then 1 else if same then f.set else 0 }
        match s.pickPort dir g with
        | some n => .out n g false
        | none => s.detourWay
            { f with set := 2, detourDown := false, detourGen := s.fget rf_fabRouteCtl_detourGen } true

/-- 0x4003 for the first frame on the detour set under a generation (R410). -/
def State.noteDetour (s : State) (n : Nat) : State :=
  let g := s.fget rf_fabRouteCtl_detourGen
  if s.fab.detoured = some g then s
  else (s.withFab { s.fab with detoured := some g }).raiseMod 0x4003 (s.portInfo n 1)

/-- The port that a discard is counted at: the one the frame arrived on, or the even port of its direction. -/
def State.blamePort (s : State) (via : Option Nat) (f : Frame) : Nat :=
  via.getD (4 + 2 * ((s.hop f.dst).getD (0, false)).1)

/-- Routes a frame: it is delivered, queued at a port, or discarded. -/
def State.route (s : State) (q : QFrame) : State :=
  match s.way q.via q.f with
  | .here => (s.withFab { s.fab with arrived := s.fab.arrived ++ [(q.f, q.c)] }).freeCells q
  | .drop ev =>
    let n := s.blamePort q.via q.f
    (if ev then s.discard n else s.countDiscard n).freeCells q
  | .out n eg moved =>
    let s := if moved then s.noteDetour n else s
    s.setPort n { s.port n with txq := (s.port n).txq ++ [{ q with eg := eg }] }

/-! ### What a port sends (R398, R408) -/

/-- Input a frame is served from: a port, or 16 for local injection. -/
def QFrame.input (q : QFrame) : Nat := q.via.getD 16

/-- Order of service: management first; then the channel that was served the fewest bytes, within it the inputs in turn,
and of injected frames those of the partition that was served least for its weight (R408, R414). -/
def State.serviceKey (s : State) (x : PortX) (q : QFrame) : List Nat :=
  let v := vcOf q.eg
  if q.eg.cls = 0 then [0]
  else [1, smGet 0 x.served v, v, (q.input + 17 - smGet 0 x.lastIn v - 1) % 17,
    if q.via.isSome then 0
    else smGet 0 x.servedPart q.eg.src.part * 256 / (s.fget rf_fabShape_weight q.eg.src.part)]

/-- One list of numbers comes before another. -/
def keyLt : List Nat → List Nat → Bool
  | a :: as, b :: bs => a < b || (a = b && keyLt as bs)
  | [], _ :: _ => true
  | _, _ => false

/-- The place in the queue of the frame sent next: in order of service, and for equal service the oldest, among those that
credit covers. -/
def State.nextToSend (s : State) (x : PortX) : Option (Nat × QFrame) :=
  (x.txq.zipIdx.filter fun (q, _) => (x.poolFor q.eg).isSome).foldl (fun (b : Option (Nat × QFrame)) (q, i) =>
    match b with
    | some (_, p) => if keyLt (s.serviceKey x q) (s.serviceKey x p) then some (i, q) else b
    | none => some (i, q)) none

/-- Sends one frame of a port's queue. -/
def State.transmit (s : State) (n i : Nat) (q : QFrame) (pool : Nat) : State :=
  let x := s.port n
  let b := frameBytes q.eg
  let x := { x with
    txq := x.txq.eraseIdx i
    retry := x.retry ++ [(x.nextSeq, q.eg, q.c)]
    progress := if x.retry.isEmpty then s.tick else x.progress
    drawn := smAdd x.drawn pool (cells q.eg)
    served := smSet 0 x.served (vcOf q.eg) (smGet 0 x.served (vcOf q.eg) + b)
    servedPart := if q.via.isSome then x.servedPart
      else smSet 0 x.servedPart q.eg.src.part (smGet 0 x.servedPart q.eg.src.part + b)
    lastIn := smSet 0 x.lastIn (vcOf q.eg) q.input }
  let seq := x.nextSeq
  let s := s.setPort n { x with nextSeq := (seq + 1) % 65536 }
  let s := ((s.send (.portFrame n seq .good x.mac q.eg q.c)).count .fabPortCount n 0).count .fabPortCount n 2 b
  s.freeCells q

/-- A port sends what its link takes: at most 256 frames are unacknowledged (R398). -/
def State.portSend (s : State) (n : Nat) : Nat → State
  | 0 => s
  | k + 1 =>
    let x := s.port n
    if s.alive n ∧ x.retry.length < 256 then
      match s.nextToSend x with
      | some (i, q) => match x.poolFor q.eg with
        | some pool => (s.transmit n i q pool).portSend n k
        | none => s
      | none => s
    else s

/-! ### What enters the fabric (R406, R414) -/

/-- Type of a grove message (R433). -/
def bodyType : GBody → Nat
  | .pulse .. => mtPulse
  | .coordOffer .. => mtCoordOffer
  | .join .. => mtJoin
  | .admission .. => mtAdmit
  | .linkReport .. => mtLinkReport
  | .faultMap .. => mtFaultMap
  | .lost .. => mtLost
  | .rollbackDone .. => mtRollbackDone
  | .activate .. => mtActivate
  | .activated .. => mtActivated
  | .reconstruct .. => mtReconstruct
  | .reconstructDone .. => mtReconstructDone
  | .reshard .. => mtReshard
  | .reshardDone .. => mtReshardDone
  | .resume .. => mtResume
  | .mirror .. => mtMirror
  | .takeover .. => mtTakeover
  | .configImage .. => mtConfigImage
  | .encode .. => mtEncode

/-- The frame of a grove message; its contents travel beside it. -/
def groveFrame (g : Mg) (b : GBody) : Frame :=
  { cls := 0, dst := g.dst, src := g.src, op := 0x20, reqId := g.reqId,
    ops := leBytes 2 (bodyType b) ++ leBytes 2 g.job ++ List.replicate 12 0, payload := [] }

/-- A message as the fabric takes it, with the port it must leave by where it has one. -/
def fabricMsg : Msg → Option (Frame × Cargo × Option Nat)
  | .frame f => some (f, .plain, none)
  | .extra f x => some (f, .extra x, none)
  | .grove g b => some (groveFrame g b, .grove g b, match b with
      | .coordOffer port .. => some port
      | _ => none)
  | _ => none

/-- A message that the module has sent enters: an offer at its port, where the link carries traffic; the rest waits. -/
def State.takeMsg (s : State) (m : Msg) : State :=
  match fabricMsg m with
  | some (f, c, some n) =>
    if s.carries n then s.setPort n { s.port n with txq := (s.port n).txq ++ [⟨f, f, c, none, none⟩] } else s
  | some (f, c, none) => (s.withFab { s.fab with waiting := s.fab.waiting ++ [⟨f, f, c, none, none⟩] })
  | none => s

/-- Frames wait to enter until the module has coordinates; those of a partition's requests and accumulates, while its
fabric bucket does not cover them (R414). The answer names the partitions that wait. -/
def State.enter (s : State) : List QFrame → List Nat → State
  | [], _ => s
  | q :: qs, blocked =>
    let p := q.f.src.part
    let shaped : Bool := 2 ≤ q.f.cls && !sameModule q.f.dst (s.here 0)
    let cap := s.fget rf_fabShape_fabricCap p
    let b := frameBytes q.f
    let have_ := smGet 0 s.fab.fabricBucket p
    if shaped && (blocked.contains p || (cap ≠ 0 && have_ < b)) then
      (s.withFab { s.fab with waiting := s.fab.waiting ++ [q] }).enter qs (p :: blocked)
    else
      let s := if shaped && cap ≠ 0 then
          (s.withFab { s.fab with fabricBucket := smSet 0 s.fab.fabricBucket p (have_ - b) }) else s
      (s.route q).enter qs blocked

/-- Frames that wait enter, and every fabric port sends what its link takes. -/
def State.pumpFabric (s : State) : State :=
  let s := if s.fbit rf_fabCoord_valid then
      let qs := s.fab.waiting
      (s.withFab { s.fab with waiting := [] }).enter qs []
    else s
  (rangeFrom 4 16).foldl (fun s n => s.portSend n (s.port n).txq.length) s

end Sys2Proof.Machine
end

