-- ==== Sys2Proof/Machine/Fabric.lean ====
section
/-! DEFINITION. The fabric's commands: links and their states (R396 to R402), coordinates (R422, R429, R430), shaping
(R414) and the fault map (R410). -/
namespace Sys2Proof.Machine

/-! ### Link states (R396) -/

/-- A change of link state is reported to the manager (R434); the manager itself acts on its own ports. -/
def State.linkChanged (s : State) (n : Nat) : State :=
  if ¬ isFabric n then s
  else if s.isManager then
    if s.link n = lsDown ∧ s.fbit rf_fabPortStatus_partnerValid n then
      if s.allFacingDown (s.partner n) then s.lose (s.partner n) else s.sendFaultMap
    else s
  else if s.serves ∧ s.fbit rf_fabCoord_valid ∧ s.fbit rf_grvManager_managerValid then
    s.grvSend 0 mtLinkReport 0 0 s.manager (.linkReport n (s.link n) (s.partner n))
  else s

/-- The coordinates of the neighbour in a direction (R429). -/
def State.neighbour (s : State) (dir : Nat) : Addr :=
  let kx := s.fget rf_fabCoord_kxM1 + 1
  let ky := s.fget rf_fabCoord_kyM1 + 1
  let kz := s.fget rf_fabCoord_kzM1 + 1
  let a := s.here 0
  let step := fun (c k : Nat) => if dir % 2 = 0 then (c + 1) % k else (c + k - 1) % k
  match dir / 2 with
  | 0 => { a with x := step a.x kx }
  | 1 => { a with y := step a.y ky }
  | _ => { a with z := step a.z kz }

/-- COORD_OFFER on a port (R429). -/
def State.offer (s : State) (n : Nat) : State :=
  if s.fbit rf_fabCoord_valid ∧ isFabric n ∧ s.alive n ∧ s.fget rf_glbProfile_role ≠ 2 then
    let dest := s.neighbour ((n - 4) / 2)
    s.grvOnce 0 dest (.coordOffer n (s.fget rf_fabCoord_kxM1 + 1) (s.fget rf_fabCoord_kyM1 + 1)
      (s.fget rf_fabCoord_kzM1 + 1) dest)
  else s

/-- The frames queued at a port hold no cells of port n any more. -/
def PortX.forget (x : PortX) (n : Nat) : PortX :=
  { x with txq := x.txq.map fun q => match q.via with
      | some m => if m = n then { q with pool := none } else q
      | none => q }

/-- The other port of a fabric port's direction. -/
def sibling (n : Nat) : Nat := if n % 2 = 0 then n + 1 else n - 1

/-- The frames queued at a fabric port that drains move to the other port of its direction, where that carries traffic
(R399). -/
def State.moveQueue (s : State) (n : Nat) : State :=
  if isFabric n ∧ (s.port n).draining ∧ s.carries (sibling n) then
    let q := (s.port n).txq
    let s := s.setPort n { s.port n with txq := [] }
    s.setPort (sibling n) { s.port (sibling n) with txq := (s.port (sibling n)).txq ++ q }
  else s

/-- The link comes up on lanes: credits and link sequence are reset (R396). -/
def State.linkUp (s : State) (n st lanes code : Nat) : State :=
  let x := s.port n
  let s := s.setPort n { PortX.reset with
    txq := x.txq, heard := s.tick, progress := s.tick, crcs := x.crcs, crcTick := x.crcTick, discards := x.discards
    discardTick := x.discardTick, served := x.served, servedPart := x.servedPart, lastIn := x.lastIn
    paused := x.paused, lastPause := x.lastPause, ignoring := x.ignoring, packets := x.packets, mac := x.mac }
  -- cells held since before the link came up are counted no more (R402)
  let s := (rangeFrom 4 16).foldl (fun s k => s.setPort k ((s.port k).forget n)) s
  let s := (s.setLink n st).fset rf_fabPortStatus_activeLanes n 0 lanes
  let s := s.fset rf_fabPortStatus_failedLanes n 0 (15 - lanes)
  let s := (s.raiseMod code (s.portInfo n 1)).linkChanged n
  (s.moveQueue (sibling n)).offer n

/-- Training succeeds on four lanes. -/
def execLinkTrained (port : Fin 16) (s : State) : Host.Outcome State Fault Refusal :=
  done (if s.link port = lsTraining then s.linkUp port lsUp 15 0x4005 else s)

/-- The lanes of a pair: 0 and 1, or 2 and 3. -/
def pairLanes (high : Bool) : Nat := if high then 12 else 3

/-- Training succeeds on one pair only: a fabric port becomes DEGRADED; a host port has no such state (R394, R420). -/
def execLinkTrainedDegraded (port : Fin 16) (high : Bool) (s : State) : Host.Outcome State Fault Refusal :=
  done (if s.link port = lsTraining ∧ isFabric port then s.linkUp port lsDegraded (pairLanes high) 0x4002 else s)

def execTrainingTimeout (port : Fin 16) (s : State) : Host.Outcome State Fault Refusal :=
  done (if s.link port = lsTraining ∧ s.since (s.port port).since (ms 100) then s.setLink port lsTraining else s)

/-- The port closes: what it still holds is discarded. -/
def State.portClose (s : State) (n : Nat) : State :=
  let x := s.port n
  let s := s.setPort n { PortX.reset with crcs := x.crcs, crcTick := x.crcTick, discards := x.discards,
                                          discardTick := x.discardTick }
  let s := (s.setLink n lsDisabled).fset rf_fabPortStatus_activeLanes n 0 0
  let s := x.txq.foldl (fun s q => (s.countDiscard n).freeCells q) s
  let s := x.packets.foldl (fun s _ => s.countDiscard n) s
  s.linkChanged n

/-- A draining port with nothing left closes. -/
def State.portDrained (s : State) (n : Nat) : State :=
  let x := s.port n
  if x.draining ∧ x.txq.isEmpty ∧ x.retry.isEmpty ∧ x.packets.isEmpty then s.portClose n else s

/-- The link goes DOWN (R396): the retry buffer is discarded, credits are zero; queued frames are routed again. A port that
was draining then has nothing left (R399). -/
def State.linkDown (s : State) (n : Nat) : State :=
  let info := s.portInfo n 1
  let x := s.port n
  let s := s.setPort n { x with
    txq := [], retry := [], drawn := [], peerFreed := [], freed := [], owed := 0, nak := false, relane := false, resends := 0 }
  let s := (s.setLink n lsDown).fset rf_fabPortStatus_activeLanes n 0 0
  let s := s.raiseMod 0x4001 info
  ((x.txq.foldl State.route s).linkChanged n).portDrained n

/-- A link that can go DOWN. -/
def State.linked (s : State) (n : Nat) : Bool := s.alive n || s.link n = lsRelaning

def execLinkIdleTimeout (port : Fin 16) (s : State) : Host.Outcome State Fault Refusal :=
  done (if isFabric port ∧ s.linked port ∧ s.since (s.port port).heard (us 20) then s.linkDown port else s)

def execLinkResendLimit (port : Fin 16) (s : State) : Host.Outcome State Fault Refusal :=
  done (if isFabric port ∧ s.linked port ∧ 8 ≤ (s.port port).resends then s.linkDown port else s)

def execDownRetrain (port : Fin 16) (s : State) : Host.Outcome State Fault Refusal :=
  done (if s.link port = lsDown ∧ s.since (s.port port).since (ms 1) then (s.setLink port lsTraining).linkChanged port
    else s)

/-- A pair of lanes is healthy at both ends. -/
def State.healthy (s : State) (n : Nat) (high : Bool) : Bool :=
  (s.fget rf_fabPortStatus_failedLanes n ||| (s.port n).peerFailed) &&& pairLanes high = 0

/-- A lane fault is known: without a healthy pair the link goes DOWN; otherwise an UP link enters RELANING, and keeps its
retry buffer and link sequence (R396, R397). -/
def State.relaneOr (s : State) (n : Nat) : State :=
  if ¬ s.linked n then s
  else if !s.healthy n false && !s.healthy n true then s.linkDown n
  else if s.link n = lsUp then
    (((s.setLink n lsRelaning).fset rf_fabPortStatus_activeLanes n 0 0)).linkChanged n
  else s

/-- The port's FEC has gone over some codewords: how many it corrected and could not correct is free (R421; log 155). -/
def State.fecReport (s : State) (n : Nat) : State :=
  let (good, s) := s.draw
  let (bad, s) := s.draw
  (s.count .fabPortCount n 7 good).count .fabPortCount n 8 bad

/-- Lanes of this port fail, by lock or by what its FEC counts (R397). -/
def execLaneFault (port : Fin 16) (lanes : BitVec 4) (s : State) : Host.Outcome State Fault Refusal :=
  let u := s.fecReport port
  done (if isFabric port ∧ s.linked port ∧ lanes ≠ 0 then
      let u := u.fset rf_fabPortStatus_failedLanes port 0 (u.fget rf_fabPortStatus_failedLanes port ||| lanes.toNat)
      (u.setPort port { u.port port with relane := true }).relaneOr port
    else u)

/-- Resends every unacknowledged frame, oldest first (R398). -/
def State.resendAll (s : State) (n : Nat) : State :=
  let x := s.port n
  let s := s.setPort n { x with progress := s.tick, resends := if x.retry.isEmpty then 0 else x.resends + 1 }
  x.retry.foldl (fun s (seq, f, c) =>
    (((s.send (.portFrame n seq .good x.mac f c)).count .fabPortCount n 0).count .fabPortCount n 2 (frameBytes f)).count
      .fabPortCount n 5) s

def execRelaneTrained (port : Fin 16) (high : Bool) (s : State) : Host.Outcome State Fault Refusal :=
  done (if s.link port = lsRelaning ∧ ¬ s.since (s.port port).since (ms 2) ∧ s.healthy port high then
      let s := (s.setLink port lsDegraded).fset rf_fabPortStatus_activeLanes port 0 (pairLanes high)
      let s := s.setPort port { s.port port with relane := false, heard := s.tick }
      let s := (s.resendAll port).raiseMod 0x4002 (s.portInfo port 1)
      (s.linkChanged port).offer port
    else s)

def execRelaneTimeout (port : Fin 16) (s : State) : Host.Outcome State Fault Refusal :=
  done (if s.link port = lsRelaning ∧ s.since (s.port port).since (ms 2) then s.linkDown port else s)

/-! ### Enabling and disabling (R396, R399) -/

/-- FAB_PORT_CTL.enable written 1; a port that the profile leaves unused stays DISABLED (R393). -/
def portEnable (n : Nat) (s : State) : State :=
  let s := s.fset rf_fabPortCtl_enable n 0 1
  if s.link n = lsDisabled ∧ s.fget rf_fabPortCtl_direction n ≠ 0xE then (s.setLink n lsTraining).linkChanged n else s

def portWord (s : State) (n : Nat) (enable : Bool) : Word :=
  BitVec.ofNat 64 (insBits (s.reg .fabPortCtl n).toNat 0 0 (b2n enable))

def execPortEnable (port : Fin 16) (s : State) : Host.Outcome State Fault Refusal :=
  done (s.regAccess (domPort port) .sapwood ⟨.fabPortCtl, port, 0⟩ (portWord s port true) (portEnable port))

/-- FAB_PORT_CTL.enable written 0 (R399). -/
def portDisable (n : Fin 16) (s : State) : State :=
  let s := s.fset rf_fabPortCtl_enable n 0 0
  if s.link n = lsDisabled then s
  else if ¬ s.linked n then s.portClose n
  else
    let s := (s.setPort n { s.port n with draining := true }).moveQueue n
    (s.startDrain (.port n)).portDrained n

def execPortDisable (port : Fin 16) (s : State) : Host.Outcome State Fault Refusal :=
  -- a disable of a function of a sleeping domain is a wake event and is not held (R492)
  let s := if s.awake (domPort port) then s else s.wakeEvent (domPort port)
  done (portDisable port s)

/-! ### Frames and flow frames (R398, R400, R402, R403) -/

/-- A frame failed its FCS (R398). -/
def State.badFcs (s : State) (n : Nat) : State :=
  let s := s.count .fabPortCount n 4
  let x := s.port n
  let c := x.crcs + 1
  if dueMs s x.crcTick then
    (s.setPort n { x with crcs := 0, crcTick := some s.tick }).raiseMod 0x4004 (s.portInfo n c)
  else s.setPort n { x with crcs := c }

/-- The operation is one of R403's. -/
def knownOp (op : Nat) : Bool := [0x01, 0x02, 0x03, 0x04, 0x05, 0x10, 0x20].contains op

/-- A frame whose FCS proves bad while it is forwarded cut-through: the egress port stomps it and keeps its number for the
next frame (R400). -/
def State.stomp (s : State) (n : Nat) (f : Frame) (c : Cargo) : State :=
  match s.way (some n) f with
  | .out m eg _ =>
    let x := s.port m
    if x.txq.isEmpty ∧ (x.poolFor eg).isSome then
      ((s.send (.portFrame m x.nextSeq .stomped x.mac eg c)).count .fabPortCount m 0).count .fabPortCount m 2 (frameBytes eg)
    else s
  | _ => s

/-- A port receives a routed frame with its link sequence number; `shared` is the pool that its sender drew on, `header`
that its EtherType, version and channel are those of R403. -/
def execRoutedFrame (port : Fin 16) (seq : BitVec 16) (fcs : Fcs) (shared header : Bool) (f : Frame) (c : Cargo) (s : State) :
    Host.Outcome State Fault Refusal :=
  let n := port.val
  done (if isFabric n ∧ s.alive n then
      let s := (s.count .fabPortCount n 1).count .fabPortCount n 3 (frameBytes f)
      let s := s.setPort n { s.port n with heard := s.tick }
      let d := sext 16 (subMod 16 seq.toNat (s.port n).rxNext)
      match fcs with
      | .stomped => s.count .fabPortCount n 6
      | .bad =>
        let s := s.badFcs n
        if d < 0 then s
        else
          let s := s.setPort n { s.port n with nak := true }
          if d = 0 ∧ header ∧ knownOp f.op then s.stomp n f c else s
      | .good =>
        if ¬ header then s.countDiscard n
        else if d < 0 then s
        else if 0 < d then s.setPort n { s.port n with nak := true }
        else
          let x := s.port n
          let s := s.setPort n { x with rxNext := (x.rxNext + 1) % 65536, nak := false }
          let q : QFrame := ⟨f, f, c, some n, some (if shared then sharedPool else vcOf f)⟩
          if knownOp f.op then s.route q else (s.countDiscard n).freeCells q
    else s)

/-- The last sequence number accepted in order. -/
def PortX.ack (x : PortX) : Nat := (x.rxNext + 65535) % 65536

/-- A flow frame's payload (R402). -/
def State.flowBytes (s : State) (n : Nat) : List Byte :=
  let x := s.port n
  leBytes 2 x.ack
    ++ leBytes 1 ((b2n x.relane <<< 5) + (b2n x.nak <<< 4) + s.fget rf_fabPortStatus_failedLanes n % 16) ++ [0]
    ++ (List.range 12).flatMap (fun v => leBytes 4 (smGet 0 x.freed v)) ++ leBytes 4 (smGet 0 x.freed sharedPool)
    ++ leBytes 4 0

/-- A port sends a flow frame. -/
def execFlowFrameSend (port : Fin 16) (s : State) : Host.Outcome State Fault Refusal :=
  done (if isFabric port ∧ s.linked port then
      let s := s.send (.flow port (s.flowBytes port))
      s.setPort port { s.port port with owed := 0, nak := false }
    else s)

/-- A flow frame of 60 bytes arrives from a partner (R402), and tells the MAC address of its port (R403). -/
def execFlow (port : Fin 16) (src : Addr) (payload : List Byte) (s : State) : Host.Outcome State Fault Refusal :=
  let n := port.val
  done (if isFabric n ∧ s.linked n ∧ payload.length = 60 then
      let s := s.fset rf_fabPortStatus_partner n 0 (src.x * 256 + src.y * 16 + src.z)
      let s := s.fset rf_fabPortStatus_partnerValid n 0 1
      let x := s.port n
      let ack := fld payload 0 2
      -- an acknowledgement covers the frames numbered up to it
      let keep := x.retry.filter fun (q, _, _) => 0 < sext 16 (subMod 16 q ack)
      let moved : Bool := keep.length < x.retry.length
      let s := s.setPort n { x with
        heard := s.tick, retry := keep, peerFailed := fldB payload 2 3 0, mac := (Config.portMac (addrModule src) n).toNat
        progress := if moved then s.tick else x.progress, resends := if moved then 0 else x.resends
        peerFreed := (List.range 13).foldl (fun m v => smSet 0 m v (fld payload (4 + 4 * v) 4)) x.peerFreed }
      -- an untrained link resends when it has trained (R396)
      let s := if fldBit payload 2 4 ∧ s.alive n then s.resendAll n else s
      let s := if fldBit payload 2 5 then s.relaneOr n else s
      s.portDrained n
    else s)

/-- 8 µs without progress: the port resends from the first unacknowledged frame (R398). -/
def execLinkRetryTimeout (port : Fin 16) (s : State) : Host.Outcome State Fault Refusal :=
  let x := s.port port
  done (if isFabric port ∧ s.alive port ∧ !x.retry.isEmpty ∧ s.since x.progress (us 8) then s.resendAll port else s)

/-! ### Coordinates (R422, R429, R430) -/

/-- A write of FAB_COORD waits until every channel but management is empty; a coordinate beyond its size leaves the field
(R4, R422). -/
def coordWrite (v : Nat) (s : State) : State :=
  s.withFab { s.fab with coordNext := some (BitVec.ofNat 64 v) }

def execFabCoordWrite (value : Word) (s : State) : Host.Outcome State Fault Refusal := done (coordWrite value.toNat s)

/-- Carve units of the partitions (R430). -/
def State.unitCounts (s : State) : List Nat :=
  (List.range 16).map fun p => ((List.range 768).filter fun u => s.ownsUnit p u).length

/-- JOIN to the manager, at (0, 0, 0) (R429, R430). -/
def State.joinGrove (s : State) : State :=
  let dest : Addr := ⟨0, 0, 0, 0⟩
  if sameModule dest (s.here 0) ∨ s.fget rf_glbProfile_role = 2 then s
  else
    let s := s.grvSend 0 mtJoin 0 0 dest (.join (s.fget rf_glbProfile_role) (s.fget rf_glbProfile_layout) s.unitCounts
      ((List.range 20).map Config.serial) s.grove.conflict)
    s.fset rf_grvRole_groveState 0 0 2

/-- Every channel other than management is empty. -/
def State.channelsEmpty (s : State) : Bool :=
  (rangeFrom 4 16).all fun n =>
    (s.port n).txq.all (fun q => q.eg.cls = 0) && (s.port n).retry.all fun (_, f, _) => f.cls = 0

/-- The value's fields enter FAB_COORD. -/
def State.takeCoord (s : State) (v : Nat) : State :=
  let put := fun (s : State) (c k : RF) (own size : Nat) =>
    let s := s.fset k 0 0 size
    if own ≤ size then s.fset c 0 0 own else s
  let s := put s rf_fabCoord_x rf_fabCoord_kxM1 (bits v 11 8) (bits v 23 20)
  let s := put s rf_fabCoord_y rf_fabCoord_kyM1 (bits v 7 4) (bits v 19 16)
  let s := put s rf_fabCoord_z rf_fabCoord_kzM1 (bits v 3 0) (bits v 15 12)
  s.fset rf_fabCoord_valid 0 0 (bits v 24 24)

/-- Written coordinates take effect; with valid coordinates the module offers onward and joins (R429, R430). -/
def execCoordTakeEffect (s : State) : Host.Outcome State Fault Refusal :=
  done (match s.fab.coordNext with
    | some v =>
      if s.channelsEmpty then
        let s := (s.withFab { s.fab with coordNext := none }).takeCoord v.toNat
        if s.fbit rf_fabCoord_valid then
          let s := if s.fget rf_grvRole_groveState = 0 then s.fset rf_grvRole_groveState 0 0 1 else s
          ((rangeFrom 4 16).foldl State.offer s).joinGrove
        else s
      else s
    | none => s)

/-- COORD_OFFER arrives on a port: the size less one and the receiver's coordinates (R429). -/
def execCoordOffer (port : Fin 16) (kx ky kz x y z : Fin 16) (s : State) : Host.Outcome State Fault Refusal :=
  done (if s.serves ∧ isFabric port ∧ s.alive port ∧ s.fget rf_glbProfile_role ≠ 2 then
      let v := (1 <<< 24) + (kx.val <<< 20) + (ky.val <<< 16) + (kz.val <<< 12) + (x.val <<< 8) + (y.val <<< 4) + z.val
      if s.fbit rf_fabCoord_valid then
        if (s.reg .fabCoord).toNat = v then s
        else
          let s := s.raiseMod 0xC009 ⟨5, port, 0, addrModule (s.here 0), 0⟩
          let s := s.withGrove { s.grove with conflict := true }
          if s.fget rf_grvRole_groveState = 3 then s else s.joinGrove
      else if s.fab.coordNext.isSome then s
      else coordWrite v s
    else s)

/-! ### Shaping (R414) -/

/-- A bucket after a refill for 64 ns at a rate in GB/s. -/
def refill (cur cap burstKib : Nat) : Nat := min (burstKib * 1024) (cur + 64 * cap)

def execShaperRefill (p : Fin 16) (s : State) : Host.Outcome State Fault Refusal :=
  done (if s.since (smGet 0 s.fab.refilled p) 64 then
      let b := s.fget rf_fabShape_burstKib p
      (s.withFab { s.fab with
        refilled := smSet 0 s.fab.refilled p s.tick
        fabricBucket := smSet 0 s.fab.fabricBucket p
          (refill (smGet 0 s.fab.fabricBucket p) (s.fget rf_fabShape_fabricCap p) b)
        hostBucket := smSet 0 s.fab.hostBucket p
          (refill (smGet 0 s.fab.hostBucket p) (s.fget rf_fabShape_hostCap p) b) })
    else s)

/-! ### The fault map (R410, R435) -/

/-- Installs an entry of the detour table: down_dir and up_dir of a module. -/
def State.setDetour (s : State) (m e : Nat) : State :=
  s.setReg .fabDetour (m / 8) 0
    (BitVec.ofNat 64 (insBits (s.reg .fabDetour (m / 8)).toNat (8 * (m % 8) + 7) (8 * (m % 8)) e))

/-- A module that a FAULT_MAP names lost: it is fenced out, and 0x5007 is raised for each partition that has worked in an epoch.
A lost module receives a FAULT_MAP only where quarantine removed it (R282, assumption 65). -/
def State.namedLost (s : State) : State :=
  (List.range 16).foldl (fun s p => if (s.part p).hist.isEmpty then s else s.raise 0x5007 p ⟨8, p, 0, 0, s.epoch p⟩)
    (s.fset rf_grvRole_groveState 0 0 4)

/-- FAULT_MAP: lost modules and links, and the next generation; with the tables of this module, as (module index, entry).
Ports that face a lost module are disabled; a module that is named lost is fenced out. -/
def execFaultMap (g : Mg) (modules : List Nat) (_links : List (Nat × Nat)) (gen : Fin 16) (upMask : BitVec 6)
    (tables : List (Nat × Nat)) (s : State) : Host.Outcome State Fault Refusal :=
  done (s.grvOrder mtFaultMap g.reqId g fun s =>
    let s := s.fset rf_fabRouteCtl_detourEnable 0 0 0
    let s := tables.foldl (fun s (m, e) => if m < 4096 then s.setDetour m e else s) s
    let s := s.fset rf_fabRouteCtl_upMask 0 0 upMask.toNat
    let s := s.fset rf_fabRouteCtl_detourGen 0 0 gen
    let s := s.fset rf_fabRouteCtl_detourEnable 0 0 1
    let s := (List.finRange 16).foldl (fun (s : State) (n : Fin 16) =>
      if isFabric n ∧ s.fbit rf_fabPortStatus_partnerValid n ∧ modules.contains (s.partner n) then portDisable n s else s) s
    if modules.contains (addrModule (s.here 0)) then s.namedLost else s)

end Sys2Proof.Machine
end

