-- ==== Sys2Proof/Machine/Hbm.lean ====
section
/-! DEFINITION. The HBM system (R364 to R392): refresh and temperature, throttling, the regulators and their scheduler, patrol
scrub, and hard repair. -/
namespace Sys2Proof.Machine

def State.stackX (s : State) (st : Nat) : StackX := smGet .reset s.hbm.stackXs st
def State.setStackX (s : State) (st : Nat) (x : StackX) : State :=
  s.withHbm { s.hbm with stackXs := smSet .reset s.hbm.stackXs st x }

def hours (n : Nat) : Nat := 3600000 * ms 1 * n

/-! ### Guaranteed rates (R380, R381) -/

/-- The guaranteeable rate of a stack in tenths of GB/s, by effective multiplier. -/
def guarantee (refresh : Nat) : Nat := if refresh = 0 then 23808 else if refresh = 1 then 23296 else 22816

/-- Sum of the partitions' min on a stack. -/
def State.minSum (s : State) (st : Nat) : Nat := (List.range 16).foldl (fun a p => a + s.fget rf_hbmRegRate_min st p) 0

/-- The rate in force in twentieths of GB/s: halved while the stack is throttled. -/
def State.rateInForce (s : State) (st : Nat) : Nat :=
  guarantee (s.fget rf_hbmStackStatus_effRefresh st) * (if s.fbit rf_hbmStackStatus_throttled st then 1 else 2)

/-- Recomputes every eff_min; `changed` is that the multiplier or the throttle did (R381). -/
def State.rescale (s : State) (st : Nat) (changed : Bool) : State :=
  let sum := s.minSum st
  let a := s.rateInForce st
  let tooMuch : Bool := a < 20 * sum
  let was := s.fbit rf_hbmStackStatus_rescaled st
  let s := (List.range 16).foldl (fun s p =>
    let m := s.fget rf_hbmRegRate_min st p
    s.fset rf_hbmRegRate_effMin st p (if tooMuch then m * a / (20 * sum) else m)) s
  let s := s.fset rf_hbmStackStatus_rescaled st 0 (b2n tooMuch)
  if (tooMuch && changed) || (was != tooMuch) then s.raiseMod 0x3005 ⟨4, st, 0, 0, 0⟩ else s

/-- A write of HBM_REG_RATE (R380): a reserved value leaves its field, a min above a non-zero cap leaves both. -/
def regRateWrite (st p v : Nat) (s : State) : State :=
  let m := if bits v 15 0 ≤ 3200 then bits v 15 0 else s.fget rf_hbmRegRate_min st p
  let c := if bits v 31 16 ≤ 3200 then bits v 31 16 else s.fget rf_hbmRegRate_cap st p
  if c ≠ 0 ∧ c < m then s
  else if guarantee 0 < 10 * (s.minSum st - s.fget rf_hbmRegRate_min st p + m) then s.fset rf_hbmStackStatus_regError st 0 1
  else ((s.fset rf_hbmRegRate_min st p m).fset rf_hbmRegRate_cap st p c).rescale st false

def execRegRateWrite (stack : Fin 12) (p : Fin 16) (value : Word) (s : State) : Host.Outcome State Fault Refusal :=
  done (s.regAccess (domStack stack) .sapwood ⟨.hbmRegRate, stack, p⟩ value (regRateWrite stack p value.toNat))

/-! ### Refresh and temperature (R373, R374) -/

/-- The effective multiplier follows the planned one and the temperature. -/
def State.effRefresh (s : State) (st : Nat) : State :=
  let old := s.fget rf_hbmStackStatus_effRefresh st
  let new := max (s.fget rf_hbmStackStatus_planRefresh st) (if s.fbit rf_hbmStackStatus_tempRaised st then 2 else 0)
  if new = old then s
  else
    let s := s.fset rf_hbmStackStatus_effRefresh st 0 new
    let s := if old < new then s.raiseMod 0x3004 ⟨4, st, 0, 0, 0⟩ else s
    s.rescale st true

/-- Microseconds throttled are counted up to this tick (R391). -/
def State.countThrottle (s : State) (st : Nat) : State :=
  let x := s.stackX st
  let n := (s.tick - x.throttleTick) / 1000
  (s.setStackX st { x with throttleTick := x.throttleTick + 1000 * n }).count .hbmCount st 7 n

/-- The sensor of a stack is read, every 1 ms: °C. -/
def execHbmSensorRead (stack : Fin 12) (temp : BitVec 8) (s : State) : Host.Outcome State Fault Refusal :=
  let t := temp.toNat
  done (if s.fbit rf_hbmStackStatus_trained stack ∧ s.awake (domStack stack) then
      let s := (s.noteTemp (16 + stack) t).fset rf_hbmStackStatus_tempC stack 0 t
      let limit := s.fget rf_hbmRefreshCtl_tempLimitC stack
      let x := s.stackX stack
      let s := s.setStackX stack { x with
        coolSince := if t ≤ s.fget rf_hbmRefreshCtl_tempLowerC stack then some (x.coolSince.getD s.tick) else none
        freeSince := if t + 5 ≤ limit then some (x.freeSince.getD s.tick) else none }
      let s := if s.fget rf_hbmRefreshCtl_tempRaiseC stack ≤ t ∧ ¬ s.fbit rf_hbmStackStatus_tempRaised stack then
          (s.fset rf_hbmStackStatus_tempRaised stack 0 1).effRefresh stack
        else s
      if s.fbit rf_hbmStackStatus_throttled stack then s.countThrottle stack
      else if limit ≤ t then
        let s := s.fset rf_hbmStackStatus_throttled stack 0 1
        let s := s.setStackX stack { s.stackX stack with throttleTick := s.tick }
        (s.raiseMod 0x3007 ⟨4, stack, 0, 0, 0⟩).rescale stack true
      else s
    else s)

/-- 100 ms at most temp_lower_c without a break: the temperature multiplier returns to 1×. -/
def execHbmTempLowerHold (stack : Fin 12) (s : State) : Host.Outcome State Fault Refusal :=
  done (match (s.stackX stack).coolSince with
    | some t =>
      if s.fbit rf_hbmStackStatus_tempRaised stack ∧ s.since t (ms 100) then
        (s.fset rf_hbmStackStatus_tempRaised stack 0 0).effRefresh stack
      else s
    | none => s)

/-- 100 ms at least 5 °C below the limit: throttling ends. -/
def execHbmThrottleEnd (stack : Fin 12) (s : State) : Host.Outcome State Fault Refusal :=
  done (match (s.stackX stack).freeSince with
    | some t =>
      if s.fbit rf_hbmStackStatus_throttled stack ∧ s.since t (ms 100) then
        ((s.countThrottle stack).fset rf_hbmStackStatus_throttled stack 0 0).rescale stack true
      else s
    | none => s)

/-- A stack is refreshed, ahead of every class of traffic. -/
def execHbmRefresh (stack : Fin 12) (s : State) : Host.Outcome State Fault Refusal :=
  done (if s.fbit rf_hbmStackStatus_ready stack then s.setStackX stack { s.stackX stack with refreshTick := s.tick } else s)

/-! ### Regulators (R376 to R378) -/

/-- The system class. -/
def sysClass : Nat := 16

/-- The class of an access (R376). -/
def State.hbmClass (s : State) (r : HbmReq) : Nat :=
  match r.part with
  | none => sysClass
  | some p =>
    let u := r.pa / 0x40000000
    let fenced : Bool := (List.range 16).any fun q => s.ownsUnit q u
    if r.gf ∨ (fenced ∧ bit (s.fget rf_hbmSysUnits_units (u / 64)) (u % 64)) then sysClass else p

def reqCost (r : HbmReq) : Nat := if r.heavy then 256 else 128

def State.hbmMin (s : State) (st c : Nat) : Nat := if c = sysClass then 96 else s.fget rf_hbmRegRate_effMin st c
def State.hbmCap (s : State) (st c : Nat) : Nat := if c = sysClass then 0 else s.fget rf_hbmRegRate_cap st c
def State.hbmBurst (s : State) (st c : Nat) : Nat :=
  1024 * (if c = sysClass then 64 else s.fget rf_hbmRegShape_burstKib st c)
def State.hbmWeight (s : State) (st c : Nat) : Nat :=
  if c = sysClass then s.fget rf_hbmGlbCtl_sysWeight else s.fget rf_hbmRegShape_weight st c

/-- Every 64 ns all buckets gain their rates, up to their bursts (R377). -/
def execRegulatorRefill (s : State) : Host.Outcome State Fault Refusal :=
  done (if s.since s.hbm.refillTick 64 then
      let s := (List.range 12).foldl (fun s st =>
        let x := s.stackX st
        let fill (m : SMap Nat) (rate : Nat → Nat) : SMap Nat := (List.range 17).foldl (fun m c =>
          smSet 0 m c (min (s.hbmBurst st c) (smGet 0 m c + 64 * rate c))) m
        s.setStackX st { x with
          minBucket := fill x.minBucket (s.hbmMin st), capBucket := fill x.capBucket (s.hbmCap st) }) s
      (s.withHbm { s.hbm with refillTick := s.tick })
    else s)

/-- The next class after one in round-robin order that a test holds of. -/
def nextClass (after : Nat) (ok : Nat → Bool) : Option Nat := ((List.range 17).map fun i => (after + 1 + i) % 17).find? ok

/-- The weighted round-robin: the class it is at serves while its deficit covers the cost; otherwise the next class with a
request gains its weight in lines. -/
def drr (weight : Nat → Nat) (cost : Nat → Option Nat) : Nat → Nat → (Nat → Nat) → Option (Nat × (Nat → Nat))
  | 0, _, _ => none
  | k + 1, c, d =>
    let on := fun (c : Nat) => (c + 1) % 17
    match cost c with
    | some n => if n ≤ d c then some (c, fun i => if i = c then d c - n else d i)
      else drr weight cost k (on c) fun i => if i = on c then (if (cost i).isSome then d i + 128 * weight i else 0) else d i
    | none => drr weight cost k (on c) fun i => if i = on c then (if (cost i).isSome then d i + 128 * weight i else 0) else d i

/-- A pseudo-channel has a slot free, with these accesses waiting, oldest first (R378). -/
def execChannelSchedule (stack : Fin 12) (pc : Fin 64) (waiting : List HbmReq) (s : State) :
    Host.Outcome State Fault Refusal :=
  let st := stack.val
  let x := s.stackX st
  let reqs := waiting.filter fun r => r.pa < hbmTop && (s.hbmPlace r.pa).stack = st && (s.hbmPlace r.pa).pc = pc.val
  let row := fun (r : HbmReq) => rowNo (s.hbmPlace r.pa)
  -- within a class, a row hit goes before older accesses
  let head := fun (c : Nat) =>
    let mine := reqs.filter fun r => s.hbmClass r = c
    match mine.find? fun r => smGet none x.lastRow pc.val = some (row r) with
    | some r => some r
    | none => mine.head?
  let cost := fun (c : Nat) => (head c).map reqCost
  let covered := fun (m : SMap Nat) (c : Nat) => match cost c with
    | some n => decide (n ≤ smGet 0 m c)
    | none => false
  let serve (x : StackX) (c : Nat) : State := match head c with
    | some r => s.setStackX st { x with
        minBucket := smSet 0 x.minBucket c (smGet 0 x.minBucket c - reqCost r)
        capBucket := smSet 0 x.capBucket c (smGet 0 x.capBucket c - reqCost r)
        lastRow := smSet none x.lastRow pc.val (some (row r))
        skip := smSet false x.skip pc.val true
        served := x.served ++ [(pc.val, c, r.pa)] }
    | none => s
  done (if ¬ s.fbit rf_hbmStackStatus_ready st then s
    else if s.fbit rf_hbmStackStatus_throttled st ∧ smGet false x.skip pc.val then
      s.setStackX st { x with skip := smSet false x.skip pc.val false }
    else match nextClass (smGet 0 x.lastMin pc.val) (covered x.minBucket) with
      | some c => serve { x with lastMin := smSet 0 x.lastMin pc.val c } c
      | none =>
        let ok := fun (c : Nat) => (s.hbmCap st c = 0 && (cost c).isSome) || covered x.capBucket c
        let d := fun (c : Nat) => smGet 0 x.deficit (17 * pc.val + c)
        match drr (s.hbmWeight st) (fun c => if ok c then cost c else none) 52 (smGet 0 x.lastCap pc.val) d with
        | some (c, d) => serve { x with
            lastCap := smSet 0 x.lastCap pc.val c
            deficit := (List.range 17).foldl (fun m i => smSet 0 m (17 * pc.val + i) (d i)) x.deficit } c
        | none => s)

/-! ### Scrub (R371) -/

/-- A patrol read of a line; `bad` is the number of bad symbols that the line code finds in it, 3 for more than it
corrects. -/
def execScrubLine (line : BitVec 33) (bad : Fin 4) (s : State) : Host.Outcome State Fault Refusal :=
  let l := line.toNat
  let pa := 128 * l
  let st := (s.hbmPlace pa).stack
  done (if s.fbit rf_hbmGlbCtl_scrubEnable ∧ pa < hbmTop ∧ s.fbit rf_hbmStackStatus_ready st ∧ s.awake (domStack st) then
      let old := smGet 0 s.hbm.lineErr l
      let s := s.withHbm { s.hbm with lineErr := smSet 0 s.hbm.lineErr l (max old bad.val) }
      ((s.count .hbmCount st 5).lineRead 1 pa).2
    else s)

/-- The end of a scrub period: the counts of the rows start again, and a written period takes effect. -/
def execScrubPeriodBoundary (s : State) : Host.Outcome State Fault Refusal :=
  done (if s.since s.hbm.scrubStart (hours s.hbm.scrubHours) then
      s.withHbm { s.hbm with
        rowCnt := [], scrubStart := s.tick, scrubHours := s.fget rf_hbmGlbCtl_scrubPeriodH }
    else s)

/-! ### Hard repair (R384, R387) -/

/-- The lowest physical address of a row (R365). -/
def State.rowPa (s : State) (row : Nat) : Nat :=
  let b := bankOfRow row
  let st := b / 4096
  let bank := (b % 64) ^^^ (row % 64)
  let w := (row % 16384) * 512 + bank * 8
  let q := w * 64 + ((b / 64 % 64) ^^^ (w % 64))
  if s.fget rf_hbmGlbCtl_interleave = 0 then st / 3 * 0x3000000000 + 128 * (3 * q + st % 3) else 128 * (12 * q + st)

/-- No partition has a stream outside DISABLED. -/
def State.allDisabled (s : State) : Bool :=
  (List.range 64).all fun k => (s.partOf k).isNone || (List.range 3).all fun st => s.strState k st = ssDisabled

/-- A write of HBM_REPAIR_CMD by the host. -/
def hardRepair (v : Nat) (s : State) : State :=
  let result (s : State) (r : Nat) : State := s.fset rf_hbmRepairStatus_result 0 0 r
  let row := ((bits v 55 52 * 64 + bits v 51 46) * 64 + bits v 45 40) * 16384 + bits v 39 26
  if bits v 1 0 ≠ 1 ∨ 12 ≤ bits v 55 52 ∨ s.fbit rf_hbmRepairStatus_busy then s
  else if s.fget rf_glbProfile_role ≠ 2 then result s 3
  else if ¬ s.allDisabled then result s 4
  else if s.sparesLeft row = 0 ∧ ¬ s.hbm.soft.contains row ∧ ¬ s.hbm.cand.contains row then result s 5
  else
    let s := (result s 1).fset rf_hbmRepairStatus_busy 0 0 1
    (s.withHbm { s.hbm with repairing := some row })

def execHardRepair (value : Word) (s : State) : Host.Outcome State Fault Refusal := done (hardRepair value.toNat s)

/-- A hard repair ends; `ok` is whether the stack took it. -/
def execHardRepairDone (ok : Bool) (s : State) : Host.Outcome State Fault Refusal :=
  done (match s.hbm.repairing with
    | some row =>
      let s := (s.withHbm { s.hbm with repairing := none }).fset rf_hbmRepairStatus_busy 0 0 0
      if ok then
        let b := bankOfRow row
        let s := s.withHbm { s.hbm with
          cand := s.hbm.cand.filter (· ≠ row), soft := s.hbm.soft.filter (· ≠ row), hard := s.hbm.hard ++ [row] }
        let s := (s.ledgerAdd 3 (b / 4096) (leBytes 8 (rowWord row))).fset rf_hbmRepairStatus_result 0 0 2
        s.raiseMod 0x3009 ⟨4, b / 4096, 0, (b / 64 % 64) + ((b % 64) <<< 6), s.rowPa row⟩
      else s.fset rf_hbmRepairStatus_result 0 0 6
    | none => s)

end Sys2Proof.Machine
end

