-- ==== Sys2Proof/Machine/Status.lean ====
section
/-! DEFINITION. The status registers of the engines follow the descriptors in flight (R78, R107, R178, R221, R329), also where
a descriptor is voided. -/
namespace Sys2Proof.Machine

/-- GRV_COL_STATUS follows the partition's collectives (R329): a permutation that is saved still shows. -/
def State.syncCol (s : State) (p : Nat) : State :=
  let has := fun op => s.flights.any fun f => hOpcode f.bytes = op && s.partOf f.core = some p && f.phase ≠ .done
  let runs := fun op => b2n (has op && s.preState p ≠ psSaved && s.preState p ≠ psRestoring)
  let s := s.fset rf_grvColStatus_ringActive p 0 (runs 0x66)
  let s := s.fset rf_grvColStatus_gatherActive p 0 (runs 0x63)
  let s := s.fset rf_grvColStatus_exchangeActive p 0 (runs 0x65)
  s.fset rf_grvColStatus_permuteActive p 0 (b2n (has 0x64))

/-- The status registers of a core's engines follow its descriptors. -/
def State.syncEngines (s : State) (core op : Nat) : State :=
  match engineOf op with
  | .lattice => if op = 0x90 then s else s.syncLat core
  | .vector => s.syncVec core
  | .gram => if op ≤ 0x71 then s else s.syncAsm core
  | .solver => s.syncSlv (clusterOf core)
  | .sweep => match s.partOf core with
    | some p => s.syncSweep p
    | none => s
  | _ => if 0x63 ≤ op ∧ op ≤ 0x66 then
      match s.partOf core with
      | some p => s.syncCol p
      | none => s
    else s

/-- A descriptor in progress completes VOIDED (R13, R274, R280). -/
def State.voidFlight (s : State) (p : Nat) (f : Flight) : State :=
  (s.endFlight (if hOpcode f.bytes = 0x62 then { f with detail := s.waitDetail p f.bytes } else f) stVoided).syncEngines
    f.core (hOpcode f.bytes)

end Sys2Proof.Machine
end

