-- ==== Sys2Proof/Machine/Parity.lean ====
section
/-! DEFINITION. Shadow parity (R437 to R443): the parity record, the deltas that a member sends after the commit point, and
the apply journal of a holder. -/
namespace Sys2Proof.Machine

open Eng

/-! ### Ranks (R295, R297) -/

/-- The partition's job map. -/
def State.jobMap (s : State) (p : Nat) : Option (List Byte) × State :=
  let n := s.fget rf_grvJobMapBase_count p
  if n = 0 then (none, s) else s.accountRead p stJobMap (s.fget rf_grvJobMapBase_base p * 64) (8 * n)

def jmValid (e : List Byte) : Bool := fldBit e 6 0
def jmAddr (e : List Byte) : Addr := ⟨fldB e 0 3 0, fldB e 0 7 4, fldB e 1 3 0, fldB e 1 7 4⟩
def jmGroup (e : List Byte) : Nat := fld e 2 2
def jmPosition (e : List Byte) : Nat := fld e 4 2

/-- Entry of a rank, none where it is not valid. -/
def jobEntry (map : List Byte) (rank : Nat) : Option (List Byte) :=
  let e := slice map (8 * rank) 8
  if 8 * rank < map.length ∧ jmValid e then some e else none

/-! ### The code over GF(2^16) (R438, R447) -/

/-- α to a power. -/
def alpha : Nat → Nat
  | 0 => 1
  | n + 1 => gf 2 (alpha n)

/-- The product of the squarings x², x⁴, … of k steps: for k = 15 the inverse of x. -/
def gfSquares : Nat → Nat → Nat
  | 0, _ => 1
  | k + 1, x => let y := gf x x; gf y (gfSquares k y)

def gfInv (x : Nat) : Nat := gfSquares 15 x

/-! ### The parity record (R437, R439) -/

structure ParRec where
  /-- Job rank at each position. -/
  ranks : List Nat
  position : Nat
  /-- Journal chunks of each member. -/
  n : Nat
  firstBucket : Nat
  deltaVa : Nat
  parityVa : Nat
  applyVa : Nat
deriving DecidableEq, Repr

def parRec (b : List Byte) : ParRec :=
  ⟨(List.range 10).map fun i => fld b (2 * i) 2, fldB b 20 3 0, fld b 24 4, fld b 28 2, fld b 32 8, fld b 40 8, fld b 48 8⟩

namespace ParRec

/-- Parity units of a holder; delta buckets of one bank. -/
def quarter (r : ParRec) : Nat := r.n / 4
def buckets (r : ParRec) : Nat := r.n / 20

def legal (r : ParRec) : Bool :=
  r.position ≤ 9 && r.n % 20 = 0 && 20 ≤ r.n && r.n ≤ 262140 && r.firstBucket + 2 * r.buckets ≤ 65536

/-- The delta bucket b of an epoch (R440). -/
def bucket (r : ParRec) (epoch b : Nat) : Nat := r.firstBucket + r.buckets * (epoch % 2) + b

def scratch (r : ParRec) : Nat := r.applyVa + 64 + roundUp r.quarter 64

end ParRec

/-- Bytes of a unit (R437). -/
def unitBytes : Nat := 1638400

/-- The h-th pair in ascending order once the pair of position q is left out (R437). -/
def pairAt (q h : Nat) : Nat := if h < q / 2 then h else h + 1

/-- The data index of a member in codewords of pair c (R438). -/
def dataIndex (q c : Nat) : Nat := if q < 2 * c then q else q - 2

/-- The partition's parity record, where the parity engine serves it. -/
def State.parRecord (s : State) (p : Nat) : Option ParRec × State :=
  if s.fbit rf_grvParityBase_enable p then
    match s.own (readLocal (pinnedReq p) (s.fget rf_grvParityBase_base p * 64) 64) with
    | (some b, s) => if (parRec b).legal then (some (parRec b), s) else (none, s)
    | (none, s) => (none, s)
  else (none, s)

/-! ### Images of chunks (R437) -/

/-- The record that a chunk belongs to, and its index within it. -/
def State.chunkRecord (s : State) (p k : Nat) : Option (LayerRec × Nat) :=
  ((s.layerTable p).find? fun (_, r) => r.firstChunk ≤ k ∧ k < r.firstChunk + r.chunkCount).map
    fun (_, r) => (r, k - r.firstChunk)

/-- The parts of a chunk's image: where each starts in the image, where it lies in memory, and its length. -/
def imageParts (r : LayerRec) (j : Nat) : List (Nat × Nat × Nat) :=
  let (a, b) := r.params j
  let (c, d) := r.sketchVals j
  [(0, r.master + 4 * a, 4 * (b - a)), (0x100000, r.moment + 2 * a, 2 * (b - a)), (0x180000, r.sketch + 4 * c, 4 * (d - c))]

/-- Bytes [off, off + n) of an image whose parts lie at `at` of each part: zero where the chunk does not fill it. -/
def imageBytes (q : XReq) (parts : List (Nat × Nat × Nat)) (off n : Nat) : Eng (List Byte) := do
  let ps ← mapE parts fun (o, va, len) => do
    let lo := max off o
    let hi := min (off + n) (o + len)
    if lo < hi then return (lo - off, ← readLocal q (va + (lo - o)) (hi - lo)) else return (0, [])
  return ps.foldl (fun bs (o, w) => patch bs o w) (List.replicate n 0)

/-- Bytes [off, off + n) of a source unit. -/
def unitPiece (q : XReq) (r : ParRec) (u : USrc) (off n : Nat) : Eng (List Byte) := do
  let s ← getS
  match u with
  | .delta k =>
    match s.chunkRecord q.p k with
    | none => return List.replicate n 0
    | some (lr, j) =>
      let a ← imageBytes q (imageParts lr j) off n
      let b ← imageBytes q ((imageParts lr j).map fun (o, _, len) => (o, s.undoAddr q.p k + o, len)) off n
      return xorBytes a b
  | .image k =>
    match s.chunkRecord q.p k with
    | none => return List.replicate n 0
    | some (lr, j) => imageBytes q (imageParts lr j) off n
  | .parity u => readLocal q (r.parityVa + unitBytes * u + off) n
  | .lines va => readLocal q (va + off) n

/-! ### Transfers (R441, R448) -/

/-- Lines of a unit, and of one request. -/
def unitLines : Nat := 12800
def xferBatch : Nat := 32

def Xfer.lines (x : Xfer) : Nat := unitLines * x.src.length

def State.par (s : State) (p : Nat) : ParX := (s.part p).par
def State.setPar (s : State) (p : Nat) (x : ParX) : State := s.setPart p { s.part p with par := x }

def State.xfer (s : State) (p id : Nat) : Option Xfer := (s.par p).xfers.find? (·.id = id)
def State.setXfer (s : State) (p : Nat) (x : Xfer) : State :=
  let y := s.par p
  s.setPar p { y with xfers := y.xfers.map fun z => if z.id = x.id then x else z }
def State.dropXfer (s : State) (p id : Nat) : State :=
  let y := s.par p
  s.setPar p { y with xfers := y.xfers.filter (·.id ≠ id) }

/-- The request for the next lines of a transfer. -/
def xferReq (q : XReq) (r : ParRec) (x : Xfer) : Eng AccReq := do
  let u := x.src.getD (x.next / unitLines) (.image (2 ^ 32))
  let data ← unitPiece q r u (128 * (x.next % unitLines)) (128 * xferBatch)
  return ⟨(x.epoch % 65536) * 65536 + x.bucket, x.who, x.next, xferBatch, true, cGF16, cGF16, x.coef, data⟩

/-- Requests of the parity engine carry 2, the partition and the transfer. -/
def xferAux (p id : Nat) : List Nat := [2, p, id]

/-- A wait of the retry interval before the transfer goes on (R264). -/
def State.xferWait (s : State) (p id : Nat) : State :=
  (s.request p { noFlight with stream := 3 } none (some (s.tick + us (s.fget rf_grvRedCtl_retryIntervalUs p)))
    (xferAux p id)).1

/-- Whether a transfer goes on at once, waits, or has ended, from an answer (R264). -/
inductive XferNext where
  | go (next : Nat)
  | wait (next : Nat)
  | ended
deriving DecidableEq, Repr

def xferAnswer (x : Xfer) (ans mark : Nat) : XferNext :=
  if ans = anAccepted ∨ ans = anDuplicate then .go (max x.next mark)
  else if ans = anOutOfOrder then .go mark
  else if ans = anNotOpen ∨ ans = anNotReady then .wait x.next
  else .ended

/-- Sends a transfer's next request; a transfer to a bucket of this partition goes on until it is done or must wait. The
answer says whether the transfer is over. -/
def State.xferGo (s : State) (p : Nat) (r : ParRec) (x : Xfer) : Nat → Bool × State
  | 0 => (false, s)
  | fuel + 1 =>
    if x.lines ≤ x.next then (true, s)
    else
      match s.ownE (xferReq (accountReq p) r x) with
      | (.error _, s) => (false, s.xferWait p x.id)
      | (.ok a, s) =>
        if x.dst = s.here p then
          let (b, s) := s.bktAsk p (s.here p) a
          let s := s.noteAnswer p b.1
          match xferAnswer x b.1 b.2 with
          | .go m =>
            let x := { x with next := m }
            (s.setXfer p x).xferGo p r x fuel
          | .wait _ => (false, s.xferWait p x.id)
          | .ended => (true, s)
        else
          let m := Msg.frame { cls := 2, dst := x.dst, src := s.here p, op := 0x03, reqId := 0, ops := accFields a,
                               payload := a.data }
          (false, (s.request p { noFlight with stream := 3 } (some m) none (xferAux p x.id)).1)

def Xfer.fuel (x : Xfer) : Nat := x.lines / xferBatch + 1

/-! ### Deltas (R441, R443) -/

/-- Transfer i of a member's deltas: quarter h, the holder of P or of Q, and delta bucket b. -/
def deltaXfer (r : ParRec) (map : List Byte) (encode : Bool) (epoch id i : Nat) : Xfer :=
  let b := i % r.buckets
  let holder := i / r.buckets % 2
  let h := i / (2 * r.buckets)
  let c := pairAt r.position h
  let dst := match jobEntry map (r.ranks.getD (2 * c + holder) 0) with
    | some e => jmAddr e
    | none => ⟨0, 0, 0, 0⟩
  { id := id, chain := false, idx := i, dst := dst, epoch := epoch, bucket := r.bucket epoch b, who := r.position
    coef := if holder = 0 then 1 else alpha (dataIndex r.position c)
    src := (List.range 5).map fun j =>
      let k := h * r.quarter + 5 * b + j
      if encode then .image k else .delta k
    next := 0 }

/-- Transfer i of the deltas begins; past the last, none is in flight. -/
def State.deltaNext (s : State) (p : Nat) (r : ParRec) (i : Nat) : State :=
  if 8 * r.buckets ≤ i then s.fset rf_grvParityStatus_sending p 0 0
  else
    match s.jobMap p with
    | (none, s) => s.fset rf_grvParityStatus_sending p 0 0
    | (some map, s) =>
      let y := s.par p
      let x := deltaXfer r map y.encode.isSome y.sendEpoch y.nextId i
      let s := (s.setPar p { y with nextId := y.nextId + 1, xfers := y.xfers ++ [x] }).fset
        rf_grvParityStatus_sending p 0 1
      (s.xferGo p r x 1).2

/-- A member sends its deltas, or its images, to the delta buckets of an epoch (R441, R443). -/
def State.deltaStart (s : State) (p epoch : Nat) (encode : Option Nat) : State :=
  match s.parRecord p with
  | (none, s) => s
  | (some r, s) =>
    let y := s.par p
    (s.setPar p { y with xfers := y.xfers.filter (·.chain), sendEpoch := epoch, encode := encode }).deltaNext p r 0

/-! ### The apply journal (R442) -/

-- States of a parity unit.
def auIdle : Nat := 0
def auCopiedF : Nat := 1
def auApplied : Nat := 2
def auCopiedR : Nat := 3

/-- Writes a unit of the parity region with the held delta added. -/
def xorUnit (q : XReq) (r : ParRec) (u : Nat) : Eng Unit := do
  let a ← readLocal q (r.parityVa + unitBytes * u) unitBytes
  let d ← readLocal q (r.deltaVa + unitBytes * u) unitBytes
  writeLocal q (r.parityVa + unitBytes * u) (xorBytes a d)

def toScratch (q : XReq) (r : ParRec) (u : Nat) : Eng Unit := do
  writeLocal q r.scratch (← readLocal q (r.parityVa + unitBytes * u) unitBytes)

def fromScratch (q : XReq) (r : ParRec) (u : Nat) : Eng Unit := do
  writeLocal q (r.parityVa + unitBytes * u) (← readLocal q r.scratch unitBytes)

def unitState (q : XReq) (r : ParRec) (u : Nat) : Eng Nat := do return leNat (← readLocal q (r.applyVa + 64 + u) 1)
def setUnit (q : XReq) (r : ParRec) (u st : Nat) : Eng Unit := writeLocal q (r.applyVa + 64 + u) (leBytes 1 st)

/-- Counts a unit applied or reversed, and shows those in APPLIED (R458, R459). -/
def State.unitDone (s : State) (p : Nat) (applied : Bool) : State :=
  let n := s.fget rf_grvParityStatus_unitsApplied p
  (s.count .grvCount 5 0).fset rf_grvParityStatus_unitsApplied p 0 (if applied then n + 1 else n - 1)

/-- Forward steps of a unit from where the journal says it stands. -/
def applyUnit (q : XReq) (r : ParRec) (u : Nat) : Eng Unit := do
  let st ← unitState q r u
  if st = auIdle then
    toScratch q r u
    setUnit q r u auCopiedF
  if st = auIdle ∨ st = auCopiedF then
    fromScratch q r u
    xorUnit q r u
    setUnit q r u auApplied
    modS (·.unitDone q.p true)

/-- Reverse steps of a unit. -/
def reverseUnit (q : XReq) (r : ParRec) (u : Nat) : Eng Unit := do
  let st ← unitState q r u
  if st = auCopiedF then
    fromScratch q r u
    setUnit q r u auIdle
  else if st = auApplied ∨ st = auCopiedR then
    if st = auApplied then
      toScratch q r u
      setUnit q r u auCopiedR
    fromScratch q r u
    xorUnit q r u
    setUnit q r u auIdle
    modS (·.unitDone q.p false)

/-- The delta buckets of one bank are COMPLETE in one epoch. -/
def State.bankComplete (s : State) (p : Nat) (r : ParRec) (bank : Nat) : Option Nat :=
  let bs := (List.range r.buckets).map fun b => s.bkt p (r.firstBucket + r.buckets * bank + b)
  match bs.head? with
  | some (some b0) =>
    if b0.epoch % 2 = bank ∧ bs.all fun b => match b with
      | some b => b.state = 2 && b.epoch = b0.epoch && !b.failed
      | none => false
    then some b0.epoch else none
  | _ => none

/-- The bucket epoch whose delta is complete and not yet applied. -/
def State.deltaReady (s : State) (p : Nat) (r : ParRec) : Option Nat :=
  let fresh := fun (e : Option Nat) => match e with
    | some e => if (s.par p).applied = some e then none else some e
    | none => none
  match fresh (s.bankComplete p r 0) with
  | some e => some e
  | none => fresh (s.bankComplete p r 1)

/-- The held delta is released: the units stand at IDLE for the next one (R442). -/
def State.releaseDelta (s : State) (p : Nat) (r : ParRec) : State :=
  let s := (s.own (writeLocal (accountReq p) (r.applyVa + 64) (List.replicate r.quarter 0))).2
  let s := s.setPar p { s.par p with held := none }
  let s := s.fset rf_grvParityStatus_unitsApplied p 0 0
  let s := s.fset rf_grvParityStatus_held p 0 0
  s.fset rf_grvParityStatus_protected p 0 1

/-- RESHARD_DONE follows once the permutation and the encode that RESHARD asked for are done (R450). -/
def State.reshardStep (s : State) (p : Nat) (planDone encodeDone : Bool) : State :=
  let y := s.par p
  match y.reshard with
  | some (e, plan, enc) =>
    let plan := plan && !planDone
    let enc := enc && !encodeDone
    if plan || enc then s.setPar p { y with reshard := some (e, plan, enc) }
    else (s.setPar p { y with reshard := none }).grvSend p mtReshardDone (s.part p).job e s.manager (.reshardDone e)
  | none => s

/-- PARITY_APPLY: a holder whose delta buckets are all complete applies the delta and reports it (R442, R443). A delta of
bucket epoch e + 1 is that of epoch e. -/
def State.parityApply (s : State) (p : Nat) : State :=
  match s.parRecord p with
  | (none, s) => s
  | (some r, s) =>
    match s.deltaReady p r with
    | none => s
    | some b =>
      let s := (s.fset rf_grvParityStatus_applying p 0 1).fset rf_grvParityStatus_protected p 0 0
      match s.ownE (eachM (List.range r.quarter) fun u => applyUnit (accountReq p) r u) with
      | (.error _, s) => s
      | (.ok _, s) =>
        let e := w64 (b + 2 ^ 64 - 1)
        let s := s.setPar p { s.par p with applied := some b, held := some b }
        let s := s.fset rf_grvParityStatus_applying p 0 0
        let s := s.fset rf_grvParityStatus_held p 0 1
        let s := s.fset rf_grvParityStatus_heldEpochLo p 0 e
        let job := (s.part p).job
        let s := s.mgmtSend p mtParityApplied job e s.manager (stepBody e job)
        -- an encode's delta has no settled point of its own (R443)
        if (s.par p).encode = some b then (s.releaseDelta p r).reshardStep p false true else s

def execParityApply (p : Fin 16) (s : State) : Host.Outcome State Fault Refusal := done (s.parityApply p)

/-- The reverse steps of every unit (R442, R445): false where one could not be reached. -/
def State.parityReverse (s : State) (p : Nat) : Bool × State :=
  match s.parRecord p with
  | (none, s) => (true, s)
  | (some r, s) =>
    let s := s.fset rf_grvParityStatus_reversing p 0 1
    match s.ownE (eachM (List.range r.quarter) fun u => reverseUnit (accountReq p) r u) with
    | (.error _, s) => (false, s)
    | (.ok _, s) =>
      let s := s.setPar p { s.par p with held := none }
      let s := s.fset rf_grvParityStatus_reversing p 0 0
      let s := s.fset rf_grvParityStatus_held p 0 0
      (true, s.fset rf_grvParityStatus_protected p 0 1)

/-- ENCODE at a member: its parity is zeroed, every unit stands at IDLE, and its images are sent (R443). -/
def State.encode (s : State) (p epoch : Nat) : State :=
  match s.parRecord p with
  | (none, s) => s
  | (some r, s) =>
    let s := (s.own (do
      eachM (List.range r.quarter) fun u =>
        writeLocal (accountReq p) (r.parityVa + unitBytes * u) (List.replicate unitBytes 0)
      writeLocal (accountReq p) (r.applyVa + 64) (List.replicate r.quarter 0))).2
    let s := s.setPar p { s.par p with held := none }
    let s := s.fset rf_grvParityStatus_unitsApplied p 0 0
    let s := s.fset rf_grvParityStatus_held p 0 0
    (s.fset rf_grvParityStatus_protected p 0 0).deltaStart p epoch (some epoch)

def execEncode (g : Mg) (epoch : Nat) (s : State) : Host.Outcome State Fault Refusal :=
  done (s.grvOrder mtEncode epoch g fun s => s.encode g.dst.part epoch)

end Sys2Proof.Machine
end

