-- ==== Sys2Proof/Machine/Meridian.lean ====
section
/-! DEFINITION. The meridian at a worker (R275 to R283): STEP_READY with its digests, and what VERDICT, COMMIT and SETTLED
do to a partition. -/
namespace Sys2Proof.Machine

open Eng

/-! ### Digests (R283) -/

/-- Eight steps of the CRC-64 division, most significant bit first. -/
def crc64Shift : Nat → Nat → Nat
  | 0, c => c
  | k + 1, c => crc64Shift k (if c ≥ 2 ^ 63 then w64 (2 * c) ^^^ 0x42F0E1EBA9EA3693 else 2 * c)

def crc64 (bs : List Byte) : Nat := bs.foldl (fun c b => crc64Shift 8 (c ^^^ (b.toNat <<< 56))) 0

/-- Element bytes of a tensor, row by row in ascending address order without the gaps between rows (R283, R306). -/
def elementRuns (t : TRef) : List (Nat × Nat) :=
  (t.extent.take 1).flatMap fun (b, sp, n, len) => (List.range n).map fun i => (b + sp * i, len)

/-- One digest entry of STEP_READY. A tensor that cannot be read gives no stated digest: a free value. -/
def State.digest (s : State) (p : Nat) (e : List Byte) : List Byte × State :=
  let t := tref e 0
  let (c, s) := match s.own (mapE (elementRuns t) fun (va, n) => readLocal (accountReq p) va n) with
    | (some bs, s) => (crc64 bs.flatten, s)
    | (none, s) => s.draw
  (leBytes 2 (fld e 24 2) ++ leBytes 1 (fld e 26 1) ++ List.replicate 5 0 ++ leBytes 8 c, s)

def State.digestsFrom (s : State) (p : Nat) : List (List Byte) → List Byte × State
  | [] => ([], s)
  | e :: es =>
    let (d, s) := s.digest p e
    let (ds, s) := s.digestsFrom p es
    (d ++ ds, s)

/-- The digests of the partition's digest table, and their number. -/
def State.digests (s : State) (p : Nat) : Nat × List Byte × State :=
  let n := s.fget rf_grvDigestBase_count p
  match s.own (readLocal (accountReq p) (s.fget rf_grvDigestBase_base p * 64) (32 * n)) with
  | (some bs, s) =>
    let (ds, s) := s.digestsFrom p ((List.range n).map fun i => slice bs (32 * i) 32)
    (n, ds, s)
  | (none, s) => (0, [], s)

/-! ### STEP_READY (R244, R276) -/

/-- What a bucket reports: its number, poison causes, complete_tick, first poisoner and first_inv. -/
structure BktReport where
  n : Nat
  causes : Nat
  tick : Nat
  poisoner : Nat
  inv : Bool
deriving DecidableEq, Repr

/-- A failed bucket counts as poisoned with damaged (R581). -/
def State.bktReport (s : State) (p : Nat) (b : Bkt) : BktReport × State :=
  let lost (s : State) : BktReport × State := (⟨b.n, cauDamaged, 2 ^ 64, 0xFFFF, false⟩, s)
  if b.failed then lost s
  else
    match s.bktTry p b.n b.epoch (readLocal (pinnedReq p) (s.bktAddr p b.n) 64) with
    | (some e, s) => (⟨b.n, bePoison e, beTick e, fld e 28 2, fldBit e 26 4⟩, s)
    | (none, s) => lost s

def State.bktReports (s : State) (p : Nat) : List Bkt → List BktReport × State
  | [] => ([], s)
  | b :: bs =>
    let (r, s) := s.bktReport p b
    let (rs, s) := s.bktReports p bs
    (r :: rs, s)

/-- The report with the earliest complete_tick. -/
def firstReport : List BktReport → Option BktReport
  | [] => none
  | r :: rs => match firstReport rs with
    | some q => if q.tick < r.tick then some q else some r
    | none => some r

/-- The STEP_READY message of an epoch. -/
def State.stepReadyBody (s : State) (p job e : Nat) : List Byte × State :=
  let (rs, s) := s.bktReports p ((s.part p).bkts.filter (·.epoch = e))
  let bad := rs.filter (·.causes ≠ 0)
  let causes := bad.foldl (fun a r => a ||| r.causes) 0
  let first := firstReport bad
  let (st, s) := s.steering p e
  let (n, ds, s) := s.digests p
  (leBytes 8 e ++ leBytes 2 job ++ leBytes 1 p ++ leBytes 1 (2 * causes + b2n (causes ≠ 0))
    ++ leBytes 2 (satBits 16 bad.length)
    ++ (match first with
      | some r => leBytes 2 r.n ++ leBytes 2 r.poisoner ++ leBytes 1 (b2n r.inv)
      | none => leBytes 2 0xFFFF ++ leBytes 2 0xFFFF ++ leBytes 1 0)
    ++ [0] ++ leBytes 4 rs.length ++ leBytes 8 st.gNorm ++ leBytes 4 st.flagged ++ leBytes 4 st.stale
    ++ leBytes 4 st.flags ++ leBytes 4 st.saturated ++ leBytes 2 n ++ List.replicate 14 0 ++ ds, s)

/-- Descriptors of an opcode that stand before completion in an epoch: fetched or in flight. -/
def State.opPending (s : State) (p e : Nat) (ops : List Nat) : Bool :=
  let of := fun (d : List Byte) => ops.contains (hOpcode d) && widenEpoch (s.epoch p) (hEpoch d) = e
  (s.coresOf p).any fun k =>
    s.flights.any (fun f => f.core = k && of f.bytes)
      || (List.range 3).any fun st => (s.window k st).any fun g => of g.bytes

/-- All that R276 asks before STEP_READY of the current epoch. -/
def State.stepComplete (s : State) (p : Nat) : Bool :=
  let e := s.epoch p
  s.admits p && !s.fbit rf_grvRedStatus_verdictPending p && !s.opPending p e [0x60, 0x62, 0x90]
    && (s.part p).bkts.all fun b => b.epoch ≠ e || b.state ≠ 1 || b.failed

def execStepReadySend (p : Fin 16) (job : BitVec 16) (s : State) : Host.Outcome State Fault Refusal :=
  done (if s.stepComplete p then
      let s := s.setPart p { s.part p with job := job.toNat }
      let e := s.epoch p
      let (b, s) := s.stepReadyBody p job.toNat e
      (s.fset rf_grvRedStatus_verdictPending p 0 1).mgmtSend p mtStepReady job.toNat e s.manager b
    else s)

/-! ### VERDICT (R280) -/

-- Fields of VERDICT; its verdict 1 COMMIT, 2 SKIP, 3 REPEAT.
def vdVerdict (b : List Byte) : Nat := fld b 8 1
def vdCauses (b : List Byte) : Nat := fldB b 9 6 0
def vdLsExp (b : List Byte) : Int := sext 8 (fld b 10 1)
def vdMismatches (b : List Byte) : List (List Byte) :=
  (List.range (min 128 (fld b 14 2))).map fun i => slice b (32 + 8 * i) 8

/-- What the partition knows of an epoch is kept once. -/
def State.noteEpoch (s : State) (p : Nat) (r : EpochRec) : State :=
  let x := s.part p
  s.setPart p { x with hist := r :: x.hist.filter (·.epoch ≠ r.epoch) }

/-- Descriptors of an epoch still in progress complete VOIDED (R280). -/
def State.voidFlights (s : State) (p : Nat) (which : Flight → Bool) : State :=
  (s.flights.filter fun f => s.partOf f.core = some p && f.phase ≠ .done && which f).foldl
    (fun s f => s.voidFlight p f) s

/-- The holds of R11 end for every layer. -/
def State.endHolds (s : State) (p : Nat) : State := (s.part p).held.foldl (fun s l => s.endHold p l) s

/-- The partition moves to the next epoch at a verdict, steps 1 and 2 of R280. -/
def State.advanceEpoch (s : State) (p e : Nat) : State :=
  (((s.markerAdd p 0 1).setReg .grvEpoch p 0 (BitVec.ofNat 64 (e + 1))).closeBuckets p e).syncBkts p

/-- Receives the verdict of the current epoch. At SKIP and REPEAT the local gradients are discarded with the staging (R10); their
bytes in memory stay as they are, which is the model's choice (assumption 50). -/
def State.verdict (s : State) (p : Nat) (f : Frame) : State :=
  let e := s.epoch p
  let b := f.payload
  let v := vdVerdict b
  if mgEpoch f ≠ e ∨ v = 0 ∨ 3 < v then s
  else
    let s := s.advanceEpoch p e
    let s := s.fset rf_grvRedStatus_verdictPending p 0 0
    let s := s.fset rf_grvRedStatus_lastVerdict p 0 v
    let s := s.noteEpoch p ⟨e, v - 1, false, false, false⟩
    let s := s.setPart p { s.part p with saturated := 0, job := mgJob f }
    let s := (s.steerVerdict p e (v - 1) (vdCauses b) (vdLsExp b)).rollScales p e
    let s := if v = 1 then s.sweepNone p e
      else
        let s := (s.discardStaging p e).endHolds p
        let s := s.voidFlights p fun g => (hOpcode g.bytes = 0x60 || hOpcode g.bytes = 0x62)
          && widenEpoch (s.epoch p) (hEpoch g.bytes) = e
        s.raise (if v = 2 then 0x5003 else 0x5002) p ⟨8, p, 0, vdCauses b, e⟩
    (vdMismatches b).foldl (fun s m =>
      if sameModule ⟨fldB m 0 3 0, fldB m 0 7 4, fldB m 1 3 0, 0⟩ (s.here 0) ∧ fldB m 1 7 4 = p then
        s.raise 0x5005 p ⟨8, p, 0, fld m 2 2, e⟩
      else s) s

/-- A verdict that arrives while the partition is pre-empted or saved waits until it resumes (R350). -/
def execVerdict (f : Frame) (s : State) : Host.Outcome State Fault Refusal :=
  done (s.mgOrder mtVerdict f fun s =>
    let p := f.dst.part
    if s.admits p then s.verdict p f
    else
      let x := s.part p
      s.setPart p { x with verdicts := x.verdicts ++ [f] })

/-- The verdicts that waited are applied in order. -/
def State.applyVerdicts (s : State) (p : Nat) : State :=
  let vs := (s.part p).verdicts
  vs.foldl (fun s f => s.verdict p f) (s.setPart p { s.part p with verdicts := [] })

/-! ### COMMIT and SETTLED (R281) -/

/-- The commit point: marker 1 advances, and the parity engine sends the deltas to the buckets of the next epoch (R441). -/
def execCommit (f : Frame) (s : State) : Host.Outcome State Fault Refusal :=
  done (s.mgOrder mtCommit f fun s =>
    let p := f.dst.part
    let e := mgEpoch f
    match (s.part p).hist.find? (·.epoch = e) with
    | some r =>
      if r.verdict = 0 ∧ !r.committed then
        ((s.noteEpoch p { r with committed := true }).markerAdd p 1 1).deltaStart p (w64 (e + 1)) none
      else s
    | none => s)

/-- The settled point: marker 2 advances, undo images and the held delta are released, the epoch's buckets are final, and
the steering unit adapts the damping (R237, R243, R442). -/
def execSettled (f : Frame) (s : State) : Host.Outcome State Fault Refusal :=
  done (s.mgOrder mtSettled f fun s =>
    let p := f.dst.part
    let e := mgEpoch f
    match (s.part p).hist.find? (·.epoch = e) with
    | some r =>
      if r.committed ∧ !r.settled then
        let s := (s.noteEpoch p { r with settled := true }).markerAdd p 2 1
        let s := s.setReg .strSettledEpoch p 0 (BitVec.ofNat 64 e)
        let s := match s.parRecord p with
          | (some pr, s) => if (s.par p).held.isSome then s.releaseDelta p pr else s
          | (none, s) => s
        s.steerSettled p
      else s
    | none => s)

end Sys2Proof.Machine
end

