-- ==== Sys2Proof/Machine/Recovery.lean ====
section
/-! DEFINITION. Recovery at a worker and at a spare (R445 to R451): the rollback, the chained rebuild of a lost column, the
spare's place, and the re-shard. -/
namespace Sys2Proof.Machine

open Eng

/-! ### LOST (R445) -/

/-- Restores every record of the target epoch, and leaves no chunk claimed (R240). -/
def rollbackAll (q : XReq) (t : Nat) : Eng Unit := do
  let rs := (← getS).layerTable q.p
  eachM (rollbackWork rs) (rollbackPiece q t)
  storeOwnScales q
  modS fun s => s.endClaims q.p q (chunksOfRange rs)

/-- The partition moves to an epoch that a recovery message names: buckets of earlier epochs close as at a verdict. -/
def State.moveEpoch (s : State) (p e : Nat) : State :=
  let old := ((s.part p).bkts.map (·.epoch)).eraseDups
  let s := s.setReg .grvEpoch p 0 (BitVec.ofNat 64 e)
  ((old.filter (· < e)).foldl (fun s x => s.closeBuckets p x) s).syncBkts p

/-- Epochs before r whose settled point has not been reached become final. -/
def State.finalBefore (s : State) (p r : Nat) : State :=
  let x := s.part p
  s.setPart p { x with hist := x.hist.map fun h => if h.epoch < r ∧ !h.settled then { h with rolledBack := true } else h }

/-- Step 1 of R445. With a rollback, every descriptor of an earlier epoch that has not completed is VOIDED (R13). The model's
choice at a LOST: holds end and their publishes take effect (R11, assumption 143), and step markers 1 and 2 stay as they stand
(assumption 142). -/
def State.lostEpoch (s : State) (p r : Nat) (target : Option Nat) : State :=
  let s := (s.moveEpoch p r).fset rf_grvRedStatus_verdictPending p 0 0
  let s := (s.finalBefore p r).endHolds p
  let s := s.setPar p { s.par p with xfers := [], rebuild := none, reshard := none }
  let s := s.withRequests (s.requests.filter fun q => q.aux.take 2 ≠ [2, p])
  let s := (s.fset rf_grvParityStatus_sending p 0 0).fset rf_grvParityStatus_rebuilding p 0 0
  (s.flights.filter fun f => s.partOf f.core = some p && decide (f.epoch < r)
      && (target.isSome || ([0x60, 0x62, 0x64].contains (hOpcode f.bytes) && f.phase ≠ .done))).foldl
    (fun s f => s.voidFlight p f) s

/-- LOST at a worker partition. ROLLBACK_DONE follows once the rollback and the reverse steps are complete; until then the
message stays unacknowledged and its next copy tries again. -/
def execLost (g : Mg) (modules : List Nat) (r : Nat) (target : Option Nat) (s : State) :
    Host.Outcome State Fault Refusal :=
  let p := g.dst.part
  done (if !s.fromManager g.src ∨ !s.grvArrives g ∨ !s.admits p then s
    else if s.seen.contains (mtLost, g.job, r, g.src) then s.ackMg g
    else if r < s.epoch p then s.ackMg g
    else
      let s := s.lostEpoch p r target
      let finish (s : State) : State :=
        let s := (s.ackMg g).grvSend p mtRollbackDone g.job r s.manager (.rollbackDone r)
        (s.withSeen (s.seen ++ [(mtLost, g.job, r, g.src)]))
      match target with
      | none => finish s
      | some t =>
        match s.ownE (rollbackAll (accountReq p) t) with
        | (.error _, s) => s
        | (.ok _, s) =>
          let s := s.raise 0x7007 p ⟨8, p, 0, 0, t⟩
          match s.parityReverse p with
          | (false, s) => s
          | (true, s) => finish (s.raise 0xC006 p ⟨8, p, 0, modules.headD 0 + (g.job <<< 16), r⟩))

/-! ### The chained rebuild (R447, R448) -/

/-- The eight sources of the lost symbol of position q in codewords of pair c, with their coefficients (R447). The table
does not give P with a lost data symbol; its coefficients follow from the code. -/
def rebuildSources (lost : List Nat) (q c : Nat) : List (Nat × Nat) :=
  let data := (List.range 10).filter fun m => m / 2 ≠ c
  let alive := data.filter fun m => !lost.contains m
  let gone := data.filter fun m => lost.contains m && m ≠ q
  let a := fun m => alpha (dataIndex m c)
  let pq := (2 * c, 2 * c + 1)
  if q = pq.1 then
    match gone with
    | [] => data.map fun m => (m, 1)
    | j :: _ => (alive.map fun m => (m, 1 ^^^ gf (a m) (gfInv (a j)))) ++ [(pq.2, gfInv (a j))]
  else if q = pq.2 then
    match gone with
    | [] => data.map fun m => (m, a m)
    | j :: _ => (alive.map fun m => (m, a m ^^^ a j)) ++ [(pq.1, a j)]
  else
    match gone with
    | k :: _ =>
      let d := gfInv (a q ^^^ a k)
      (alive.map fun m => (m, gf (a k ^^^ a m) d)) ++ [(pq.1, gf (a k) d), (pq.2, d)]
    | [] =>
      if lost.contains pq.1 then (alive.map fun m => (m, gf (a m) (gfInv (a q)))) ++ [(pq.2, gfInv (a q))]
      else (alive.map fun m => (m, 1)) ++ [(pq.1, 1)]

/-- Pair and unit within its quarter of column unit v of position q (R447). -/
def columnUnit (r : ParRec) (q v : Nat) : Nat × Nat :=
  if v < r.n then (pairAt q (v / r.quarter), v % r.quarter) else (q / 2, v - r.n)

/-- A member's unit in codeword (c, u): its chunk, or its parity unit. -/
def memberUnit (r : ParRec) (m c u : Nat) : USrc :=
  if m / 2 = c then .parity u else .image ((if c < m / 2 then c else c - 1) * r.quarter + u)

/-- Piece y of a rebuild: with two lost members their columns take turns. The answer is the position rebuilt, the piece of
its column, and the chain of sources in order. -/
def pieceOf (r : ParRec) (lost : List Nat) (y : Nat) : Nat × Nat × List (Nat × Nat) :=
  let k := max 1 lost.length
  let q := lost.getD (y % k) 0
  let x := y / k
  let (c, _) := columnUnit r q (5 * x)
  let ss := rebuildSources lost q c
  let asc := (List.range 10).filterMap fun m => ss.find? (·.1 = m)
  (q, x, if x % 2 = 0 then asc else asc.reverse)

/-- Lines of a piece's bucket in the delta region, and its control block, for which the parity engine uses the scratch
unit. -/
def pieceLines (r : ParRec) (y : Nat) : Nat := r.deltaVa + 5 * unitBytes * (y % r.buckets)
def pieceControl (r : ParRec) (y : Nat) : Nat := r.scratch + 128 * (y % unitLines)

/-- Opens the bucket of a piece: GF mode, zero filled (R448). -/
def State.openPiece (s : State) (p : Nat) (r : ParRec) (epoch y expected : Nat) : State :=
  let q := pinnedReq p
  let e := leBytes 8 epoch ++ leBytes 8 (pieceLines r y) ++ leBytes 4 (5 * unitLines) ++ leBytes 2 expected ++ leBytes 2 0
    ++ leBytes 1 (cGF16 * 16 + 4) ++ leBytes 1 1 ++ leBytes 1 32 ++ [0] ++ leBytes 2 0xFFFF ++ leBytes 2 0
    ++ leBytes 8 (pieceControl r y) ++ List.replicate 24 0
  match s.bktTry p y epoch (do
      writeLocal q (pieceControl r y) (List.replicate (controlBytes 4) 0)
      writeLocal q (pieceLines r y) (List.replicate (5 * unitBytes) 0)
      writeLocal q (s.bktAddr p y) e) with
  | (some _, s) => s.setBkt p ⟨y, epoch, 1, false, false, false, pieceLines r y, 5 * unitLines, false, false⟩
  | (none, s) => s

def Rebuild.positions (b : Rebuild) : List Nat := b.lost.map (·.1)

/-- The partition at a position: the spare of a lost one, else the job map's. -/
def positionAddr (r : ParRec) (map : List Byte) (b : Rebuild) (m : Nat) : Addr :=
  match b.lost.find? (·.1 = m) with
  | some (_, a) => a
  | none => match jobEntry map (r.ranks.getD m 0) with
    | some e => jmAddr e
    | none => ⟨0, 0, 0, 0⟩

def State.setRebuild (s : State) (p : Nat) (b : Rebuild) : State := s.setPar p { s.par p with rebuild := some b }

/-- Adds a chain transfer and starts it. -/
def State.chainXfer (s : State) (p : Nat) (r : ParRec) (epoch y : Nat) (dst : Addr) (coef : Nat) (src : List USrc) : State :=
  let z := s.par p
  let x : Xfer := { id := z.nextId, chain := true, idx := y, dst := dst, epoch := epoch, bucket := y, who := r.position
                    coef := coef, src := src, next := 0 }
  let s := s.setPar p { z with nextId := z.nextId + 1, xfers := z.xfers ++ [x] }
  (s.xferGo p r x x.fuel).2

/-- Begins a piece at this partition: as the spare, as the first source, as a later source, or not at all. -/
def State.startPiece (s : State) (p : Nat) (r : ParRec) (map : List Byte) (b : Rebuild) (y : Nat) : State :=
  let (q, x, chain) := pieceOf r b.positions y
  let me := r.position
  if q = me then s.openPiece p r b.r y 1
  else
    match chain.findIdx? (·.1 = me) with
    | none => s.setRebuild p { b with opened := y + 1, finished := b.finished ++ [y] }
    | some k =>
      let coef := ((chain[k]?).map (·.2)).getD 1
      let units := (List.range 5).map fun j =>
        let (c, u) := columnUnit r q (5 * x + j)
        memberUnit r me c u
      if k = 0 then s.chainXfer p r b.r y (positionAddr r map b (((chain[1]?).map (·.1)).getD q)) coef units
      else (s.openPiece p r b.r y 2).chainXfer p r b.r y (s.here p) coef units

/-- Pieces begin in order, each once the piece whose window it takes is finished. -/
def State.rebuildGo (s : State) (p : Nat) : Nat → State
  | 0 => s
  | fuel + 1 =>
    match (s.par p).rebuild, s.parRecord p with
    | some b, (some r, s) =>
      let y := b.opened
      if r.quarter * max 1 b.lost.length ≤ y ∨ (r.buckets ≤ y ∧ !b.finished.contains (y - r.buckets)) then s
      else
        match s.jobMap p with
        | (some map, s) =>
          let b := { b with opened := y + 1 }
          ((s.setRebuild p b).startPiece p r map b y).rebuildGo p fuel
        | (none, s) => s
    | _, _ => s

def rebuildFuel : Nat := 131072

/-- A piece is finished at this partition; the last one ends the rebuild's work here. -/
def State.pieceDone (s : State) (p y : Nat) : State :=
  match (s.par p).rebuild with
  | some b =>
    let s := s.setRebuild p { b with finished := b.finished ++ [y] }
    let s := s.rebuildGo p rebuildFuel
    match (s.par p).rebuild, s.parRecord p with
    | some b, (some r, s) =>
      if r.quarter * max 1 b.lost.length ≤ b.finished.length then s.fset rf_grvParityStatus_rebuilding p 0 0 else s
    | _, _ => s
  | none => s

/-- RECONSTRUCT starts the chained rebuild at a survivor or a spare (R448). -/
def execReconstruct (g : Mg) (r : Nat) (lost : List (Nat × Addr)) (s : State) : Host.Outcome State Fault Refusal :=
  let p := g.dst.part
  done (s.grvOrder mtReconstruct r g fun s =>
    if s.epoch p = r then
      ((s.setRebuild p ⟨r, lost, 0, []⟩).fset rf_grvParityStatus_rebuilding p 0 1).rebuildGo p rebuildFuel
    else s)

/-- A unit of a lost column is copied into place (R448). -/
def placeUnit (q : XReq) (r : ParRec) (v : Nat) (bs : List Byte) : Eng Unit := do
  if v < r.n then
    match (← getS).chunkRecord q.p v with
    | some (lr, j) => eachM (imageParts lr j) fun (o, va, len) => writeLocal q va (slice bs o len)
    | none => return ()
  else writeLocal q (r.parityVa + unitBytes * (v - r.n)) bs

/-- REBUILD_FORWARD: a COMPLETE chain bucket's lines go to the next member or to the spare; at the spare its units are
copied into place (R448). -/
def State.rebuildForward (s : State) (p y : Nat) : State :=
  match (s.par p).rebuild, s.bkt p y, s.parRecord p with
  | some b, some k, (some r, s) =>
    let (q, x, chain) := pieceOf r b.positions y
    if k.epoch ≠ b.r ∨ k.state ≠ 2 ∨ b.finished.contains y ∨ b.opened ≤ y then s
    else if q = r.position then
      match s.ownE (eachM (List.range 5) fun j => do
          let a := accountReq p
          placeUnit a r (5 * x + j) (← readLocal a (pieceLines r y + unitBytes * j) unitBytes)) with
      | (.ok _, s) => (s.count .grvCount 4 0 (5 * unitBytes)).pieceDone p y
      | (.error _, s) => s
    else if (s.par p).xfers.any fun t => t.idx = y ∧ t.chain ∧ t.dst ≠ s.here p then s
    else
      match chain.findIdx? (·.1 = r.position), s.jobMap p with
      | some i, (some map, s) =>
        let next := ((chain[i + 1]?).map (·.1)).getD q
        s.chainXfer p r b.r y (positionAddr r map b next) 1
          ((List.range 5).map fun j => .lines (pieceLines r y + unitBytes * j))
      | _, _ => s
  | _, _, _ => s

def execRebuildForward (p : Fin 16) (bucket : BitVec 16) (s : State) : Host.Outcome State Fault Refusal :=
  done (s.rebuildForward p bucket.toNat)

/-! ### Answers to the parity engine (R264, R441, R448) -/

/-- A transfer is over: the next delta follows, or a piece of a chain is finished here. -/
def State.xferOver (s : State) (p : Nat) (r : ParRec) (x : Xfer) : State :=
  let s := s.dropXfer p x.id
  if !x.chain then s.deltaNext p r (x.idx + 1)
  else if x.dst = s.here p then s
  else s.pieceDone p x.idx

/-- A transfer goes on from where it stands. -/
def State.xferResume (s : State) (p id : Nat) : State :=
  match s.xfer p id, s.parRecord p with
  | some x, (some r, s) =>
    let (ended, s) := s.xferGo p r x x.fuel
    if ended then s.xferOver p r x else s
  | _, _ => s

/-- The answer to a transfer's request. -/
def State.xferAnswered (s : State) (p id ans mark : Nat) : State :=
  match s.xfer p id, s.parRecord p with
  | some x, (some r, s) =>
    let s := s.noteAnswer p ans
    match xferAnswer x ans mark with
    | .go m => (s.setXfer p { x with next := m }).xferResume p id
    | .wait _ => s.xferWait p id
    | .ended => s.xferOver p r x
  | _, _ => s

/-! ### The spare's last steps (R449) -/

/-- A record whose compute copy the digest table lists as an owned replicated tensor. -/
def State.replicated (s : State) (p : Nat) (r : LayerRec) : Bool :=
  let n := s.fget rf_grvDigestBase_count p
  match (s.own (readLocal (accountReq p) (s.fget rf_grvDigestBase_base p * 64) (32 * n))).1 with
  | some bs => (List.range n).any fun i => fld bs (32 * i) 8 = r.copy && fld bs (32 * i + 26) 1 = 0
  | none => false

/-- Copies from the rebuilt masters, and precond_enable of every owned record whose roots no replica supplies. -/
def finaliseRecord (q : XReq) (i : Nat) (r : LayerRec) : Eng Unit := do
  let w ← readLocal q r.master (4 * r.n)
  rewriteCopy q r 0 (unpack 32 r.n w)
  storeOwnScales q
  let s ← getS
  if ¬ s.replicated q.p r then
    let a := s.layerAddr q.p i
    let b ← readLocal q a 128
    writeLocal q (a + 93) (leBytes 1 (fld b 93 1 &&& 0xFE))

/-- What a spare writes when its records are rebuilt: each record of its layers is brought up to date, and its factors start
anew (R449). -/
def finaliseAll (q : XReq) (layers : List (Nat × LayerRec)) (factors : List Nat) : Eng Unit := do
  eachM layers fun (i, lr) => finaliseRecord q i lr
  eachM factors fun h => do
    let m := matHdr (← readLocal q h 64)
    writeLocal q h (matHdrBytes { m with initialised := false })

/-- SPARE_FINALISE: after the last piece the spare rebuilds what parity does not cover. `factors` are the headers of the
running factors that its configuration image places; the gathers of replicas and roots are COL.GATHER descriptors, and none
may be in flight. -/
def execSpareFinalise (p : Fin 16) (factors : List Nat) (s : State) : Host.Outcome State Fault Refusal :=
  done (match (s.par p).rebuild, s.parRecord p with
    | some b, (some r, s) =>
      if r.quarter * max 1 b.lost.length ≤ b.finished.length ∧ b.positions.contains r.position
          ∧ !s.opPending p (s.epoch p) [0x63] then
        let q := accountReq p
        match s.ownE (finaliseAll q (s.layerTable p) factors) with
        | (.error _, s) => s
        | (.ok _, s) =>
          let job := (s.part p).job
          let s := s.setPar p { s.par p with rebuild := none }
          (s.grvSend p mtReconstructDone job b.r s.manager (.reconstructDone b.r)).raise 0xC003 p
            ⟨8, p, 0, addrModule (s.here p) + (job <<< 16), b.r⟩
      else s
    | _, _ => s)

/-! ### RESHARD and RESUME (R450, R451) -/

/-- RESHARD: the next epoch, the new job map, and RESHARD_DONE once the permutation and the encode asked for are done. -/
def execReshard (g : Mg) (epoch : Nat) (map : List Byte) (plan encode : Bool) (s : State) :
    Host.Outcome State Fault Refusal :=
  let p := g.dst.part
  done (s.grvOrder mtReshard epoch g fun s =>
    if s.epoch p ≤ epoch then
      let s := (s.moveEpoch p epoch).finalBefore p epoch
      let s := s.setPar p { s.par p with rebuild := none, reshard := some (epoch, plan, encode) }
      let s := s.accountWrite p stJobMap (s.fget rf_grvJobMapBase_base p * 64) map
      let s := s.fset rf_grvJobMapBase_count p 0 (map.length / 8)
      let s := if plan || encode then s.fset rf_grvParityStatus_protected p 0 0 else s
      s.reshardStep p false false
    else s)

/-- RESUME: the next epoch, with the loss scale that the manager names. -/
def execResume (g : Mg) (epoch : Nat) (lsExp : Int) (s : State) : Host.Outcome State Fault Refusal :=
  let p := g.dst.part
  done (s.grvOrder mtResume epoch g fun s =>
    if s.epoch p ≤ epoch then ((s.moveEpoch p epoch).finalBefore p epoch).setLossScale p (epoch - 1) lsExp else s)

end Sys2Proof.Machine
end

