-- ==== Sys2Proof/Machine/Reduce.lean ====
section
/-! DEFINITION. The RED descriptors (R262 to R288): contributions to buckets, the opening of a bucket, and the wait for
buckets. -/
namespace Sys2Proof.Machine

open Eng

/-! ### RED.CONTRIB (R264 to R268, R285) -/

def conSrc (d : List Byte) : TRef := tref d 16
def conDst (d : List Byte) : Addr := ⟨fldB d 40 3 0, fldB d 40 7 4, fldB d 41 3 0, fldB d 41 7 4⟩
def conGf (d : List Byte) : Bool := fldBit d 42 1
def conSelf (d : List Byte) : Bool := fldBit d 42 0
def conFmt (d : List Byte) : Nat := fldB d 43 3 0
def conBucket (d : List Byte) : Nat := fld d 44 2
def conWho (d : List Byte) : Nat := fld d 46 2
def conFirst (d : List Byte) : Nat := fld d 48 4
def conCoef (d : List Byte) : Nat := fld d 52 2

/-- Elements of a line of the target bucket. -/
def conPer (d : List Byte) : Nat := 128 / accBytes (conFmt d)
def conLines (d : List Byte) : Nat := (conSrc d).rows * (conSrc d).cols / conPer d

/-- Lines of one request: data of at most 4,096 bytes (R262). -/
def conBatch (d : List Byte) : Nat := min 32 (32 * accBytes (conFmt d) / accBytes (conSrc d).fmt)

/-- Bytes of source data for one line. -/
def conLineBytes (d : List Byte) : Nat := conPer d * accBytes (conSrc d).fmt

/-- Coordinates lie in the grove (R288). -/
def State.inGrove (s : State) (a : Addr) : Bool :=
  a.x ≤ s.fget rf_fabCoord_kxM1 && a.y ≤ s.fget rf_fabCoord_kyM1 && a.z ≤ s.fget rf_fabCoord_kzM1

def contribLegal (s : State) (d : List Byte) : Bool :=
  let t := conSrc d
  trefOk d 16 && fldB d 42 7 2 = 0 && fldB d 43 7 4 = 0 && fldB d 54 7 2 = 0 && fldB d 54 1 0 ≠ 3 && zeroBytes d 55 73
    && t.layout = 0 && (if conGf d then t.fmt = cGF16 && conFmt d = cGF16 else t.fmt ≤ cFP16 && conFmt d ≤ cFP16)
    && t.stride = t.cols * elemBytes t.fmt && (t.rows * t.cols) % conPer d = 0
    && conWho d ≤ 4095 && conFirst d ≤ 65535 && conFirst d + conLines d ≤ 65536
    && (conGf d || conCoef d = 0) && (conSelf d || s.inGrove (conDst d))

-- What the flight keeps beside the DMA engine: 1 the lowest unacknowledged line; 2 the answer received plus one; 3 its
-- mark.
def cnNext : Nat := 1
def cnAnswer : Nat := 2
def cnMark : Nat := 3

/-- Acts on the answer received (R264). -/
def contribAnswer (p : Nat) : Eng Unit := do
  let fl ← getF
  let d := fl.bytes
  let a := fl.aux.getD cnAnswer 0
  if a = 0 then return ()
  setAux cnAnswer 0
  let code := a - 1
  modS fun s => s.noteAnswer p code
  let m := fl.aux.getD cnMark 0
  let retry := us ((← getS).fget rf_grvRedCtl_retryIntervalUs p)
  if code = anAccepted ∨ code = anDuplicate then
    let nx := min (conFirst d + conLines d) (max (fl.aux.getD cnNext 0) m)
    setAux cnNext nx
    modF fun f => { f with detail := (nx - conFirst d) * conLineBytes d }
  else if code = anOutOfOrder then
    if conFirst d ≤ m then setAux cnNext m
    else
      setAux cnNext (conFirst d)
      stop (.wait retry)
  else if code = anNotOpen then
    stop (.wait retry)
  else if code = anLate then stop (.status stVoided 0)
  else stop (.status stFault 0)

/-- Source lines read one after another: a failed line ends them, and it stops the descriptor only where it is the
first, so that every line before it has been sent (R69, R268). -/
def contribRead (q : XReq) (va len : Nat) : Nat → List Byte → Eng (List Byte)
  | 0, acc => return acc
  | k + 1, acc => do
    let here := if acc.isEmpty then readVA q va len
      else tryCatch (readVA q va len) fun x => match x with
        | .fault .. | .uncorr => return []
        | x => throw x
    let bs ← here
    if bs.isEmpty then return acc else contribRead q (va + len) len k (acc ++ bs)

/-- The request for the lines from the lowest unacknowledged one on. -/
def contribReq (q : XReq) (e : Nat) : Eng AccReq := do
  let fl ← getF
  let d := fl.bytes
  let nx := fl.aux.getD cnNext 0
  let k := min (conBatch d) (conFirst d + conLines d - nx)
  let data ← contribRead q ((conSrc d).addr + (nx - conFirst d) * conLineBytes d) (conLineBytes d) k []
  return ⟨(e % 65536) * 65536 + conBucket d, conWho d, nx, data.length / conLineBytes d, conGf d, conFmt d, (conSrc d).fmt, conCoef d, data⟩

/-- Requests until every line is acknowledged; one is outstanding at a time. -/
def contribLoop (q : XReq) (e : Nat) : Nat → Eng Unit
  | 0 => return ()
  | f + 1 => do
    contribAnswer q.p
    let fl ← getF
    let d := fl.bytes
    if conFirst d + conLines d ≤ fl.aux.getD cnNext 0 then return ()
    let r ← contribReq q e
    if conSelf d then
      let a ← liftS fun s => s.bktAsk (conDst d).part (s.here q.p) r
      setAux cnAnswer (a.1 + 1)
      setAux cnMark a.2
      contribLoop q e f
    else
      let s ← getS
      stop (.request (.frame { cls := 2, dst := conDst d, src := s.here q.p, op := 0x03, reqId := 0, ops := accFields r,
                               payload := r.data }) [1, r.first, r.lines])

def contribRun : Eng Unit := do
  let fl ← getF
  let q ← Eng.req
  if fl.aux.length ≤ 1 then
    checkScales q [conSrc fl.bytes]
    modF fun f => { f with aux := [f.aux.headD 0, conFirst f.bytes, 0, 0] }
  contribLoop q (← hdrEpoch q.p) (2 * conLines fl.bytes + 2)

def execRedContrib (core : Fin 64) (stream : Fin 3) (n : BitVec 32) (s : State) : Host.Outcome State Fault Refusal :=
  done (s.issueDesc core stream n.toNat (isOp 0x60) always contribLegal contribRun)

/-! ### RED.BUCKET_OPEN (R261, R286) -/

def opnLines (d : List Byte) : Nat := fld d 16 8
def opnControl (d : List Byte) : Nat := fld d 24 8
def opnCount (d : List Byte) : Nat := fld d 32 4
def opnExpected (d : List Byte) : Nat := fld d 38 2
def opnFmt (d : List Byte) : Nat := fldB d 40 7 4
def opnLimit (d : List Byte) : Nat := fldB d 40 3 0
def opnNoFill (d : List Byte) : Bool := fldBit d 41 1
def opnGf (d : List Byte) : Bool := fldBit d 41 0

def openLegal (p : Nat) (s : State) (d : List Byte) : Bool :=
  let table := runOf (s.bktAddr p 0) 4194304
  va48 (opnLines d) 128 && va48 (opnControl d) 64 && 1 ≤ opnCount d && opnCount d ≤ 65536
    && opnLimit d ≤ 12 && 1 ≤ opnExpected d && opnExpected d ≤ 2 ^ opnLimit d
    && (if opnGf d then opnFmt d = cGF16 else opnFmt d ≤ cFP16)
    && fldB d 41 7 2 = 0 && zeroBytes d 42 86
    && !overlap (runOf (opnLines d) (128 * opnCount d)) table
    && !overlap (runOf (opnControl d) (controlBytes (opnLimit d))) table

/-- The bucket unit accepts the opening: the bucket is IDLE, or CLOSED with a final epoch (R261, R286), and no COL.PERMUTE
runs (R317). -/
def State.openMay (s : State) (p : Nat) (d : List Byte) : Bool :=
  !openLegal p s d || s.bucketFree p d

/-- An entry as RED.BUCKET_OPEN writes it. -/
def openEntry (d : List Byte) (e : Nat) : List Byte :=
  leBytes 8 e ++ leBytes 8 (opnLines d) ++ leBytes 4 (opnCount d) ++ leBytes 2 (opnExpected d) ++ leBytes 2 0
    ++ leBytes 1 (opnFmt d * 16 + opnLimit d) ++ leBytes 1 1 ++ leBytes 1 (32 * b2n (opnGf d)) ++ [0]
    ++ leBytes 2 0xFFFF ++ leBytes 2 0 ++ leBytes 8 (opnControl d) ++ List.replicate 24 0

/-- The last access writes the entry; before it the control block and the lines are zeroed, 512 lines at a time. Lines of the
bucket's earlier epoch that were accepted are added first: each is added whole, exactly once (R254). -/
def openRun : Eng Unit := do
  let fl ← getF
  let q0 ← Eng.req
  let q := { q0 with pinned := true }
  let d := fl.bytes
  let e ← hdrEpoch q.p
  if fl.point = 0 then modS fun s => s.flushAdds q.p (opnBucket d)
  let fills := if opnNoFill d then 0 else ceilDiv (opnCount d) 512
  units (fills + 2) fun k => do
    if k = 0 then writeLocal q (opnControl d) (List.replicate (controlBytes (opnLimit d)) 0)
    else if k ≤ fills then
      let a := 512 * (k - 1)
      writeLocal q (opnLines d + 128 * a) (List.replicate (128 * min 512 (opnCount d - a)) 0)
    else
      writeLocal q ((← getS).bktAddr q.p (opnBucket d)) (openEntry d e)
      modS fun s => s.setBkt q.p
        ⟨opnBucket d, e, 1, false, false, false, opnLines d, opnCount d, false, false⟩

def execRedBucketOpen (core : Fin 64) (stream : Fin 3) (n : BitVec 32) (s : State) :
    Host.Outcome State Fault Refusal :=
  done (match s.partOf core with
    | some p => s.issueDesc core stream n.toNat (isOp 0x61) (fun s d => s.openMay p d) (openLegal p) openRun
    | none => s)

/-! ### RED.BUCKET_WAIT (R274, R287) -/


def waitLegal (_ : State) (d : List Byte) : Bool :=
  1 ≤ bwCount d && bwCount d ≤ 65536 && bwFirst d + bwCount d ≤ 65536 && zeroBytes d 18 2 && zeroBytes d 24 104

def waitRun : Eng Unit := do
  let fl ← getF
  let d := fl.bytes
  let p ← Eng.part
  let e ← hdrEpoch p
  let s ← getS
  let ns := rangeFrom (bwFirst d) (bwFirst d + bwCount d)
  let bs := ns.map fun n => (n, s.bkt p n)
  let of := fun (t : Bkt → Bool) (b : Option Bkt) => match b with
    | some b => b.epoch = e && t b
    | none => false
  let count : Eng Unit := modF fun f => { f with detail := s.waitDetail p d }
  let finish : Eng Unit := do
    count
    if (s.poisonedIn p d).isEmpty then return () else stop (.status stPoisoned 0)
  if bs.all fun (_, b) => of (·.completed) b then finish
  else if bs.any fun (_, b) => of (·.failed) b then finish
  else if (s.verdictOf p e).isSome ∨ bs.any (fun (_, b) => match b with
      | some b => decide (e < b.epoch)
      | none => false) then
    count
    stop (.status stVoided 0)
  else stop .await

def execRedBucketWait (core : Fin 64) (stream : Fin 3) (n : BitVec 32) (s : State) :
    Host.Outcome State Fault Refusal :=
  done (s.issueDesc core stream n.toNat (isOp 0x62) always waitLegal waitRun)

end Sys2Proof.Machine
end

