-- ==== Sys2Proof/Machine/Collective.lean ====
section
/-! DEFINITION. The collectives (R295 to R331): gathers, the exchange, the ring and the permutation, as requesters and as
targets. A message travels as a frame; what the spec sends with it without a place in the frame travels beside it. -/
namespace Sys2Proof.Machine

open Eng

/-! ### Requests of a collective

One request of a descriptor is outstanding at a time. Its flight keeps the answer until the program that sent it acts on
it; data of READ answers wait in `rx` under a key of their own. -/

-- What the flight keeps beside the DMA engine: 1 the answer received plus one; 2 the CRC and 3 the scale_stored plus one
-- that came with it; 4 whether what it does once at issue is done; 5 and on by the operation.
def clAnswer : Nat := 1
def clCrc : Nat := 2
def clScale : Nat := 3
def clBegun : Nat := 4
def clStage : Nat := 5
def clTry : Nat := 6

/-- Key of READ data in `rx`, above every virtual address. -/
def clKey : Nat := 2 ^ 48

/-- What a collective does once, at issue, with room for `extra` entries of its own. -/
def colOnce (extra : Nat) (act : Eng Unit) : Eng Unit := do
  let fl ← getF
  if fl.aux.length ≤ 1 then
    modF fun f => { f with aux := f.aux.headD 0 :: List.replicate (6 + extra) 0 }
  if (← auxAt clBegun) = 0 then
    act
    setAux clBegun 1

/-- What a request for messages carries: kind 3. -/
def colAux : List Nat := [3]

/-- Acts on the answer received, where there is one (R298, R264): true when the request was accepted, false when there is
none. -/
def colAnswered : Eng Bool := do
  let a ← auxAt clAnswer
  if a = 0 then return false
  setAux clAnswer 0
  let code := a - 1
  let p ← Eng.part
  if code = anAccepted ∨ code = anDuplicate ∨ code = anDone then return true
  if code = anNotReady ∨ code = anNotOpen then
    modS fun s => s.count .grvColCount p 5
    stop (.wait (us ((← getS).fget rf_grvRedCtl_retryIntervalUs p)))
  else if code = anLate then stop (.status stVoided 0)
  else if code = anUncorr then stop (.status stUncorr 0)
  else stop (.status stFault 0)

/-- Sends a request and goes on once it has been accepted. -/
def colSend (mk : Eng Msg) : Eng Unit := do
  if ← colAnswered then return () else stop (.request (← mk) colAux)

/-- A request frame of this partition (R403). -/
def colFrame (dst : Addr) (op : Nat) (ops payload : List Byte) : Eng Frame := do
  let p ← Eng.part
  return { cls := 3, dst := dst, src := (← getS).here p, op := op, ops := ops, payload := payload }

def writeFrame (dst : Addr) (va : Nat) (bs : List Byte) : Eng Frame :=
  colFrame dst 0x01 (leBytes 8 va ++ List.replicate 8 0) bs

def readFrame (dst : Addr) (va n : Nat) : Eng Frame :=
  colFrame dst 0x02 (leBytes 8 va ++ leBytes 4 n ++ List.replicate 4 0) []

/-- The data of the READ answers kept. -/
def colData : Eng (List (List Byte)) := do return ((← getF).rx.filter (·.1 = clKey)).map (·.2)
def dropData : Eng Unit := modF fun f => { f with rx := f.rx.filter (·.1 ≠ clKey) }

/-- Bytes of the peer's memory, in one READ. -/
def colRead (dst : Addr) (va n : Nat) : Eng (List Byte) := do
  colSend (do return .frame (← readFrame dst va n))
  let d ← colData
  dropData
  return d.flatten

/-- The job map, as a descriptor reads it at issue (R295, R297): a fault met there is the descriptor's own. -/
def colMap (q : XReq) : Eng (List Byte) := do
  let s ← getS
  readVA q (s.fget rf_grvJobMapBase_base q.p * 64) (8 * s.fget rf_grvJobMapBase_count q.p)

/-- The rank's entry of the job map, resolved at issue; an invalid rank is ILLEGAL (R295, R297). -/
def rankAddr (q : XReq) (rank : Nat) : Eng Addr := do
  match jobEntry (← colMap q) rank with
  | some e => return jmAddr e
  | none => stop (.status stIllegal 0)

/-- A local extent of the descriptor overlaps another of its extents (R326): `far` are those in the peer's space, which is
this partition's own where the rank names it. -/
def colOverlap (q : XReq) (peer : Addr) (near far : List (List (Nat × Nat × Nat × Nat))) : Eng Bool := do
  let own := peer = (← getS).here q.p
  return near.zipIdx.any fun (a, i) => (near.drop (i + 1) ++ if own then far else []).any (overlap a)

/-- An address kept in a flight. -/
def addrNum (a : Addr) : Nat := a.x + 16 * a.y + 256 * a.z + 4096 * a.part
def numAddr (n : Nat) : Addr := ⟨n % 16, n / 16 % 16, n / 256 % 16, n / 4096 % 16⟩

/-! ### The bytes of a tensor as one stream (R306) -/

namespace TRef

/-- Contiguous runs of a tensor in ascending order: rows, or columns in layout 1, and in an MX tensor the scale rows
after the element rows. -/
def runCount (t : TRef) : Nat := if fmtIsMX t.fmt then 2 * t.rows else if t.layout = 1 then t.cols else t.rows

def runLen (t : TRef) (k : Nat) : Nat :=
  if fmtIsMX t.fmt then (if k < t.rows then t.mxRowBytes else t.scaleRow)
  else (if t.layout = 1 then t.rows else t.cols) * elemBytes t.fmt

def runAddr (t : TRef) (k : Nat) : Nat :=
  if fmtIsMX t.fmt ∧ t.rows ≤ k then t.scalePlane + (k - t.rows) * t.scaleRow else t.addr + k * t.stride

/-- Bytes of the stream. -/
def streamBytes (t : TRef) : Nat :=
  if fmtIsMX t.fmt then t.rows * (t.mxRowBytes + t.scaleRow) else t.rows * t.cols * elemBytes t.fmt

/-- The run that holds stream byte o, and the place in it. -/
def runOfByte (t : TRef) (o : Nat) : Nat × Nat :=
  if fmtIsMX t.fmt ∧ t.rows * t.mxRowBytes ≤ o then
    let x := o - t.rows * t.mxRowBytes
    (t.rows + x / t.scaleRow, x % t.scaleRow)
  else (o / t.runLen 0, o % t.runLen 0)

/-- Stream bytes [o, o + n) as pieces of at most 4,096 contiguous bytes: stream offset, address, length. -/
def pieces (t : TRef) : Nat → Nat → Nat → List (Nat × Nat × Nat)
  | 0, _, _ => []
  | f + 1, o, n =>
    if n = 0 then []
    else
      let (k, x) := t.runOfByte o
      let c := min n (min 4096 (t.runLen k - x))
      (o, t.runAddr k + x, c) :: t.pieces f (o + c) (n - c)

/-- Pieces of each run, and the stream's number of pieces. -/
def runPieces (t : TRef) (k : Nat) : Nat := ceilDiv (t.runLen k) 4096
def pieceCount (t : TRef) : Nat :=
  if fmtIsMX t.fmt then t.rows * (t.runPieces 0 + t.runPieces t.rows) else t.runCount * t.runPieces 0

/-- Piece j of the whole stream. -/
def pieceAt (t : TRef) (j : Nat) : Nat × Nat × Nat :=
  let a := if fmtIsMX t.fmt then t.rows * t.runPieces 0 else t.pieceCount
  let per := if j < a then t.runPieces 0 else t.runPieces t.rows
  let k := if j < a then j / per else t.rows + (j - a) / per
  let off := 4096 * ((if j < a then j else j - a) % per)
  let base := if k < t.rows ∨ ¬ fmtIsMX t.fmt then k * t.runLen 0
    else t.rows * t.runLen 0 + (k - t.rows) * t.runLen t.rows
  (base + off, t.runAddr k + off, min 4096 (t.runLen k - off))

/-- Address in t of the element that stands e-th in the stream of a tensor of the same shape in layout `l`. -/
def elemOf (t : TRef) (l e : Nat) : Nat :=
  if l = 1 then t.elemAddr (e % t.rows) (e / t.rows) else t.elemAddr (e / t.cols) (e % t.cols)

end TRef

/-- Bytes [o, o + n) of the stream of `ref`, read from t, a tensor of equal shape and format. -/
def streamRead (q : XReq) (t ref : TRef) (o n : Nat) : Eng (List Byte) := do
  if fmtIsMX t.fmt ∨ t.layout = ref.layout then
    return (← mapE (t.pieces (n + 1) o n) fun (_, a, c) => readVA q a c).flatten
  else
    let e := elemBytes t.fmt
    return (← mapE (rangeFrom (o / e) ((o + n) / e)) fun i => readVA q (t.elemOf ref.layout i) e).flatten

/-- Writes bytes at o of the stream of `ref` into t; a result slot's buffer is no remote page (R338). -/
def streamWrite (q : XReq) (slot : Bool) (t ref : TRef) (o : Nat) (bs : List Byte) : Eng Unit :=
  let put := if slot then writeLocals q else writeAll q
  if fmtIsMX t.fmt ∨ t.layout = ref.layout then
    put ((t.pieces (bs.length + 1) o bs.length).map fun (x, a, c) => (a, slice bs (x - o) c))
  else
    let e := elemBytes t.fmt
    put ((List.range (bs.length / e)).map fun i => (t.elemOf ref.layout (o / e + i), slice bs (e * i) e))

/-- Equal shape and format. -/
def sameShape (a b : TRef) : Bool := a.rows = b.rows && a.cols = b.cols && a.fmt = b.fmt

/-- Issues a collective descriptor. -/
def State.issueCol (s : State) (core stream n : Nat) (kind : List Byte → Bool) (legal : State → List Byte → Bool)
    (run : Eng Unit) : State :=
  match s.partOf core with
  | some p => (s.issueDesc core stream n kind always legal run).syncCol p
  | none => s

/-! ### COL.GATHER (R306 to R311, R322) -/

def gaDst (d : List Byte) : TRef := tref d 16
def gaSrc (d : List Byte) : TRef := tref d 40
def gaRank (d : List Byte) : Nat := fld d 64 2
def gaToSlot (d : List Byte) : Bool := fldBit d 66 0
def gaSlot (d : List Byte) : Nat := fld d 72 8
def gaSrcSlot (d : List Byte) : Nat := fld d 80 8

/-- A reference whose address a slot supplies. -/
def slotRefOk (d : List Byte) (o : Nat) : Bool :=
  trefReserved d o && (tref d o).addr = 0 && ({ tref d o with addr := 64 }).legal false

def colGatherLegal (_ : State) (d : List Byte) : Bool :=
  sameShape (gaDst d) (gaSrc d) && gaRank d ≤ 4095 && fldB d 66 7 1 = 0 && fldB d 67 7 2 = 0 && fldB d 67 1 0 ≠ 3
    && zeroBytes d 68 4 && zeroBytes d 88 40
    && (if gaToSlot d then slotRefOk d 16 && slotRefOk d 40 && va48 (gaSlot d) 128 && va48 (gaSrcSlot d) 128
        else trefOk d 16 && trefOk d 40 && fld d 72 8 = 0 && fld d 80 8 = 0)

def gaTile : Nat := 65536
def gaTiles (t : TRef) : Nat := ceilDiv t.streamBytes gaTile

-- What a gather's flight keeps from `clTry` on: the second fetch, the source, the local buffer, the source's buffer and
-- current index, the local slot's next index, 1 where the slot is WRITING, and the source buffer's result information.
def gaPeer : Nat := 7
def gaBuf : Nat := 8
def gaFrom : Nat := 9
def gaCur : Nat := 10
def gaNext : Nat := 11
def gaOpen : Nat := 12
def gaInfo : Nat := 13

/-- A tile failed (R307): the event and the status; the tile's destination bytes are undefined. -/
def gatherFails (q : XReq) (dst src : TRef) (o n : Nat) : Eng Unit := do
  streamWrite q (gaToSlot (← getF).bytes) dst src o (← freeBytes n)
  Eng.event 0x500A 0 (← getF).epoch
  stop (.status stUncorr 0x500A)

/-- Fetches tile k: its pieces one by one, the CRC with the last (R306, R307). -/
def gatherTile (q : XReq) (peer : Addr) (dst src : TRef) (k : Nat) : Eng Unit := do
  let o := gaTile * k
  let n := min gaTile (src.streamBytes - o)
  let ps := src.pieces (n + 1) o n
  if (← auxAt clAnswer) = anUncorr + 1 then gatherFails q dst src o n
  let _ ← colAnswered
  let got ← colData
  if h : got.length < ps.length then
    let (_, a, c) := ps[got.length]
    let f ← readFrame peer a c
    stop (.request (if got.length + 1 = ps.length then
        .extra f (.tile (ps.map fun (_, a, c) => (a, c))
          (if k = 0 ∧ dst.scale ≠ 0xFFFF ∧ src.scale ≠ 0xFFFF then some src.scale else none))
      else .frame f) colAux)
  else
    let bs := got.flatten
    if crc32c bs = (← auxAt clCrc) then
      streamWrite q (gaToSlot (← getF).bytes) dst src o bs
      setAux clTry 0
      let sc ← auxAt clScale
      if k = 0 ∧ dst.scale ≠ 0xFFFF ∧ sc ≠ 0 then
        modF fun f => { f with scales := [⟨dst.scale, some (sc - 1), 0, false, false⟩] }
      modF fun f => { f with detail := o + n }
    else if (← auxAt clTry) = 0 then
      -- one more fetch
      setAux clTry 1
      modS fun s => s.count .grvColCount q.p 0
      dropData
      match ps.head? with
      | some (_, a, c) =>
        let f ← readFrame peer a c
        stop (.request (if ps.length = 1 then .extra f (.tile [(a, c)] none) else .frame f) colAux)
      | none => return ()
    else gatherFails q dst src o n

/-- Opens the local slot as a computing descriptor does (R206, R310); the buffer must not overlap the slot's record (R326). -/
def gatherSlotStart (q : XReq) (slot : Nat) (dst : TRef) : Eng Unit := do
  let b ← readVA q slot 128
  let nxt := 1 - slCurrent b
  if slNext b = slWriting ∨ !va48 (slBuf b 0) 64 ∨ !va48 (slBuf b 1) 64
      ∨ overlap { dst with addr := slBuf b nxt }.extent (runOf slot 128) then stop (.status stIllegal 0)
  writeLocals q [(slot + 16, leBytes 8 (w64 (slGeneration b + 1))),
    (slot + 24, leBytes 2 (slByte24 (fldBit b 24 2) false (slCurrent b) + 256 * slWriting)),
    (slot + 60 + 32 * nxt, leBytes 4 0)]
  if slHeld b then
    Eng.event 0x6007 0 (← getF).epoch
    modS fun s =>
      let x := s.part q.p
      s.setPart q.p { x with heldPubs := x.heldPubs.filter (·.2 ≠ slot) }
  setAux gaBuf (slBuf b nxt)
  setAux gaNext nxt
  setAux gaOpen 1

/-- The source's current buffer as a slot gather found it: its address, its index, and its result information, which changes
where the index has changed and come back, since the buffer was then computed anew (R206, R310). -/
def gatherSource (b : List Byte) : Eng Unit := do
  setAux gaFrom (slBuf b (slCurrent b))
  setAux gaCur (slCurrent b)
  setAux gaInfo (leNat (slInfo b (slCurrent b)))

/-- A tensor gather, or with to_slot: the source's record, its current buffer, and the record again, until the current
index is the one read at first (R310). -/
def gatherLoop (q : XReq) (peer : Addr) : Nat → Eng Unit
  | 0 => return ()
  | f + 1 => do
    let fl ← getF
    let d := fl.bytes
    if ¬ gaToSlot d then
      units (gaTiles (gaSrc d)) fun k => gatherTile q peer (gaDst d) (gaSrc d) k
    else
      if (← auxAt clStage) = 0 then
        gatherSource (← colRead peer (gaSrcSlot d) 128)
        setAux clStage 1
      if (← auxAt clStage) = 1 then
        let dst := { gaDst d with addr := ← auxAt gaBuf }
        let src := { gaSrc d with addr := ← auxAt gaFrom }
        units (gaTiles src) fun k => gatherTile q peer dst src k
        setAux clStage 2
      let b ← colRead peer (gaSrcSlot d) 128
      if slCurrent b = (← auxAt gaCur) ∧ leNat (slInfo b (slCurrent b)) = (← auxAt gaInfo) then
        let slot := gaSlot d
        let nxt ← auxAt gaNext
        writeLocals q [(slot + 32 + 32 * nxt, slInfo b (slCurrent b)), (slot + 25, leBytes 1 slReady)]
        setAux gaOpen 2
      else
        -- what was received is discarded
        gatherSource b
        setAux clStage 1
        modF fun x => { x with point := 0, scales := [] }
        gatherLoop q peer f

def colGatherRun : Eng Unit := do
  let q ← Eng.req
  let d := (← getF).bytes
  colOnce 7 (do
    checkScales q [gaDst d, gaSrc d]
    let peer ← rankAddr q (gaRank d)
    if ← (if gaToSlot d then colOverlap q peer [runOf (gaSlot d) 128] [runOf (gaSrcSlot d) 128]
        else colOverlap q peer [(gaDst d).extent] [(gaSrc d).extent]) then stop (.status stIllegal 0)
    setAux gaPeer (addrNum peer))
  if gaToSlot d ∧ (← auxAt gaOpen) = 0 then gatherSlotStart q (gaSlot d) (gaDst d)
  gatherLoop q (numAddr (← auxAt gaPeer)) 2

/-- The slot of a gather that ends otherwise than DONE (R310). -/
def State.gatherDone (s : State) (fl : Flight) : State :=
  if hOpcode fl.bytes = 0x63 ∧ gaToSlot fl.bytes ∧ fl.aux.getD gaOpen 0 = 1 then
    (s.own (writeLocal (fl.req (s.partOfFlight fl)) (gaSlot fl.bytes + 25) (leBytes 1 slDiscarded))).2
  else s

def execColGather (core : Fin 64) (stream : Fin 3) (n : BitVec 32) (s : State) : Host.Outcome State Fault Refusal :=
  done (s.issueCol core stream n.toNat (isOp 0x63) colGatherLegal colGatherRun)

/-! ### COL.RING (R312 to R316, R325) -/

def rgSrc (d : List Byte) : TRef := tref d 16
def rgDst (d : List Byte) : TRef := tref d 40
def rgPeer (d : List Byte) : Nat := fld d 64 2
def rgChannel (d : List Byte) : Nat := fld d 66 2
def rgSeq (d : List Byte) : Nat := fld d 68 4
def rgEmpty (d : List Byte) : Bool := fldBit d 72 0

def colRingLegal (_ : State) (d : List Byte) : Bool :=
  rgPeer d ≤ 4095 && rgChannel d ≤ 63 && fldB d 72 7 1 = 0 && fldB d 73 7 2 = 0 && fldB d 73 1 0 ≠ 3 && zeroBytes d 74 54
    && (if rgEmpty d then zeroBytes d 16 48
        else trefOk d 16 && trefOk d 40 && sameShape (rgSrc d) (rgDst d))

/-- The block's data as plain writes, then the commit (R313). -/
def colRingRun : Eng Unit := do
  let q ← Eng.req
  let d := (← getF).bytes
  colOnce 1 (do
    let peer ← rankAddr q (rgPeer d)
    if ¬ rgEmpty d then
      checkScales q [rgSrc d, rgDst d]
      if ← colOverlap q peer [(rgSrc d).extent] [(rgDst d).extent] then stop (.status stIllegal 0)
    setAux gaPeer (addrNum peer))
  let peer := numAddr (← auxAt gaPeer)
  let dst := rgDst d
  let n := if rgEmpty d then 0 else dst.pieceCount
  units (n + 1) fun k => do
    if k < n then
      let (o, a, c) := dst.pieceAt k
      colSend (do
        let bs ← streamRead q (rgSrc d) dst o c
        return .extra (← writeFrame peer a bs) (.ring (rgChannel d) (rgSeq d)))
      modF fun f => { f with detail := o + c }
    else
      colSend (do
        return .frame (← colFrame peer 0x04
          (leBytes 2 (rgChannel d) ++ leBytes 2 0 ++ leBytes 4 (rgSeq d) ++ List.replicate 8 0) []))

def execColRing (core : Fin 64) (stream : Fin 3) (n : BitVec 32) (s : State) : Host.Outcome State Fault Refusal :=
  done (s.issueCol core stream n.toNat (isOp 0x66) colRingLegal colRingRun)

/-! ### Targets -/

/-- What an access on behalf of a frame comes to: an answer, or it is held at a sleeping domain (R494, R495). -/
inductive Served (α : Type) where
  | ok (a : α)
  | no (answer : Nat)
  | held
deriving DecidableEq, Repr

/-- An access to a partition's memory that a frame asks for, by a port's requester: a fault there is recorded and refused (R338,
R344). -/
def State.serve {α : Type} (s : State) (q : XReq) (c : XReq → Eng α) : Served α × State :=
  match s.ownE (c q) with
  | (.ok a, s) => (.ok a, s)
  | (.error (.fault cause va wr acc _), s) => (.no anRejected, s.portFault q cause va wr acc)
  | (.error .uncorr, s) => (.no anUncorr, s)
  | (.error (.asleep d), s) => (.no anRejected, s.asleepEvent d (some q.p) 0)
  | (.error (.held d), s) => (.held, s.holdAccess d)
  | (.error _, s) => (.no anRejected, s)

/-- A request frame of an operation reaches its target: it is refused while the partition is being pre-empted or saved, and
from outside the peer set (R267, R298, R338); otherwise `f` answers it. -/
def State.target (s : State) (f : Frame) (op : Nat) (act : State → State) : State :=
  if s.serves ∧ f.op = op ∧ f.cls = 3 ∧ sameModule f.dst (s.here 0) then
    if !s.admits f.dst.part then s.respond f anNotReady 0
    else match s.isPeer f.dst.part f.src with
      | (true, s) => act s
      | (false, s) => s.respond f anRejected 0
  else s

/-- The answer to a request whose access came to something. -/
def State.served {α : Type} (f : Frame) (r : Served α × State) (ok : α → State → State) : State :=
  match r with
  | (.ok a, s) => ok a s
  | (.no x, s) => s.respond f x 0
  | (.held, s) => s

/-! #### The channel table (R312, R313) -/

def chSender (e : List Byte) : Nat := fld e 0 2
def chToken (e : List Byte) : Nat := fld e 2 2
def chCore (e : List Byte) : Nat := fld e 4 1
def chValid (e : List Byte) : Bool := fldBit e 6 0
def chExpected (e : List Byte) : Nat := fld e 8 4

def State.channelAddr (s : State) (p ch : Nat) : Nat := s.fget rf_grvChannelBase_base p * 1024 + 16 * ch

/-- The sender is the rank a channel names. -/
def State.isRank (s : State) (p rank : Nat) (a : Addr) : Bool × State :=
  match s.jobMap p with
  | (some m, s) => (match jobEntry m rank with
    | some e => decide (jmAddr e = a)
    | none => false, s)
  | (none, s) => (false, s)

/-- The checks of R313 on a request of a channel: answers REJECTED, NOT_READY or DUPLICATE, or lets it through with the
channel's entry. -/
def State.ringCheck (s : State) (f : Frame) (ch seq : Nat) (act : List Byte → State → State) : State :=
  let p := f.dst.part
  if 63 < ch then s.respond f anRejected 0
  else State.served f (s.serve (s.frameReq f false) fun q => readLocal q (s.channelAddr p ch) 16) fun e s =>
    let (mine, s) := s.isRank p (chSender e) f.src
    if !chValid e || !mine then s.respond f anRejected 0
    else
      let d := sext 32 (subMod 32 seq (chExpected e))
      if 0 < d then s.respond f anNotReady 0
      else if d < 0 then s.respond f anDuplicate 0
      else act e s

/-- A dispatch buffer that an expert of this partition owns holds the address: it must lie in pinned pages (R340). -/
def State.inExchange (s : State) (p va : Nat) : Bool :=
  (s.part p).exch.any fun x => x.experts.any fun e =>
    e.owner = (x.members.getD x.me (0, ⟨0, 0, 0, 0⟩)).1
      && e.inVa ≤ va && va < roundUp (e.inVa + e.cap * (tref x.bytes 16).cols * elemBytes (tref x.bytes 16).fmt) 64 + 8 * e.cap

/-- Whether a block of a channel is being received (R313, R328). -/
def State.ringBlock (s : State) (p ch : Nat) (now : Bool) : State :=
  let x := s.part p
  s.setPart p { x with ringOpen := x.ringOpen.filter (· ≠ ch) ++ if now then [ch] else [] }

/-- A WRITE frame reaches its target (R338, R403); with `x`, it is data of a COL.RING (R313). -/
def execWodricWrite (f : Frame) (x : Option Extra) (s : State) : Host.Outcome State Fault Refusal :=
  let va := fld f.ops 0 8
  let p := f.dst.part
  done (s.target f 0x01 fun s =>
    match x with
    | some (.ring ch seq) => s.ringCheck f ch seq fun _ s =>
      State.served f (s.serve (s.frameReq f true) fun q => writeLocal q va f.payload) fun _ s =>
        (s.ringBlock p ch true).respond f anAccepted 0
    | _ => State.served f (s.serve (s.frameReq f (s.inExchange p va)) fun q => writeLocal q va f.payload) fun _ s =>
      s.respond f anAccepted 0)

/-- The DONE answer to a READ, for an answer that a scale goes with. -/
def scaledAnswer (f : Frame) (crc : Nat) (bs : List Byte) : Frame :=
  { cls := 1
    dst := f.src
    src := f.dst
    op := 0x10
    reqId := f.reqId
    ops := leBytes 1 anDone ++ List.replicate 3 0 ++ leBytes 4 crc ++ List.replicate 8 0
    payload := bs }

/-- A READ frame reaches its target (R338, R405); with `x` it ends a gather tile, whose runs must lie in pinned pages, and
the answer carries the tile's CRC-32C and, where asked for, the scale_stored of the source's entry (R306, R308). -/
def execWodricRead (f : Frame) (x : Option Extra) (s : State) : Host.Outcome State Fault Refusal :=
  let va := fld f.ops 0 8
  let n := fld f.ops 8 4
  let p := f.dst.part
  done (s.target f 0x02 fun s =>
    if n = 0 ∨ 4096 < n then s.respond f anRejected 0
    else
      match x with
      | some (.tile runs scale) =>
        State.served f (s.serve (s.frameReq f true) fun q => do
          let bs ← readLocal q va n
          let tile ← mapE runs fun (a, c) => readLocal q a c
          let sc ← match scale with
            | some i => do
              let b ← readLocal { q with pinned := false } ((← getS).scaleAddr p i + 72) 4
              pure (some (leNat b))
            | none => pure none
          return (bs, crc32c tile.flatten, sc)) fun (bs, crc, sc) s =>
            match sc with
            | none => s.respond f anDone 0 bs crc
            | some v => s.send (.extra (scaledAnswer f crc bs) (.scale v))
      | _ => State.served f (s.serve (s.frameReq f false) fun q => readLocal q va n) fun bs s => s.respond f anDone 0 bs)

/-- A COMMIT frame reaches the receiver of a channel (R313): expected advances, then the token moves. -/
def execRingCommit (f : Frame) (s : State) : Host.Outcome State Fault Refusal :=
  let ch := fld f.ops 0 2
  let seq := fld f.ops 4 4
  let p := f.dst.part
  done (s.target f 0x04 fun s => s.ringCheck f ch seq fun e s =>
    let t := chToken e
    let ok : Bool := chCore e < 64 && s.partOf (chCore e) = some p && (t ≤ 0xFF || (0x1000 ≤ t && t ≤ 0x103F))
    if ok then
      State.served f (s.serve (s.frameReq f false) fun q =>
          writeLocal q (s.channelAddr p ch + 8) (leBytes 4 (w32 (chExpected e + 1))))
        fun _ s => (((s.ringBlock p ch false).tokAdd (chCore e) t 1).count .grvColCount p 3).respond f anAccepted 0
    else s.respond f anRejected 0)

end Sys2Proof.Machine
end

