-- ==== Sys2Proof/Machine/Exchange.lean ====
section
/-! DEFINITION. The exchange of token rows with the modules that own their experts (R299 to R304). The workspace holds what a
member's exchange knows; its layout is the module's own, so its bytes are free values and State holds the contents. -/
namespace Sys2Proof.Machine

open Eng

/-! ### The descriptor (R324) -/

def xcX (d : List Byte) : TRef := tref d 16
def xcY (d : List Byte) : TRef := tref d 40
def xcRoutes (d : List Byte) : Nat := fld d 64 8
def xcStatus (d : List Byte) : Nat := fld d 72 8
def xcTable (d : List Byte) : Nat := fld d 80 8
def xcWork (d : List Byte) : Nat := fld d 88 8
def xcGroup (d : List Byte) : Nat := fld d 96 2
def xcId (d : List Byte) : Nat := fld d 98 2
def xcExperts (d : List Byte) : Nat := fld d 100 4
def xcMode (d : List Byte) : Nat := fldB d 104 1 0
def xcK (d : List Byte) : Nat := fldB d 104 5 2

/-- Rows of x: in mode 1 they follow from y. -/
def xcT (d : List Byte) : Nat := if xcMode d = 0 then (xcX d).rows else (xcY d).rows / xcK d

/-- Extents of memory that a member's descriptor names, with a workspace of w bytes. -/
def xcExtents (d : List Byte) (w : Nat) : List (List (Nat × Nat × Nat × Nat)) :=
  (if xcMode d = 0 then [(xcX d).extent, runOf (xcRoutes d) (2 * xcT d * xcK d)] else [])
    ++ [(xcY d).extent, runOf (xcStatus d) (xcT d * xcK d), runOf (xcTable d) (32 * xcExperts d), runOf (xcWork d) w]

/-- No two extents of a list share a byte. -/
def disjointAll : List (List (Nat × Nat × Nat × Nat)) → Bool
  | [] => true
  | a :: as => as.all (fun b => !overlap a b) && disjointAll as

def exchLegal (_ : State) (d : List Byte) : Bool :=
  1 ≤ xcK d && xcK d ≤ 8 && xcMode d ≤ 1 && fldB d 104 7 6 = 0 && fldB d 105 7 2 = 0 && fldB d 105 1 0 ≠ 3
    && zeroBytes d 106 22 && 1 ≤ xcExperts d && xcExperts d ≤ 65535 && xcGroup d ≤ 4095
    && trefOk d 40 && (xcY d).rows = xcK d * xcT d
    && (if xcMode d = 1 then trefIdle d 16 else trefOk d 16 && (xcX d).fmt ≤ cFP16)
    && va48 (xcRoutes d) 1 && va48 (xcStatus d) 1 && va48 (xcTable d) 1 && va48 (xcWork d) 1
    && disjointAll (xcExtents d 64)

/-! ### The record of an exchange -/

namespace Exch

def group (x : Exch) : Nat := x.members.length
def rank (x : Exch) : Nat := (x.members.getD x.me (0, ⟨0, 0, 0, 0⟩)).1
def addr (x : Exch) (m : Nat) : Addr := (x.members.getD m (0, ⟨0, 0, 0, 0⟩)).2
def memberOf (x : Exch) (a : Addr) : Option Nat := x.members.findIdx? (·.2 = a)
def ownerIdx (x : Exch) (e : Nat) : Nat :=
  match x.experts[e]? with
  | some t => (x.members.findIdx? (·.1 = t.owner)).getD 0
  | none => 0
/-- Experts of a member, ascending. -/
def owned (x : Exch) (m : Nat) : List Nat := (List.range x.experts.length).filter fun e => x.ownerIdx e = m
def owners (x : Exch) : List Nat := (List.range x.group).filter fun m => !(x.owned m).isEmpty
def expert (x : Exch) (e : Nat) : Expert := x.experts.getD e ⟨0, 1, 0, 0⟩
def workBytes (x : Exch) : Nat := 64 + 16 * x.group + 16 * (x.owned x.me).length * x.group

/-- Positions of the routed choices of an expert, in the order of (token, choice). -/
def choices (x : Exch) (e : Nat) : List Nat :=
  (x.routes.zipIdx.filter fun (r, _) => r = e).map (·.2)

/-- Counts of an expert from every member, in the order of positions; none while one is missing. -/
def allCounts (x : Exch) (e : Nat) : Option (List Nat) :=
  (List.range x.group).mapM fun m => (x.counts.find? fun (a, b, _) => a = e ∧ b = m).map (·.2.2)

/-- The leftover of R300, member by member from the one the epoch names. -/
def leftover (g start : Nat) (count : List Nat) : List Nat → Nat → List Nat → List Nat
  | [], _, gr => gr
  | i :: is, left, gr =>
    let s := (i + start) % g
    let extra := min (count.getD s 0 - gr.getD s 0) left
    leftover g start count is (left - extra) (gr.set s (gr.getD s 0 + extra))

/-- Offset and grant of each member for an expert (R300). -/
def grantsOf (x : Exch) (e : Nat) : Option (List (Nat × Nat)) :=
  (x.allCounts e).map fun count =>
    let g := x.group
    let c := (x.expert e).cap
    let share := c / g
    let gr0 := count.map (min · share)
    let gr := leftover g (x.epoch % 65536) count (List.range g) (c - gr0.sum) gr0
    gr.zipIdx.map fun (n, m) => ((gr.take m).sum, n)

/-- Rows granted of an expert. -/
def filled (x : Exch) (e : Nat) : Nat :=
  match x.grantsOf e with
  | some gs => (gs.map (·.2)).sum
  | none => 0

end Exch

def State.exchFind (s : State) (p id epoch16 : Nat) : Option Exch :=
  (s.part p).exch.find? fun x => x.id = id ∧ x.epoch % 65536 = epoch16

/-- An exchange's record replaced; one of another epoch with the same id ends. -/
def State.setExch (s : State) (p : Nat) (x : Exch) : State :=
  let q := s.part p
  s.setPart p { q with exch := q.exch.filter (·.id ≠ x.id) ++ [x] }

/-- The workspace's bytes change in a way the spec does not give. -/
def State.freeWork (s : State) (p : Nat) (x : Exch) : State :=
  (s.own (do
    let bs ← freeBytes x.workBytes
    writeLocal (accountReq p) (xcWork x.bytes) bs)).2

/-! ### What a member sends -/

/-- An operation of an exchange: a message, or a write of local memory. -/
inductive XOp where
  /-- A COLLECTIVE frame of a subtype to a member. -/
  | say (dest sub : Nat) (payload : List Byte) (x : Option Extra)
  /-- Bytes of a row of a tensor, written at the member's address. -/
  | row (dest va : Nat) (t : TRef) (i : Nat) (o : DmaOp)
  /-- Bytes at a local address, written at the member's address. -/
  | move (dest va src n : Nat)
  | bytes (dest va : Nat) (bs : List Byte)
  /-- A local write; `pinned` in a buffer of R340. -/
  | here (pinned : Bool) (va : Nat) (bs : List Byte)
  /-- The counts of rows sent and dropped, and the event. -/
  | tally
deriving DecidableEq, Repr

-- Subtypes of COLLECTIVE (R405).
def csCount : Nat := 1
def csGrant : Nat := 2
def csFinished : Nat := 3
def csReturned : Nat := 4
def csPart : Nat := 5

/-- A COLLECTIVE frame of an exchange (R304, R405). -/
def State.exchFrame (s : State) (p : Nat) (x : Exch) (dest sub : Nat) (payload : List Byte) : Frame :=
  { cls := 3, dst := x.addr dest, src := s.here p, op := 0x05
    ops := leBytes 2 sub ++ leBytes 2 x.id ++ leBytes 2 x.epoch ++ List.replicate 10 0
    payload := payload }

/-- A list in pieces of at most n. -/
def piecesOf {α : Type} (n : Nat) : Nat → List α → List (List α)
  | 0, _ => []
  | f + 1, xs => if xs.isEmpty then [] else xs.take n :: piecesOf n f (xs.drop n)

/-- Phase 1 of a dispatch: a count for every expert of the table, to its owner (R300). -/
def Exch.countOps (x : Exch) : List XOp :=
  x.owners.flatMap fun m =>
    (piecesOf 512 (x.owned m).length (x.owned m)).map fun es =>
      .say m csCount (es.flatMap fun e => leBytes 2 e ++ leBytes 2 0 ++ leBytes 4 (x.choices e).length)
        (some (.counts (slice x.bytes 40 24) (xcX x.bytes).rows))

/-- Bytes of a dispatched row, and where the route records of an expert begin (R299). -/
def Exch.rowBytes (x : Exch) : Nat := (xcX x.bytes).cols * elemBytes (xcX x.bytes).fmt
def Exch.records (x : Exch) (e : Nat) : Nat := roundUp ((x.expert e).inVa + (x.expert e).cap * x.rowBytes) 64

/-- Offset and grant of this member for an expert. -/
def Exch.mine (x : Exch) (e : Nat) : Nat × Nat :=
  match x.grants.find? (·.1 = e) with
  | some (_, o, g) => (o, g)
  | none => (0, 0)

/-- A route record (R299). -/
def Exch.record (x : Exch) (pos : Nat) : List Byte :=
  let k := xcK x.bytes
  leBytes 2 x.rank ++ leBytes 1 (pos % k) ++ leBytes 1 0 ++ leBytes 4 (pos / k)

/-- Cuts of n bytes of at most 4,096. -/
def cuts (n : Nat) : List (Nat × Nat) := (List.range (ceilDiv n 4096)).map fun i => (4096 * i, min 4096 (n - 4096 * i))

/-- Status of the choice at a position: 0 sent, 1 dropped, 2 no expert. -/
def Exch.statusOf (x : Exch) (pos : Nat) : Nat :=
  let e := x.routes.getD pos 0xFFFF
  if x.experts.length ≤ e then 2
  else if ((x.choices e).findIdx? (· = pos)).getD 0 < (x.mine e).2 then 0 else 1

/-- Phases 3 and 4 of a dispatch: granted rows with their records to each owner, then FINISHED to it; then the status
tensor (R300). -/
def Exch.rowOps (x : Exch) : List XOp :=
  let tx := xcX x.bytes
  let rb := x.rowBytes
  x.owners.flatMap (fun m =>
    (x.owned m).flatMap (fun e =>
      let (off, g) := x.mine e
      ((x.choices e).take g).zipIdx.flatMap fun (pos, n) =>
        let row := off + n
        (cuts rb).map (fun (o, c) =>
          .row m ((x.expert e).inVa + row * rb + o) tx (pos / xcK x.bytes) ⟨0, pos / xcK x.bytes, o, c⟩)
          ++ [.bytes m (x.records e + 8 * row) (x.record pos)])
      ++ [.say m csFinished [] none])
    ++ [.tally]
    ++ (cuts x.routes.length).map fun (o, c) =>
      .here false (xcStatus x.bytes + o) ((rangeFrom o (o + c)).map fun i => BitVec.ofNat 8 (x.statusOf i))

/-- The padding of the experts this member owns, and `filled` in its own table (R301). -/
def Exch.padOps (x : Exch) : List XOp :=
  (x.owned x.me).flatMap fun e =>
    let n := x.filled e
    let t := x.expert e
    ((cuts ((t.cap - n) * x.rowBytes)).map fun (o, c) => .here true (t.inVa + n * x.rowBytes + o) (List.replicate c 0))
      ++ ((cuts ((t.cap - n) * 8)).map fun (o, c) => .here true (x.records e + 8 * n + o) (List.replicate c 0))
      ++ [.here false (xcTable x.bytes + 32 * e + 24) (leBytes 4 n)]

/-- Runs an operation of the exchange. -/
def exchOp (q : XReq) (x : Exch) (o : XOp) : Eng Unit := do
  let core := (← getF).core
  match o with
  | .say dest sub pay ex => colSend (do
      let f := (← getS).exchFrame q.p x dest sub pay
      return match ex with
        | some e => .extra f e
        | none => .frame f)
  | .row dest va t i op => colSend (do return .frame (← writeFrame (x.addr dest) va (← dmaRead q core t i op)))
  | .move dest va src n => colSend (do
      return .frame (← writeFrame (x.addr dest) va (← readLocal { q with pinned := true } src n)))
  | .bytes dest va bs => colSend (do return .frame (← writeFrame (x.addr dest) va bs))
  | .here pinned va bs => writeLocal { q with pinned := pinned } va bs
  | .tally => do
    let es := List.range x.experts.length
    let sent := (es.map fun e => min (x.choices e).length (x.mine e).2).sum
    let dropped := (es.map fun e => (x.choices e).length - (x.mine e).2).sum
    modS fun s => (s.count .grvColCount q.p 1 sent).count .grvColCount q.p 2 dropped
    if 0 < dropped then Eng.event 0x500B dropped x.epoch

/-- Runs the operations of a list as the units from `base` on. -/
def exchOps (q : XReq) (x : Exch) (base : Nat) (ops : List XOp) : Eng Unit :=
  units (base + ops.length) fun k => do
    match ops[k - base]? with
    | some o => exchOp q x o
    | none => return ()
    -- bytes acknowledged (R134)
    match ops[k - base]? with
    | some (.row _ _ _ _ o) => modF fun f => { f with detail := f.detail + o.len }
    | some (.move _ _ _ n) => modF fun f => { f with detail := f.detail + n }
    | some (.bytes _ _ bs) => modF fun f => { f with detail := f.detail + bs.length }
    | _ => return ()

/-- The group's members in the order of positions, and the expert table, checked (R299, R326). -/
def exchMembers (d : List Byte) : Eng (List (Nat × Addr) × List Expert) := do
  let q ← Eng.req
  let m ← colMap q
  let es := (List.range (m.length / 8)).filterMap fun r => match jobEntry m r with
    | some e => if jmGroup e = xcGroup d then some (jmPosition e, r, jmAddr e) else none
    | none => none
  let ms := (List.range 4096).flatMap fun k => (es.filter (·.1 = k)).map (·.2)
  let bs ← readVA q (xcTable d) (32 * xcExperts d)
  let ts := (List.range (xcExperts d)).map fun e =>
    let b := slice bs (32 * e) 32
    (b, (⟨fld b 0 2, fld b 4 4, fld b 8 8, fld b 16 8⟩ : Expert))
  if ts.any (fun (b, t) => fld b 2 2 ≠ 0 || !zeroBytes b 28 4 || t.cap = 0 || 1048576 < t.cap
      || !ms.any (·.1 = t.owner)) then stop (.status stIllegal 0)
  return (ms, ts.map (·.2))

/-- Issue of a dispatch: the workspace is initialised (R304). -/
def dispatchBegin (q : XReq) : Eng Unit := do
  let fl ← getF
  let d := fl.bytes
  checkScales q [xcX d, xcY d]
  let (ms, ts) ← exchMembers d
  let here := (← getS).here q.p
  match ms.findIdx? (·.2 = here) with
  | none => stop (.status stIllegal 0)
  | some me =>
    let n := xcT d * xcK d
    let rs ← readVA q (xcRoutes d) (2 * n)
    let x : Exch :=
      { id := xcId d, epoch := ← hdrEpoch q.p, core := fl.core, stream := fl.stream, n := fl.n, bytes := d, members := ms
        me := me, experts := ts, routes := unpack 16 n rs, counts := [], dests := [], grants := [], finished := []
        returned := [], combining := false }
    if !disjointAll (xcExtents d x.workBytes) then stop (.status stIllegal 0)
    writeVA q (xcWork d) (← freeBytes x.workBytes)
    modS fun s => s.setExch q.p x

/-- The exchange of the descriptor in progress, as it stands. -/
def exchHere (q : XReq) : Eng Exch := do
  let fl ← getF
  match (← getS).exchFind q.p (xcId fl.bytes) ((← hdrEpoch q.p) % 65536) with
  | some x => return x
  | none => stop .await

def dispatchRun : Eng Unit := do
  let q ← Eng.req
  colOnce 0 (dispatchBegin q)
  let x ← exchHere q
  let c := x.countOps
  exchOps q x 0 c
  if (List.range x.experts.length).any fun e => (x.grants.find? (·.1 = e)).isNone then stop .await
  let r := x.rowOps
  exchOps q x c.length r
  if !(x.owned x.me).isEmpty ∧ (List.range x.group).any (fun m => !x.finished.contains m) then stop .await
  exchOps q x (c.length + r.length) x.padOps

/-- The result buffer of an expert, as a tensor of its capacity's rows in y's format (R299). -/
def outRef (y : TRef) (t : Expert) : TRef :=
  let u := { y with addr := t.outVa, rows := t.cap, layout := 0, scale := 0xFFFF }
  { u with stride := if fmtIsMX y.fmt then roundUp u.mxRowBytes 64 else y.cols * elemBytes y.fmt }

/-- Result row i of a tensor moved to row k of another of equal columns and format, in pieces of at most 4,096 bytes. -/
def moveRow (m : Nat) (src : TRef) (i : Nat) (dst : TRef) (k : Nat) : List XOp :=
  if dst.layout = 1 ∧ ¬ fmtIsMX dst.fmt then
    let e := elemBytes dst.fmt
    (dst.rowExtent k).zipIdx.map fun ((a, _), j) => .move m a (src.addr + i * src.stride + j * e) e
  else ((dst.rowExtent k).zip (src.rowExtent i)).flatMap fun ((a, _), (b, n)) =>
    (cuts n).map fun (o, c) => .move m (a + o) (b + o) c

/-- What a combine sends (R302): the result row of each filled row, then RETURNED to every member; then its own zero
rows. -/
def combineOps (q : XReq) (d : List Byte) (x : Exch) : Eng (List XOp) := do
  let sends ← mapE (x.owned x.me) fun e => do
    let t := x.expert e
    let n ← do
      let b ← readVA q (xcTable d + 32 * e + 24) 4
      pure (leNat b)
    let rs ← mapE (List.range n) fun row => do
      let b ← readLocal { q with pinned := true } (x.records e + 8 * row) 8
      let m := (x.members.findIdx? (·.1 = fld b 0 2)).getD x.me
      match x.dests.find? (·.1 = m) with
      | none => stop (.status stFault 0)
      | some (_, yb, rows) => return moveRow m (outRef (xcY d) t) row (tref yb 0) (fld b 2 1 * rows + fld b 4 4)
    return rs.flatten
  return sends.flatten ++ if (x.owned x.me).isEmpty then [] else
    (List.range x.group).map fun m => XOp.say m csReturned [] none

/-- +0 in every row of the member's own y whose status is 1 or 2 (R302). -/
def combineZeros (q : XReq) (d : List Byte) : Eng Unit := do
  let y := xcY d
  let k := xcK d
  let st ← readVA q (xcStatus d) (xcT d * k)
  eachM (st.zipIdx) fun (b, i) => do
    if b = 1 ∨ b = 2 then
      writeAll q ((y.rowExtent (i % k * xcT d + i / k)).map fun (a, n) => (a, List.replicate n 0))

/-- Where the members stand by the job map as the mode-1 descriptor found it at its issue (R297); the flight keeps it as ranks and
places. -/
def Exch.placed (x : Exch) : List Nat → Exch
  | r :: a :: rest =>
    let x := Exch.placed x rest
    { x with members := x.members.map fun (k, b) => if k = r then (k, numAddr a) else (k, b) }
  | _ => x

def combineRun : Eng Unit := do
  let q ← Eng.req
  let d := (← getF).bytes
  colOnce 0 (do
    checkScales q [xcY d]
    let (ms, _) ← exchMembers d
    modF fun f => { f with aux := f.aux ++ ms.flatMap fun (r, a) => [r, addrNum a] })
  let x := { (← exchHere q).placed ((← getF).aux.drop 7) with combining := true }
  modS fun s => s.setExch q.p x
  let ops ← combineOps q d x
  exchOps q x 0 ops
  units (ops.length + 1) fun _ => combineZeros q d
  if x.owners.any (fun m => !x.returned.contains m) then stop .await

def isDispatch (d : List Byte) : Bool := isOp 0x65 d && xcMode d ≠ 1
def isCombine (d : List Byte) : Bool := isOp 0x65 d && xcMode d = 1

def exchangeRun : Eng Unit := do
  if xcMode (← getF).bytes = 1 then combineRun else dispatchRun

def execExchangeDispatch (core : Fin 64) (stream : Fin 3) (n : BitVec 32) (s : State) :
    Host.Outcome State Fault Refusal :=
  done (s.issueCol core stream n.toNat isDispatch exchLegal exchangeRun)

def execExchangeCombine (core : Fin 64) (stream : Fin 3) (n : BitVec 32) (s : State) :
    Host.Outcome State Fault Refusal :=
  done (s.issueCol core stream n.toNat isCombine exchLegal exchangeRun)

/-! ### What a member receives -/

/-- The exchange's descriptors that wait run on. -/
def State.exchResume (s : State) (p : Nat) (x : Exch) : State :=
  (s.flights.filter fun f => hOpcode f.bytes = 0x65 && f.phase = .awaiting && s.partOf f.core = some p
      && xcId f.bytes = x.id).foldl (fun s f => s.goOn f exchangeRun) s

/-- A COLLECTIVE frame of an exchange reaches a member: LATE once the partition's epoch has passed the frame's, NOT_READY
before the matching descriptor has issued, REJECTED from outside the group (R298, R304). `ready` is whether the record's
exchange has issued that descriptor. -/
def State.exchTarget (s : State) (f : Frame) (sub : Nat) (ready : Exch → Bool) (act : Exch → Nat → State → State) : State :=
  let p := f.dst.part
  if fld f.ops 0 1 = sub then
    s.target f 0x05 fun s =>
      let e16 := fld f.ops 4 2
      if 0 < epochDiff (s.epoch p) e16 then s.respond f anLate 0
      else match s.exchFind p (fld f.ops 2 2) e16 with
        | none => s.respond f anNotReady 0
        | some x => match x.memberOf f.src with
          | none => s.respond f anRejected 0
          | some m =>
            if ready x then
              let s := act x m s
              (s.respond f anAccepted 0)
            else s.respond f anNotReady 0
  else s

/-- Sends the grants of some experts to a member; the owner sends them again until they are acknowledged (R300). -/
def State.sendGrants (s : State) (p : Nat) (x : Exch) (m : Nat) (es : List Nat) : State :=
  (piecesOf 341 es.length es).foldl (fun s es =>
    let pay := es.flatMap fun e => match x.grantsOf e with
      | some gs => let (o, g) := gs.getD m (0, 0); leBytes 2 e ++ leBytes 2 0 ++ leBytes 4 o ++ leBytes 4 g
      | none => []
    (s.request p { noFlight with core := x.core, stream := x.stream, n := x.n }
      (some (.frame (s.exchFrame p x m csGrant pay))) none [4]).1) s

/-- The pairs (expert, count) of an EXCH_COUNT for experts that the receiver owns. -/
def countPairs (f : Frame) (ex : Exch) : List (Nat × Nat) :=
  ((List.range (f.payload.length / 8)).map fun i => (fld f.payload (8 * i) 2, fld f.payload (8 * i + 4) 4)).filter
    fun (e, _) => (ex.owned ex.me).contains e

/-- The experts among a member's counts whose grants are computed already. -/
def countedBefore (f : Frame) (ex : Exch) : List Nat :=
  ((countPairs f ex).map (·.1)).filter fun e => (ex.grantsOf e).isSome

/-- The record of an exchange once it holds a member's counts, and what goes with them. -/
def countStored (f : Frame) (x : Option Extra) (ex : Exch) (m : Nat) : Exch :=
  let new := (countPairs f ex).filter fun (e, _) => !(countedBefore f ex).contains e
  { ex with
    counts := ex.counts.filter (fun (a, b, _) => !(new.any (·.1 = a) && b = m)) ++ new.map fun (e, c) => (e, m, c)
    dests := match x with
      | some (.counts y rows) => ex.dests.filter (·.1 ≠ m) ++ [(m, y, rows)]
      | _ => ex.dests }

/-- A member's counts are stored; the experts whose counts are now complete are granted to every member, and a member that
repeats a count is sent its grants again (R300). -/
def State.takeCount (s : State) (p : Nat) (f : Frame) (x : Option Extra) (old : Exch) (m : Nat) : State :=
  let was := countedBefore f old
  let ex := countStored f x old m
  let s := (s.setExch p ex).freeWork p ex
  let now := ((countPairs f old).map (·.1)).filter fun e => !was.contains e && (ex.grantsOf e).isSome
  let s := (List.range ex.group).foldl (fun s k => s.sendGrants p ex k now) s
  s.sendGrants p ex m was

/-- EXCH_COUNT at an owner (R300). `x` is what the spec sends with it. -/
def execExchCount (f : Frame) (x : Option Extra) (s : State) : Host.Outcome State Fault Refusal :=
  done (s.exchTarget f csCount (fun _ => true) fun ex m s => s.takeCount f.dst.part f x ex m)

/-- EXCH_GRANT at a member: its offsets and grants are stored, and once it has them all it goes on (R300). -/
def execExchGrant (f : Frame) (s : State) : Host.Outcome State Fault Refusal :=
  let p := f.dst.part
  done (s.exchTarget f csGrant (fun _ => true) fun ex _ s =>
    let gs := (List.range (f.payload.length / 12)).map fun i =>
      (fld f.payload (12 * i) 2, fld f.payload (12 * i + 4) 4, fld f.payload (12 * i + 8) 4)
    let ex := { ex with grants := ex.grants.filter (fun g => !gs.any (·.1 = g.1)) ++ gs }
    ((s.setExch p ex).freeWork p ex).exchResume p ex)

/-- EXCH_FINISHED at an owner: once it holds it from every member the padding is written (R301). -/
def execExchFinished (f : Frame) (s : State) : Host.Outcome State Fault Refusal :=
  let p := f.dst.part
  done (s.exchTarget f csFinished (fun _ => true) fun ex m s =>
    let ex := { ex with finished := ex.finished.filter (· ≠ m) ++ [m] }
    ((s.setExch p ex).freeWork p ex).exchResume p ex)

/-- EXCH_RETURNED at a source (R302). -/
def execExchReturned (f : Frame) (s : State) : Host.Outcome State Fault Refusal :=
  let p := f.dst.part
  done (s.exchTarget f csReturned (·.combining) fun ex m s =>
    let ex := { ex with returned := ex.returned.filter (· ≠ m) ++ [m] }
    ((s.setExch p ex).freeWork p ex).exchResume p ex)

end Sys2Proof.Machine
end

