-- ==== Sys2Proof/Machine/Permute.lean ====
section
/-! DEFINITION. COL.PERMUTE (R317 to R321, R323): chunks move between partitions in rounds, through a bounce region, under a
journal. -/
namespace Sys2Proof.Machine

open Eng

/-! ### The descriptor -/

def pmRegion (d : List Byte) : Nat := fld d 16 8
def pmChunks (d : List Byte) : Nat := fld d 24 4
def pmBounceChunks (d : List Byte) : Nat := fld d 28 4
def pmBounce (d : List Byte) : Nat := fld d 32 8
def pmOutList (d : List Byte) : Nat := fld d 40 8
def pmOutCount (d : List Byte) : Nat := fld d 48 4
def pmInCount (d : List Byte) : Nat := fld d 52 4
def pmInList (d : List Byte) : Nat := fld d 56 8
def pmJournal (d : List Byte) : Nat := fld d 64 8
def pmPlan (d : List Byte) : Nat := fld d 72 8
def pmFresh (d : List Byte) : Bool := fldBit d 80 0

def chunkBytes : Nat := 1048576

/-- The partition may permute (R317): its steps are settled, no verdict is pending, and no bucket is open or complete. -/
def State.mayPermute (s : State) (p : Nat) : Bool :=
  s.commitsSettled p && !s.fbit rf_grvRedStatus_verdictPending p
    && (s.part p).bkts.all fun b => b.state ≠ 1 && b.state ≠ 2

def permuteLegal (p : Nat) (s : State) (d : List Byte) : Bool :=
  va48 (pmRegion d) chunkBytes && va48 (pmBounce d) chunkBytes && 1 ≤ pmChunks d && pmChunks d ≤ 4194304
    && pmOutCount d ≤ 4194304 && pmInCount d ≤ 4194304 && va48 (pmOutList d) 16 && va48 (pmInList d) 16
    && va48 (pmJournal d) 64 && fldB d 80 7 1 = 0 && fldB d 81 7 2 = 0 && fldB d 81 1 0 ≠ 3 && zeroBytes d 82 46
    && ceilDiv (pmChunks d) 16 ≤ pmBounceChunks d && s.mayPermute p
    && disjointAll [runOf (pmRegion d) (chunkBytes * pmChunks d), runOf (pmBounce d) (chunkBytes * pmBounceChunks d),
        runOf (pmOutList d) (16 * pmOutCount d), runOf (pmInList d) (16 * pmInCount d),
        runOf (pmJournal d) (64 + pmOutCount d + pmInCount d)]

/-! ### The moves -/

/-- A list of moves with its peers resolved (R297, R318); an invalid rank or a reserved bit is ILLEGAL. -/
def readMoves (q : XReq) (map : List Byte) (va n : Nat) : Eng (List Move) := do
  let bs ← readVA q va (16 * n)
  mapE (List.range n) fun i => do
    let b := slice bs (16 * i) 16
    if !zeroBytes b 12 4 then stop (.status stIllegal 0)
    match (if fld b 0 2 ≤ 4095 then jobEntry map (fld b 0 2) else none) with
    | some e => return ⟨jmAddr e, fld b 2 2, fld b 4 4, fld b 8 4⟩
    | none => stop (.status stIllegal 0)

/-- No number stands twice in a list. -/
def distinct (xs : List Nat) : Bool := xs.eraseDups.length = xs.length

/-- The conditions of R318. -/
def movesOk (d : List Byte) (outs ins : List Move) : Bool :=
  outs.all (fun m => m.src < pmChunks d) && ins.all (fun m => m.dst < pmChunks d)
    && distinct (outs.map (·.src)) && distinct (ins.map (·.dst))
    && outs.all (fun o => ins.all fun i => o.src ≠ i.dst || o.round ≤ i.round)
    && ins.all fun i => (ins.filter (·.round = i.round)).length ≤ pmBounceChunks d

/-! ### The journal (R320) -/

def outAt (d : List Byte) (i : Nat) : Nat := pmJournal d + 64 + i
def inAt (d : List Byte) (i : Nat) : Nat := pmJournal d + 64 + pmOutCount d + i

-- States of an incoming move, and of an outgoing one.
def mvArrived : Nat := 1
def mvPlaced : Nat := 2
def mvAcked : Nat := 1

/-- The states of the outgoing and of the incoming moves. -/
def readJournal (q : XReq) (d : List Byte) : Eng (List Nat × List Nat) := do
  let bs ← readLocal { q with pinned := true } (pmJournal d + 64) (pmOutCount d + pmInCount d)
  let xs := bs.map (·.toNat)
  return (xs.take (pmOutCount d), xs.drop (pmOutCount d))

/-- Rounds of moves that are not finished, the lowest of them. -/
def lowRound (ms : List Move) (st : List Nat) (fin : Nat) : Option Nat :=
  ((ms.zip st).filter fun (_, x) => x ≠ fin).foldl
    (fun a (m, _) => some (match a with | some r => min r m.round | none => m.round)) none

def minOpt : Option Nat → Option Nat → Option Nat
  | some a, some b => some (min a b)
  | some a, none => some a
  | none, b => b

/-- The bounce chunk of incoming move i: its number among those of its round (R319). -/
def bounceOf (ins : List Move) (i : Nat) : Nat :=
  ((ins.take i).filter fun m => some m.round = (ins[i]?).map (·.round)).length

/-- GRV_COL_STATUS.permute_round: the round whose incoming moves are accepted. -/
def State.syncRound (s : State) (p : Nat) (ins : List Move) (st : List Nat) : State :=
  s.fset rf_grvColStatus_permuteRound p 0 ((lowRound ins st mvPlaced).getD 0)

/-! ### The rounds (R319) -/

/-- Part of the move in progress. -/
def pmPart : Nat := 7

/-- Issue: the checks that need memory, and a fresh journal or the one of the same plan (R318, R320). -/
def permuteBegin (q : XReq) : Eng Unit := do
  let d := (← getF).bytes
  let map ← colMap q
  let outs ← readMoves q map (pmOutList d) (pmOutCount d)
  let ins ← readMoves q map (pmInList d) (pmInCount d)
  if !movesOk d outs ins then stop (.status stIllegal 0)
  let qp := { q with pinned := true }
  if pmFresh d then
    writeLocal qp (pmJournal d) (leBytes 8 (pmPlan d) ++ List.replicate (56 + pmOutCount d + pmInCount d) 0)
  else
    let b ← readLocal qp (pmJournal d) 8
    if leNat b ≠ pmPlan d then stop (.status stIllegal 0)
  modS fun s =>
    let x := s.part q.p
    (s.setPart q.p { x with perm := some ⟨d, outs, ins, []⟩ }).fset rf_grvParityStatus_protected q.p 0 0

/-- A part of an outgoing move (R405). -/
def permutePartMsg (q : XReq) (d : List Byte) (m : Move) (part : Nat) : Eng Msg := do
  let bs ← readLocal { q with pinned := true } (pmRegion d + chunkBytes * m.src + 4096 * part) 4096
  return .frame (← colFrame m.peer 0x05
    (leBytes 2 csPart ++ leBytes 2 m.round ++ leBytes 4 m.dst ++ leBytes 4 (pmPlan d) ++ leBytes 4 (4096 * part)) bs)

/-- Copies the bounce chunk of incoming move i to its place and marks it (R319). -/
def placeMove (q : XReq) (d : List Byte) (ins : List Move) (i : Nat) (m : Move) : Eng Unit := do
  let qp := { q with pinned := true }
  eachM (List.range 16) fun j => do
    let bs ← readLocal qp (pmBounce d + chunkBytes * bounceOf ins i + 65536 * j) 65536
    writeLocal qp (pmRegion d + chunkBytes * m.dst + 65536 * j) bs
  writeLocal qp (inAt d i) [BitVec.ofNat 8 mvPlaced]
  modS fun s => s.count .grvColCount q.p 4

def permuteLoop (q : XReq) (pm : Perm) : Nat → Eng Unit
  | 0 => return ()
  | fuel + 1 => do
    let d := pm.bytes
    let (os, is) ← readJournal q d
    modS fun s => s.syncRound q.p pm.ins is
    match minOpt (lowRound pm.outs os mvAcked) (lowRound pm.ins is mvPlaced) with
    | none => return ()
    | some r =>
      match (pm.outs.zip os).zipIdx.find? fun ((m, x), _) => m.round = r ∧ x ≠ mvAcked with
      | some ((m, _), i) =>
        -- an answer DUPLICATE says that the whole move has arrived
        let ans ← auxAt clAnswer
        let k ← auxAt pmPart
        -- a receiver that is not ready may have lost the earlier parts: the move is sent again from its first
        if ans = anNotReady + 1 then setAux pmPart 0
        if ← colAnswered then
          modF fun f => { f with detail := f.detail + 4096 }
          if ans = anDuplicate + 1 ∨ k = 255 then
            setAux pmPart 0
            unitThen (writeLocal { q with pinned := true } (outAt d i) [BitVec.ofNat 8 mvAcked]) true
          else setAux pmPart (k + 1)
          permuteLoop q pm fuel
        else stop (.request (← permutePartMsg q d m k) colAux)
      | none =>
        let mine := (pm.ins.zip is).zipIdx.filter fun ((m, _), _) => m.round = r
        if mine.any fun ((_, x), _) => x = 0 then stop .await
        eachM mine fun ((m, x), i) => do
          if x = mvArrived then unitThen (placeMove q d pm.ins i m) true
        permuteLoop q pm fuel

def colPermuteRun : Eng Unit := do
  let q ← Eng.req
  colOnce 1 (permuteBegin q)
  match ((← getS).part q.p).perm with
  | some pm =>
    permuteLoop q pm (2 * (257 * pm.outs.length + pm.ins.length) + 2)
    Eng.event 0xC005 (addrModule ((← getS).here q.p) + ((← getS).part q.p).job <<< 16) ((← getS).epoch q.p)
    modS fun s => s.reshardStep q.p true false
  | none => return ()

def execColPermute (core : Fin 64) (stream : Fin 3) (n : BitVec 32) (s : State) : Host.Outcome State Fault Refusal :=
  done (match s.partOf core with
    | some p => s.issueCol core stream n.toNat (isOp 0x64) (permuteLegal p) colPermuteRun
    | none => s)

/-! ### The receiver (R319) -/

/-- The permutation in progress in a partition. -/
def State.permFlight (s : State) (p : Nat) : Option Flight :=
  s.flights.find? fun f => hOpcode f.bytes = 0x64 && f.phase ≠ .done && s.partOf f.core = some p

/-- The parts of a move are taken in order; one that comes while an earlier one is missing finds the receiver not ready. -/
def partsBefore (pm : Perm) (i off : Nat) : Bool := (List.range (off / 4096)).all fun j => pm.parts.contains (i, j)

/-- A part of an incoming move is taken: it goes to the move's bounce slot, and with its last part the move has arrived
(R319). -/
def State.takePart (s : State) (f : Frame) (pm : Perm) (fl : Flight) (i off : Nat) : State :=
  let p := f.dst.part
  let parts := if pm.parts.contains (i, off / 4096) then pm.parts else pm.parts ++ [(i, off / 4096)]
  let all : Bool := (parts.filter (·.1 = i)).length = 256
  State.served f (s.serve (s.frameReq f true) fun q => do
      writeLocal q (pmBounce pm.bytes + chunkBytes * bounceOf pm.ins i + off) f.payload
      if all then writeLocal q (inAt pm.bytes i) [BitVec.ofNat 8 mvArrived]) fun _ s =>
    let x := s.part p
    let s := s.setPart p { x with perm := some { pm with parts := parts } }
    let s := s.respond f anAccepted 0
    if all ∧ fl.phase = .awaiting then s.goOn fl colPermuteRun else s

/-- The place among the incoming moves of the one that a part belongs to. -/
def moveOf (f : Frame) (pm : Perm) : Option Nat :=
  pm.ins.findIdx? fun m => m.peer = f.src ∧ m.round = fld f.ops 2 2 ∧ m.dst = fld f.ops 4 4

/-- A part reaches its receiver (R319). With no permutation in flight the journal says whether its move has arrived; one that
has not waits for the descriptor that resumes it (R298, R320). -/
def execPermutePart (f : Frame) (s : State) : Host.Outcome State Fault Refusal :=
  let p := f.dst.part
  let round := fld f.ops 2 2
  let plan := fld f.ops 8 4
  let off := fld f.ops 12 4
  done (if fld f.ops 0 1 ≠ csPart then s
    else s.target f 0x05 fun s =>
      match (s.part p).perm with
      | none => s.respond f anNotReady 0
      | some pm =>
        let d := pm.bytes
        let same : Bool := pmPlan d % 2 ^ 32 = plan
        match s.permFlight p with
        | none => match (if same then moveOf f pm else none) with
          | none => s.respond f anNotReady 0
          | some i => State.served f (s.serve (s.frameReq f true) fun q => readJournal q d) fun (_, is) s =>
              s.respond f (if is.getD i 0 ≠ 0 then anDuplicate else anNotReady) 0
        | some fl =>
          match moveOf f pm with
          | none => s.respond f anRejected 0
          | some i =>
            if !same || off % 4096 ≠ 0 || chunkBytes ≤ off || f.payload.length ≠ 4096 then s.respond f anRejected 0
            else State.served f (s.serve (s.frameReq f true) fun q => readJournal q d) fun (_, is) s =>
                if is.getD i 0 ≠ 0 then s.respond f anDuplicate 0
                else if lowRound pm.ins is mvPlaced ≠ some round || !partsBefore pm i off then s.respond f anNotReady 0
                else s.takePart f pm fl i off)

end Sys2Proof.Machine
end

