-- ==== Sys2Proof/Machine/Taproot.lean ====
section
/-! DEFINITION. The taproot flash store (R461 to R483): sectors and their blocks, reads and writes, retirement and lost dies,
scrub, refresh and wear, and the write allowance. What the flash itself does (which codewords decode, which programs fail)
comes with the command; where the controller puts a stripe is a free value. -/
namespace Sys2Proof.Machine

open Eng

/-! ### Geometry -/

def sectorBytes : Nat := 4096
def blocksPerDie : Nat := 4160
def dieOfBlock (b : Nat) : Nat := b / blocksPerDie
/-- The die set of a die: its index on its channel (R462). -/
def dieSet (die : Nat) : Nat := die % 8
def pagesPerBlock : Nat := 2048

def FlashX.block (f : FlashX) (b : Nat) : FBlock := smGet .reset f.blocks b
def FlashX.setBlock (f : FlashX) (b : Nat) (x : FBlock) : FlashX := { f with blocks := smSet .reset f.blocks b x }

/-- Sectors whose content lies in a block. -/
def FlashX.valid (f : FlashX) (b : Nat) : List Nat :=
  (f.place.filter fun (_, x) => match x with
    | some y => y.block = b
    | none => false).map (·.1)

/-- The content of a sector. -/
def FlashX.content (f : FlashX) (sec : Nat) : List Byte :=
  (List.range sectorBytes).map fun i => smGet 0 f.data (sec * sectorBytes + i)

def FlashX.setContent (f : FlashX) (sec : Nat) (bs : List Byte) : FlashX :=
  { f with data := bs.zipIdx.foldl (fun m (b, i) => smSet 0 m (sec * sectorBytes + i) b) f.data }

/-- Blocks of a die that can take new pages: good, empty, not the open one. -/
def FlashX.free (f : FlashX) (die : Nat) : List Nat :=
  ((List.range (blocksPerDie - min 64 (Config.flashBad die))).map (die * blocksPerDie + ·)).filter fun b =>
    !(f.block b).retired && smGet none f.openBlock die ≠ some b && (f.valid b).isEmpty

/-- The block with the lowest program-erase count (R473). -/
def FlashX.leastWorn (f : FlashX) : List Nat → Option Nat
  | [] => none
  | b :: bs => some (bs.foldl (fun a x => if (f.block x).pe < (f.block a).pe then x else a) b)

/-- The block of a die that takes the next page; a block is erased as it is opened. -/
def FlashX.opening (f : FlashX) (die : Nat) : Nat × FlashX :=
  let cur := smGet none f.openBlock die
  match (match cur with
    | some b => if (f.block b).pages < pagesPerBlock ∧ ¬ (f.block b).retired then none else f.leastWorn (f.free die)
    | none => f.leastWorn (f.free die)) with
  | some b =>
    let x := f.block b
    (b, { f.setBlock b { x with pe := x.pe + 1, age := 0, reads := 0, pages := 0 } with
      openBlock := smSet none f.openBlock die (some b), peSum := f.peSum + 1 })
  | none => (cur.getD (die * blocksPerDie), f)

/-- Live dies of a set. -/
def FlashX.liveDies (f : FlashX) (set : Nat) : List Nat :=
  ((List.range 16).map fun ch => 8 * ch + set).filter fun d => !f.lost.contains d

/-- Puts sector j of a stripe where it belongs: four sectors a page, the stripe's parity page on a die of its own
(R462). -/
def FlashX.put (f : FlashX) (set stripe j sec : Nat) : FlashX :=
  let ds := f.liveDies set
  let par := stripe % max 1 ds.length
  let i := j / 4
  let die := ds.getD (if i < par then i else i + 1) (ds.headD set)
  let (b, f) := f.opening die
  let x := f.block b
  let f := if j % 4 = 0 then f.setBlock b { x with pages := x.pages + 1 } else f
  { f with place := smSet none f.place sec (some ⟨b, stripe, 16 - ds.length⟩), dead := f.dead.filter (· ≠ sec) }

/-- Sectors of a stripe of a set. -/
def FlashX.stripeSectors (f : FlashX) (set : Nat) : Nat := 4 * ((f.liveDies set).length - 1)

/-- Moves sectors into new stripes of a set. -/
def FlashX.move (f : FlashX) (set : Nat) (secs : List Nat) : FlashX :=
  let n := max 1 (f.stripeSectors set)
  let f := secs.zipIdx.foldl (fun f (sec, j) =>
    let f := if j % n = 0 then { f with stripe := f.stripe + 1 } else f
    f.put set f.stripe (j % n) sec) f
  f

/-! ### Status -/

/-- Spare blocks left on a die (R461, R467). -/
def FlashX.spares (f : FlashX) (die : Nat) : Nat :=
  64 - min 64 (Config.flashBad die) - (f.retired.filter fun (_, b) => dieOfBlock b = die).length

/-- Retirements of a die beyond its spares. -/
def FlashX.overRetired (f : FlashX) (die : Nat) : Nat :=
  (f.retired.filter fun (_, b) => dieOfBlock b = die).length - (64 - min 64 (Config.flashBad die))

/-- Usable capacity in blocks after die parity (R469). -/
def FlashX.usable (f : FlashX) : Nat :=
  120 * 4096 - f.lost.length * 4096 - ((List.range 128).map fun d => if f.lost.contains d then 0 else f.overRetired d).sum

/-- The store keeps full capacity (R469). -/
def FlashX.full (f : FlashX) : Bool := 16192000000000 ≤ f.usable * 33554432

/-- Good blocks of the store. -/
def FlashX.good (f : FlashX) : Nat :=
  ((List.range 128).map fun d => blocksPerDie - min 64 (Config.flashBad d)).sum - f.retired.length

/-- An event of the taproot (R483, R555 class 0xA). -/
def State.tapEvent (s : State) (code : Nat) (p : Option Nat) (die count block sec : Nat) (tag : Nat := 0) : State :=
  s.raiseOpt code p ⟨7, die, tag, count, block + (sec <<< 32)⟩

/-- The registers that show the store (R481), with the events of crossing into read-only and below the reserve floor (R469,
R474). -/
def State.syncStore (s : State) : State :=
  let f := s.flash
  let s := s.fset rf_tapStatus_diesLost 0 0 f.lost.length
  let s := s.fset rf_tapStatus_rebuilding 0 0 (b2n !f.rebuilding.isEmpty)
  let s := s.fset rf_tapStatus_sparesMin 0 0
    (((List.range 128).filter fun d => !f.lost.contains d).foldl (fun a d => min a (f.spares d)) 65535)
  let s := s.fset rf_tapEndurance_peMax 0 0 (f.blocks.foldl (fun a (_, b) => max a b.pe) 0)
  let mean := f.peSum / max 1 f.good
  let s := s.fset rf_tapEndurance_peMean 0 0 mean
  let s := if !f.full && !s.fbit rf_tapStatus_readOnly then
      (s.fset rf_tapStatus_readOnly 0 0 1).tapEvent 0xA005 none 0 0 0 0 else s
  if s.fget rf_tapEndurance_peFloor ≤ mean && s.fget rf_tapEndurance_peFloor ≠ 0 && !s.fbit rf_tapStatus_belowFloor then
    let s := (s.fset rf_tapStatus_belowFloor 0 0 1).fset rf_tapAllowance_dailyGb 0 0
      (s.fget rf_tapAllowance_dailyGb / 4)
    s.tapEvent 0xA006 none 0 0 0 0
  else s

def State.setFlash (s : State) (f : FlashX) : State := s.withFlash f

/-! ### Reads, retirement and rewriting (R466, R467) -/

/-- Pages that an operation of the controller programs: a free value. -/
def State.pagesProgrammed (s : State) : State :=
  let (n, s) := s.draw
  s.count .tapCount 2 0 n

/-- Moves a block's valid sectors elsewhere (R470 to R473). -/
def State.rewriteBlock (s : State) (b : Nat) : State :=
  let vs := s.flash.valid b
  if vs.isEmpty then s
  else
    let (n, s) := s.draw
    (s.setFlash (s.flash.move (n % 8) vs)).pagesProgrammed

/-- Retires a block (R467). -/
def State.retireBlock (s : State) (p : Option Nat) (b sec : Nat) : State :=
  let f := s.flash
  if (f.block b).retired then s
  else
    let f := f.setBlock b { f.block b with retired := true }
    let s := s.setFlash { f with retired := f.retired ++ [(s.tick, b)] }
    ((s.count .tapCount 6 0).tapEvent 0xA001 p (dieOfBlock b) 1 (b % blocksPerDie) sec).syncStore

/-- The stripe of a sector is rewritten elsewhere. -/
def State.rewriteStripe (s : State) (stripe : Nat) : State :=
  let vs := (s.flash.place.filter fun (_, x) => match x with
    | some y => y.stripe = stripe
    | none => false).map (·.1)
  let (n, s) := s.draw
  (s.setFlash (s.flash.move (n % 8) vs)).pagesProgrammed

/-- A read of a sector (R466): `found` is what the codeword's decode needed, 0 nothing more, 1 to 7 that many soft retries,
8 the die parity, 9 more than that. The answer is the content, none where the read is uncorrectable; `tag` is the reader's. -/
def State.tapRead (s : State) (p : Option Nat) (sec found : Nat) (tag : Nat := 0) : Option (List Byte) × State :=
  match smGet none s.flash.place sec with
  | none => (some (s.flash.content sec), s)
  | some w =>
    let f := s.flash
    let x := f.block w.block
    let s := s.setFlash (f.setBlock w.block { x with reads := x.reads + 1 })
    let lost : Bool := f.lost.contains (dieOfBlock w.block)
    if f.dead.contains sec ∨ found = 9 then
      let s := s.count .tapCount 3 0 (if lost then 0 else 7)
      (none, s.tapEvent 0xA007 p (dieOfBlock w.block) 1 (w.block % blocksPerDie) sec tag)
    else if lost then (some (f.content sec), s.count .tapCount 4 0)
    else if found = 8 then
      let s := (s.count .tapCount 3 0 7).count .tapCount 4 0
      (some (f.content sec), (s.rewriteStripe w.stripe).retireBlock p w.block sec)
    else (some (f.content sec), s.count .tapCount 3 0 found)

/-! ### The descriptors (R479, R480) -/

def tpMem (d : List Byte) : TRef := tref d 16
def tpSector (d : List Byte) : Nat := fld d 40 8
def tpTrim (d : List Byte) : Bool := fldBit d 48 2
def tpSeal (d : List Byte) : Bool := fldBit d 48 1
def tpSnapshot (d : List Byte) : Bool := fldBit d 48 0
def tpBytes (d : List Byte) : Nat := (tpMem d).streamBytes
def tpCount (d : List Byte) : Nat := tpBytes d / sectorBytes
def tpWrites (d : List Byte) : Bool := hOpcode d = 0x45

def tapLegal (p : Nat) (s : State) (d : List Byte) : Bool :=
  let t := tpMem d
  let t := if tpTrim d then { t with addr := 64 } else t
  trefReserved d 16 && t.legal false && t.layout = 0 && t.stride = t.runLen 0
    && tpBytes d % sectorBytes = 0 && tpBytes d ≤ 0x40000000
    && fldB d 48 7 3 = 0 && fldB d 49 7 2 = 0 && fldB d 49 1 0 ≠ 3 && zeroBytes d 50 78
    && (tpWrites d || fldB d 48 2 0 = 0) && (!tpSeal d || tpSnapshot d)
    && tpSector d + tpCount d ≤ s.fget rf_tapNs_count p && dmaLimit d (tpBytes d)

/-- The taproot's domain is awake, or the access stops there (R494, R495). -/
def reachTap : Eng Unit := do
  let s ← getS
  if s.awake domTaproot then return ()
  else if s.holds domTaproot then stop (.held domTaproot)
  else stop (.asleep domTaproot)

/-- The first sector of a descriptor in the store. -/
def tapBase (q : XReq) : Eng Nat := do
  let d := (← getF).bytes
  return (← getS).fget rf_tapNs_first q.p + tpSector d

/-- The entry of sector k in what came with the command; the flight keeps it behind the DMA engine and two entries of its
own. -/
def tapFound (k : Nat) : Eng Nat := do
  let fl ← getF
  match ((fl.aux.drop 3).zipIdx).find? fun (x, i) => i % 2 = 0 ∧ x = k with
  | some (_, i) => return fl.aux.getD (4 + i) 0
  | none => return 0

def tapKeep (found : List (Nat × Fin 10)) : Eng Unit := do
  let fl ← getF
  if fl.aux.length ≤ 1 then
    modF fun f => { f with aux := [f.aux.headD 0, 0, 0] ++ found.flatMap fun (k, x) => [k, x.val] }

def tapReadRun (found : List (Nat × Fin 10)) : Eng Unit := do
  let q ← Eng.req
  tapKeep found
  let d := (← getF).bytes
  checkScales q [tpMem d]
  let base ← tapBase q
  movingUnits (tpCount d) (sectorBytes * ·) fun k => do
    reachTap
    match ← liftS (·.tapRead (some q.p) (base + k) (← tapFound k) (hTag d)) with
    | none => stop (.status stUncorr 0xA007)
    | some bs =>
      writeVA q ((tpMem d).addr + sectorBytes * k) bs
      modS fun s => s.count .tapCount 0 0

/-! ### The allowance (R474) -/

/-- A day's allowance, in the balance's units. -/
def State.dayAllowance (s : State) : Int := s.fget rf_tapAllowance_dailyGb * 1000000000 * 86400

/-- TAP_ALLOWANCE shows the balance in GB. -/
def State.setBalance (s : State) (x : Int) : State :=
  let s := s.setFlash { s.flash with balance := x }
  s.fset rf_tapAllowance_balanceGb 0 0 ((x / 86400 / 1000000000) % 2 ^ 32).toNat

/-- A write is exempt from waiting: a snapshot above the reserve floor. -/
def State.exempt (s : State) (d : List Byte) : Bool := tpSnapshot d && !s.fbit rf_tapStatus_belowFloor

/-- A write waits while the allowance is spent, until it has reached 1 GB again. -/
def tapAllowed (d : List Byte) : Eng Unit := do
  let s ← getS
  if s.exempt d then return ()
  if s.fbit rf_tapAllowance_waiting ∨ s.flash.balance ≤ 0 then
    modS fun s =>
      let s := s.fset rf_tapAllowance_waiting 0 0 1
      s.setFlash { s.flash with waitSince := some (s.flash.waitSince.getD s.tick) }
    stop .await

/-- Charges bytes to the allowance, which falls no lower than minus a day's. -/
def State.charge (s : State) (n : Nat) : State := s.setBalance (max (-s.dayAllowance) (s.flash.balance - n * 86400))

/-- A sector is programmed with its stripe's parity and its translation recorded (R465): `failed` where the program of its
page failed, which retires the block and programs another (R467). -/
def State.tapWrite (s : State) (p set stripe j sec : Nat) (failed : Bool) (bs : List Byte) : State :=
  let s := s.setFlash ((s.flash.setContent sec bs).put set stripe j sec)
  let s := (s.count .tapCount 1 0).pagesProgrammed
  if failed then
    match smGet none s.flash.place sec with
    | some w =>
      let s := s.retireBlock (some p) w.block sec
      s.rewriteBlock w.block
    | none => s
  else s

/-- A write refused by a read-only store (R469). -/
def tapReadOnly : Eng Unit := do
  let s ← getS
  if s.fbit rf_tapStatus_readOnly then
    let q ← Eng.req
    let sec ← tapBase q
    let tag := hTag (← getF).bytes
    modS fun s => s.tapEvent 0xA005 (some q.p) 0 1 0 sec tag
    stop (.status stFault 0xA005)

def tapWriteRun (found : List (Nat × Fin 10)) : Eng Unit := do
  let q ← Eng.req
  tapKeep found
  let d := (← getF).bytes
  checkScales q [tpMem d]
  tapReadOnly
  let base ← tapBase q
  movingUnits (tpCount d) (sectorBytes * ·) fun k => do
    reachTap
    tapAllowed d
    let bs ← readVA q ((tpMem d).addr + sectorBytes * k) sectorBytes
    -- a stripe of a set of the controller's choosing
    let per := max 1 ((← getS).flash.stripeSectors (← auxAt 1))
    if k % 60 = 0 then
      let n ← draw
      setAux 1 (n % 8)
      modS fun s => s.setFlash { s.flash with stripe := s.flash.stripe + 1 }
      setAux 2 (← getS).flash.stripe
    let set ← auxAt 1
    let stripe ← auxAt 2
    let failed ← tapFound k
    modS fun s => (s.tapWrite q.p set stripe (k % 60 % per) (base + k) (failed ≠ 0) bs).charge sectorBytes
  modS (·.syncStore)
  if tpSeal d then
    modS fun s => s.tapEvent 0xA003 (some q.p) 0 0 0 (tpSector d) (hTag d)
    modF fun f => { f with event := 0xA003 }

/-- Trimmed sectors read as zeros; no data moves (R464, R479). -/
def tapTrimRun : Eng Unit := do
  let q ← Eng.req
  tapKeep []
  let d := (← getF).bytes
  checkScales q [tpMem d]
  tapReadOnly
  let base ← tapBase q
  movingUnits (tpCount d) (sectorBytes * ·) fun k => do
    reachTap
    modS fun s =>
      let f := s.flash.setContent (base + k) (List.replicate sectorBytes 0)
      s.setFlash { f with place := smSet none f.place (base + k) none, dead := f.dead.filter (· ≠ base + k) }
  if tpSeal d then
    modS fun s => s.tapEvent 0xA003 (some q.p) 0 0 0 (tpSector d) (hTag d)
    modF fun f => { f with event := 0xA003 }

def isTapWrite (d : List Byte) : Bool := isOp 0x45 d && !tpTrim d
def isTapTrim (d : List Byte) : Bool := isOp 0x45 d && tpTrim d

/-- The engine's computation of DMA.TAP_WRITE with or without trim. -/
def tapStoreRun (found : List (Nat × Fin 10)) : Eng Unit := do
  if tpTrim (← getF).bytes then tapTrimRun else tapWriteRun found

def State.issueTap (s : State) (core stream n : Nat) (kind : List Byte → Bool) (run : Eng Unit) : State :=
  match s.partOf core with
  | some p => s.issueDesc core stream n kind tapAccepts (tapLegal p) run
  | none => s

/-- `found` says for each sector of the transfer what its codeword's decode needed, where it needed anything (R466). -/
def execDmaTapRead (core : Fin 64) (stream : Fin 3) (n : BitVec 32) (found : List (Nat × Fin 10)) (s : State) :
    Host.Outcome State Fault Refusal :=
  done (s.issueTap core stream n.toNat (isOp 0x44) (tapReadRun found))

/-- `found` names the sectors of the transfer whose program failed (R467). -/
def execDmaTapWrite (core : Fin 64) (stream : Fin 3) (n : BitVec 32) (found : List (Nat × Fin 10)) (s : State) :
    Host.Outcome State Fault Refusal :=
  done (s.issueTap core stream n.toNat isTapWrite (tapStoreRun found))

def execTapTrim (core : Fin 64) (stream : Fin 3) (n : BitVec 32) (s : State) : Host.Outcome State Fault Refusal :=
  done (s.issueTap core stream n.toNat isTapTrim (tapStoreRun []))

/-! ### Lost dies (R468) -/

/-- A die stops answering, or has had more than 64 blocks retired within an hour. -/
def execTapDieLost (die : Fin 128) (silent : Bool) (s : State) : Host.Outcome State Fault Refusal :=
  let f := s.flash
  let d := die.val
  let recent := (f.retired.filter fun (t, b) => dieOfBlock b = d ∧ s.tick ≤ t + ms 3600000).length
  done (if f.lost.contains d ∨ (!silent ∧ recent ≤ 64) then s
    else
      let second : Bool := f.rebuilding.any fun x => dieSet x = dieSet d
      let gone := f.place.filterMap fun (sec, w) => match w with
        | some w => if second ∧ dieSet (dieOfBlock w.block) = dieSet d
            ∧ w.gen < 16 - (f.liveDies (dieSet d)).length then some sec else none
        | none => none
      let f := { f with lost := f.lost ++ [d], rebuilding := f.rebuilding ++ [d], dead := f.dead ++ gone
                        openBlock := smSet none f.openBlock d none }
      ((s.setFlash f).tapEvent 0xA004 none d 1 0 0).syncStore)

/-- Every valid page of the die that could be rebuilt has been written into other stripes. -/
def execDieRebuildDone (die : Fin 128) (s : State) : Host.Outcome State Fault Refusal :=
  let f := s.flash
  done (if f.rebuilding.contains die.val then
      let vs := f.place.filterMap fun (sec, w) => match w with
        | some w => if dieOfBlock w.block = die.val ∧ ¬ f.dead.contains sec then some sec else none
        | none => none
      let (n, s) := s.draw
      let f := { f with rebuilding := f.rebuilding.filter (· ≠ die.val) }
      ((s.setFlash (f.move (n % 8) vs)).pagesProgrammed).syncStore
    else s)

/-! ### Retention, scrub, disturb and wear (R470 to R473) -/

/-- Blocks were rewritten for age or disturb: counted, and announced once per scrub pass (R470, R472, R482). -/
def State.refreshed (s : State) (n : Nat) : State :=
  if n = 0 then s
  else
    let f := s.flash
    let s := (s.count .tapCount 5 0 n).setFlash { f with rewritten := f.rewritten + n }
    if f.passEvt then s
    else
      let k := s.flash.rewritten
      (s.setFlash { s.flash with rewritten := 0, passEvt := true }).tapEvent 0xA002 none 0 k 0 0

/-- e^x in units of 2^-64, x in the same units. -/
def expTerms (x : Nat) : Nat → Nat → Nat → Nat
  | 0, _, _ => 0
  | k + 1, i, t => t + expTerms x k (i + 1) (t * x / 2 ^ 64 / (i + 1))

def expFix (x : Nat) : Nat := expTerms x 120 0 (2 ^ 64)

/-- AF(T) of R470 in units of 2^-32, for a temperature in °C. -/
def ageFactor (t : Int) : Nat :=
  -- 1 / 313.15 − 1 / (t + 273.15) in hundredths of a kelvin
  let k := (100 * t + 27315).toNat
  if k = 0 then 0
  else
    let num := 12765 * 100 * 2 ^ 64
    if 31315 ≤ k then expFix (num * (k - 31315) / (31315 * k)) / 2 ^ 32
    else 2 ^ 96 / expFix (num * (31315 - k) / (31315 * k))

/-- Age at which a block is rewritten, in 2^-32 s. -/
def State.refreshAge (s : State) : Nat := s.fget rf_tapCtl_refreshAgeD * 86400 * 2 ^ 32

/-- Once a second: ages grow with each die's temperature, and blocks that reach the limit are rewritten (R470). -/
def execRetentionAgeTick (temps : List Int) (s : State) : Host.Outcome State Fault Refusal :=
  let f := s.flash
  done (if s.since f.aged (ms 1000) then
      let af := fun die => ageFactor (temps.getD die 40)
      let bs := f.blocks.map fun (b, x) => (b, if (f.valid b).isEmpty then x else { x with age := x.age + af (dieOfBlock b) })
      let s := s.setFlash { f with blocks := bs, aged := s.tick }
      let s := s.fset rf_tapStatus_tempC 0 0 ((temps.foldl max 0).toNat)
      let due := (s.flash.blocks.filter fun (b, x) => s.refreshAge ≤ x.age && !(s.flash.valid b).isEmpty).map (·.1)
      ((due.foldl (fun s b => s.rewriteBlock b) s).refreshed due.length).syncStore
    else s)

/-- Blocks that hold data. -/
def FlashX.written (f : FlashX) : List Nat := (f.blocks.map (·.1)).filter fun b => !(f.valid b).isEmpty

/-- A scrub pass that has read every block that holds data is over, and with it the scan after power-up. -/
def State.passEnds (s : State) : State :=
  if s.flash.written.all fun b => s.flash.scanned.contains b then
    (s.setFlash { s.flash with scanned := [] }).fset rf_tapStatus_scanPending 0 0 0
  else s

/-- A patrol read of a written block (R471): `found` as for a read, by sector; `heavy` where a codeword needed more than 70%
of the code's strength. -/
def tapScrub (block : Nat) (found : List (Nat × Fin 10)) (heavy : Bool) (s : State) : State :=
  let f := s.flash
  let fresh : Bool := s.fbit rf_tapStatus_scanPending || s.since f.passStart (ms (3600000 * s.fget rf_tapCtl_scrubPeriodH))
    || !f.scanned.isEmpty
  if fresh ∧ f.written.contains block ∧ ¬ f.scanned.contains block then
    let s := if f.scanned.isEmpty then
        s.setFlash { f with passStart := s.tick, passEvt := false } else s
    let s := (f.valid block).foldl (fun s sec =>
      (s.tapRead none sec (match found.find? (·.1 = sec) with
        | some (_, x) => x.val
        | none => 0)).2) s
    let s := if heavy then (s.rewriteBlock block).count .tapCount 5 0 else s
    (s.setFlash { s.flash with scanned := s.flash.scanned ++ [block] }).passEnds.syncStore
  else s

def execTapScrub (block : Nat) (found : List (Nat × Fin 10)) (heavy : Bool) (s : State) :
    Host.Outcome State Fault Refusal :=
  done (if (s.fbit rf_tapCtl_scrubEnable ∨ s.fbit rf_tapStatus_scanPending) ∧ s.fbit rf_tapStatus_ready then
      tapScrub block found heavy s.passEnds
    else s)

/-- A block with 50,000 reads since its erase is rewritten (R472). -/
def execReadDisturbRewrite (block : Nat) (s : State) : Host.Outcome State Fault Refusal :=
  done (if 50000 ≤ (s.flash.block block).reads ∧ ¬ (s.flash.valid block).isEmpty then
      let s := s.rewriteBlock block
      let f := s.flash
      ((s.setFlash (f.setBlock block { f.block block with reads := 0 })).refreshed 1).syncStore
    else s)

/-- When program-erase counts differ by more than 200, the least-worn block that holds data is freed (R473). -/
def execWearLevelMove (s : State) : Host.Outcome State Fault Refusal :=
  let f := s.flash
  let top := f.blocks.foldl (fun a (_, b) => max a b.pe) 0
  done (match f.leastWorn f.written with
    | some b => if (f.block b).pe + 200 < top then (s.rewriteBlock b).syncStore else s
    | none => s)

/-- Once a second the allowance gains its share; at 1 GB the writes that wait go on (R474). -/
def execAllowanceAccrue (s : State) : Host.Outcome State Fault Refusal :=
  let f := s.flash
  done (if s.since f.accrued (ms 1000) then
      let s := s.setBalance (min s.dayAllowance (f.balance + s.fget rf_tapAllowance_dailyGb * 1000000000))
      let s := s.setFlash { s.flash with accrued := s.tick }
      if s.fbit rf_tapAllowance_waiting ∧ 1000000000 * 86400 ≤ s.flash.balance then
        let s := s.fset rf_tapAllowance_waiting 0 0 0
        let s := match s.flash.waitSince with
          | some t => s.count .tapCount 7 0 ((s.tick - t) / 1000)
          | none => s
        let s := s.setFlash { s.flash with waitSince := none }
        (s.flights.filter fun fl => hOpcode fl.bytes = 0x45 && fl.phase = .awaiting).foldl
          (fun s fl => s.goOn fl (tapStoreRun [])) s
      else s
    else s)

end Sys2Proof.Machine
end

