-- ==== Sys2Proof/Machine/Engines.lean ====
section
/-! DEFINITION. Each opcode's engine computation, with which a descriptor runs on from its recorded point; and the answers to
requests (R264, R265, R298, R405). -/
namespace Sys2Proof.Machine

open Eng

/-- The computation of the descriptor in progress, by opcode. -/
def progOf (op : Nat) : Eng Unit :=
  if op = 0x01 then mmaRun
  else if op = 0x02 then do
    if fldB (← getF).bytes 99 1 0 = 2 then preloadRun else loadAccRun
  else if op = 0x03 then storeAccRun
  else if op = 0x04 then swapRun
  else if op = 0x20 then mapRun
  else if op = 0x21 then reduceRun
  else if op = 0x22 then shuffleRun
  else if op = 0x23 ∨ op = 0x25 then convertRun
  else if op = 0x24 then softmaxRun
  else if op = 0x40 then copyRun
  else if op = 0x41 then gatherRun
  else if op = 0x42 then scatterRun
  else if op = 0x43 then fillRun
  else if op = 0x44 then tapReadRun []
  else if op = 0x45 then tapStoreRun []
  else if op = 0x60 then contribRun
  else if op = 0x61 then openRun
  else if op = 0x62 then waitRun
  else if op = 0x63 then colGatherRun
  else if op = 0x64 then colPermuteRun
  else if op = 0x65 then exchangeRun
  else if op = 0x66 then colRingRun
  else if op = 0x70 then tapCfgRun
  else if op = 0x71 then do
    if fldB (← getF).bytes 17 1 0 = 1 then gramExplicitRun else gramFlushRun
  else if op = 0x72 then emaRun
  else if op = 0x73 then dampRun
  else if op = 0x74 then normalRun
  else if op = 0x75 then stencilRun
  else if 0x80 ≤ op ∧ op ≤ 0x85 then slvRun
  else if op = 0x86 then publishRun
  else if op = 0x90 then stageRun
  else if op = 0x91 then sweepRun
  else if op = 0x92 then statsRun
  else if op = 0x93 then rollbackRun
  else if op = 0xA0 then synWaitRun
  else nothing

/-! ### The accesses with which a descriptor completes (R94, R136) -/

/-- A descriptor has accesses to make as it completes. -/
def Flight.due (fl : Flight) : Bool := fl.countDue || !fl.scales.isEmpty

/-- The descriptor has been cut, voided or pre-empted: it completes at once, and waits at no fault (R344). -/
def Flight.ended (fl : Flight) : Bool := [stCut, stVoided, stPreempted].contains fl.status

/-- An access that stops for this reason is taken again later. -/
def Stop.waits (s : State) (p : Nat) : Stop → Bool
  | .fault c _ _ _ w => w && (c = 1 || c = 2) && s.fbit rf_prtCtl_faultWait p
  | .remote _ | .held _ => true
  | _ => false

/-- One of those accesses; `gone` notes that it is not to be made again. The answer is why it failed, where it did. -/
def closing (access gone : Eng Unit) : Eng (Option Stop) := do
  let ended := (← getF).ended
  tryCatch (do access; gone; return none) fun x => do
    let x := match x with
      | .fault c v w a m => .fault c v w a (m && !ended)
      | x => x
    if x.waits (← getS) (← Eng.part) then stop x
    gone
    return some x

/-- Merges into scale-table entries and the count of out-of-range rows. One that fails gives its status, which is ranked with the
descriptor's own (R129), once the others are made. -/
def tailRun : Eng Unit := do
  let fl ← getF
  let q ← Eng.req
  let xs ← mapE fl.scales fun c =>
    closing (mergeCapture q c) (modF fun f => { f with scales := f.scales.filter (·.idx ≠ c.idx) })
  let x ← if fl.countDue then closing (countWrite q) (oobAux (fl.aux.getD 1 0) oobWritten) else pure none
  match (xs ++ [x]).filterMap id with
  | x :: _ => stop x
  | [] => return ()

/-- A descriptor in flight goes on from its recorded point (R344, R347). -/
def State.resume (s : State) (fl : Flight) (toEnd : Bool := false) : State :=
  (s.goOn fl (if fl.tail then tailRun else progOf (hOpcode fl.bytes)) toEnd).syncEngines fl.core (hOpcode fl.bytes)

/-- The engines go on, each to its next pause. -/
def State.progress (s : State) : State :=
  s.flights.foldl (fun s f => match s.flight f.core f.stream f.n with
    | some fl => match fl.phase with
      | .running _ => s.resume fl
      | _ => s
    | none => s) s

/-- The flight a request belongs to. -/
def State.flightOf (s : State) (q : Request) : Option Flight :=
  match s.flight q.core q.stream q.n with
  | some fl => if fl.phase = .remote q.id ∨ q.aux.headD 0 = 0 then some fl else none
  | none => none

def State.dropRequest (s : State) (id : Nat) : State := s.withRequests (s.requests.filter (·.id ≠ id))

/-- A request waits before it is sent again (R264). -/
def State.holdRequest (s : State) (q : Request) : State :=
  let t := s.tick + us (s.fget rf_grvRedCtl_retryIntervalUs q.p)
  (s.withRequests (s.requests.map fun x => if x.id = q.id then { x with waitFrom := some t } else x))

/-- A remote access fails: a fault with cause REMOTE (R338). -/
def State.remoteFails (s : State) (q : Request) (fl : Flight) : State :=
  let s := s.dropRequests fl
  let r := stopRun (.fault 6 (q.aux.getD 4 0) (q.aux.getD 3 0 = 1) false false) { s, fl }
  (r.s.putFlight r.fl).syncEngines fl.core (hOpcode fl.bytes)

/-- Key under which a piece of a remote read waits for the other pieces. -/
def pieceKey (va : Nat) : Nat := 2 ^ 50 + va

/-- A piece of a remote access is answered; with the last one the access is complete and the descriptor goes on. -/
def State.remotePiece (s : State) (q : Request) (fl : Flight) (data : List Byte) : State :=
  let s := s.dropRequest q.id
  let va := q.aux.getD 4 0
  let len := q.aux.getD 5 0
  let wr : Bool := q.aux.getD 3 0 = 1
  let fl := if wr then fl else { fl with rx := fl.rx ++ [(pieceKey (q.aux.getD 1 0), data)] }
  if s.requests.any fun x => x.core = fl.core && x.stream = fl.stream && x.n = fl.n && x.aux.headD 0 = 0 then
    s.putFlight fl
  else if wr then s.resume { fl with acks := fl.acks ++ [va] }
  else
    let ps := (List.range (ceilDiv len 4096)).flatMap fun i =>
      match fl.rx.find? (·.1 = pieceKey (va + 4096 * i)) with
      | some (_, d) => d
      | none => []
    s.resume { fl with rx := fl.rx.filter (fun x => x.1 < 2 ^ 50) ++ [(va, ps)] }

/-- A grant of an exchange has its last answer: LATE, REJECTED or UNCORRECTABLE ends the owner's descriptor (R264, R298, R304). -/
def State.grantAnswered (s : State) (q : Request) (ans : Nat) : State :=
  if ans = anLate ∨ ans = anRejected ∨ ans = anUncorr then
    match s.flight q.core q.stream q.n with
    | some fl =>
      (s.endFlight fl (if ans = anLate then stVoided else if ans = anUncorr then stUncorr else stFault)).syncEngines fl.core
        (hOpcode fl.bytes)
    | none => s
  else s

/-- Acts on the answer to a request. -/
def State.answered (s : State) (q : Request) (f : Frame) (x : Option Extra) : State :=
  let ans := fld f.ops 0 1
  let mark := fldB f.ops 1 0 0 * 65536 + fld f.ops 2 2
  match q.aux.headD 0 with
  | 0 => match s.flightOf q with
    | none => s.dropRequest q.id
    | some fl =>
      if ans = anAccepted ∨ ans = anDuplicate ∨ ans = anDone then
        if q.aux.getD 3 0 = 1 ∨ f.payload.length = q.aux.getD 2 0 then s.remotePiece q fl f.payload
        else s.remoteFails q fl
      else if ans = anNotReady ∨ ans = anNotOpen then s.holdRequest q
      else s.remoteFails q fl
  | 1 => match s.flightOf q with
    | none => s.dropRequest q.id
    | some fl => (s.dropRequest q.id).resume { fl with aux := (fl.aux.set cnAnswer (ans + 1)).set cnMark mark }
  | 2 => (s.dropRequest q.id).xferAnswered (q.aux.getD 1 0) (q.aux.getD 2 0) ans mark
  | 3 => match s.flightOf q with
    | none => s.dropRequest q.id
    | some fl =>
      let aux := (fl.aux.set clAnswer (ans + 1)).set clCrc (fld f.ops 4 4)
      let aux := match x with
        | some (.scale v) => aux.set clScale (v + 1)
        | _ => aux
      (s.dropRequest q.id).resume
        { fl with aux := aux, rx := if ans = anDone then fl.rx ++ [(clKey, f.payload)] else fl.rx }
  | _ =>
    if ans = anNotReady ∨ ans = anNotOpen then (s.count .grvColCount q.p 5).holdRequest q
    else (s.dropRequest q.id).grantAnswered q ans

/-- A RESPONSE frame reaches the initiator of a request (R405); `x` is what goes with it. Answers to requests that are no
longer outstanding are dropped; an answer to a management message is its acknowledgement (R275). -/
def execResponse (f : Frame) (x : Option Extra) (s : State) : Host.Outcome State Fault Refusal :=
  done (if s.serves ∧ f.op = 0x10 ∧ f.cls = 1 ∧ sameModule f.dst (s.here 0) then
      match s.requests.find? (·.id = f.reqId) with
      | some q => if q.msg.isSome ∧ q.p = f.dst.part then s.answered q f x else s
      | none => if s.mgmt.any (·.id = f.reqId) then s.acked f.reqId else s
    else s)

/-- Sends a request's message again. -/
def State.resend (s : State) (q : Request) : State :=
  match q.msg with
  | some m => ((s.send m).withRequests (s.requests.map fun x => if x.id = q.id then
      { x with sent := s.tick, waitFrom := none, resends := x.resends + 1 } else x))
  | none => s

/-- The message goes to a peer over the fabric. -/
def isFrame : Option Msg → Bool
  | some (.frame _) | some (.extra _ _) => true
  | _ => false

/-- A request unanswered for the response timeout is sent again (R265, R298). -/
def execResponseTimeout (reqId : BitVec 32) (s : State) : Host.Outcome State Fault Refusal :=
  done (match s.requests.find? (·.id = reqId.toNat) with
    | some q =>
      if isFrame q.msg ∧ q.waitFrom.isNone ∧ s.since q.sent (us (s.fget rf_grvRedCtl_responseTimeoutUs q.p)) then
        let s := if q.aux.headD 0 = 1 ∨ q.aux.headD 0 = 2 then s.count .grvRedCount q.p 5 else s
        s.resend q
      else s
    | none => s)

/-- The retry interval after NOT_OPEN, NOT_READY or an early OUT_OF_ORDER has passed (R264): the request is sent again, or
the descriptor or transfer that waited goes on. A descriptor that only waited stands at a pre-emption point (R347). -/
def execRetryIntervalExpire (reqId : BitVec 32) (s : State) : Host.Outcome State Fault Refusal :=
  done (match s.requests.find? (·.id = reqId.toNat) with
    | some q => match q.waitFrom with
      | some t =>
        if s.tick < t then s
        else if q.msg.isSome then s.resend q
        else
          let s := s.dropRequest q.id
          if q.aux.headD 0 = 2 then s.xferResume (q.aux.getD 1 0) (q.aux.getD 2 0)
          else match s.flight q.core q.stream q.n with
            | some fl => if fl.phase = .remote q.id then s.resume { fl with phase := .running fl.hasPoints } else s
            | none => s
      | none => s
    | none => s)

end Sys2Proof.Machine
end

