-- ==== Sys2Proof/Machine/Partition.lean ====
section
/-! DEFINITION. Faults that wait (R343 to R346), invalidation (R342), and pre-emption with its save area (R347 to R354). -/
namespace Sys2Proof.Machine

open Eng

/-! ### Waiting faults (R344, R346) -/

/-- The fault of an id that waits. -/
def State.waitingFault (s : State) (p id : Nat) : Option XFault := (s.part p).faults.find? fun f => f.id = id ∧ f.waits

/-- A fault is resolved: it is gone, but for a record that waits for room and what follows it (R343). -/
def State.dropFault (s : State) (p id : Nat) : State :=
  let q := s.part p
  (s.setPart p { q with faults := q.faults.filterMap fun f =>
    if f.id ≠ id then some f else if f.written then none else some { f with waits := false, joined := [] } }).syncFaults p

/-- Those of some descriptors that are stopped at a fault. -/
def State.stoppedAt (s : State) (id : Nat) (xs : List (Nat × Nat × Nat)) : List Flight :=
  xs.filterMap fun (c, st, n) => match s.flight c st n with
    | some fl => if fl.phase = .fault id then some fl else none
    | none => none

/-- The descriptors that wait at a fault. -/
def State.waiters (s : State) (f : XFault) : List Flight := s.stoppedAt f.id f.joined

/-- Retry: every joined requester translates again from its recorded point. -/
def faultRetry (p id : Nat) (s : State) : State :=
  match s.waitingFault p id with
  | some f =>
    let ws := s.waiters f
    let s := (s.dropFault p f.id).count .prtCount p 2
    ws.foldl (fun s fl => s.resume fl) s
  | none => s

def execFaultResolveRetry (p : Fin 16) (faultId : BitVec 16) (s : State) : Host.Outcome State Fault Refusal :=
  done (faultRetry p faultId.toNat s)

/-- Descriptors stopped at a fault complete FAULT with an event. -/
def State.failAll (s : State) (p : Nat) (f : XFault) (ev : Nat) (fls : List Flight) : State :=
  fls.foldl (fun s fl =>
    let (s, fl) := s.faultEnds p fl ev f.id f.cause f.va
    (s.putFlight fl).syncEngines fl.core (hOpcode fl.bytes)) s

/-- Every joined requester's descriptor completes FAULT with an event. -/
def State.failFault (s : State) (p : Nat) (f : XFault) (ev : Nat) : State :=
  (s.dropFault p f.id).failAll p f ev (s.waiters f)

def faultFail (p id : Nat) (s : State) : State :=
  match s.waitingFault p id with
  | some f => s.failFault p f 0x2001
  | none => s

def execFaultResolveFail (p : Fin 16) (faultId : BitVec 16) (s : State) : Host.Outcome State Fault Refusal :=
  done (faultFail p faultId.toNat s)

def execFaultTimeout (p : Fin 16) (faultId : BitVec 16) (s : State) : Host.Outcome State Fault Refusal :=
  done (match s.waitingFault p faultId.toNat with
    | some f => if s.since f.tick (us (s.fget rf_prtFaultTimeout_timeoutUs p)) then s.failFault p f 0x2006 else s
    | none => s)

/-- What follows a fault's record, now that it is written (R343, R345). A stream that has stopped since has nothing to stop. -/
def State.payOwed (s : State) (p : Nat) (f : XFault) (o : Owed) : State :=
  let ev := faultEvent f.cause
  let tag := fld f.record 14 2
  match o with
  | .fetch c st n =>
    let s := s.faultRaise p ev 1 c tag f.id f.cause f.va
    if s.strState c st = ssRunning then s.fetchFails p c st n stFault ev else s
  | .completion c st => (s.faultRaise p ev 1 c tag f.id f.cause f.va).stopStream c st stFault
  | .unit k i => s.faultRaise p ev k i tag f.id f.cause f.va

/-- A record that waited for room is written: a fault that waits goes on waiting, the descriptors that do not wait complete
FAULT, and what else follows it comes to pass (R343). -/
def State.faultWritten (s : State) (p : Nat) (f : XFault) : State :=
  let (i, s) := s.faultqPut p f.id f.cause f.va f.record
  let fls := s.stoppedAt f.id f.fails
  let g := { f with written := true, index := i, fails := [], owed := [] }
  let s := if f.waits then s.setFault p g
    else
      let q := s.part p
      (s.setPart p { q with faults := q.faults.filter (·.id ≠ f.id) }).syncFaults p
  f.owed.foldl (fun s o => s.payOwed p f o) (s.failAll p f (faultEvent f.cause) fls)

/-- Records that waited for room in the fault queue are written, oldest first (R343). -/
def State.faultqDrain (s : State) (p : Nat) : State :=
  ((s.part p).faults.map (·.id)).foldl (fun s id =>
    match (s.part p).faults.find? (·.id = id) with
    | some f => if !f.written && s.faultqRoom p then s.faultWritten p f else s
    | none => s) s

/-! ### Invalidation (R342, R359) -/

/-- Two ranges share a byte. -/
def rangesMeet (a n b m : Nat) : Bool := decide (a < b + m) && decide (b < a + n)

def State.saveVa (s : State) (p : Nat) : Nat := s.fget rf_prtSaveBase_base p * 65536
def State.saveBytes (s : State) (p : Nat) : Nat := s.fget rf_prtSaveSize_bytes p

/-- The range meets the armed save area. -/
def State.meetsSave (s : State) (p va n : Nat) : Bool :=
  s.fbit rf_prtCtl_armed p && rangesMeet va n (s.saveVa p) (s.saveBytes p)

/-- 0x2005, which names the save area (R363). -/
def State.saveFault (s : State) (p : Nat) : State := s.raise 0x2005 p ⟨8, p, 0, 0, s.saveVa p⟩

/-- A write of PRT_XLT_INVAL. -/
def xltInval (p v : Nat) (s : State) : State :=
  let lg := bits v 53 48
  let va := bits v 47 16 * 65536
  if s.fbit rf_prtStatus_invalBusy p ∨ lg < 16 ∨ 48 < lg ∨ va % 2 ^ lg ≠ 0 then s.fset rf_prtStatus_invalError p 0 1
  else (s.setPart p { s.part p with inval := some (va, lg) }).fset rf_prtStatus_invalBusy p 0 1

def execXltInval (p : Fin 16) (value : Word) (s : State) : Host.Outcome State Fault Refusal :=
  done (xltInval p value.toNat s)

/-- Every cache has dropped the range and every access through it has completed; an invalidation that meets the armed save
area waits for a pre-emption to end, and disarms. -/
def execInvalidationDone (p : Fin 16) (s : State) : Host.Outcome State Fault Refusal :=
  done (match (s.part p).inval with
    | some (va, lg) =>
      let n := 2 ^ lg
      let open? : Bool := s.requests.any fun q => q.p = p.val && q.msg.isSome && q.aux.headD 0 = 0
        && rangesMeet va n (q.aux.getD 4 0) (q.aux.getD 5 0)
      let adds : Bool := (s.part p).adds.any fun a => match (s.part p).bkts.find? (·.n = a.bucket) with
        | some b => rangesMeet va n (b.lines + 128 * a.line) 128
        | none => false
      let meets := s.meetsSave p va n
      if open? || adds || (meets && !s.admits p) then s
      else
        let x := s.part p
        let s := s.setPart p { x with
          inval := none, xcache := x.xcache.filter fun e => !rangesMeet va n e.base (2 ^ e.log2) }
        let s := s.fset rf_prtStatus_invalBusy p 0 0
        if meets then (s.fset rf_prtCtl_armed p 0 0).saveFault p else s
    | none => s)

/-! ### The save area (R351 to R354) -/

/-- A page of the area is pinned, writable and in the partition's carve units (R354). -/
def armPage (p va : Nat) : Eng Bool := do
  let r := pinnedReq p
  let (_, e, lo) ← walkFrom r va ((← getS).fget rf_prtPtRoot_base p * 4096) xltLevels
  let pa := bits e 47 16 * 65536 + va % 2 ^ lo
  let s ← getS
  return bits e 8 7 = 0 && bit e 4 && bit e 3 && (match region pa with
    | .hbm u => s.ownsUnit p u
    | _ => false)

/-- Walks pages of the area; a page that cannot be walked fails. -/
def State.armWalk (s : State) (p : Nat) : List Nat → Bool × State
  | [] => (true, s)
  | va :: vs =>
    match s.own (armPage p va) with
    | (some true, s) => s.armWalk p vs
    | (_, s) => (false, s)

/-- PRT_CTL.arm written 1 (R354). -/
def armPreempt (p : Nat) (s : State) : State :=
  let pages := (List.range (ceilDiv (s.saveBytes p) 65536)).map fun i => s.saveVa p + 65536 * i
  match s.armWalk p pages with
  | (true, s) => (s.fset rf_prtCtl_armed p 0 1).fset rf_prtCtl_armError p 0 0
  | (false, s) => ((s.fset rf_prtCtl_armed p 0 0).fset rf_prtCtl_armError p 0 1).saveFault p

def execArmPreempt (p : Fin 16) (s : State) : Host.Outcome State Fault Refusal := done (armPreempt p s)

def saveBaseWrite (p v : Nat) (s : State) : State :=
  (s.fset rf_prtSaveBase_base p 0 (bits v 47 16)).fset rf_prtCtl_armed p 0 0

def execSaveBaseWrite (p : Fin 16) (value : Word) (s : State) : Host.Outcome State Fault Refusal :=
  done (saveBaseWrite p value.toNat s)

/-! ### Pre-emption (R348) -/

/-- The partition enters a pre-emption state; its units show whether their state is in the save area (R221), and the bucket unit
that the partition is pre-empted (R292). -/
def State.setPre (s : State) (p st : Nat) : State :=
  (s.clustersOf p).foldl (fun s c => s.fset rf_slvUnitStatus_saved c 0 (b2n (st = psSaved ∨ st = psRestoring)))
    ((s.fset rf_prtStatus_preemptState p 0 st).fset rf_grvRedStatus_saved p 0 (b2n (st ≠ psNone)))

/-- The command is not allowed in the state. -/
def State.preError (s : State) (p : Nat) : State := s.fset rf_prtStatus_cmdError p 0 1

/-- The function belongs to the partition. -/
def State.ownsFunc (s : State) (p : Nat) : Func → Bool
  | .core k => s.partOf k = some p
  | .stream k _ => s.partOf k = some p
  | .solver c => s.partOfCluster c = some p
  | .port _ => false
  | .partition q => q.val = p

/-- A function's drain has not come to its end (R131). -/
def State.drainsNow (s : State) : Func → Bool
  | .stream k st => s.strState k st = ssDraining
  | .core k => (List.range 3).any fun st => s.strState k st = ssDraining
  | .solver c => !s.fbit rf_slvCtl_enable c && s.flights.any fun f => clusterOf f.core = c && isSlv f.bytes
  | .port _ => false
  | .partition _ => false

/-- A function of the partition is draining (R133). -/
def State.draining (s : State) (p : Nat) : Bool := s.drains.any fun (f, _) => s.ownsFunc p f && s.drainsNow f

/-- A pre-emption request ends the waits for room in a tap queue of the descriptors that it may stop (R66). -/
def State.endTapWaits (s : State) (p : Nat) : State :=
  (s.flights.filter fun f => s.partOf f.core = some p && f.phase = .tap && f.hasPoints).foldl
    (fun s f => ((s.waitEnds f).putFlight { f with phase := .running true }).syncEngines f.core (hOpcode f.bytes)) s

/-- Action 1: request. While a function drains, the request waits. Domains of the partition that sleep wake (R492). -/
def preemptRequest (p : Nat) (s : State) : State :=
  if s.preState p ≠ psNone then s.preError p
  else if ¬ s.fbit rf_prtCtl_armed p then (s.preError p).saveFault p
  else if s.draining p then s.setPart p { s.part p with preemptAsked := true }
  else
    let s := ((s.setPre p psStopping).wakePart p).endTapWaits p
    s.setPart p { s.part p with preemptAsked := false }

def execPreemptRequest (p : Fin 16) (s : State) : Host.Outcome State Fault Refusal := done (preemptRequest p s)

/-- A test runs on a core or a cluster of the partition. -/
def State.partTested (s : State) (p : Nat) : Bool :=
  s.age.running.any fun t =>
    if t.code = 0x10 then s.partOf t.target = some p
    else if t.code = 0x12 then s.partOfCluster t.target = some p
    else false

/-- The descriptor waits to send again, and nothing of it is outstanding: what it has sent is acknowledged (R264, R347). -/
def State.waitsToSend (s : State) (fl : Flight) : Bool :=
  match fl.phase with
  | .remote id => fl.hasPoints && s.requests.any fun q => q.id = id && q.msg.isNone
  | _ => false

/-- Every engine of the partition is at a point, every accepted accumulate written, nothing outstanding (R348), no test runs on it
(R521), and its domains are awake, whose wake time STOPPING includes (R493). -/
def State.stopped (s : State) (p : Nat) : Bool :=
  !s.partTested p && s.partAwake p &&
  (s.flights.all fun f => s.partOf f.core ≠ some p || atPoint f || s.waitsToSend f) && (s.part p).adds.isEmpty
    && ((s.clustersOf p).all fun c => (s.gramSlot c).isNone)
    && s.requests.all fun q => q.p ≠ p || q.msg.isNone

/-- A solver unit that has stopped at a pre-emption point releases its lattices, and asks for them again when it goes on (R184,
R210). -/
def State.slvPark (s : State) (c : Nat) : State :=
  let s := match s.slvRunning c with
    | some fl => if fl.phase = Phase.awaiting then (s.waitEnds fl).putFlight { fl with phase := .running true } else s
    | none => s
  (s.releaseLattices c).syncSlv c

/-- STOPPING ends: the translation caches are invalidated. A request that waited for drains is taken first. -/
def execPreemptStopped (p : Fin 16) (s : State) : Host.Outcome State Fault Refusal :=
  let s := if (s.part p).preemptAsked && !s.draining p then preemptRequest p s else s
  done (if s.preState p = psStopping ∧ s.stopped p then
      let s := (s.clustersOf p).foldl State.slvPark s
      (s.setPre p psSaving).setPart p { s.part p with xcache := [] }
    else s)

/-- The partition's streams. -/
def State.streamsOf (s : State) (p : Nat) : List (Nat × Nat) :=
  (s.coresOf p).flatMap fun k => (List.range 3).map fun st => (k, st)

/-- Writes a save area of n pages, whose contents have no stated form, and answers its header. -/
def saveImage (p va n : Nat) : Eng (List Byte) := do
  let h ← freeBytes 4096
  writeLocal (pinnedReq p) va h
  eachM (rangeFrom 1 n) fun i => do
    writeLocal (pinnedReq p) (va + 4096 * i) (← freeBytes 4096)
  return h

/-- Live bytes of the partition's stores: base and size of each range (R352). -/
def State.liveRanges (s : State) (p : Nat) : List (Nat × Nat) :=
  ((s.coresOf p).zipIdx.map fun (k, i) =>
    (coreStoreBase + 0x800000 * k, roundUp (s.fget rf_prtStoreLive_extent p i) 4096))
  ++ (s.clustersOf p).zipIdx.map fun (c, j) =>
    (clusterStoreBase + 0x2000000 * c, roundUp (s.fget rf_prtCstoreLive_extent p j) 4096)

/-- Registers whose contents the save area holds: tokens, the holder and the live plane, the Gram unit's slots. -/
def savedRegs : List RegName := [.corToken, .corClusterToken, .corLatStatus, .corTapSlot, .corGramStatus]

/-- The items that a save takes (R67, R104, R351). -/
def State.toSave (s : State) (p : Nat) : Saved :=
  let mine := fun k => (s.coresOf p).contains k
  { regs := s.regs.filter fun (k, _) => savedRegs.contains k.reg && mine k.i
    lattices := s.lattices.filter fun (k, _) => mine k
    tiles := s.tiles.filter fun (k, _) => mine (k / 262144)
    taps := s.taps.filter fun (k, _) => (s.clustersOf p).contains (k / 16)
    cells := s.mem.filter fun (a, _) => (s.liveRanges p).any fun (b, n) => decide (b ≤ a) && decide (a < b + n) }

/-- Puts the items of a save back. -/
def State.putBack (s : State) (p : Nat) (x : Saved) : State :=
  let mine := fun k => (s.coresOf p).contains k
  let regs := s.regs.filter fun (k, _) => !(savedRegs.contains k.reg && mine k.i)
  let t := x.regs.foldl (fun t (k, v) => t.setReg k.reg k.i k.j v) (s.withRegs regs)
  let t := t.withLattices (x.lattices.foldl (fun m (k, v) => smSet .reset m k v)
    (s.lattices.filter fun (k, _) => !mine k))
  let t := t.withTiles (x.tiles.foldl (fun m (k, v) => smSet 0 m k v) (s.tiles.filter fun (k, _) => !mine (k / 262144)))
  let t := t.withTaps (x.taps.foldl (fun m (k, v) => smSet none m k v)
    (s.taps.filter fun (k, _) => !(s.clustersOf p).contains (k / 16)))
  x.cells.foldl (fun t (a, v) => t.setByte a v) ((s.liveRanges p).foldl (fun t (b, n) => t.clearRange b n) t)

/-- SAVING ends (R348, R351): the area holds the saved state in a layout of the module's own, so its bytes are free values;
streams that are not DISABLED enter SAVED (R130). -/
def execSaveDone (p : Fin 16) (s : State) : Host.Outcome State Fault Refusal :=
  done (if s.preState p = psSaving then
      let va := s.saveVa p
      let (h, s) := s.own (saveImage p va (s.saveBytes p / 4096))
      let sts := (s.streamsOf p).filterMap fun (k, st) =>
        if s.strState k st = ssDisabled then none else some (k, st, s.strState k st)
      let s := sts.foldl (fun s (k, st, _) => s.setStr k st ssSaved) s
      let s := s.setPart p { s.part p with savedStreams := sts, savedHeader := h.getD [], saved := some (s.toSave p) }
      let s := ((s.setPre p psSaved).syncCol p).count .prtCount p 3
      s.raise 0x2004 p ⟨8, p, 0, 0, va⟩
    else s)

/-- Action 2: resume. -/
def preemptResume (p : Nat) (s : State) : State := if s.preState p = psSaved then s.setPre p psRestoring else s.preError p

def execPreemptResume (p : Fin 16) (s : State) : Host.Outcome State Fault Refusal := done (preemptResume p s)

/-- Every stream of a core drains (R131). -/
def State.drainCore (s : State) (k : Fin 64) : State :=
  ((List.finRange 3).foldl (fun s st => s.drainStream k st) (s.wakeFor (domCore k))).startDrain (.core k)

/-- Disables a function (R131): it stops admitting and its drain begins. A disable is a wake event (R492). -/
def State.disable (s : State) (f : Func) : State :=
  match f with
  | .stream k st => (s.wakeFor (domCore k)).drainStream k st
  | .core k => s.drainCore k
  | .solver c => ((s.wakeFor (domCluster c)).fset rf_slvCtl_enable c 0 0).startDrain f
  | .port _ => s.startDrain f
  | .partition p =>
    let s := (List.finRange 64).foldl (fun s k => if s.partOf k = some p.val then s.drainCore k else s) s
    (List.finRange 16).foldl (fun (s : State) (c : Fin 16) => if s.partOfCluster c = some p.val then
      ((s.wakeFor (domCluster c)).fset rf_slvCtl_enable c 0 0).startDrain (.solver c) else s) (s.startDrain f)

/-- Disable requests that waited for the end of a pre-emption take effect (R133). -/
def State.applyDeferred (s : State) (p : Nat) : State :=
  let fs := (s.part p).deferred
  fs.foldl (fun s f => s.disable f) (s.setPart p { s.part p with deferred := [] })

/-- The drains of a partition's functions count from now (R130, R133). -/
def State.restartDrains (s : State) (p : Nat) : State :=
  s.withDrains (s.drains.map fun (f, t) => (f, if s.ownsFunc p f then s.tick else t))

/-- Bytes of a store from its live extent on, rounded up to 4 KiB, become undefined (R352). -/
def State.loseStore (s : State) (base size extent : Nat) : State :=
  (rangeFrom (roundUp extent 4096) size).foldl (fun s o =>
    let (b, s) := s.draw
    s.setByte (base + o) (BitVec.ofNat 8 b)) s

/-- Bytes beyond the live extents of the partition's stores (R352). -/
def State.loseStores (s : State) (p : Nat) : State :=
  let s := (s.coresOf p).zipIdx.foldl (fun s (k, i) =>
    s.loseStore (coreStoreBase + 0x800000 * k) 0x800000 (s.fget rf_prtStoreLive_extent p i)) s
  (s.clustersOf p).zipIdx.foldl (fun s (c, j) =>
    s.loseStore (clusterStoreBase + 0x2000000 * c) 0x2000000 (s.fget rf_prtCstoreLive_extent p j)) s

/-- Reads a save area of n pages, and answers its header. -/
def restoreImage (p va n : Nat) : Eng (List Byte) := do
  let h ← readLocal (pinnedReq p) va 4096
  eachM (rangeFrom 1 n) fun i => do
    let _ ← readLocal (pinnedReq p) (va + 4096 * i) 4096
  return h

/-- RESTORING ends (R348): the header's check passes where its bytes are as saved; otherwise, or at an uncorrectable line,
the partition is SAVED again. -/
def execRestoreDone (p : Fin 16) (s : State) : Host.Outcome State Fault Refusal :=
  done (if s.preState p = psRestoring then
      let va := s.saveVa p
      match s.own (restoreImage p va (s.saveBytes p / 4096)) with
      | (some h, s) =>
        if h = (s.part p).savedHeader then
          let s := (s.part p).savedStreams.foldl (fun s (k, st, x) => s.setStr k st x) s
          let s := match (s.part p).saved with
            | some x => s.putBack p x
            | none => s
          let s := s.setPart p { s.part p with savedStreams := [], savedHeader := [], saved := none }
          let s := ((s.loseStores p).setPre p psNone).restartDrains p
          -- a doorbell that came meanwhile took effect (R111)
          let s := (s.streamsOf p).foldl (fun s (k, st) => s.wakeStream k st) s
          let s := ((s.syncCol p).applyDeferred p).applyVerdicts p
          s.raise 0x2007 p ⟨8, p, 0, 0, va⟩
        else (s.setPre p psSaved).saveFault p
      | (none, s) => (s.setPre p psSaved).saveFault p
    else s)

/-- Action 3: release. Streams are DISABLED, issued descriptors complete PREEMPTED, the fault records are discarded. -/
def preemptRelease (p : Nat) (s : State) : State :=
  if s.preState p ≠ psSaved then s.preError p
  else
    let s := (s.flights.filter fun f => s.partOf f.core = some p).foldl
      (fun s f => (s.endFlight f stPreempted).syncEngines f.core (hOpcode f.bytes)) s
    let s := (s.streamsOf p).foldl (fun s (k, st) => s.setStr k st ssDisabled) s
    let s := s.setPart p { s.part p with faults := [], savedStreams := [], savedHeader := [], saved := none }
    let s := (s.syncFaults p).fset rf_prtFaultqPtr_head p 0 (s.fget rf_prtFaultqPtr_tail p)
    ((s.setPre p psNone).applyDeferred p).applyVerdicts p

def execPreemptRelease (p : Fin 16) (s : State) : Host.Outcome State Fault Refusal := done (preemptRelease p s)

end Sys2Proof.Machine
end

