-- ==== Sys2Proof/Machine/Power.lean ====
section
/-! DEFINITION. Regulators and operating points (R496 to R500): the die's target, the power cap, the voltage window and the
thermal limit. -/
namespace Sys2Proof.Machine

/-- A field of the active profile's body (R535). -/
def State.prof (s : State) (off n : Nat) : Nat := fld s.tru.profile off n

def State.die (s : State) (d : Nat) : DieX := smGet .reset s.pwr.dies d
def State.setDie (s : State) (d : Nat) (x : DieX) : State :=
  s.withPwr { s.pwr with dies := smSet .reset s.pwr.dies d x }

-- A die's fields of PWR_AVS_STATUS (R506).
def avsVout (d : Nat) : RF := ⟨.pwrAvsStatus, 16 * d + 15, 16 * d + 4⟩
def avsPending (d : Nat) : RF := ⟨.pwrAvsStatus, 16 * d + 3, 16 * d + 3⟩
def avsFailed (d : Nat) : RF := ⟨.pwrAvsStatus, 16 * d + 2, 16 * d + 2⟩
def avsRetries (d : Nat) : RF := ⟨.pwrAvsStatus, 16 * d + 1, 16 * d⟩

/-- Number of a point among those of R496. -/
def pointNo (f : Nat) : Nat := (f - 1000) / 50

/-- The plan's voltage for a point; before the first plan, the profile's vmax_mv (R527). -/
def State.planV (s : State) (d f : Nat) : Nat := (smGet none s.age.v (64 * d + pointNo f)).getD (s.prof 14 2)

def State.inWindow (s : State) (v : Nat) : Bool := s.fget rf_pwrVwindow_vminMv ≤ v && v ≤ s.fget rf_pwrVwindow_vmaxMv

/-- The highest point at or below f whose voltage lies inside the window (R499). -/
def State.windowPoint (s : State) (d : Nat) : Nat → Nat → Option Nat
  | 0, _ => none
  | k + 1, f => if s.inWindow (s.planV d f) then some f else if f ≤ 1000 then none else s.windowPoint d k (f - 50)

/-- The lowest of the die's target, the cap's and the thermal limit, and the highest available point (R496, R512). -/
def State.unwindowed (s : State) (d : Nat) : Nat :=
  let x := s.die d
  min (min (s.fget rf_pwrDieTarget_targetMhz d) (s.fget rf_ageDieMargin_maxMhz d)) (min x.capLimit x.thermLimit)

/-- The operating point that the limits give, and whether the window lowers it, and whether no point lies inside. -/
def State.pointOf (s : State) (d : Nat) : Nat × Nat × Bool × Bool :=
  let f0 := s.unwindowed d
  if f0 < 1000 then (1000, s.prof 14 2, false, false)
  else match s.windowPoint d 41 f0 with
    | some f => (f, s.planV d f, f < f0, false)
    | none =>
      let v := s.planV d 1000
      (1000, if v < s.fget rf_pwrVwindow_vminMv then s.fget rf_pwrVwindow_vminMv else s.fget rf_pwrVwindow_vmaxMv, true, true)

/-- Commands a die's regulator over AVSBus (R496). -/
def State.avsCommand (s : State) (d v : Nat) (back : Bool) : State :=
  let s := s.setDie d { s.die d with cmd := some v, sent := s.tick, back := back }
  let s := (s.fset (avsPending d) 0 0 1).fset (avsRetries d) 0 0 0
  (s.withOut (s.out ++ [.avs d v]))

def State.freq (s : State) (d : Nat) : Nat := s.fget rf_clkDieStatus_freqMhz d
def State.vout (s : State) (d : Nat) : Nat := s.fget (avsVout d)

/-- A window that begins or stops lowering any die shows in PWR_MODULE_STATUS. -/
def State.syncLimits (s : State) : State :=
  let any (f : DieX → Bool) : Nat := b2n ((List.range 4).any fun d => f (s.die d))
  (s.fset rf_pwrModuleStatus_windowActive 0 0 (any (·.windowed))).fset rf_pwrModuleStatus_thermalActive 0 0
    (any fun x => x.thermLimit < 3000)

/-- An event that names a die, with its point (R508, R555). -/
def State.dieEvent (s : State) (code d : Nat) : State := s.raiseMod code ⟨3, d, 0, 1, (s.die d).goalF⟩

/-- A die moves to the point its limits give. A raise takes the voltage first, a lowering the frequency (R496). -/
def State.retarget (s : State) (d : Nat) : State :=
  let (f, v, w, none_) := s.pointOf d
  let x := s.die d
  let s := if x.goalF = f ∧ x.goalV = v then s
    else
      let s := s.setDie d { x with
        goalF := f, goalV := v, oldF := s.freq d, oldV := s.vout d, cmd := none, back := false, silent := none }
      let s := s.fset (avsPending d) 0 0 0
      let s := s.fset rf_clkDieStatus_changing d 0 (b2n (f ≠ s.freq d))
      if s.freq d ≤ f ∧ v ≠ s.vout d then s.avsCommand d v false else s
  let x' := s.die d
  let s := s.setDie d { x' with windowed := w, noPoint := none_ }
  let s := if w != x.windowed then s.dieEvent 0x8004 d else s
  let s := if none_ && !x.noPoint then s.raiseMod 0x9002 ⟨3, d, 0, 0, 0⟩ else s
  s.syncLimits

def State.retargetAll (s : State) : State := (List.range 4).foldl State.retarget s

/-! ### The regulator (R496, R497) -/

/-- The regulator reports its output settled. -/
def execAvsAck (die : Fin 4) (s : State) : Host.Outcome State Fault Refusal :=
  done (match (s.die die).cmd with
    | some v =>
      let s := s.setDie die { s.die die with cmd := none, back := false }
      (((s.fset (avsVout die) 0 0 v).fset (avsPending die) 0 0 0).fset (avsFailed die) 0 0 0).fset (avsRetries die) 0 0 0
    | none => s)

/-- No acknowledgement within 200 µs: the command goes out again, up to twice; after the third the die returns to its old
point. -/
def execAvsTimeout (die : Fin 4) (s : State) : Host.Outcome State Fault Refusal :=
  let d := die.val
  let x := s.die d
  done (match x.cmd with
    | some v =>
      if ¬ s.since x.sent (us 200) then s
      else if s.fget (avsRetries d) < 2 then
        let s := s.setDie d { x with sent := s.tick }
        ((s.fset (avsRetries d) 0 0 (s.fget (avsRetries d) + 1)).withOut (s.out ++ [.avs d v]))
      else
        let s := (s.setDie d { x with cmd := none }).fset (avsPending d) 0 0 0
        let s := if x.back then s
          else if s.freq d < x.oldF then
            -- a lowering: the frequency stays reduced until the output is known
            s.setDie d { s.die d with silent := some x.oldV }
          else
            -- a raise: the frequency has not moved
            let s := s.setDie d { s.die d with goalF := x.oldF, goalV := x.oldV }
            (s.fset rf_clkDieStatus_changing d 0 0).avsCommand d x.oldV true
        (s.fset (avsFailed d) 0 0 1).dieEvent 0x8003 d
    | none => s)

/-- An AVSBus read of a silent regulator's output, in mV. -/
def execAvsVoutRead (die : Fin 4) (mv : BitVec 16) (s : State) : Host.Outcome State Fault Refusal :=
  let x := s.die die
  done (match x.silent with
    | some v =>
      if v ≤ mv.toNat then
        (s.setDie die { x with goalF := x.oldF, goalV := x.oldV, silent := none }).fset rf_clkDieStatus_changing die 0 1
      else s
    | none => s)

/-- The frequency moves one step of 50 MHz towards the point, every 100 ns; a raise waits for its voltage, and a lowering that
has arrived commands its voltage. -/
def execFrequencyStep (die : Fin 4) (s : State) : Host.Outcome State Fault Refusal :=
  let d := die.val
  let x := s.die d
  let f := s.freq d
  let arrive (s : State) (f : Nat) : State :=
    let s := (s.fset rf_clkDieStatus_freqMhz d 0 f).setDie d { s.die d with step := s.tick }
    if f = x.goalF then
      let s := s.fset rf_clkDieStatus_changing d 0 0
      if s.vout d ≠ x.goalV then s.avsCommand d x.goalV false else s
    else s
  done (if ¬ s.since x.step 100 then s
    else if f < x.goalF ∧ x.cmd = none ∧ x.silent = none ∧ s.vout d = x.goalV then arrive s (min x.goalF (f + 50))
    else if x.goalF < f then arrive s (max x.goalF (f - 50))
    else s)

/-! ### Host policy (R484, R498, R499) -/

/-- PWR_LIMIT: the cap lies between 1,000 W and the profile's bound (R506). -/
def pwrLimitWrite (v : Nat) (s : State) : State :=
  if 1000 ≤ bits v 15 0 ∧ bits v 15 0 ≤ s.prof 8 2 then s.fset rf_pwrLimit_capW 0 0 (bits v 15 0) else s

def execPwrLimitWrite (value : Word) (s : State) : Host.Outcome State Fault Refusal := done (pwrLimitWrite value.toNat s)

/-- PWR_VWINDOW: a pair inside the profile's window; each die moves to a point inside it. -/
def pwrVwindowWrite (v : Nat) (s : State) : State :=
  let lo := bits v 15 0
  let hi := bits v 31 16
  if lo < hi ∧ s.prof 12 2 ≤ lo ∧ hi ≤ s.prof 14 2 then
    ((s.fset rf_pwrVwindow_vminMv 0 0 lo).fset rf_pwrVwindow_vmaxMv 0 0 hi).retargetAll
  else s

def execPwrVwindowWrite (value : Word) (s : State) : Host.Outcome State Fault Refusal :=
  done (pwrVwindowWrite value.toNat s)

/-- PWR_DIE_TARGET: 1,000 to 3,000 MHz in steps of 50. -/
def dieTargetWrite (d v : Nat) (s : State) : State :=
  let f := bits v 15 0
  if 1000 ≤ f ∧ f ≤ 3000 ∧ f % 50 = 0 then (s.fset rf_pwrDieTarget_targetMhz d 0 f).retarget d else s

def execDieTargetWrite (die : Fin 4) (value : Word) (s : State) : Host.Outcome State Fault Refusal :=
  done (dieTargetWrite die value.toNat s)

/-- Frequency steps taken under a limit are counted (R506). -/
def State.limitSteps (s : State) (n : Nat) : State := s.count .pwrCount 3 0 n

/-- The input of the last millisecond: average power in W and voltage in 0.1 V. Above the cap every die is lowered by
50 MHz. -/
def execPowerCapTick (watts deciVolts : BitVec 16) (s : State) : Host.Outcome State Fault Refusal :=
  let w := watts.toNat
  let cap := s.fget rf_pwrLimit_capW
  let s := (s.fset rf_pwrModuleStatus_inputW 0 0 w).fset rf_pwrModuleStatus_inputDv 0 0 deciVolts.toNat
  done (if cap < w then
      let first := !s.fbit rf_pwrModuleStatus_capActive
      let s := (List.range 4).foldl (fun s d =>
        let x := s.die d
        let new := max 1000 (min x.capLimit x.goalF - 50)
        (s.setDie d { x with capLimit := new }).limitSteps (b2n (new < x.goalF))) s
      let s := (s.withPwr { s.pwr with below := none }).fset rf_pwrModuleStatus_capActive 0 0 1
      let s := if first then s.raiseMod 0x8004 ⟨0, 0, 0, 1, cap⟩ else s
      s.retargetAll
    else
      (s.withPwr { s.pwr with
        below := if 100 * w < 97 * cap then some (s.pwr.below.getD s.tick) else none }))

/-- 10 ms below 97% of the cap: every die is raised by 50 MHz; the cap stops binding where no die is lowered by it. -/
def execPowerCapRaise (s : State) : Host.Outcome State Fault Refusal :=
  done (match s.pwr.below with
    | some t =>
      if s.fbit rf_pwrModuleStatus_capActive ∧ s.since t (ms 10) then
        let s := (List.range 4).foldl (fun s d =>
          let x := s.die d
          (s.setDie d { x with capLimit := min 3000 (x.capLimit + 50) }).limitSteps (b2n (x.capLimit < 3000))) s
        let s := s.withPwr { s.pwr with below := some s.tick }
        let free : Bool := (List.range 4).all fun d =>
          let x := s.die d
          min (min (s.fget rf_pwrDieTarget_targetMhz d) (s.fget rf_ageDieMargin_maxMhz d)) x.thermLimit ≤ x.capLimit
        let s := if free then
            let s := (List.range 4).foldl (fun s d => s.setDie d { s.die d with capLimit := 3000 }) s
            (s.fset rf_pwrModuleStatus_capActive 0 0 0).raiseMod 0x8004 ⟨0, 0, 0, 1, s.fget rf_pwrLimit_capW⟩
          else s
        s.retargetAll
      else s
    | none => s)

/-! ### Thermal throttling (R500) -/

/-- The die's hottest sensor in °C, every millisecond: at the throttle temperature the die is lowered by 50 MHz. -/
def execThermalThrottleTick (die : Fin 4) (temp : BitVec 8) (s : State) : Host.Outcome State Fault Refusal :=
  let d := die.val
  let t := temp.toNat
  let s := s.noteTemp d t
  let s := s.fset rf_ageDieMargin_cycles d 0 (smGet 0 s.age.cycles d)
  let x := s.die d
  let hot := s.prof 22 1
  done (if hot ≤ t then
      let new := max 1000 (min x.thermLimit x.goalF - 50)
      let s := s.setDie d { x with temp := t, cool := none, thermLimit := new }
      let s := s.limitSteps (b2n (new < x.goalF))
      let s := if x.thermLimit = 3000 then s.dieEvent 0x8004 d else s
      s.retarget d
    else s.setDie d { x with temp := t, cool := if t + 5 ≤ hot then some (x.cool.getD s.tick) else none })

/-- 100 ms at least 5 °C below the throttle temperature: the thermal limit ends. -/
def execThermalRelease (die : Fin 4) (s : State) : Host.Outcome State Fault Refusal :=
  let x := s.die die
  done (match x.cool with
    | some t =>
      if x.thermLimit < 3000 ∧ s.since t (ms 100) then
        let s := (s.setDie die { x with thermLimit := 3000 }).limitSteps 1
        (s.retarget die).dieEvent 0x8004 die
      else s
    | none => s)

end Sys2Proof.Machine
end

