-- ==== Sys2Proof/Machine/Ageing.lean ====
section
/-! DEFINITION. Ageing measurement, the margin planner and the requests for self-tests (R509 to R524). How a test starts and
ends is in Domains.lean. -/
namespace Sys2Proof.Machine

/-! ### Monitors (R509) -/

/-- A die's monitors at its present frequency: the worst critical-path voltage and the worst SRAM minimum voltage, in mV. -/
def execMonitorRead (die : Fin 4) (crit sram : BitVec 16) (s : State) : Host.Outcome State Fault Refusal :=
  let d := die.val
  let s := s.withAge { s.age with
    crit := smSet 0 s.age.crit (64 * d + pointNo (s.freq d)) crit.toNat, sram := smSet 0 s.age.sram d sram.toNat }
  done ((s.fset rf_ageDieMargin_critMv d 0 crit.toNat).fset rf_ageDieMargin_sramMv d 0 sram.toNat)

/-- A lane's eye height and width, and its FEC codewords corrected and uncorrectable since the last read (R395, R421). -/
def execSerdesMarginRead (lane : Fin 64) (height width : BitVec 16) (corrected uncorrectable : BitVec 32) (s : State) :
    Host.Outcome State Fault Refusal :=
  let s := s.withAge { s.age with eyes := smSet (0, 0) s.age.eyes lane (height.toNat, width.toNat) }
  done ((s.count .fabPortCount (lane / 4) 7 corrected.toNat).count .fabPortCount (lane / 4) 8 uncorrectable.toNat)

/-! ### The margin planner (R511 to R513) -/

/-- The planner starts; it counts its period from here (R523). It is sapwood's. -/
def State.startPlanner (s : State) : State :=
  if s.sapwood && s.serves then
    (s.fset rf_ageStatus_planning 0 0 1).withAge { s.age with planTick := s.tick }
  else s

def execPlanPeriod (s : State) : Host.Outcome State Fault Refusal :=
  done (if s.since s.age.planTick (hours (s.fget rf_ageCtl_planPeriodH)) then s.startPlanner else s)

/-- AGE_CTL.replan written 1. -/
def execReplan (s : State) : Host.Outcome State Fault Refusal := done s.startPlanner

/-- The points of R496, highest first. -/
def points : List Nat := (List.range 41).map fun i => 3000 - 50 * i

/-- The clipped voltage of a point (R512); before a plan is in force, none is lowered from. -/
def State.clipV (s : State) (pl : Plan) (d f : Nat) : Nat :=
  let k := 64 * d + pointNo f
  let need := max (smGet 0 s.age.crit k) (smGet 0 s.age.sram d) + s.prof 16 1
  let v := max (max ((pl.v.getD d []).getD (pointNo f) 0) need) (s.prof 12 2)
  match smGet none s.age.v k with
  | some cur => max v (cur - 10)
  | none => v

/-- The highest available point: a point is available only when every higher one is within vmax_mv too (R512). -/
def highestPoint (vmax : Nat) (v : Nat → Nat) : List Nat → Option Nat
  | [] => none
  | f :: _ => if v f ≤ vmax then some f else none

/-- A die's part of a plan. -/
def State.planDie (s : State) (pl : Plan) (d : Nat) : State :=
  let v := points.map fun f => (pointNo f, s.clipV pl d f)
  let s := s.withAge { s.age with v := v.foldl (fun m (i, x) => smSet none m (64 * d + i) (some x)) s.age.v }
  match highestPoint (s.prof 14 2) (s.planV d) points with
  | some f => s.fset rf_ageDieMargin_maxMhz d 0 f
  | none => (s.fset rf_ageDieMargin_maxMhz d 0 0).raiseMod 0x9002 ⟨3, d, 0, 0, 0⟩

def stackOfRow (row : Nat) : Nat := bankOfRow row / 4096

/-- At most n rows of each stack, oldest first. -/
def clipRows (n : Nat) (rows : List Nat) : List Nat :=
  rows.foldl (fun acc r =>
    if (acc.filter fun x => stackOfRow x = stackOfRow r).length < n ∧ ¬ acc.contains r then acc ++ [r] else acc) []

/-- The bank of a row has a repair resource that no repair in force uses. -/
def State.spareFor (s : State) (row : Nat) : Bool :=
  let b := bankOfRow row
  let used := ((s.hbm.soft ++ s.hbm.hard).filter fun r => bankOfRow r = b).length
  used < Config.hbmSpares (b / 4096) (b / 64 % 64) (b % 64)

/-- Soft repairs take effect (R383): those in force, clipped to the profile, and planned ones that have a spare. -/
def State.repairRows (s : State) (rows : List Nat) : State :=
  let s := s.withHbm { s.hbm with soft := clipRows (s.prof 18 2) s.hbm.soft }
  rows.foldl (fun s row =>
    let here := (s.hbm.soft.filter fun x => stackOfRow x = stackOfRow row).length
    if s.hbm.soft.contains row ∨ s.prof 18 2 ≤ here ∨ ¬ s.spareFor row then s
    else
      let s := s.withHbm { s.hbm with
        soft := s.hbm.soft ++ [row], cand := s.hbm.cand.filter (· ≠ row)
        -- another row stands in for it: its errors are gone
        lineErr := s.hbm.lineErr.filter fun (l, _) => rowNo (s.hbmPlace (128 * l)) ≠ row }
      s.ledgerAdd 2 (stackOfRow row) (leBytes 8 (rowWord row))) s

/-- The multiplier a plan gives a stack (R511): 0 is 1×. -/
def State.planStack (s : State) (x st : Nat) : State :=
  (s.fset rf_hbmStackStatus_planRefresh st 0 (max (min x 2) (s.prof 17 1 % 4))).effRefresh st

/-- Heartwood clips a plan, records it in the ledger and applies it (R512, R513). -/
def State.applyPlan (s : State) (pl : Plan) (atStart : Bool) : State :=
  let (body, s) := s.drawBytes 40
  let s := s.ledgerAdd 1 0 body
  let s := (List.range 4).foldl (fun s d => s.planDie pl d) s
  let max d := s.fget rf_ageDieMargin_maxMhz d
  let s := s.fset rf_ageStatus_deficit 0 0 (b2n ((List.range 4).any fun d => max d = 0))
  let s := (List.range 12).foldl (fun s st => s.planStack (pl.refresh.getD st 0) st) s
  -- candidates that the plan repairs, oldest first
  let kept := clipRows (s.prof 18 2) (s.hbm.soft ++ s.hbm.cand.filter pl.repairs.contains)
  let kept := kept.filter fun r => !s.hbm.soft.contains r
  let s := if atStart then (s.repairRows (s.age.repairs ++ kept)).withAge { s.age with repairs := [] }
    else s.withAge { s.age with repairs := kept }
  let lim : Int := s.prof 26 1
  let s := s.withAge { s.age with
    offsets := pl.offsets.map fun x => min lim (if x < -lim then -lim else x), serdes := pl.serdes }
  let s := s.retargetAll
  let s := (s.fset rf_ageStatus_planning 0 0 0).fset rf_ageStatus_planSeq 0 0 (s.fget rf_ageStatus_planSeq + 1)
  s.raiseMod 0x9001 ⟨0, 0, 0, 0, max 0 + (max 1 <<< 16) + (max 2 <<< 32) + (max 3 <<< 48)⟩

/-! ### Self-tests (R516 to R520) -/

/-- Target and duration of a test (R516): targets it has, ticks it takes. -/
def testTargets (code : Nat) : Nat :=
  if code = 0x01 then 64 else if code = 0x02 then 4 else if code = 0x03 then 12 else if code = 0x04 then 1
  else if code = 0x10 then 64 else if code = 0x11 then 384 else if code = 0x12 then 16
  else if code = 0x20 then 16 else if code = 0x21 then 128 else 0

def State.testTicks (s : State) (code : Nat) : Nat :=
  if code = 0x01 then ms 20 else if code = 0x02 then us 10
  else if code = 0x03 then hours s.hbm.scrubHours else if code = 0x04 then hours (s.fget rf_tapCtl_scrubPeriodH)
  else if code = 0x10 then ms 2 else if code = 0x11 then ms 40 else if code = 0x12 then us 50
  else if code = 0x20 then ms 100 else ms 30000

/-- A background-safe test (R517). -/
def testBackground (code : Nat) : Bool := 1 ≤ code && code ≤ 4
/-- A disruptive test (R520). -/
def testDisruptive (code : Nat) : Bool := code = 0x20 || code = 0x21

/-- Source of the event records about a test (R555). -/
def testSource (code target : Nat) : Nat × Nat :=
  if code = 0x01 then (5, target / 4) else if code = 0x02 then (3, target) else if code = 0x03 then (4, target)
  else if code = 0x04 then (0, 0) else if code = 0x10 then (1, target) else if code = 0x11 then (4, target / 32)
  else if code = 0x12 then (2, target) else if code = 0x20 then (5, target) else (7, target)

/-- The partition that a tested unit belongs to. -/
def State.testPart (s : State) (code target : Nat) : Option Nat :=
  if code = 0x10 then s.partOf target else if code = 0x12 then s.partOfCluster target else none

def State.testEvent (s : State) (ev code target : Nat) : State :=
  let (k, i) := testSource code target
  s.raiseOpt ev (s.testPart code target) ⟨k, i, 0, code + (target <<< 8), 0⟩

/-- AGE_TEST_STATUS and the queue's depth show the tests. -/
def State.syncTests (s : State) : State :=
  let s := s.fset rf_ageTestStatus_running 0 0 (b2n (s.age.running.any fun t => !testBackground t.code))
  let s := s.fset rf_ageTestStatus_queued 0 0 (b2n (!s.age.queue.isEmpty))
  s.setReg .ageCount 1 0 (BitVec.ofNat 64 s.age.queue.length)

/-- A request is refused (R518, R520). -/
def State.refuseTest (s : State) (code target : Nat) : State :=
  (s.fset rf_ageTestStatus_refused 0 0 1).testEvent 0x9007 code target

/-- A partition's memory lies partly on a stack: with channels interleaved over a die's stacks or over all (R365). -/
def State.usesStack (s : State) (p st : Nat) : Bool :=
  (List.range 768).any fun u => s.ownsUnit p u && (s.fget rf_hbmGlbCtl_interleave ≠ 0 || u / 192 = st / 3)

/-- Functions of a slot-needing test's target (R519): a core, a solver unit, or every core and solver unit of the partitions
whose memory a channel holds. -/
def State.testFuncs (s : State) (code target : Nat) : List (Fin 64) × List (Fin 16) :=
  if code = 0x10 then ((List.finRange 64).filter (·.val = target), [])
  else if code = 0x12 then ([], (List.finRange 16).filter (·.val = target))
  else
    let mine := fun (p : Option Nat) => match p with
      | some p => s.usesStack p (target / 32)
      | none => false
    ((List.finRange 64).filter fun k => mine (s.partOf k), (List.finRange 16).filter fun c => mine (s.partOfCluster c))

/-- The target's functions are disabled; while their partition is pre-empted the request waits (R131, R133, R519). -/
def State.drainTarget (s : State) (code target : Nat) : State × List (Nat × Nat × Nat) × List Nat :=
  let ks : List (Fin 64) := (s.testFuncs code target).1
  let cs : List (Fin 16) := (s.testFuncs code target).2
  let saved := ks.flatMap fun (k : Fin 64) => (List.range 3).filterMap fun st =>
    if s.strState k st = ssDisabled then none else some (k.val, st, s.strState k st)
  let on := (cs.filter fun (c : Fin 16) => s.fbit rf_slvCtl_enable c).map (·.val)
  let s := ks.foldl (fun (s : State) (k : Fin 64) => s.deferOr (s.partOf k) (.core k) (·.disable (.core k))) s
  let s := (cs.filter fun (c : Fin 16) => on.contains c.val).foldl (fun (s : State) (c : Fin 16) => solverDisable c s) s
  (s, saved, on)

/-- A taproot descriptor. -/
def isTap (d : List Byte) : Bool := hOpcode d = 0x44 || hOpcode d = 0x45

/-- No taproot descriptor runs, or is queued in a fetch window (R490, R520). -/
def State.tapIdle (s : State) : Bool :=
  (s.flights.all fun f => !isTap f.bytes) && s.windows.all fun (_, w) => w.all fun f => !isTap f.bytes

/-- The target of a disruptive test is drained (R520). -/
def State.drainedFor (s : State) (code target : Nat) : Bool :=
  if code = 0x20 then !s.fbit rf_fabPortCtl_enable target && !(s.port target).draining && (s.port target).txq.isEmpty
  else s.tapIdle

/-- A request for a test (R516 to R520). -/
def testRequest (a : Agent) (code target : Nat) (drain : Bool) (timeoutMs : Nat) (s : State) : State :=
  if testTargets code ≤ target then s
  else
    let t : TestReq := ⟨code, target, false, timeoutMs, s.tick, [], []⟩
    if testBackground code then s.withAge { s.age with running := s.age.running ++ [t] }
    else if testDisruptive code then
      if a = .sapwood then s.boundViolation (regOffset ⟨.ageTestCmd, 0, 0⟩)
      else if s.drainedFor code target then (s.withAge { s.age with running := s.age.running ++ [t] }).syncTests
      else s.refuseTest code target
    else if 64 ≤ s.age.queue.length then s.refuseTest code target
    else
      let (s, saved, on) := if drain then s.drainTarget code target else (s, [], [])
      (s.withAge { s.age with
        queue := s.age.queue ++ [{ t with drain := drain, saved := saved, units := on }] }).syncTests

/-- A write of AGE_TEST_CMD. -/
def testCommand (a : Agent) (v : Nat) (s : State) : State :=
  testRequest a (bits v 63 56) (bits v 47 32) (bit v 48) (bits v 31 0) s

def execSerdesEyeScan (lane : Fin 64) (s : State) : Host.Outcome State Fault Refusal :=
  done (testRequest .host 0x01 lane false 0 s)

def execPathMonitorRead (die : Fin 4) (s : State) : Host.Outcome State Fault Refusal :=
  done (testRequest .host 0x02 die false 0 s)

def execHbmScrubPass (stack : Fin 12) (s : State) : Host.Outcome State Fault Refusal :=
  done (testRequest .host 0x03 stack false 0 s)

def execTaprootScrubPass (s : State) : Host.Outcome State Fault Refusal := done (testRequest .host 0x04 0 false 0 s)

def execCoreLogicSelfTest (core : Fin 64) (drain : Bool) (timeoutMs : BitVec 32) (s : State) :
    Host.Outcome State Fault Refusal :=
  done (testRequest .host 0x10 core drain timeoutMs.toNat s)

def execHbmRetentionSweep (stack : Fin 12) (channel : Fin 32) (drain : Bool) (timeoutMs : BitVec 32) (s : State) :
    Host.Outcome State Fault Refusal :=
  done (testRequest .host 0x11 (32 * stack + channel) drain timeoutMs.toNat s)

def execDsuCheck (cluster : Fin 16) (drain : Bool) (timeoutMs : BitVec 32) (s : State) :
    Host.Outcome State Fault Refusal :=
  done (testRequest .host 0x12 cluster drain timeoutMs.toNat s)

def execFullSerdesRetraining (agent : Agent) (port : Fin 16) (s : State) : Host.Outcome State Fault Refusal :=
  done (testRequest agent 0x20 port false 0 s)

def execTaprootDieTest (agent : Agent) (die : Fin 128) (s : State) : Host.Outcome State Fault Refusal :=
  done (testRequest agent 0x21 die false 0 s)

/-- The target's quiet window is open (R518): it is in D0, has held no admitted work for the test's duration, and no test
holds it. -/
def State.quiet (s : State) (t : TestReq) : Bool :=
  match testDomain t.code t.target with
  | none => false
  | some d =>
    let u := if t.code = 0x11 then busyChan t.target else d
    let working := if t.code = 0x10 then s.flights.any fun f => f.core = t.target
      else if t.code = 0x12 then s.flights.any fun f => clusterOf f.core = t.target && isSlv f.bytes
      else false
    s.domState d = 0 && s.domPhase d = 0 && !s.tested d && !working && s.since (smGet 0 s.age.busy u) (s.testTicks t.code)

/-- The functions that a request drained have come to rest (R519). -/
def State.drained (s : State) (t : TestReq) : Bool :=
  (t.saved.all fun (k, st, _) => s.strState k st = ssDisabled)
    && t.units.all fun c => !s.flights.any fun f => clusterOf f.core = c && isSlv f.bytes

/-- The request's timeout has passed (R518). -/
def State.testLate (s : State) (t : TestReq) : Bool := t.timeoutMs ≠ 0 && s.since t.tick (ms t.timeoutMs)

/-- The request may start: its timeout has not passed, and its target is quiet or drained. -/
def State.testStarts (s : State) (t : TestReq) : Bool :=
  if s.testLate t then false
  else if t.drain then s.drained t && (match testDomain t.code t.target with
    | some d => s.domState d = 0 && s.domPhase d = 0 && !s.tested d
    | none => false)
  else s.quiet t

/-- The first request in the queue whose target is ready starts (R518, R519). -/
def execTestStart (s : State) : Host.Outcome State Fault Refusal :=
  done (match s.age.queue.find? s.testStarts with
    | some t =>
      (s.withAge { s.age with
        queue := s.age.queue.erase t, running := s.age.running ++ [{ t with tick := s.tick }] }).syncTests
    | none => s)

/-- Functions that a request drained return to their states. -/
def State.undrain (s : State) (t : TestReq) : State :=
  let s := t.saved.foldl (fun s (k, st, x) => if s.strState k st = ssDisabled then s.setStr k st x else s) s
  t.units.foldl (fun s c => s.fset rf_slvCtl_enable c 0 1) s

/-- Requests whose timeout has passed expire (R518). -/
def execTestExpire (s : State) : Host.Outcome State Fault Refusal :=
  let late := s.age.queue.filter s.testLate
  let s := s.withAge { s.age with queue := s.age.queue.filter fun t => !late.contains t }
  done ((late.foldl (fun s t => ((s.undrain t).count .ageCount 2 0).testEvent 0x9003 t.code t.target) s).syncTests)

end Sys2Proof.Machine
end

