-- ==== Sys2Proof/Machine/Complete.lean ====
section
/-! DEFINITION. Completion of a descriptor (R121, R128 to R130), and the cut at the end of a drain timeout (R131, R132). -/
namespace Sys2Proof.Machine

open Eng

/-- What the completion of a MAT descriptor with a status does to the lattice: a drain with zero_after that is done
empties its footprint (R56), a background operation is bound no more (R54), and a release, or the end of a hold of its
own, frees the lattice (R58). -/
def State.latDone (s : State) (fl : Flight) (st : Nat) : State :=
  if isMat fl.bytes then
    let l := s.lat fl.core
    let live := s.fget rf_corLatStatus_livePlane fl.core
    let zeroed : Bool := hOpcode fl.bytes = 0x03 && fldBit fl.bytes 99 2 && (st = stDone || st = stDoneFlags)
      && l.bound.contains (fl.stream, fl.n)
    let l := if zeroed then
        (if live = 0 then { l with rows1 := 0, lanes1 := 0 } else { l with rows0 := 0, lanes0 := 0 }) else l
    let l := { l with bound := l.bound.filter (· ≠ (fl.stream, fl.n)) }
    let others := s.flights.any fun f => f.core = fl.core && f.stream = fl.stream && f.n ≠ fl.n && isMat f.bytes
    let ends : Bool := s.fget rf_corLatStatus_holder fl.core = fl.stream
      && ((matRelease fl.bytes && st ≠ stIllegal) || (!l.acquired && !others))
    let s := s.setLat fl.core (if ends then { l with acquired := false } else l)
    if ends then s.fset rf_corLatStatus_holder fl.core 0 latNone else s
  else s

/-- The flags field of COR_FLAGS that a descriptor's engine reports to (R45). R45 names no field for UPD descriptors: UPD.STAGE
reports to lat, UPD.SWEEP, UPD.STATS and UPD.ROLLBACK to vec (DESIGN CHOICE, assumption 144). -/
def State.orFlags (s : State) (core op flags : Nat) : State :=
  let put (f : RF) (m : Nat) : State := s.fset f core 0 (s.fget f core ||| (flags &&& m))
  match engineOf op with
  | .lattice => put rf_corFlags_lat 15
  | .vector => put rf_corFlags_vec 15
  | .gram =>
    if op = 0x71 then put rf_corFlags_gram 15
    else (put rf_corFlags_slv 31).fset rf_corFlags_gram core 0 (s.fget rf_corFlags_gram core ||| (flags >>> 8))
  | .solver => put rf_corFlags_slv 31
  | .sweep => put rf_corFlags_vec 15
  | _ => s

/-- The five flags of a descriptor: those of its own class, and those the Gram unit raised for it, which its flight keeps
eight bits higher. -/
def Flight.allFlags (fl : Flight) : Nat := (fl.flags % 32) ||| (fl.flags >>> 8)

/-- The status with which a descriptor completes: DONE becomes DONE_FLAGS when NV, OF or FL was raised (R46). -/
def Flight.final (fl : Flight) : Nat :=
  if fl.status = stDone ∧ fl.allFlags &&& (flNV ||| flOF ||| flFL) ≠ 0 then stDoneFlags else fl.status

/-- A status signals (R129). -/
def stSignals (st : Nat) : Bool := [stDone, stDoneFlags, stPoisoned, stDeadline, stVoided].contains st

/-- A status stops the stream (R129). -/
def stStops (st : Nat) : Bool := [stIllegal, stUncorr, stFault, stAsleep].contains st

/-- The additions of SYN.SIGNAL and SYN.STEP, applied with the header's signal (R125). -/
def State.synAdds (s : State) (p core : Nat) (d : List Byte) : State :=
  if hOpcode d = 0xA1 then
    (List.range 4).foldl (fun s i =>
      let t := fld d (16 + 8 * i) 2
      if t = 0xFFFF then s else s.tokAdd core t (fld d (20 + 8 * i) 4)) s
  else if hOpcode d = 0xA3 then s.markerAdd p (fld d 16 1) (fld d 20 4)
  else s

/-- The catalogue's class of the events of a descriptor's chapter: 0x1 numbers and curvature, 0x5 reduction and mapping, 0x6
solver, 0x7 update, 0xA taproot; 0 where the catalogue has none, as for SYN, CTL and plain DMA (R562). -/
def eventClass (op : Nat) : Nat :=
  match engineOf op with
  | .lattice => if op = 0x90 then 7 else 1
  | .vector | .gram => 1
  | .dma => if 0x60 ≤ op then 5 else if op = 0x44 ∨ op = 0x45 then 0xA else 0
  | .solver => 6
  | .sweep => 7
  | .none => 0

/-- The number of codes that the catalogue lists in a class, counted from 1 (R562). -/
def classCodes (c : Nat) : Nat :=
  if c = 1 then 5 else if c = 5 then 0xB else if c = 6 then 7 else if c = 7 then 8 else if c = 0xA then 7 else 0

/-- event_on_completion: an event record of the descriptor's class (R116). The catalogue lists no code for it, and the module
raises no code that the catalogue does not list (R562), so that the code is a free one of the class: DESIGN CHOICE, log entry 126. -/
def State.completionEvent (s : State) (p : Nat) (fl : Flight) : State × Flight :=
  let c := eventClass (hOpcode fl.bytes)
  if hEvent fl.bytes ∧ c ≠ 0 then
    let (x, s) := s.draw
    let code := c * 4096 + 1 + x % classCodes c
    (s.raise code p ⟨1, fl.core, hTag fl.bytes, 0, 0⟩, { fl with event := code })
  else (s, fl)

/-- A descriptor completes: record, flags, signal, stream (R121, R128, R129, R130). -/
def State.complete (s : State) (fl : Flight) : State :=
  let p := s.partOfFlight fl
  let s := (s.touch (domCore fl.core)).touch (engineDomain fl.core (engineOf (hOpcode fl.bytes)))
  let st := fl.final
  let op := hOpcode fl.bytes
  let (s, fl) := s.slvDone fl st
  let s := ((s.gatherDone fl).updDone fl).dropRequests fl
  let s := s.orFlags fl.core op fl.flags
  -- a solver-class descriptor that raised FL raises 0x1002 once (R47)
  let s := if fl.flags &&& flFL ≠ 0 then s.raise 0x1002 p ⟨1, fl.core, hTag fl.bytes, 0, widenEpoch (s.epoch p) (hEpoch fl.bytes)⟩ else s
  let fl := if fl.flags &&& flFL ≠ 0 then { fl with event := 0x1002 } else fl
  let (s, fl) := s.completionEvent p fl
  let s := if hRecord fl.bytes ∨ (st ≠ stDone ∧ st ≠ stDoneFlags) then
      s.writeCpl p fl.core fl.stream fl.n
        (cplBytes (hTag fl.bytes) st fl.allFlags op (phaseBit s fl.core fl.stream fl.n) fl.stream fl.event fl.startTick s.tick
          fl.detail)
    else s
  let s := if stSignals st then
      let s := if hSignalToken fl.bytes = 0xFFFF then s else s.tokAdd fl.core (hSignalToken fl.bytes) 1
      s.synAdds p fl.core fl.bytes
    else s
  let s := s.latDone fl st
  let s := s.withFlights (s.flights.filter fun f => ¬ (f.core = fl.core ∧ f.stream = fl.stream ∧ f.n = fl.n))
  let s := s.syncEngines fl.core op
  let s := if stStops st then s.stopStream fl.core fl.stream st
    else if op = 0xF1 ∧ st = stDone ∧ s.strState fl.core fl.stream = ssRunning then s.setStr fl.core fl.stream ssHalted
    else s
  s.afterComplete fl.core fl.stream


/-- The head of a stream is a descriptor of a reserved opcode: no engine takes it, and it completes ILLEGAL (R117). -/
def State.reservedHead (s : State) (core stream n : Nat) : Option Fetched :=
  (s.window core stream).find? fun f => f.n = n ∧ !opUsed (hOpcode f.bytes) ∧ s.ready core stream f

/-- A descriptor completes. One that is under way or waits for a condition goes on first, and completes where it comes to
its end. From SAVING on none completes until the partition is resumed or released (R348). -/
def descriptorComplete (core stream n : Nat) (s : State) : State :=
  match s.flight core stream n with
  | some fl =>
    if psStopping < s.preState (s.partOfFlight fl) then s else
    let s := match fl.phase with
      | .awaiting | .running _ => s.resume fl true
      | _ => s
    match s.flight core stream n with
    | some fl =>
      let s := if fl.phase = .done ∧ fl.due ∧ !fl.tail then s.resume { fl with tail := true } true else s
      match s.flight core stream n with
      | some fl => if fl.phase = .done then s.complete fl else s
      | none => s
    | none => s
  | none =>
    match s.reservedHead core stream n, s.partOf core with
    | some f, some p =>
      let s := s.issueFetched p core stream f 0 (fun _ _ => false) nothing
      match s.flight core stream n with
      | some fl => s.complete fl
      | none => s
    | _, _ => s

def execDescriptorComplete (core : Fin 64) (stream : Fin 3) (n : BitVec 32) (s : State) :
    Host.Outcome State Fault Refusal :=
  done (descriptorComplete core stream n.toNat s)

/-! ### The drain timeout (R131, R132) -/

/-- A sequential preload runs to its end whatever cuts it (R71), unless it waits at a fault (R344). -/
def uncut (fl : Flight) : Bool := isPreload fl.bytes && (match fl.phase with
    | .fault _ => false
    | _ => true)

/-- Cuts the descriptors of a list that have not come to their end. -/
def State.cut (s : State) (fs : List Flight) : State :=
  fs.foldl (fun s fl => if fl.phase = .done || uncut fl then s
    else (s.endFlight fl stCut).syncEngines fl.core (hOpcode fl.bytes)) s

/-- Cuts what remains of a stream that drains. -/
def State.cutStream (s : State) (k st : Nat) : State :=
  if s.strState k st = ssDraining then s.cut (s.inFlight k st) else s

/-- Cuts what remains of a solver unit that drains. -/
def State.cutSolver (s : State) (c : Nat) : State :=
  if s.fbit rf_slvCtl_enable c then s
  else s.cut (s.flights.filter fun f => clusterOf f.core = c && isSlv f.bytes)

/-- Ticks of a function's drain timeout (R131). -/
def State.drainLimit (s : State) : Func → Nat
  | .core k => us (s.fget rf_corDrainTimeout_timeoutUs k)
  | .stream k _ => us (s.fget rf_corDrainTimeout_timeoutUs k)
  | .solver c => us (s.fget rf_slvDrainTimeout_timeoutUs c)
  | .port n => us (s.fget rf_fabPortCtl_timeoutUs n)
  | .partition _ => ms 1

end Sys2Proof.Machine
end

