-- ==== Sys2Proof/Machine/Image.lean ====
section
/-! DEFINITION. The configuration NVM, its directory, images and profiles (R529 to R536). -/
namespace Sys2Proof.Machine

/-! ### The NVM (R529) -/

def State.nvmByte (s : State) (a : Nat) : Byte := smGet 0 s.tru.nvm a
def State.nvmRead (s : State) (a n : Nat) : List Byte := (List.range n).map fun i => s.nvmByte (a + i)
def State.nvmWrite (s : State) (a : Nat) (bs : List Byte) : State :=
  s.withTru { s.tru with nvm := bs.zipIdx.foldl (fun m (b, i) => smSet 0 m (a + i) b) s.tru.nvm }

-- Image kinds (R531).
def ikHeartwood : Nat := 1
def ikSapwood : Nat := 2
def ikProfile : Nat := 3

/-- Where a slot lies, and its size. -/
def slotBase (kind slot : Nat) : Nat :=
  if kind = ikHeartwood then 0x100000 + 0x200000 * slot
  else if kind = ikSapwood then 0x1000000 + 0x2000000 * slot
  else 0x600000 + 0x100000 * slot

def slotSize (kind : Nat) : Nat := if kind = ikHeartwood then 0x200000 else if kind = ikSapwood then 0x2000000 else 0x100000

/-! ### The directory (R530) -/

/-- The copy in force: the highest sequence among those whose CRC passes. -/
def State.dir (s : State) : Option Dir :=
  match s.tru.dirA, s.tru.dirB with
  | some a, some b => some (if a.seq < b.seq then b else a)
  | some a, none => some a
  | none, x => x

/-- A change goes to the other copy, with the sequence increased by one. -/
def State.setDir (s : State) (d : Dir) : State :=
  let d := { d with seq := w64 (d.seq + 1) }
  let toB : Bool := match s.tru.dirA, s.tru.dirB with
    | some a, some b => b.seq ≤ a.seq
    | some _, none => true
    | none, _ => false
  (s.withTru (if toB then { s.tru with dirB := some d } else { s.tru with dirA := some d }))

/-- The slots of a kind: active, pending and tries left. -/
def Dir.slots (d : Dir) (kind : Nat) : Nat × Option Nat × Nat :=
  if kind = ikHeartwood then (d.hwActive, d.hwPending, d.hwTries) else (d.swActive, d.swPending, d.swTries)

def Dir.setSlots (d : Dir) (kind : Nat) (x : Nat × Option Nat × Nat) : Dir :=
  if kind = ikHeartwood then { d with hwActive := x.1, hwPending := x.2.1, hwTries := x.2.2 }
  else { d with swActive := x.1, swPending := x.2.1, swTries := x.2.2 }

/-! ### Images (R531, R532) -/

def imSvn (h : List Byte) : Nat := fld h 8 4
def imLength (h : List Byte) : Nat := fld h 12 4

def State.fuseOf (s : State) (kind : Nat) : Nat :=
  if kind = ikHeartwood then s.tru.fuseHw else if kind = ikSapwood then s.tru.fuseSw else s.tru.fuseProf

/-- The digest of the key that must have signed an image. -/
def State.signerKey (s : State) (kind : Nat) (h : List Byte) : List Byte :=
  if kind = ikProfile then match s.tru.owners.getLast? with
    | some d => d
    | none => Config.uhlauxKey (fldB h 7 1 0)
  else Config.uhlauxKey (fldB h 7 1 0)

/-- Largest body of a kind. -/
def bodyMax (kind : Nat) : Nat := if kind = ikProfile then 1024 else slotSize kind - 512

/-- The verification of R532: 0 where the image passes, or the code of the event. -/
def State.verify (s : State) (kind : Nat) (h body : List Byte) : Nat :=
  let form := fld h 0 4 = 0x35414E4D && fld h 4 1 = kind && fld h 5 1 = 1
    && zeroBytes h 20 4 && zeroBytes h 221 3 && zeroBytes h 356 156
    && (kind = ikProfile || fld h 6 1 = 0)
    && imLength h ≤ bodyMax kind && (kind ≠ ikProfile || imLength h = 1024) && body.length = imLength h
  let expected := s.signerKey kind h
  if !form then 0xB001
  else if Config.sha512 (slice h 88 133) ≠ expected then 0xB001
  else if !Config.sigOk expected (Config.sha512 (slice h 0 224)) (slice h 224 132) then 0xB001
  else if Config.sha512 body ≠ slice h 24 64 then 0xB001
  else if imSvn h < s.fuseOf kind then 0xB003
  else 0

def State.imageHeader (s : State) (kind slot : Nat) : List Byte := s.nvmRead (slotBase kind slot) 512
def State.imageBody (s : State) (kind slot : Nat) : List Byte :=
  s.nvmRead (slotBase kind slot + 512) (min (imLength (s.imageHeader kind slot)) (bodyMax kind))

/-- Verifies the image in a slot. -/
def State.verifySlot (s : State) (kind slot : Nat) : Nat :=
  s.verify kind (s.imageHeader kind slot) (s.imageBody kind slot)

/-- An event about an image: kind, slot and svn (R546, R555). -/
def State.imageEvent (s : State) (code kind slot : Nat) : State :=
  s.raiseMod code ⟨0, 0, 0, kind + (slot <<< 8), imSvn (s.imageHeader kind slot)⟩

/-! ### Profiles (R535, R536) -/

/-- The die that holds a partition's clusters (R333). -/
def dieOfPart (layout p : Nat) : Nat := if layout = 4 then p else if layout = 16 then p / 4 else 0

def profUnits (b : List Byte) (p : Nat) : Nat := fld b (56 + 2 * p) 2
def profSectors (b : List Byte) (p : Nat) : Nat := fld b (88 + 4 * p) 4

/-- The body of a profile passes R536. -/
def profileOk (b : List Byte) : Bool :=
  let layout := fld b 1 1
  let units := fun p => profUnits b p
  let raiseC := fld b 23 1
  let lowerC := fld b 24 1
  let limitC := fld b 25 1
  let target := fld b 20 2
  let ps := List.range 16
  fld b 0 1 ≤ 2 && (layout = 1 || layout = 4 || layout = 16) && fld b 2 1 ≤ 1 && fld b 3 1 ≤ 2 && zeroBytes b 4 4
    && 1000 ≤ fld b 8 2 && fld b 8 2 ≤ 3200 && fld b 10 2 ≤ fld b 8 2
    && fld b 12 2 < fld b 14 2 && fld b 17 1 ≤ 2
    && 1000 ≤ target && target ≤ 3000 && target % 50 = 0
    && 80 ≤ fld b 22 1 && fld b 22 1 ≤ 105 && 85 ≤ limitC && limitC ≤ 100
    && 65 ≤ raiseC && raiseC ≤ 99 && raiseC ≤ limitC && 60 ≤ lowerC && lowerC + 5 ≤ raiseC
    && zeroBytes b 27 1 && zeroBytes b 38 2
    && (ps.all fun n => let r := fld b (40 + n) 1; r ≤ 3 && (if n < 4 then r ≠ 3 else r ≠ 1 && r ≠ 2))
    && (ps.all fun p => p < layout || (units p = 0 && profSectors b p = 0))
    && (ps.map units).sum ≤ 768
    && (fld b 2 1 ≠ 0 || layout = 1 ||
      ((List.range 4).all fun d => ((ps.filter fun p => dieOfPart layout p = d).map units).sum ≤ 192))
    && (ps.map (profSectors b)).sum ≤ 3906250000
    && (fld b 168 2 ≤ 4094 || fld b 168 2 = 0xFFFF) && fld b 186 1 ≤ 128 && zeroBytes b 187 837
    && (fld b 3 1 ≠ 2 || fld b 0 1 = 2)

/-- The whole check of a profile image: R532 and R536. -/
def State.verifyProfile (s : State) (h body : List Byte) : Nat :=
  match s.verify ikProfile h body with
  | 0 => if profileOk body then 0 else 0xB002
  | c => c

end Sys2Proof.Machine
end

