-- ==== Sys2Proof/Machine/Trust.lean ====
section
/-! DEFINITION. Heartwood and sapwood (R537, R538), identity and attestation (R539 to R542), debug (R543), the mailbox (R544), and
the sideband's other protocols (R570 to R573). -/
namespace Sys2Proof.Machine

/-- The module's logic runs: power is good and RESET_N is high. -/
def State.powered (s : State) : Bool := s.pins.pwrGood && !s.pins.inReset
/-- Heartwood runs (R528). -/
def State.heartwood (s : State) : Bool := s.powered && !s.fbit rf_glbStatus_romRecovery
def State.inert (s : State) : Bool := s.fbit rf_glbStatus_inert

/-! ### The mailbox (R544) -/

-- Results of a request.
def mbOk : Nat := 0
def mbRefused : Nat := 1
def mbSignature : Nat := 2
def mbRollback : Nat := 3
def mbBad : Nat := 4
def mbNvm : Nat := 6

/-- The result for what R532 and R536 found. -/
def mbOf (code : Nat) : Nat :=
  if code = 0 then mbOk else if code = 0xB003 then mbRollback else if code = 0xB002 then mbRefused else mbSignature

/-- Offset of a channel's response buffer in the TRU block. -/
def respBase (ch : Nat) : Nat := 0x12000 + 0x4000 * ch

/-- A request completes: its response echoes the request number. -/
def State.mailboxAnswer (s : State) (ch req result : Nat) (body : List Byte) : State :=
  let resp := leBytes 8 req ++ List.replicate 56 0 ++ body
  let s := s.withTru { s.tru with
    bufs := resp.zipIdx.foldl (fun m (b, i) => smSet 0 m (respBase ch + i) b) s.tru.bufs }
  let s := ((s.fset rf_truChStatus_result ch 0 result).fset rf_truChStatus_respLength ch 0 resp.length).fset
    rf_truChStatus_done ch 0 1
  s.send (.mailbox ch result body)

/-- The channel's sender may make a request: sapwood on channel 0, the host on channel 1, which alone an INERT module
serves (R528). -/
def State.channelOpen (s : State) (ch : Nat) : Bool := s.heartwood && (ch = 1 || (s.sapwood && !s.inert))

/-- A request of a channel; `f` is its effect, with the result and the response. -/
def State.mailbox (s : State) (ch req : Nat) (f : State → Nat × List Byte × State) : State :=
  if s.channelOpen ch then
    let (r, body, s) := f s
    s.mailboxAnswer ch req r body
  else s

/-- A request that answers no more than its result. -/
def State.mailboxOf (s : State) (ch req : Nat) (f : State → Nat × State) : State :=
  s.mailbox ch req fun s => let (r, s) := f s; (r, [], s)

/-- The 64 bytes of a ledger entry (R510). -/
def ledgerBytes (e : LedgerEntry) : List Byte :=
  let b := leBytes 8 e.seq ++ leBytes 4 e.hours ++ leBytes 4 e.powerUps ++ leBytes 1 e.type ++ leBytes 1 e.unit
    ++ List.replicate 2 0 ++ slice e.body 0 40
  b ++ leBytes 4 (crc32c b)

def execLedgerRead (ch : Fin 2) (req first : BitVec 64) (count : BitVec 16) (s : State) : Host.Outcome State Fault Refusal :=
  done (s.mailbox ch req.toNat fun s =>
    if count.toNat = 0 ∨ 64 < count.toNat then (mbBad, [], s)
    else
      (mbOk, (s.ledger.filter fun e => first.toNat ≤ e.seq ∧ e.seq < first.toNat + count.toNat).flatMap ledgerBytes, s))

/-- Monitor summaries and thermal cycles: types 0x05 and 0x07. -/
def execLedgerAppend (req : BitVec 64) (type unit : BitVec 8) (body : List Byte) (s : State) :
    Host.Outcome State Fault Refusal :=
  done (s.mailboxOf 0 req.toNat fun s =>
    if 40 < body.length then (mbBad, s)
    else if type = 5 ∨ type = 7 then (mbOk, s.ledgerAdd type.toNat unit.toNat body)
    else (mbRefused, s))

def execPlanSubmit (req : BitVec 64) (plan : Plan) (s : State) : Host.Outcome State Fault Refusal :=
  done (s.mailboxOf 0 req.toNat fun s => (mbOk, s.applyPlan plan false))

/-- The slot of a kind that is not active. -/
def Dir.inactive (d : Dir) (kind : Nat) : Nat := 1 - min 1 (d.slots kind).1

/-- Part of an image is written to the inactive slot; `nvm` is whether the NVM took it. -/
def execImageWrite (req : BitVec 64) (kind : BitVec 8) (offset : BitVec 32) (bytes : List Byte) (nvm : Bool) (s : State) :
    Host.Outcome State Fault Refusal :=
  done (s.mailboxOf 1 req.toNat fun s =>
    let k := kind.toNat
    let o := offset.toNat
    if (k ≠ ikHeartwood ∧ k ≠ ikSapwood) ∨ o % 4096 ≠ 0 ∨ 4096 < bytes.length ∨ slotSize k < o + bytes.length then (mbBad, s)
    else match s.dir with
      | some d => if nvm then (mbOk, s.nvmWrite (slotBase k (d.inactive k) + o) bytes) else (mbNvm, s)
      | none => (mbNvm, s))

/-- The inactive slot is verified and set pending with three tries. -/
def execImageActivate (req : BitVec 64) (kind : BitVec 8) (nvm : Bool) (s : State) : Host.Outcome State Fault Refusal :=
  done (s.mailboxOf 1 req.toNat fun s =>
    let k := kind.toNat
    if k ≠ ikHeartwood ∧ k ≠ ikSapwood then (mbBad, s)
    else match s.dir with
      | some d =>
        let slot := d.inactive k
        match s.verifySlot k slot with
        | 0 => if nvm then (mbOk, s.setDir (d.setSlots k ((d.slots k).1, some slot, 3))) else (mbNvm, s)
        | c => (mbOf c, s.imageEvent c k slot)
      | none => (mbNvm, s))

/-- Fields of TRU_BOOT_STATUS for a kind: that the running image awaits IMAGE_CONFIRM, and its slot. -/
def pendingBit (kind : Nat) : RF :=
  if kind = ikHeartwood then rf_truBootStatus_heartwoodPending else rf_truBootStatus_sapwoodPending
def slotBit (kind : Nat) : RF :=
  if kind = ikHeartwood then rf_truBootStatus_heartwoodSlot else rf_truBootStatus_sapwoodSlot

/-- A pending slot that runs becomes active (R533). -/
def execImageConfirm (req : BitVec 64) (kind : BitVec 8) (nvm : Bool) (s : State) : Host.Outcome State Fault Refusal :=
  done (s.mailboxOf 1 req.toNat fun s =>
    let k := kind.toNat
    if k ≠ ikHeartwood ∧ k ≠ ikSapwood then (mbBad, s)
    else match s.dir with
      | some d =>
        if s.fbit (pendingBit k) ∧ (d.slots k).2.1 = some (s.fget (slotBit k)) then
          if nvm then
            (mbOk, (s.setDir (d.setSlots k (s.fget (slotBit k), none, 0))).fset (pendingBit k) 0 0 0)
          else (mbNvm, s)
        else (mbRefused, s)
      | none => (mbNvm, s))

/-- The svn of the active, confirmed image of a kind (R534). -/
def State.activeSvn (s : State) (kind : Nat) : Option Nat :=
  if kind = ikProfile then some (s.fget rf_glbProfile_svn)
  else s.dir.map fun d => imSvn (s.imageHeader kind (d.slots kind).1)

def State.setFuse (s : State) (kind v : Nat) : State :=
  if kind = ikHeartwood then
    (s.fset rf_truBootStatus_heartwoodFuse 0 0 v).withTru { s.tru with fuseHw := v }
  else if kind = ikSapwood then
    (s.fset rf_truBootStatus_sapwoodFuse 0 0 v).withTru { s.tru with fuseSw := v }
  else (s.fset rf_truBootStatus_profileFuse 0 0 v).withTru { s.tru with fuseProf := v }

/-- An anti-rollback counter rises, to at most the active image's svn. -/
def execVersionCommit (req : BitVec 64) (kind : BitVec 8) (svn : BitVec 32) (s : State) : Host.Outcome State Fault Refusal :=
  done (s.mailboxOf 1 req.toNat fun s =>
    let k := kind.toNat
    let v := svn.toNat
    if k = 0 ∨ 3 < k then (mbBad, s)
    else match s.activeSvn k with
      | some a =>
        if a < v ∨ v < s.fuseOf k ∨ (if k = ikProfile then 63 else 127) < v then (mbRefused, s)
        else if v = s.fuseOf k then (mbOk, s)
        else (mbOk, (s.setFuse k v).raiseMod 0xB009 ⟨0, 0, 0, 0x13, v⟩)
      | none => (mbNvm, s))

/-- A profile image is verified, and then written to a slot. -/
def execProfileWrite (req : BitVec 64) (slot : Fin 4) (image : List Byte) (nvm : Bool) (s : State) :
    Host.Outcome State Fault Refusal :=
  done (s.mailboxOf 1 req.toNat fun s =>
    if image.length ≠ 1536 then (mbBad, s)
    else match s.verifyProfile (slice image 0 512) (slice image 512 1024) with
      | 0 => if nvm then (mbOk, s.nvmWrite (slotBase ikProfile slot) image) else (mbNvm, s)
      | c => (mbOf c, s.raiseMod c ⟨0, 0, 0, ikProfile + (slot.val <<< 8), imSvn image⟩))

/-- The public DeviceID key (R540). -/
def deviceKey : List Byte := Config.publicKey Config.secret

/-- A part of the owner's certificate chain; the last one puts the chain in force where it certifies the DeviceID key. -/
def execIdentityWrite (req : BitVec 64) (bytes : List Byte) (last nvm : Bool) (s : State) :
    Host.Outcome State Fault Refusal :=
  done (s.mailboxOf 1 req.toNat fun s =>
    let all := s.tru.chainNew ++ bytes
    if 4096 < bytes.length ∨ 0x100000 < all.length then (mbBad, s)
    else if ¬ nvm then (mbNvm, s)
    else if ¬ last then (mbOk, (s.withTru { s.tru with chainNew := all }))
    else
      let s := s.withTru { s.tru with chainNew := [] }
      if Config.chainKey all = deviceKey then (mbOk, (s.withTru { s.tru with chain := all })) else (mbRefused, s))

/-! ### Debug (R543) -/

/-- A fresh nonce replaces the old one. -/
def execDebugChallenge (req : BitVec 64) (s : State) : Host.Outcome State Fault Refusal :=
  done (s.mailbox 1 req.toNat fun s =>
    let (n, s) := s.drawBytes 32
    (mbOk, n, (s.withTru { s.tru with nonce := some (n, s.tick) })))

/-- 60 s. -/
def nonceTicks : Nat := ms 60000

def execNonceExpire (s : State) : Host.Outcome State Fault Refusal :=
  done (match s.tru.nonce with
    | some (_, t) => if s.since t nonceTicks then (s.withTru { s.tru with nonce := none }) else s
    | none => s)

/-- The serial number of the DeviceID certificate, as a token holds it. -/
def serial16 : List Byte := (List.range 16).map Config.serial

/-- A debug token is valid (R543). -/
def State.tokenOk (s : State) (token : List Byte) : Bool :=
  token.length = 196
    && (match s.tru.nonce with
      | some (n, t) => slice token 0 32 = n && !s.since t nonceTicks
      | none => false)
    && slice token 32 16 = serial16 && fldB token 48 7 3 = 0 && zeroBytes token 49 15
    && match s.tru.owners.getLast? with
      | some d => Config.sigOk d (Config.sha512 (slice token 0 64)) (slice token 64 132)
      | none => false

def execDebugUnlock (req : BitVec 64) (token : List Byte) (s : State) : Host.Outcome State Fault Refusal :=
  done (s.mailboxOf 1 req.toNat fun s =>
    if s.fget rf_glbProfile_debugPolicy ≠ 1 then (mbRefused, s)
    else if s.tokenOk token then
      let s := s.withTru { s.tru with scope := s.tru.scope ||| fldB token 48 2 0 }
      (mbOk, (s.fset rf_truBootStatus_debugUnlocked 0 0 1).raiseMod 0xB005 ⟨0, 0, 0, 0x21, 0⟩)
    else (mbSignature, s))

/-! ### Ownership (R539) -/

def execOwnerClaim (req : BitVec 64) (digest auth : List Byte) (s : State) : Host.Outcome State Fault Refusal :=
  done (s.mailboxOf 1 req.toNat fun s =>
    if digest.length ≠ 64 then (mbBad, s)
    else if 4 ≤ s.tru.owners.length then (mbRefused, s)
    else
      let allowed : Bool := match s.tru.owners.getLast? with
        | some d => Config.sigOk d (Config.sha512 (serial16 ++ digest)) auth
        | none => true
      if allowed then
        let s := s.withTru { s.tru with owners := s.tru.owners ++ [digest] }
        let s := (s.fset rf_truBootStatus_ownerSlot 0 0 (s.tru.owners.length - 1)).fset rf_truBootStatus_ownerValid 0 0 1
        (mbOk, s.raiseMod 0xB009 ⟨0, 0, 0, 0x30, 0⟩)
      else (mbSignature, s))

/-- Codes of R544 on a channel. -/
def mbCode (ch code : Nat) : Bool :=
  code = 0x01 || (if ch = 0 then code = 0x02 || code = 0x03
    else (0x10 ≤ code && code ≤ 0x15) || code = 0x20 || code = 0x21 || code = 0x30)

/-- A request with a reserved code, or a length outside 64 to 8,192. -/
def execBadRequest (ch : Fin 2) (req : BitVec 64) (code : BitVec 8) (length : BitVec 14) (s : State) :
    Host.Outcome State Fault Refusal :=
  let bad : Bool := !mbCode ch code.toNat || length.toNat < 64 || 8192 < length.toNat
  done (if bad then s.mailboxOf ch req.toNat fun s => (mbBad, s) else s)

/-! ### Mask ROM recovery (R528) -/

/-- A heartwood image signed by Uhlaux, over the sideband: it goes into slot A, which the directory then names. -/
def execRecoveryImageWrite (image : List Byte) (s : State) : Host.Outcome State Fault Refusal :=
  done (if s.powered ∧ s.fbit rf_glbStatus_romRecovery then
      match s.verify ikHeartwood (slice image 0 512) (image.drop 512) with
      | 0 =>
        let s := s.nvmWrite (slotBase ikHeartwood 0) image
        s.setDir { s.dir.getD ⟨0, 0, none, 0, 0, none, 0⟩ with hwActive := 0, hwPending := none, hwTries := 0 }
      | c => s.raiseMod c ⟨0, 0, 0, ikHeartwood, imSvn image⟩
    else s)

/-! ### The watchdog (R436, R538) -/

/-- TRU_WDOG.kick written 1. -/
def wdogKick (s : State) : State := s.withTru { s.tru with kicked := s.tick }

def execWatchdogKick (s : State) : Host.Outcome State Fault Refusal := done (if s.sapwood then wdogKick s else s)

/-- Sapwood's restarts within the last 600 s. -/
def State.recentRestarts (s : State) : List Nat := s.tru.restarts.filter fun t => !s.since t (ms 600000)

/-- Heartwood restarts sapwood, or leaves it stopped; `intact` is that its code region has the measured digest. -/
def State.restartSapwood (s : State) (intact : Bool) : State :=
  let r := s.recentRestarts
  if intact ∧ r.length < 2 then
    (s.withTru { s.tru with restarts := r ++ [s.tick] }).fset rf_glbStatus_sapwoodRestarting 0 0 1
  else
    let s := s.withTru { s.tru with restarts := r }
    ((s.fset rf_glbStatus_sapwoodFailed 0 0 1).fset rf_truBootStatus_cause 0 0 6).raiseMod 0xB007

/-- Sapwood has been started and has not stopped. -/
def State.sapwoodRuns (s : State) : Bool := s.heartwood && !s.inert && s.sapwood

def execWatchdogExpire (intact : Bool) (s : State) : Host.Outcome State Fault Refusal :=
  done (if s.sapwoodRuns ∧ s.since s.tru.kicked (ms 500) then s.restartSapwood intact else s)

def execSapwoodControllerFault (intact : Bool) (s : State) : Host.Outcome State Fault Refusal :=
  done (if s.sapwoodRuns then s.restartSapwood intact else s)

/-- The restart completes: sapwood sends again every step message that is due (R436). -/
def execSapwoodRestarted (s : State) : Host.Outcome State Fault Refusal :=
  done (if s.fbit rf_glbStatus_sapwoodRestarting then
      let s := wdogKick (s.fset rf_glbStatus_sapwoodRestarting 0 0 0)
      let s := (s.withOut (s.out ++ s.mgmt.map (fun (m : MgmtMsg) => m.msg))).withMgmt (s.mgmt.map fun (m : MgmtMsg) => { m with sent := s.tick })
      s.raiseMod 0xC00A ⟨0, 0, 0, addrModule (s.here 0), 0⟩
    else s)

/-! ### Attestation (R540 to R542) -/

/-- Debug state and scope (R542). -/
def State.debugState (s : State) : List Byte :=
  leBytes 1 (s.fget rf_truBootStatus_debugUnlocked) ++ leBytes 1 s.tru.scope

/-- The alias key of R540. -/
def State.aliasKey (s : State) : List Byte :=
  let cdi0 := Config.hmac Config.secret (s.tru.hwDigest ++ leBytes 4 s.tru.hwSvn ++ s.debugState)
  let cdi1 := Config.hmac cdi0 (s.tru.swDigest ++ s.tru.profDigest ++ leBytes 1 (s.fget rf_glbProfile_slot)
    ++ leBytes 1 s.tru.owners.length)
  Config.publicKey cdi1

/-- The measurement blocks of R542: the raw values. -/
def State.measured (s : State) : Nat → List Byte
  | 1 => Config.romDigest
  | 2 => s.tru.hwDigest ++ leBytes 4 s.tru.hwSvn ++ leBytes 1 (s.fget rf_truBootStatus_heartwoodSlot)
  | 3 => s.tru.swDigest ++ leBytes 4 s.tru.swSvn ++ leBytes 1 (s.fget rf_truBootStatus_sapwoodSlot)
  | 4 => s.tru.profDigest ++ leBytes 1 (s.fget rf_glbProfile_slot)
  | 5 => leBytes 1 s.tru.fuseHw ++ leBytes 1 s.tru.fuseSw ++ leBytes 1 s.tru.fuseProf
      ++ leBytes 1 s.tru.owners.length ++ s.debugState
  | _ => []

/-- A block: the digest, with the raw values appended. -/
def State.measurement (s : State) (i : Nat) : Nat × List Byte := (i, Config.sha512 (s.measured i) ++ s.measured i)

/-- The certificate chain of a slot, none where none is stored (R541). -/
def State.certChain (s : State) (slot : Nat) : Option (List Byte) :=
  let cert := Config.aliasCert s.aliasKey ([1, 2, 3, 4, 5].flatMap s.measured)
  if slot = 0 then some (Config.deviceChain ++ cert)
  else if slot = 1 ∧ s.tru.chain ≠ [] then some (s.tru.chain ++ cert)
  else none

def viaNo : Via → Nat
  | .sideband => 0
  | .admin p => 1 + p

/-- The responder answers on a path: heartwood runs, and an INERT module has only the sideband (R528). -/
def State.spdmOpen (s : State) (v : Via) : Bool := s.heartwood && (v = .sideband || !s.inert)

def State.conn (s : State) (v : Via) : SpdmX := smGet .reset s.tru.spdm (viaNo v)
def State.setConn (s : State) (v : Via) (x : SpdmX) : State :=
  s.withTru { s.tru with spdm := smSet .reset s.tru.spdm (viaNo v) x }

/-- Answers an SPDM request: the error response where it is out of order. -/
def State.spdm (s : State) (v : Via) (ok : Bool) (r : SpdmResp) (x : SpdmX) : State :=
  if s.spdmOpen v then
    if ok then (s.setConn v x).send (.spdm v r) else s.send (.spdm v .error)
  else s

def execGetVersion (via : Via) (s : State) : Host.Outcome State Fault Refusal :=
  done (s.spdm via true (.version [0x12, 0x13]) { SpdmX.reset with version := true })

def execGetCapabilities (via : Via) (s : State) : Host.Outcome State Fault Refusal :=
  let x := s.conn via
  done (s.spdm via x.version .capabilities { x with capable := true })

/-- `common` is that the requester offers the algorithms of R541. -/
def execNegotiateAlgorithms (via : Via) (common : Bool) (s : State) : Host.Outcome State Fault Refusal :=
  let x := s.conn via
  done (s.spdm via (x.capable && common) .algorithms { x with agreed := true })

def execGetDigests (via : Via) (s : State) : Host.Outcome State Fault Refusal :=
  let x := s.conn via
  done (s.spdm via x.agreed (.digests ([0, 1].filterMap fun k => (s.certChain k).map Config.sha512)) x)

def execGetCertificate (via : Via) (slot : BitVec 4) (offset length : BitVec 16) (s : State) :
    Host.Outcome State Fault Refusal :=
  let x := s.conn via
  done (match s.certChain slot.toNat with
    | some c => s.spdm via x.agreed
        (.certificate slot.toNat offset.toNat ((c.drop offset.toNat).take length.toNat)) x
    | none => s.spdm via false .error x)

def execChallenge (via : Via) (slot : BitVec 4) (s : State) : Host.Outcome State Fault Refusal :=
  let x := s.conn via
  done (s.spdm via (x.agreed && (s.certChain slot.toNat).isSome) (.challengeAuth slot.toNat s.aliasKey) x)

/-- Index 1 to 5 asks for one block, 0xFF for all. -/
def execGetMeasurements (via : Via) (index : BitVec 8) (s : State) : Host.Outcome State Fault Refusal :=
  let x := s.conn via
  let i := index.toNat
  let blocks := if i = 0xFF then [1, 2, 3, 4, 5] else if i ≤ 5 ∧ i ≠ 0 then [i] else []
  done (s.spdm via (x.agreed && (i = 0 || !blocks.isEmpty)) (.measurements (blocks.map s.measurement)) x)

def execKeyExchange (via : Via) (slot : BitVec 4) (s : State) : Host.Outcome State Fault Refusal :=
  let x := s.conn via
  let ok := x.agreed && (s.certChain slot.toNat).isSome
  let id := s.tru.nextSession
  let s1 := if ok && s.spdmOpen via then (s.withTru { s.tru with nextSession := (id + 1) % 65536 }) else s
  done (s1.spdm via ok (.keyExchange id) { x with session := some (id, false, 0) })

/-- `ok` is that the requester's MAC verifies. -/
def execFinish (via : Via) (session : BitVec 16) (ok : Bool) (s : State) : Host.Outcome State Fault Refusal :=
  let x := s.conn via
  let k := session.toNat
  done (s.spdm via (ok && x.session = some (k, false, 0)) (.finished k) { x with session := some (k, true, 0) })

/-- A session whose handshake has finished: its key generation. -/
def SpdmX.live (x : SpdmX) (session : Nat) : Option Nat :=
  match x.session with
  | some (k, true, g) => if k = session then some g else none
  | _ => none

def execHeartbeat (via : Via) (session : BitVec 16) (s : State) : Host.Outcome State Fault Refusal :=
  let x := s.conn via
  done (s.spdm via (x.live session.toNat).isSome (.heartbeat session.toNat) x)

def execKeyUpdate (via : Via) (session : BitVec 16) (s : State) : Host.Outcome State Fault Refusal :=
  let x := s.conn via
  let k := session.toNat
  done (match x.live k with
    | some g => s.spdm via true (.keyUpdate k) { x with session := some (k, true, g + 1) }
    | none => s.spdm via false .error x)

def execEndSession (via : Via) (session : BitVec 16) (s : State) : Host.Outcome State Fault Refusal :=
  let x := s.conn via
  done (s.spdm via (x.live session.toNat).isSome (.endSession session.toNat) { x with session := none })

/-! ### The sideband (R570, R571) -/

/-- Dynamic address assignment: the target sends its provisioned ID, whose low 6 bits are SLOT_ID. -/
def execEntdaa (address : BitVec 7) (s : State) : Host.Outcome State Fault Refusal :=
  done (if s.pins.pwrGood ∧ s.pins.address.isNone then
      (s.withPins { s.pins with address := some address.toNat }).send (.provisioned s.pins.slot)
    else s)

/-- MCTP message types that the sideband carries (R570). -/
def mctpTypes : List Nat := [0x00, 0x01, 0x05, 0x06, 0x7F]

/-- An MCTP control request (PRESUMED from the MCTP base specification: 1 sets and 2 gets the endpoint ID, 5 lists the
message types; a completion code goes first). -/
def execMctpControl (command eid : BitVec 8) (s : State) : Host.Outcome State Fault Refusal :=
  let c := command.toNat
  let answer (s : State) (bs : List Nat) : State := s.send (.mctp c (bs.map (BitVec.ofNat 8)))
  done (if ¬ s.pins.pwrGood then s
    else if c = 1 then
      if eid = 0 ∨ eid = 0xFF then answer s [2]
      else answer (s.withPins { s.pins with endpoint := some eid.toNat }) [0, 0, eid.toNat, 0]
    else if c = 2 then answer s [0, s.pins.endpoint.getD 0, 0, 0]
    else if c = 5 then answer s ([0, mctpTypes.length] ++ mctpTypes)
    else answer s [5])

/-- The sensors of R571 by number: reading, warning and critical. Sensors that no other command reads come with the
command. -/
def State.sensor (s : State) (n measured : Nat) : Nat × Bool × Bool :=
  let dv := s.fget rf_pwrModuleStatus_inputDv
  let w := s.fget rf_pwrModuleStatus_inputW
  if n = 0 then (dv, dv < 610 ∨ 790 < dv, dv < 600 ∨ 800 < dv)
  else if n = 1 then (100 * w / dv, 500 < 100 * w / dv, 533 < 100 * w / dv)
  else if n = 2 then (w, s.fget rf_pwrLimit_capW < w, 3200 < w)
  else if n ≤ 6 then let t := (s.die (n - 3)).temp; (t, s.prof 22 1 ≤ t, 110 ≤ t)
  else if n = 7 then (measured, 95 ≤ measured, 110 ≤ measured)
  else if n ≤ 19 then
    let t := s.fget rf_hbmStackStatus_tempC (n - 8)
    (t, s.fget rf_hbmRefreshCtl_tempRaiseC (n - 8) ≤ t, s.fget rf_hbmRefreshCtl_tempLimitC (n - 8) ≤ t)
  else if n = 20 then (measured, 70 ≤ measured, 80 ≤ measured)
  else if n = 21 then (measured, 40 < measured, 45 < measured)
  else (measured, false, false)

/-- A reading of a numeric sensor, or in mask ROM recovery and INERT also sensor 23: the boot status (R528). -/
def execPldmMonitoring (sensor : Fin 24) (measured : BitVec 16) (s : State) : Host.Outcome State Fault Refusal :=
  done (if ¬ s.powered then s
    else if sensor.val = 23 then s.send (.pldm 2 (leBytes 8 (s.reg .truBootStatus).toNat))
    else if s.heartwood then
      let (v, w, c) := s.sensor sensor measured.toNat
      s.send (.pldm 2 (leBytes 2 v ++ leBytes 1 (if c then 2 else b2n w)))
    else s)

/-- Part NA5-768, stepping A1, serial number, SLOT_ID and the active profile slot (R571). -/
def State.fru (s : State) : List Byte :=
  leBytes 2 0x0A57 ++ leBytes 1 0xA1 ++ serial16 ++ leBytes 1 s.pins.slot ++ leBytes 1 (s.fget rf_glbProfile_slot)

def execPldmFruData (s : State) : Host.Outcome State Fault Refusal :=
  done (if s.heartwood then s.send (.pldm 4 s.fru) else s)

/-! ### The test port (R573) -/

/-- The scope of an instruction is open: unlocked, or under policy 2 (R543). -/
def State.scopeOpen (s : State) (scope : Nat) : Bool := bit s.tru.scope scope || s.fget rf_glbProfile_debugPolicy = 2

/-- An instruction of the test port and what it shifts out. What an instruction beyond BYPASS and IDCODE shifts out is not
stated; outside its scope it is not available, and the port bypasses. -/
def execTestPortInstruction (op : TapInstr) (s : State) : Host.Outcome State Fault Refusal :=
  done (if ¬ s.pins.pwrGood then s
    else match op with
      | .bypass => s.send (.testOut 0 1)
      | .idcode => s.send (.testOut ((1 <<< 28) + (0x0A57 <<< 12) + (Config.jedec.toNat <<< 1) + 1) 32)
      | .scoped scope _ =>
        if s.heartwood ∧ s.scopeOpen scope then
          let (x, s) := s.draw
          s.send (.testOut x 64)
        else s.send (.testOut 0 1))

end Sys2Proof.Machine
end

