-- ==== Sys2Proof/Machine/Boot.lean ====
section
/-! DEFINITION. Power and reset (R563 to R569, R576), cold boot and warm restart (R525 to R533), and the carving of partitions
(R333, R463). -/
namespace Sys2Proof.Machine

/-! ### What a reset keeps -/

/-- Registers of the fabric and the ports, which a warm restart from GLB_RESTART keeps (R526); their counters start again
(R421). -/
def isFabReg : RegName → Bool
  | .fabPortCtl | .fabPortStatus | .fabCoord | .fabRouteCtl | .fabDetour | .fabHostCtl | .fabShape | .fabRkeyBase => true
  | _ => false

/-- The module with everything reset but what lies in flash, fuses and NVM, the pins and the tick; `keep` names the
registers kept, and `fabric` that the fabric and the ports go on. -/
def State.restart (s : State) (fabric : Bool) (keep : RegName → Bool) : State :=
  { State.reset with
    pending := s.pending, tick := s.tick, free := s.free, out := s.out, pins := s.pins
    regs := s.regs.filter fun (k, _) => keep k.reg || (fabric && isFabReg k.reg)
    -- sequence numbers go on from one past the newest archived record (R559)
    evt := { EvtX.reset with
      archive := s.evt.archive
      seq := match s.evt.archive.getLast? with
        | some r => w32 (r.seq + 1)
        | none => 0 }
    hbm := { HbmX.reset with cand := s.hbm.cand, soft := s.hbm.soft, hard := s.hbm.hard }
    ledger := s.ledger, ledgerSeq := s.ledgerSeq, powerUps := s.powerUps
    flash := { s.flash with waitSince := none }
    fab := if fabric then s.fab else { FabX.reset with taken := s.out.length }
    age := { AgeX.reset with
      v := s.age.v, repairs := s.age.repairs, offsets := s.age.offsets, serdes := s.age.serdes
      low := s.age.low, cycles := s.age.cycles, dead := s.age.dead, planTick := s.age.planTick, hourTick := s.age.hourTick }
    tru := { TruX.reset with
      nvm := s.tru.nvm, dirA := s.tru.dirA, dirB := s.tru.dirB, fuseHw := s.tru.fuseHw, fuseSw := s.tru.fuseSw
      fuseProf := s.tru.fuseProf, owners := s.tru.owners, chain := s.tru.chain } }

/-- Run hours survive: they are counted since manufacture (R510, R523). -/
def keepHours (r : RegName) : Bool := r = .ageStatus

/-- AGE_STATUS keeps its run hours alone. -/
def State.hoursOnly (s : State) : State :=
  ((s.fset rf_ageStatus_planSeq 0 0 0).fset rf_ageStatus_deficit 0 0 0).fset rf_ageStatus_planning 0 0 0

/-! ### Power and RESET_N (R563, R564, R569, R576) -/

/-- RESET_N low resets every part but the hot-swap controller and the tick. -/
def State.resetAll (s : State) : State :=
  let s := (s.restart false keepHours).hoursOnly
  (s.withPins { s.pins with inReset := true, address := none, endpoint := none, ibis := 0 })

/-- Every rail is removed: the tick starts again at the next power-up (R504), so what counts by it does too. -/
def State.powerLoss (s : State) : State :=
  let s := s.resetAll
  ((((s.withTick 0).withPins { s.pins with pwrGood := false }).withFlash { s.flash with
      accrued := 0, aged := 0, passStart := 0, retired := s.flash.retired.map fun (_, b) => (0, b) }).withAge { s.age with planTick := 0, hourTick := 0 })

/-- PWR_EN rises: the input charges, and with the input in range PWR_GOOD is released. -/
def execPwrEnRise (s : State) : Host.Outcome State Fault Refusal :=
  done (if s.pins.pwrEn then s
    else if s.pins.input ∧ ¬ s.pins.trip then
      (s.withPowerUps (w32 (s.powerUps + 1))).withPins { s.pins with pwrEn := true, pwrGood := true }
    else (s.withPins { s.pins with pwrEn := true }))

/-- PWR_EN falls, which alone clears the thermal trip latch. -/
def execPwrEnFall (s : State) : Host.Outcome State Fault Refusal :=
  let s := if s.pins.pwrGood then s.powerLoss else s
  done (s.withPins { s.pins with pwrEn := false, trip := false })

/-- RESET_N falls while PWR_GOOD is released; a warm restart under way is abandoned. -/
def execResetAssert (s : State) : Host.Outcome State Fault Refusal :=
  done (if s.pins.pwrGood then s.resetAll else s)

/-- The input stays below 55 V for 100 µs. -/
def execInputUndervoltage (s : State) : Host.Outcome State Fault Refusal :=
  let s := if s.pins.pwrGood then s.powerLoss else s
  done (s.withPins { s.pins with input := false })

/-- The input is at or above 58 V; power is applied through PWR_EN (R568). -/
def execInputInRange (s : State) : Host.Outcome State Fault Refusal :=
  done (s.withPins { s.pins with input := true })

/-- A hardware sensor reads its trip temperature: compute dies 0 to 3, the hub die 4, stacks from 5 on (R576). -/
def execThermalTrip (sensor : Fin 17) (temp : BitVec 8) (s : State) : Host.Outcome State Fault Refusal :=
  let limit := if sensor.val ≤ 4 then 115 else 105
  done (if s.pins.pwrGood ∧ limit ≤ temp.toNat then
      let s := s.powerLoss
      (s.withPins { s.pins with trip := true, tripped := some sensor })
    else s)

/-! ### Profile values of registers (R535) -/

/-- Profile values of a stack's registers. -/
def State.stackProfile (s : State) (st : Nat) : State :=
  ((s.fset rf_hbmRefreshCtl_tempLimitC st 0 (s.prof 25 1)).fset rf_hbmRefreshCtl_tempLowerC st 0 (s.prof 24 1)).fset
    rf_hbmRefreshCtl_tempRaiseC st 0 (s.prof 23 1)

/-- Profile values of a port's register (R393): unused, host, or one of the six directions. -/
def State.portProfile (s : State) (n : Nat) : State :=
  let role := s.prof (40 + n) 1
  s.fset rf_fabPortCtl_direction n 0 (if role = 0 then 0xE else if n < 4 then 0xF else (n - 4) / 2)

/-- A port that its profile uses trains (R396, R527). -/
def State.portStart (s : State) (n : Nat) : State :=
  let s := s.portProfile n
  if s.prof (40 + n) 1 = 0 then s else portEnable n s

/-- Profile and boot values of the taproot's registers (R473, R474, R481): below the reserve floor the allowance is a
quarter. -/
def State.tapProfile (s : State) : State :=
  let floor := s.prof 36 2
  let s := s.fset rf_tapEndurance_peFloor 0 0 (if floor = 0 then 2850 else floor)
  let below : Bool := s.fget rf_tapEndurance_peFloor ≤ s.flash.peSum / max 1 s.flash.good
  let daily := s.prof 32 4
  let s := s.fset rf_tapAllowance_dailyGb 0 0 (if below then daily / 4 else daily)
  let s := (s.fset rf_tapStatus_belowFloor 0 0 (b2n below)).fset rf_tapStatus_readOnly 0 0 (b2n !s.flash.full)
  s.syncStore

/-- Profile values of the other registers. -/
def State.glbProfile (s : State) (slot : Nat) (fromNext : Bool) (pins : Nat) (svn : Nat) : State :=
  let s := s.setReg .glbProfile 0 0 (BitVec.ofNat 64
    (((svn % 64) <<< 32) + (s.prof 2 1 <<< 24) + (s.prof 1 1 <<< 16) + (b2n fromNext <<< 8) + (s.prof 3 1 <<< 6)
      + (pins <<< 4) + (s.prof 0 1 <<< 2) + slot))
  let s := s.fset rf_hbmGlbCtl_interleave 0 0 (s.prof 2 1)
  let s := (s.fset rf_grvRole_role 0 0 (s.prof 0 1)).fset rf_grvMgrCtl_stepTimeoutMs 0 0 (s.prof 28 4)
  let s := s.fset rf_pwrLimit_capW 0 0 (s.prof 10 2)
  let s := (s.fset rf_pwrVwindow_vminMv 0 0 (s.prof 12 2)).fset rf_pwrVwindow_vmaxMv 0 0 (s.prof 14 2)
  (List.range 4).foldl (fun s d => s.fset rf_pwrDieTarget_targetMhz d 0 (s.prof 20 2)) s

/-! ### The start (R527, R528, R533) -/

def State.updSlots (s : State) (kind : Nat) (x : Nat × Option Nat × Nat) : State :=
  match s.dir with
  | some d => s.setDir (d.setSlots kind x)
  | none => s

/-- Chooses a kind's slot (R533): the slot, whether it is the pending one, and what failed where none boots: an event's code,
or 5 where no directory copy is readable. -/
def State.bootSlot (s : State) (kind : Nat) : Option (Nat × Bool) × Nat × State :=
  match s.dir with
  | none => (none, 5, s)
  | some d =>
    let (act, pend, tries) := d.slots kind
    let active (s : State) : Option (Nat × Bool) × Nat × State :=
      match s.verifySlot kind act with
      | 0 => (some (act, false), 0, s)
      | c => (none, c, s.imageEvent c kind act)
    match pend with
    | none => active s
    | some p =>
      let revert (s : State) : State := (s.updSlots kind (act, none, 0)).imageEvent 0xB006 kind p
      if tries = 0 then active (revert s)
      else
        let s := s.updSlots kind (act, some p, tries - 1)
        match s.verifySlot kind p with
        | 0 => (some (p, true), 0, s)
        | c => active (revert (s.imageEvent c kind p))

/-- The cause that TRU_BOOT_STATUS shows for a failure of a kind (R545). -/
def causeOf (kind code : Nat) : Nat := if code = 5 then 5 else if code = 0xB003 then 4 else kind

/-- Heartwood holds the module INERT (R528). -/
def State.goInert (s : State) (kind cause : Nat) : State :=
  let s := (s.fset rf_glbStatus_inert 0 0 1).fset rf_truBootStatus_inert 0 0 1
  (s.fset rf_truBootStatus_cause 0 0 cause).raiseMod 0xB00A ⟨0, 0, 0, kind, 0⟩

/-- The fuses, and the running heartwood image, as TRU_BOOT_STATUS shows them (R545). -/
def State.showFuses (s : State) : State :=
  let s := (s.fset rf_truBootStatus_heartwoodFuse 0 0 s.tru.fuseHw).fset rf_truBootStatus_sapwoodFuse 0 0 s.tru.fuseSw
  let s := s.fset rf_truBootStatus_profileFuse 0 0 s.tru.fuseProf
  (s.fset rf_truBootStatus_ownerSlot 0 0 (s.tru.owners.length - 1)).fset rf_truBootStatus_ownerValid 0 0
    (b2n !s.tru.owners.isEmpty)

/-- A stack is trained (R382); its data are clear, and it serves from now. -/
def State.train (s : State) (st : Nat) (t : Train) : State :=
  let s := (List.range t.lanes).foldl (fun s _ => (s.count .hbmCount st 6).raiseMod 0x3006 ⟨4, st, 0, 0, 0⟩) s
  let s := (List.range t.degraded).foldl (fun s _ => s.raiseMod 0x3008 ⟨4, st, 0, 0, 0⟩) s
  let s := s.fset rf_hbmStackStatus_degradedChannels st 0 t.degraded
  (s.fset rf_hbmStackStatus_trained st 0 (b2n t.ok)).fset rf_hbmStackStatus_ready st 0 (b2n t.ok)

/-- Ledger entries whose CRC fails are skipped: 0x9006, and a repair among them is not applied (R510). -/
def State.readLedger (s : State) (bad : List Nat) : State :=
  (s.ledger.filter fun e => bad.contains e.seq).foldl (fun s e =>
    let s := s.withHbm { s.hbm with
      soft := s.hbm.soft.filter fun r => ¬ (e.type = 2 ∧ leBytes 8 (rowWord r) = slice e.body 0 8) }
    s.raiseMod 0x9006 ⟨0, 0, 0, 0, 0⟩) s

/-- What the monitors show, by die and point. -/
def State.survey (s : State) (v : Survey) : State :=
  let crit := v.crit.zipIdx.foldl (fun m (xs, d) => xs.zipIdx.foldl (fun m (x, i) => smSet 0 m (64 * d + i) x) m) []
  let sram := v.sram.zipIdx.foldl (fun m (x, d) => smSet 0 m d x) []
  let s := s.withAge { s.age with crit := crit, sram := sram }
  (List.range 4).foldl (fun s d =>
    (s.fset rf_ageDieMargin_critMv d 0 (smGet 0 crit (64 * d))).fset rf_ageDieMargin_sramMv d 0 (smGet 0 sram d)) s

/-- A self-test ends (R522): its event and its ledger entry, whose body the spec does not lay out. -/
def State.testEnds (s : State) (code target : Nat) (pass : Bool) : State :=
  let (body, s) := s.drawBytes 40
  let s := (s.ledgerAdd 6 (testSource code target).2 body).count .ageCount 0 0
  let s := (s.fset rf_ageTestStatus_lastTest 0 0 code).fset rf_ageTestStatus_lastFailed 0 0 (b2n !pass)
  s.testEvent (if pass then 0x9005 else 0x9004) code target

/-- A core's streams or a cluster's solver unit stay disabled until the next cold boot (R522). -/
def State.kill (s : State) (f : Func) : State :=
  s.withAge { s.age with dead := if s.age.dead.contains f then s.age.dead else s.age.dead ++ [f] }

/-- The core logic self-tests and DSU checks of a start. -/
def State.selfTests (s : State) (v : Survey) : State :=
  let s := (List.finRange 64).foldl (fun s k =>
    let bad := v.badCores.contains k
    let s := s.testEnds 0x10 k !bad
    if bad then s.kill (.core k) else s) s
  (List.finRange 16).foldl (fun s c =>
    let bad := v.badClusters.contains c
    let s := s.testEnds 0x12 c !bad
    if bad then s.kill (.solver c) else s) s

/-- Everything between the verified images and the carving (R527): regulators, HBM, the taproot, the monitors, the plan and
the self-tests. -/
def State.bringUp (s : State) (warm : Bool) (trains : List Train) (v : Survey) (plan : Plan) : State :=
  let vmax := s.prof 14 2
  let s := (List.range 4).foldl (fun (s : State) d =>
    let s := (s.fset rf_clkDieStatus_freqMhz d 0 1000).fset rf_clkDieStatus_pllLock d 0 1
    (s.fset (avsVout d) 0 0 vmax).setDie d { DieX.reset with goalV := vmax, oldV := vmax }) s
  let s := s.setReg .clkPllStatus 0 0 (BitVec.ofNat 64 (2 ^ 39 - 1))
  let s := s.readLedger v.badEntries
  let s := (List.range 12).foldl (fun s st => s.stackProfile st) s
  let s := s.withHbm { s.hbm with scrubStart := s.tick, refillTick := s.tick }
  let s := trains.zipIdx.foldl (fun s (t, st) => if st < 12 then s.train st t else s) s
  let s := s.tapProfile.fset rf_tapStatus_ready 0 0 1
  let s := if warm then s else s.withFlash { s.flash with passStart := s.tick, scanned := [] }
  let s := ((s.survey v).applyPlan plan true).selfTests v
  (s.withTru { s.tru with starting := true })

/-- A start from mask ROM on: `slot` is the profile slot. It ends in mask ROM recovery, INERT, or on its way to ready. -/
def State.start (s : State) (warm : Bool) (slot : Nat) (fromNext : Bool) (pins : Nat) (trains : List Train)
    (v : Survey) (plan : Plan) : State :=
  let s := (s.fset rf_glbStatus_warm 0 0 (b2n warm)).fset rf_glbId_enterprise 0 0 Config.enterprise.toNat
  let s := s.showFuses
  match s.bootSlot ikHeartwood with
  | (none, code, s) =>
    (s.fset rf_glbStatus_romRecovery 0 0 1).fset rf_truBootStatus_cause 0 0 (causeOf ikHeartwood code)
  | (some (hw, hwPend), _, s) =>
    let h := s.imageHeader ikHeartwood hw
    let s := s.withTru { s.tru with hwDigest := slice h 24 64, hwSvn := imSvn h }
    let s := (s.fset rf_truBootStatus_heartwoodSlot 0 0 hw).fset rf_truBootStatus_heartwoodPending 0 0 (b2n hwPend)
    let s := s.fset rf_truBootStatus_stage 0 0 2
    let ph := s.imageHeader ikProfile slot
    match s.verifyProfile ph (s.imageBody ikProfile slot) with
    | 0 =>
      let s := s.withTru { s.tru with profile := s.imageBody ikProfile slot, profDigest := slice ph 24 64 }
      match s.bootSlot ikSapwood with
      | (none, code, s) => s.goInert ikSapwood (causeOf ikSapwood code)
      | (some (sw, swPend), _, s) =>
        let h := s.imageHeader ikSapwood sw
        let s := s.withTru { s.tru with swDigest := slice h 24 64, swSvn := imSvn h, kicked := s.tick }
        let s := (s.fset rf_truBootStatus_sapwoodSlot 0 0 sw).fset rf_truBootStatus_sapwoodPending 0 0 (b2n swPend)
        let s := s.glbProfile slot fromNext pins (imSvn ph)
        -- policy 2 leaves debug open from boot (R543)
        let s := if s.prof 3 1 = 2 then
            (s.fset rf_truBootStatus_debugUnlocked 0 0 1).withTru { s.tru with scope := 7 }
          else s
        (s.bringUp warm trains v plan).fset rf_truBootStatus_stage 0 0 (if warm then 7 else 5)
    | c => (s.imageEvent c ikProfile slot).goInert ikProfile (causeOf ikProfile c)

/-- Heartwood names the sensor of a thermal trip in the ledger at the next power-up (R576); the entry's body is not laid
out. -/
def State.noteTrip (s : State) : State :=
  match s.pins.tripped, s.heartwood with
  | some k, true =>
    let (body, s) := s.drawBytes 40
    ((s.ledgerAdd 5 k body).withPins { s.pins with tripped := none })
  | _, _ => s

/-- The effective release of RESET_N (R525, R568): the pins are sampled and the module boots. -/
def execColdBoot (profsel : Fin 4) (slotId : BitVec 6) (trains : List Train) (survey : Survey) (plan : Plan) (s : State) :
    Host.Outcome State Fault Refusal :=
  done (if s.pins.pwrGood ∧ s.pins.inReset then
      let s := s.resetAll
      let s := (s.withPins { s.pins with inReset := false, profsel := profsel, slot := slotId.toNat }).withAge { s.age with dead := [] }
      let s := (s.start false profsel false profsel trains survey plan).noteTrip
      -- the ports train in their own time
      if s.tru.starting then (List.range 16).foldl State.portStart s else s
    else s)

/-! ### The warm restart (R526) -/

/-- Every partition is disabled, its accumulates complete, and every other function is cut and completes. -/
def State.stopAll (s : State) : State :=
  let s := (List.finRange 16).foldl (fun s p => s.disable (.partition p)) s
  let s := s.cut s.flights
  s.flights.foldl (fun s fl => descriptorComplete fl.core fl.stream fl.n s) s

/-- A warm restart, by a GLB_RESTART write with its key or an exit from M3. -/
def State.warmRestart (s : State) (trains : List Train) (v : Survey) (plan : Plan) : State :=
  let fromM3 := s.tru.fromM3
  let next := s.fbit rf_glbProfileNext_valid
  let slot := if next then s.fget rf_glbProfileNext_slot else s.fget rf_glbProfile_slot
  let pins := s.pins.profsel
  let scan := s.fget rf_tapStatus_scanPending
  let s := s.stopAll.archiveAll
  let s := (s.restart (!fromM3) keepHours).hoursOnly
  let s := s.fset rf_tapStatus_scanPending 0 0 scan
  let s := s.start true slot next pins trains v plan
  if s.tru.starting ∧ fromM3 then (List.range 16).foldl State.portStart s else s

def execWarmRestart (key : BitVec 16) (trains : List Train) (survey : Survey) (plan : Plan) (s : State) :
    Host.Outcome State Fault Refusal :=
  done (if s.heartwood ∧ (key = 0x5A17#16 ∨ s.tru.asked) then s.warmRestart trains survey plan else s)

/-! ### Carving, and ready (R333, R463, R527) -/

/-- Clusters of a partition in a layout. -/
def carveClusters (layout p : Nat) : Nat :=
  if layout = 1 then (if p = 0 then 0xFFFF else 0)
  else if layout = 4 then (if p < 4 then 0xF <<< (4 * p) else 0)
  else 1 <<< p

/-- The first carve unit of a partition: units follow one another by partition, in die-local mode on the die of its clusters
(a choice of the model's). -/
def State.carveFirst (s : State) (p : Nat) : Nat :=
  let layout := s.prof 1 1
  let units := profUnits s.tru.profile
  if s.prof 2 1 = 0 ∧ layout ≠ 1 then
    let d := dieOfPart layout p
    192 * d + (((List.range p).filter fun q => dieOfPart layout q = d).map units).sum
  else ((List.range p).map units).sum

/-- Heartwood carves a partition: its fence, its namespace, and the size of its save area (R333, R353, R463). -/
def State.carve (s : State) (p : Nat) : State :=
  let clusters := carveClusters (s.prof 1 1) p
  let s := s.fset rf_prtFenceClusters_clusters p 0 clusters
  let first := s.carveFirst p
  let last := first + profUnits s.tru.profile p
  let s := (List.range 12).foldl (fun (s : State) i =>
    s.fset rf_prtFenceHbm_units p i
      (((List.range 64).map fun b => if first ≤ 64 * i + b ∧ 64 * i + b < last then 2 ^ b else 0).sum)) s
  let s := s.setReg .prtSaveSize p 0 (BitVec.ofNat 64 (4096 + 72957952 * (s.clustersOf p).length))
  let ns := profSectors s.tru.profile
  (s.fset rf_tapNs_first p 0 (((List.range p).map ns).sum)).fset rf_tapNs_count p 0 (ns p)

/-- The start reaches ready: partitions are carved, and sapwood serves them. -/
def execModuleReady (s : State) : Host.Outcome State Fault Refusal :=
  done (if s.tru.starting then
      let n := s.prof 1 1
      let s := (List.range n).foldl State.carve s
      let s := (s.fset rf_glbStatus_partitionsReady 0 0 (2 ^ n - 1)).fset rf_glbStatus_ready 0 0 1
      let s := s.fset rf_truBootStatus_stage 0 0 6
      let s := (s.withTru { s.tru with starting := false, kicked := s.tick }).withAge { s.age with planTick := s.tick }
      -- a module that kept its coordinates joins its grove again (R430)
      if s.fbit rf_fabCoord_valid then s.joinGrove else s
    else s)

end Sys2Proof.Machine
end

