-- ==== Sys2Proof/Machine/Domains.lean ====
section
/-! DEFINITION. Power domains (R485 to R492): requests, the phases of an entry, and module states. How a domain leaves a low
state is in Wake.lean. -/
namespace Sys2Proof.Machine

-- Phases (R491).
def phStable : Nat := 0
def phStopping : Nat := 1
def phDraining : Nat := 2
def phSaving : Nat := 3
def phIsolating : Nat := 4
def phExiting : Nat := 5

def State.setPhase (s : State) (d p : Nat) : State := s.fset rf_pwrDomainStatus_phase d 0 p

/-- Clusters, dies and the die uncore of core and cluster domains (R488). -/
def uncoreOf (d : Nat) : Option Nat := if d < 64 then some (80 + d / 16) else if d < 80 then some (80 + (d - 64) / 4) else none

/-- Core and cluster domains of a die uncore. -/
def domsOfDie (u : Nat) : List Nat := (List.range 80).filter fun d => uncoreOf d = some u

/-- States that a domain accepts (R488). -/
def domAccepts (d st : Nat) : Bool :=
  if d < 84 then st ≤ 3 else if d < 96 then st = 0 || st = 2 || st = 3 else if d < 112 then st = 0 || st = 3
  else if d = 112 then st = 0 || st = 2 || st = 3 else if d = 113 then st = 0 else false

/-- An event about a domain (R508, R555): aux and the domain's state. -/
def State.domEvent (s : State) (code d aux : Nat) : State := s.raiseMod code ⟨6, d, 0, aux, s.domState d⟩

def State.domError (s : State) (d : Nat) : State := s.fset rf_pwrDomainStatus_cmdError d 0 1

/-- The domain holds no admitted work (R490); a move to M3 does not look at carve units (R487). -/
def State.idleDom (s : State) (d : Nat) (m3 : Bool) : Bool :=
  if d < 64 then (List.range 3).all fun st => s.strState d st = ssDisabled
  else if d < 80 then
    let c := d - 64
    !s.fbit rf_slvCtl_enable c && !(s.flights.any fun f => clusterOf f.core = c && isSlv f.bytes)
      && !s.fbit rf_corGramStatus_gramBusy (4 * c) && !s.fbit rf_corGramStatus_asmBusy (4 * c)
  else if d < 84 then true
  else if d < 96 then m3 || (List.range 16).all fun p => !s.usesStack p (d - 84)
  else if d < 112 then !s.fbit rf_fabPortCtl_enable (d - 96) && !(s.port (d - 96)).draining
  else s.tapIdle

/-- A die uncore enters a state only when its cores and clusters are in it or deeper already, and not on their way (R489). -/
def State.uncoreFree (s : State) (d st : Nat) : Bool :=
  !(80 ≤ d && d < 84) || (domsOfDie d).all fun x => st ≤ s.domState x && s.domPhase x = phStable

/-- The request of a deeper state is taken (R489 to R491). -/
def State.mayEnter (s : State) (d st : Nat) (m3 : Bool) : Bool :=
  s.uncoreFree d st && (st < 3 || s.idleDom d m3)

/-- A deeper state is entered: admission stops. While an entry that has not reached SAVING is under way, only its aim
changes. -/
def State.enterLow (s : State) (d st : Nat) : State :=
  let s := s.fset rf_pwrDomainCtl_requested d 0 st
  if s.domPhase d = phStable then
    (s.setPhase d phStopping).setDom d { s.dom d with wake := false }
  else s

/-- A host write of a domain's requested state (R488 to R492). -/
def domainRequest (d st : Nat) (s : State) : State :=
  let cur := s.domState d
  let ph := s.domPhase d
  let aim := if ph = phStable ∨ ph = phExiting then cur else s.fget rf_pwrDomainCtl_requested d
  if ¬ domAccepts d st then s.domError d
  else if st = aim then s
  else if st < aim then
    -- a shallower state: its die uncore must be as shallow; it is a wake event
    let ok : Bool := match uncoreOf d with
      | some u => s.domState u ≤ st
      | none => true
    if ok then (s.fset rf_pwrDomainCtl_requested d 0 st).wakeEvent d else s.domError d
  else if phSaving ≤ ph ∨ ¬ s.mayEnter d st false then s.domError d
  else s.enterLow d st

def execDomainRequestD0 (domain : Fin 128) (s : State) : Host.Outcome State Fault Refusal := done (domainRequest domain 0 s)
def execDomainRequestD1 (domain : Fin 128) (s : State) : Host.Outcome State Fault Refusal := done (domainRequest domain 1 s)
def execDomainRequestD2 (domain : Fin 128) (s : State) : Host.Outcome State Fault Refusal := done (domainRequest domain 2 s)
def execDomainRequestD3 (domain : Fin 128) (s : State) : Host.Outcome State Fault Refusal := done (domainRequest domain 3 s)

/-! ### Module states (R485 to R487) -/

/-- The state that a module state gives a domain; none where it stays as requested. -/
def moduleDom (m d : Nat) : Option Nat :=
  if m = 1 then (if d < 84 then some 1 else none)
  else if m = 2 then (if d < 96 then some 2 else none)
  else if m = 3 then (if d < 114 then some 3 else none)
  else none

/-- Every domain that a module state affects has reached its state. -/
def State.reached (s : State) (m : Nat) : Bool :=
  (List.range 114).all fun d => match moduleDom m d with
    | some k => k ≤ s.domState d && s.domPhase d = phStable
    | none => true

/-- PWR_MODULE_STATUS shows the move (R486). -/
def State.syncModule (s : State) : State :=
  let m := s.fget rf_pwrModuleState_requested
  let reached := ([3, 2, 1].find? fun k => k ≤ m && s.reached k).getD 0
  (s.fset rf_pwrModuleStatus_state 0 0 reached).fset rf_pwrModuleStatus_transition 0 0
    (b2n (reached ≠ m || (List.range 114).any fun d => (s.dom d).next.isSome))

/-- Every condition of R487 for a domain of a move to M3 holds. -/
def State.readyFor (s : State) (d st : Nat) : Bool :=
  domAccepts d st && phStable = s.domPhase d && s.mayEnter d st (st = 3) || (st = 3 && d = domHub)

/-- The domain requests of a move go out in order, each as soon as it may (R486). -/
def State.moveOn (s : State) : Nat → State
  | 0 => s
  | k + 1 => match s.pwr.todo with
    | [] => s
    | d :: ds =>
      let st := (moduleDom s.pwr.goal d).getD 0
      let pop (s : State) : State := s.withPwr { s.pwr with todo := ds }
      if st ≤ s.domState d then (pop s).moveOn k
      else if s.readyFor d st then
        let x := s.dom d
        ((pop (s.setDom d { x with prior := some (x.prior.getD (s.domState d)) })).enterLow d st).moveOn k
      else s

def State.advance (s : State) : State := (s.moveOn 128).syncModule

/-- The domains that a shallower module state no longer holds return to where they were. -/
def State.release (s : State) (m : Nat) : State :=
  (List.range 114).foldl (fun s d =>
    let x := s.dom d
    match x.prior with
    | none => s
    | some prior =>
      let dest := (moduleDom m d).getD prior
      if dest < s.domState d ∨ s.domPhase d ≠ phStable ∧ dest < s.fget rf_pwrDomainCtl_requested d then
        (s.setDom d { x with
          prior := if (moduleDom m d).isSome then x.prior else none
          next := some dest }).wakeEvent d
      else s.setDom d { x with prior := if (moduleDom m d).isSome then x.prior else none }) s

/-- Solver units and ports are disabled before M3 (R487). -/
def State.prepareM3 (s : State) : State :=
  let s := (List.finRange 16).foldl (fun s c => solverDisable c s) s
  (List.finRange 16).foldl (fun s n => portDisable n s) s

/-- A host write of PWR_MODULE_STATE. -/
def moduleRequest (m : Nat) (s : State) : State :=
  let old := s.fget rf_pwrModuleState_requested
  if m = old then s
  else if m = 3 ∧ ¬ (s.allDisabled ∧ (List.range 16).all fun p => s.preState p = psNone) then
    s.fset rf_pwrModuleStatus_cmdError 0 0 1
  else
    let s := s.fset rf_pwrModuleState_requested 0 0 m
    if old = 3 then
      -- leaving M3 runs the warm-restart path (R487, R526)
      ((s.withPwr { s.pwr with goal := 0, todo := [] }).withTru { s.tru with asked := true, fromM3 := true })
    else
      let s := if m = 3 then s.prepareM3 else s.release m
      let todo := (List.range 114).filter fun d => (moduleDom m d).isSome
      (s.withPwr { s.pwr with goal := m, todo := todo }).advance

def execModuleStateM0 (s : State) : Host.Outcome State Fault Refusal := done (moduleRequest 0 s)
def execModuleStateM1 (s : State) : Host.Outcome State Fault Refusal := done (moduleRequest 1 s)
def execModuleStateM2 (s : State) : Host.Outcome State Fault Refusal := done (moduleRequest 2 s)
def execModuleStateM3 (s : State) : Host.Outcome State Fault Refusal := done (moduleRequest 3 s)

end Sys2Proof.Machine
end

