-- ==== Sys2Proof/Machine/Control.lean ====
section
/-! DEFINITION. The control window (R547 to R554): reads and writes of registers, register messages, and what a write of each
register does. -/
namespace Sys2Proof.Machine

/-! ### Which registers, which agents (R547, R550) -/

/-- The domain a register lies in (R494); none for the always-on management and for partitions' and the module's groups. -/
def regDomain (k : RegKey) : Option Nat :=
  match k.reg with
  | .corClusterToken | .corGramStatus | .corTapSlot | .corGramCount => some (domCluster (clusterOf k.i))
  | .corFlags | .corLatStatus | .corLatCount | .corVecStatus | .corVecCount | .corDoorbell | .corDrainTimeout
  | .corStreamBase | .corStreamCpl | .corStreamHead | .corStreamTail | .corStreamCtl | .corToken => some (domCore k.i)
  | .slvCtl | .slvNumCtl | .slvPivotTau | .slvRetryMax | .slvDrainTimeout | .slvUnitStatus | .slvRunDeadline
  | .slvCount => some (domCluster k.i)
  | .hbmStackStatus | .hbmRefreshCtl | .hbmRegRate | .hbmRegShape | .hbmErrLog | .hbmCount => some (domStack k.i)
  | .fabPortCtl | .fabPortStatus | .fabPortCount => some (domPort k.i)
  | .fabCoord | .fabRouteCtl | .fabDetour | .fabHostCtl | .fabShape | .fabRkeyBase => some domHub
  | .tapStatus | .tapCtl | .tapEndurance | .tapAllowance | .tapNs | .tapSwap | .tapShape | .tapCount => some domTaproot
  | _ => none

/-- The agent may write the register (R547); a mailbox channel has one side (R544). -/
def mayWrite (a : Agent) (k : RegKey) : Bool :=
  match a with
  | .heartwood => true
  | .host => (regWriters k.reg).1 && (!(k.reg = .truChCtl || k.reg = .truChStatus) || k.i = 1)
  | .sapwood => (regWriters k.reg).2 && (!(k.reg = .truChCtl || k.reg = .truChStatus) || k.i = 0)

/-! ### Fields (R4, R6, R550) -/

/-- A value of a field is no reserved encoding (R4); w is the whole value that the register's fields are judged by. -/
def fieldOk (k : RegKey) (lo v w : Nat) : Bool :=
  match k.reg with
  | .slvPivotTau => 1 ≤ v && v ≤ (if lo = 16 then 1022 else 126)
  | .strCtl => lo ≠ 8 || v ≠ 0
  | .strLossScale =>
    let signed (x : Nat) : Nat := (x + 128) % 256
    if lo = 32 then v ≠ 0
    else v ≠ 128 && v ≠ 129 && (lo ≠ 16 || signed v ≤ signed (bits w 31 24))
  | .grvDigestBase => lo ≠ 48 || v ≤ 1024
  | .grvRedCtl => v ≠ 0
  | .grvJobMapBase => lo ≠ 48 || v ≤ 4096
  | .prtFaultTimeout => v ≠ 0
  | .prtStoreLive => v ≤ 0x800000
  | .prtCstoreLive => v ≤ 0x2000000
  | .hbmGlbCtl => if lo = 32 then v ≠ 0 else if lo = 16 then 1 ≤ v && v ≤ 168 else true
  | .hbmRegShape => v ≠ 0 && (lo ≠ 0 || v ≤ 4096)
  | .fabRouteCtl => lo ≠ 0 || v ≠ 0
  | .fabDetour => v ≤ 5 || v = 0xF
  | .fabHostCtl => (lo ≠ 4 && lo ≠ 8) || bits w 6 4 ≠ bits w 10 8
  | .fabShape => if lo = 48 then 1 ≤ v && v ≤ 4096 else if lo = 40 then v ≠ 0 else if lo = 16 then v ≤ 400 else v ≤ 1200
  | .fabRkeyBase => lo ≠ 48 || v ≤ 4096
  | .grvLiveness =>
    if lo = 32 then 2100 ≤ v
    else if lo = 16 then 3 * bits w 15 0 ≤ v
    else 1 ≤ v && v ≤ 1000 && 3 * v ≤ bits w 31 16
  | .tapCtl => if lo = 24 then 1 ≤ v && v ≤ 168 else if lo = 16 then 1 ≤ v && v ≤ 15 else true
  | .tapSwap => v % 16 = 0
  | .tapShape => if lo = 8 then v ≠ 0 else v ≤ 50
  | .pwrDomainCtl => lo ≠ 32 || v ≠ 0
  | .ageCtl => lo ≠ 8 || 24 ≤ v
  | .evtHostCtl => (lo ≠ 16 && lo ≠ 8) || v ≤ 5
  | _ => true

/-- The value by which the fields of a write are judged: a reserved max_exp or pulse_ms keeps what it held (R4), and min_exp and
loss_ms are held against that (R249, R456). -/
def State.judged (s : State) (k : RegKey) (w : Nat) : Nat :=
  if k.reg = .strLossScale ∧ !fieldOk k 24 (bits w 31 24) w then
    w - (bits w 31 24 <<< 24) + (s.fget rf_strLossScale_maxExp k.i k.j <<< 24)
  else if k.reg = .grvLiveness ∧ !(1 ≤ bits w 15 0 && bits w 15 0 ≤ 1000) then
    w - bits w 15 0 + s.fget rf_grvLiveness_pulseMs k.i k.j
  else w

/-- Writes the register's fields by their access codes, but for those that `skip` names by their low bit (R6). -/
def State.writeFields (s : State) (k : RegKey) (w : Nat) (skip : List Nat := []) : State :=
  let judged := s.judged k w
  (regFields k.reg).foldl (fun s f =>
    if skip.contains f.lo then s
    else
      let rf : RF := ⟨k.reg, f.hi, f.lo⟩
      let v := bits w f.hi f.lo
      let old := s.fget rf k.i k.j
      match f.acc with
      | .rw => if fieldOk k f.lo v judged then s.fset rf k.i k.j v else s
      | .w1c => s.fset rf k.i k.j (old &&& (v ^^^ (2 ^ (f.hi - f.lo + 1) - 1)))
      | .w1s => s.fset rf k.i k.j (old ||| v)
      | _ => s) s

/-- A descriptor of a partition with one of these opcodes runs, or is queued in a fetch window. -/
def State.runsOp (s : State) (p : Nat) (op : Nat → Bool) : Bool :=
  (s.flights.any fun f => op (hOpcode f.bytes) && s.partOf f.core = some p)
    || s.windows.any fun (k, w) => s.partOf (k / 3) = some p && w.any fun f => op (hOpcode f.bytes)

/-- The register may be written now: bases of structures that are in use may not (R250, R289, R328, R141). -/
def State.writable (s : State) (k : RegKey) : Bool :=
  match k.reg with
  | .corStreamCpl => s.strState k.i k.j = ssDisabled
  | .strLayerBase | .strStatsBase | .strJournalBase | .strUndoBase => !s.runsOp k.i fun o => 0x90 ≤ o && o ≤ 0x93
  | .grvBucketBase => (s.part k.i).bkts.all fun b => b.state = 0 || b.state = 3
  | .grvChannelBase => (s.part k.i).ringOpen.isEmpty
  | _ => true

/-! ### Writes -/

/-- A write of COR_STREAM_CTL (R130, R141). -/
def streamCtl (k st v : Nat) (s : State) : State :=
  let s := s.writeFields ⟨.corStreamCtl, k, st⟩ v [0, 2]
  let s := if bit v 0 then streamEnable k st s else streamDisable (Fin.ofNat 64 k) (Fin.ofNat 3 st) s
  if bit v 2 then streamRestart k st s else s

/-- A write of SLV_CTL (R216); a unit that failed its check stays disabled until the next cold boot (R522). -/
def slvCtlWrite (c v : Nat) (s : State) : State :=
  let on := s.fbit rf_slvCtl_enable c
  if bit v 0 ∧ ¬ on then
    if s.age.dead.contains (.solver (Fin.ofNat 16 c)) then s else s.fset rf_slvCtl_enable c 0 1
  else if ¬ bit v 0 ∧ on then solverDisable (Fin.ofNat 16 c) s
  else s

/-- A write of STR_LOSS_SCALE: the exponent takes effect from the next epoch (R249). -/
def lossScaleWrite (p v : Nat) (s : State) : State :=
  let e := s.epoch p
  let x := s.part p
  let s := if x.lossScale.any (·.1 = e) then s else s.setPart p { x with lossScale := (e, s.lossExp p e) :: x.lossScale }
  let s := s.writeFields ⟨.strLossScale, p, 0⟩ v
  -- a value that an earlier write or verdict gave the next epoch gives way
  let x := s.part p
  s.setPart p { x with lossScale := x.lossScale.filter fun (n, _) => n ≤ e }

/-- A write of PRT_CTL (R354, R355). -/
def prtCtlWrite (p v : Nat) (s : State) : State :=
  let s := s.writeFields ⟨.prtCtl, p, 0⟩ v
  if bit v 1 then armPreempt p s else s

/-- PRT_PREEMPT.action (R348, R359). -/
def preemptWrite (p v : Nat) (s : State) : State :=
  let a := bits v 1 0
  if a = 1 then preemptRequest p s else if a = 2 then preemptResume p s else if a = 3 then preemptRelease p s else s

/-- PRT_FAULTQ_PTR.head (R360): room in the queue lets records that waited enter it (R343). -/
def faultqHead (p v : Nat) (s : State) : State :=
  let h := s.fget rf_prtFaultqPtr_head p
  if between 9 h (s.fget rf_prtFaultqPtr_tail p) (bits v 8 0) then
    (s.fset rf_prtFaultqPtr_head p 0 (bits v 8 0)).faultqDrain p
  else s

/-- A write of FAB_PORT_CTL (R420). -/
def portCtl (n v : Nat) (s : State) : State :=
  let on := s.fbit rf_fabPortCtl_enable n
  let s := s.writeFields ⟨.fabPortCtl, n, 0⟩ v [0]
  if bit v 0 ∧ ¬ on then portEnable n s
  else if ¬ bit v 0 ∧ on then portDisable (Fin.ofNat 16 n) s
  else s

/-- A write of PWR_DOMAIN_CTL (R488, R506): with a state that the domain does not accept, and for domains 114 to 127 with any, the
write has no effect but cmd_error. -/
def domainCtl (d v : Nat) (s : State) : State :=
  if domAccepts d (bits v 1 0) then
    let old := s.fget rf_pwrDomainCtl_requested d
    let s := s.writeFields ⟨.pwrDomainCtl, d, 0⟩ v [0]
    if bits v 1 0 = old then s else domainRequest d (bits v 1 0) s
  else s.domError d

/-- EVT_PQ_PTR.head: sapwood advances it (R561). -/
def pqHead (p v : Nat) (s : State) : State :=
  let h := s.fget rf_evtPqPtr_head p
  if between 17 h (s.fget rf_evtPqPtr_tail p) (bits v 16 0) then s.fset rf_evtPqPtr_head p 0 (bits v 16 0) else s

/-- A write of TRU_CH_CTL: a reserved code or a malformed length completes BAD_REQUEST; any other request is one of the
mailbox commands (R544). -/
def chCtl (ch v : Nat) (s : State) : State :=
  let code := bits v 7 0
  let len := bits v 29 16
  if !mbCode ch code || len < 64 || 8192 < len then
    let req := fld ((List.range 8).map fun i => smGet 0 s.tru.bufs (0x10000 + 0x4000 * ch + i)) 0 8
    s.mailboxOf ch req fun s => (mbBad, s)
  else s

/-- What a write that may take place does. -/
def applyReg (a : Agent) (k : RegKey) (v : Nat) (s : State) : State :=
  match k.reg with
  | .corDoorbell => doorbell k.i v s
  | .corStreamBase => streamBase k.i k.j v s
  | .corStreamCtl => streamCtl k.i k.j v s
  | .corToken => tokenWrite k.i false k.j v s
  | .corClusterToken => tokenWrite k.i true k.j v s
  | .slvCtl => slvCtlWrite k.i v s
  | .strLossScale => lossScaleWrite k.i v s
  | .prtCtl => prtCtlWrite k.i v s
  | .prtSaveBase => saveBaseWrite k.i v s
  | .prtPreempt => preemptWrite k.i v s
  | .prtXltInval => xltInval k.i v s
  | .prtFaultqPtr => faultqHead k.i v s
  | .prtFaultResolve => if bit v 16 then faultFail k.i (bits v 15 0) s else faultRetry k.i (bits v 15 0) s
  | .hbmRepairCmd => hardRepair v s
  | .hbmRegRate => regRateWrite k.i k.j v s
  | .fabPortCtl => portCtl k.i v s
  | .fabCoord => coordWrite v s
  | .grvMgrCtl => (if bits v 1 0 = 1 ∨ bits v 1 0 = 2 then mgrMode (bits v 1 0) s else s).writeFields k v [0]
  | .pwrModuleState => moduleRequest (bits v 1 0) s
  | .pwrDomainCtl => domainCtl k.i v s
  | .pwrLimit => pwrLimitWrite v s
  | .pwrVwindow => pwrVwindowWrite v s
  | .pwrDieTarget => dieTargetWrite k.i v s
  | .ageCtl => let s := s.writeFields k v; if bit v 0 then s.startPlanner else s
  | .ageTestCmd => testCommand a v s
  | .truChCtl => chCtl k.i v s
  | .truWdog => if bit v 0 then wdogKick s else s
  | .glbRestart => if bits v 15 0 = 0x5A17 then (s.withTru { s.tru with asked := true }) else s
  | .evtMqPtr => (mqHead a v s).2
  | .evtArchRead => archRead v s
  | .evtPqBase => pqBase k.i v s
  | .evtPqPtr => pqHead k.i v s
  | _ => if s.writable k then s.writeFields k v else s

/-- A write that disables a function of a sleeping domain is not held (R492). -/
def State.disables (s : State) (k : RegKey) (v : Nat) : Bool :=
  match k.reg with
  | .corStreamCtl => !bit v 0 && s.fbit rf_corStreamCtl_enable k.i k.j
  | .slvCtl => !bit v 0 && s.fbit rf_slvCtl_enable k.i
  | .fabPortCtl => !bit v 0 && s.fbit rf_fabPortCtl_enable k.i
  | _ => false

/-- A write of a register by an agent (R494, R495, R550): its status for the host, and the state. -/
def writeReg (a : Agent) (k : RegKey) (v : Nat) (s : State) : Nat × State :=
  if ¬ mayWrite a k then s.denied a (regOffset k)
  else if k.reg = .evtMqPtr then mqHead a v s
  else match regDomain k with
    | none => (rsOk, applyReg a k v s)
    | some d =>
      if s.awake d then (rsOk, applyReg a k v s)
      else if s.disables k v ∧ ¬ s.testHeld d then (rsOk, applyReg a k v (s.wakeEvent d))
      else (if s.holds d then rsOk else rsAsleep, s.regAccess d a k (BitVec.ofNat 64 v) id)

/-! ### Reads -/

/-- The value that a register shows. -/
def State.regValue (s : State) (k : RegKey) : Nat :=
  match k.reg with
  | .glbLocalTick => s.tick
  | .truWdog => s.recentRestarts.length <<< 16
  | _ => (s.reg k.reg k.i k.j).toNat

/-- A read clears the register's RC fields (R551). -/
def State.readClear (s : State) (k : RegKey) : State :=
  (regFields k.reg).foldl (fun s f => if f.acc = .rc then s.fset ⟨k.reg, f.hi, f.lo⟩ k.i k.j 0 else s) s

/-- A read of a register (R494, R495, R549): status, value and state. A read that waits for a domain is answered with what
the register holds. -/
def readReg (k : RegKey) (s : State) : Nat × Nat × State :=
  let now (s : State) : Nat × Nat × State := (rsOk, s.regValue k, s.readClear k)
  match regDomain k with
  | none => now s
  | some d =>
    if s.awake d then now s
    else if s.holds d then now (s.holdAccess d)
    else (rsAsleep, 0, s.asleepEvent d none 0)

/-! ### Offsets of the window (R547 to R549) -/

/-- The offset lies in a block. -/
def inBlock (off : Nat) : Bool := off < 0xD00000 || (0x1000000 ≤ off && off < 0x1400000)

/-- A mailbox buffer: its channel, and whether it is the request buffer (R544). -/
def bufferAt (off : Nat) : Option (Nat × Bool) :=
  if 0xC10000 ≤ off ∧ off < 0xC18000 then some ((off - 0xC10000) / 0x4000, (off - 0xC10000) % 0x4000 < 0x2000) else none

/-- The side that a mailbox channel's registers and buffers admit. -/
def channelSide (a : Agent) (ch : Nat) : Bool := a = .heartwood || (if ch = 0 then a = .sapwood else a = .host)

/-- The channel that an offset belongs to. -/
def channelAt (off : Nat) : Option Nat :=
  match bufferAt off, keyAt off with
  | some (c, _), _ => some c
  | none, some k => if k.reg = .truChCtl ∨ k.reg = .truChStatus then some k.i else none
  | none, none => none

/-- The eight bytes of a window other than registers: event records, the archive window, the mailbox buffers. -/
def State.windowRead (s : State) (off : Nat) : Nat :=
  if 0x410000 ≤ off ∧ off < 0x430000 then
    let o := off - 0x410000
    match smGet none s.evt.mq (o / 32) with
    | some r => fld (evBytes r) (o % 32) 8
    | none => 0
  else if 0x430000 ≤ off ∧ off < 0x431000 then fld s.evt.archWin (off - 0x430000) 8
  else match bufferAt off with
    | some _ => fld ((List.range 8).map fun i => smGet 0 s.tru.bufs (off - 0xC00000 + i)) 0 8
    | none => 0

/-- An agent's read at an offset. -/
def readAt (a : Agent) (off : Nat) (s : State) : Nat × Nat × State :=
  if ¬ inBlock off then (rsUnmapped, 0, s)
  else match channelAt off with
    | some c =>
      if ¬ channelSide a c then (rsDenied, 0, s.boundViolation off)
      else match keyAt off with
        | some k => readReg k s
        | none => (rsOk, s.windowRead off, s)
    | none => match keyAt off with
      | some k => readReg k s
      | none => (rsOk, s.windowRead off, s)

/-- Eight bytes enter a mailbox buffer. -/
def State.bufWrite (s : State) (o v : Nat) : State :=
  let bufs := (leBytes 8 v).zipIdx.foldl (fun m (b, i) => smSet 0 m (o + i) b) s.tru.bufs
  (s.withTru { s.tru with bufs := bufs })

/-- An agent's write at an offset. -/
def writeAt (a : Agent) (off v : Nat) (s : State) : Nat × State :=
  if ¬ inBlock off then (rsUnmapped, s)
  else match channelAt off with
    | some c =>
      if ¬ channelSide a c then (rsDenied, s.boundViolation off)
      else match bufferAt off, keyAt off with
        | some (_, true), _ =>
          (rsOk, s.bufWrite (off - 0xC00000) v)
        | none, some k => writeReg a k v s
        | _, _ => (rsOk, s)
    | none => match keyAt off with
      | some k => writeReg a k v s
      | none => (rsOk, s)

/-- A write of a register by an agent. An access that is not 8-byte aligned writes nothing (R549). -/
def execRegisterWrite (agent : Agent) (offset : BitVec 26) (value : Word) (s : State) : Host.Outcome State Fault Refusal :=
  done (if offset.toNat % 8 = 0 then (writeAt agent offset.toNat value.toNat s).2 else s)

/-- Sapwood's writes of registers, by offset, in order. -/
def State.sapwoodWrites (s : State) (ws : List (Nat × Word)) : State :=
  ws.foldl (fun s (off, v) => (writeAt .sapwood off v.toNat s).2) s

/-- ACTIVATE at a spare: sapwood gives the lost partition's place to partition `p`; `writes` and `regs` are the structures
and the writes of registers with which it builds the place from the configuration image (R446). -/
def execActivate (g : Mg) (lost : Addr) (r : Nat) (p : Fin 16) (writes : List (Nat × List Byte)) (regs : List (Nat × Word))
    (s : State) : Host.Outcome State Fault Refusal :=
  done (s.grvOrder mtActivate r g fun s =>
    if s.fbit rf_grvRole_spare then
      let s := writes.foldl (fun s (pa, bs) => if s.fenceOk p pa then (s.paWrite pa bs).2 else s) s
      let s := ((s.sapwoodWrites regs).setReg .grvEpoch p 0 (BitVec.ofNat 64 r)).fset rf_grvRole_spare 0 0 0
      let s := s.setPart p { s.part p with job := g.job }
      (s.grvSend p mtActivated g.job r s.manager (.activated r)).raise 0xC002 p
        ⟨8, p, 0, addrModule lost + (g.job <<< 16), r⟩
    else s)

/-- A read of the lost count of the module queue, or of a partition's: it returns the count and clears it. -/
def execReadClear (queue : Option (Fin 16)) (s : State) : Host.Outcome State Fault Refusal :=
  let k : RegKey := match queue with
    | none => ⟨.evtMqPtr, 0, 0⟩
    | some p => ⟨.evtPqPtr, p, 0⟩
  done (readReg k s).2.2

/-! ### Register messages (R552, R553) -/

/-- The answer to an operation. -/
def opResult (o : RegOp) (status value : Nat) : RegOp := ⟨o.offset, status, false, 0, BitVec.ofNat 64 value⟩

/-- One operation of a message. -/
def runOp (o : RegOp) (s : State) : RegOp × State :=
  if 1 < o.op ∨ o.reserved ≠ 0 then (opResult o rsReserved 0, s)
  else if o.offset % 8 ≠ 0 then (opResult o rsAlign 0, s)
  else if o.op = 0 then
    let (st, v, s) := readAt .host o.offset s
    (opResult o st v, s)
  else
    let (st, s) := writeAt .host o.offset o.value.toNat s
    (opResult o st 0, s)

/-- The operations in order, to the end or to one that stops the message. -/
def runOps : List RegOp → State → List RegOp × State
  | [], s => ([], s)
  | o :: os, s =>
    let (r, s) := runOp o s
    if r.op ≠ rsOk ∧ o.stop then ([r], s)
    else
      let (rs, s) := runOps os s
      (r :: rs, s)

/-- The source lies inside the profile's admin prefix (R535, R548). -/
def State.adminPeer (s : State) (src : List Byte) : Bool :=
  let n := s.prof 186 1
  (List.range n).all fun i => bit (fld src (i / 8) 1) (7 - i % 8) = bit (s.prof (170 + i / 8) 1) (7 - i % 8)

/-- The module takes a register message on this path (R528, R548, R553); `secured` is that it came inside an SPDM secured
message. -/
def State.takesRegs (s : State) (via : Via) (src : List Byte) (secured : Bool) : Bool :=
  s.heartwood && match via with
    | .sideband => s.fbit rf_glbAdminCtl_sidebandRegs
    | .admin _ => !s.inert && s.adminPeer src && (secured || !s.fbit rf_glbAdminCtl_sessionRequired)

/-- A register message of the host: its id, the count its header gives, and its operations. A malformed one is answered with
count 0. -/
def execRegisterMessage (via : Via) (src : List Byte) (secured : Bool) (id : BitVec 16) (count : BitVec 8)
    (ops : List RegOp) (s : State) : Host.Outcome State Fault Refusal :=
  done (if ¬ s.takesRegs via src secured then s
    else if count = 0 ∨ 64 < count.toNat ∨ ops.length ≠ count.toNat then s.send (.registers via id.toNat [])
    else
      let (rs, s) := runOps ops s
      s.send (.registers via id.toNat rs))

end Sys2Proof.Machine
end

