-- ==== Sys2Proof/Machine/Roce.lean ====
section
/-! DEFINITION. Host ports (R415 to R419): the queue pairs as RC responder and requester, PFC and congestion, and what the
passing of time does at every port. -/
namespace Sys2Proof.Machine

open Eng

-- BTH opcodes of the InfiniBand Architecture's RC transport, and those of R417.
def rcSend : Nat := 0x04
def rcSendImm : Nat := 0x05
def rcWrite : Nat := 0x0A
def rcWriteImm : Nat := 0x0B
def rcRead : Nat := 0x0C
def rcReadResponse : Nat := 0x10
def rcAck : Nat := 0x11
def rcAtomicAck : Nat := 0x12
def rcCompareSwap : Nat := 0x13
def rcFetchAdd : Nat := 0x14
def rcCnp : Nat := 0x81
def rcAccumulate : Nat := 0xC0
def rcAccumulateAck : Nat := 0xC1

-- AETH syndromes of the architecture.
def synAck : Nat := 0x00
def synRnr : Nat := 0x20
def synSequence : Nat := 0x60
def synInvalid : Nat := 0x61
def synAccess : Nat := 0x62
def synOperation : Nat := 0x63

/-- The first queue pair number, and how many there are (R416). -/
def qpnBase : Nat := 0x010000
def qpCount : Nat := 65536

/-- Rate of a port in bit/s (R394). -/
def portRate : Nat := 800000000000
def gbit : Nat := 1000000000

def QpX.new (c : QpConf) (port : Nat) : QpX :=
  { conf := c, port := port, err := false, psn := c.txPsn, expected := c.rxPsn, atomics := [], sent := [], retries := 0,
    rate := portRate, cut := none, changed := 0, cnpSent := none }

/-- The queue pair as sapwood created it. -/
def State.qp (s : State) (n port : Nat) (c : QpConf) : QpX :=
  match smGet none s.fab.qps n with
  | some x => { x with conf := c }
  | none => .new c port

def State.setQp (s : State) (n : Nat) (x : QpX) : State :=
  s.withFab { s.fab with qps := smSet none s.fab.qps n (some x) }

/-- Packets that a message of n bytes takes at a path MTU. -/
def packetsOf (c : QpConf) (n : Nat) : Nat := max 1 (ceilDiv n (max c.mtu 1))

/-- Sequence numbers that a request takes: those of its packets, or of its response's. -/
def psnSpan (c : QpConf) (r : Roce) : Nat := packetsOf c (if r.opcode = rcRead then r.len else r.payload.length)

/-- Bytes of a message on the wire, with IPv4 headers and no tag. -/
def roceBytes (c : QpConf) (r : Roce) : Nat := r.payload.length + 62 * packetsOf c r.payload.length

/-- Priority that a queue pair's messages leave by: admin queue pairs have strict priority (R418). -/
def qpPrio (n : Nat) (c : QpConf) : Option Nat := if n < qpnBase + 4 then none else c.prio

/-- The message joins its port's egress queue. -/
def State.packetOut (s : State) (n : Nat) (prio : Option Nat) (r : Roce) : State :=
  s.setPort n { s.port n with packets := (s.port n).packets ++ [(prio, r)] }

/-- An answer to a message. -/
def State.answer (s : State) (x : QpX) (r : Roce) (opcode syn : Nat) (payload : List Byte := []) (b : Nat := 0) : State :=
  s.packetOut r.port (qpPrio r.qpn x.conf)
    { port := r.port, qpn := r.qpn, opcode := opcode, psn := r.psn, a := syn, b := b, payload := payload }

/-- A request that the module made fails: its descriptor's access fails (R338). -/
def State.hostFails (s : State) (r : Roce) : State :=
  match s.requests.find? fun q => q.id = r.reqId ∧ q.msg.isSome with
  | some q => match s.flightOf q with
    | some fl => s.remoteFails q fl
    | none => s.dropRequest q.id
  | none => s

/-- A queue pair enters its error state (R416); its requests fail. -/
def State.qpError (s : State) (n : Nat) (x : QpX) : State :=
  let s := s.setQp n { x with err := true, sent := [] }
  let s := s.raiseOpt 0x4007 (x.conf.part.map (·.val)) ⟨5, x.port, 0, 1, n⟩
  x.sent.foldl (fun s (r, _, _) => s.hostFails r) s

/-- A NAK that ends in the error state, as the architecture defines for RC. -/
def State.refuse (s : State) (x : QpX) (r : Roce) (syn : Nat) : State := (s.answer x r rcAck syn).qpError r.qpn x

/-- A CE-marked packet is answered with a CNP, at most once every 50 µs per queue pair (R419). -/
def State.notify (s : State) (x : QpX) (r : Roce) : State × QpX :=
  let due : Bool := match x.cnpSent with
    | some t => s.since t (us 50)
    | none => true
  if r.ce && s.fbit rf_fabHostCtl_ecnEnable && due then
    (s.packetOut r.port none { port := r.port, qpn := r.qpn, opcode := rcCnp, psn := 0 }, { x with cnpSent := some s.tick })
  else (s, x)

/-- The queue pair number is one of the module's, and an admin one belongs to its own port (R416). -/
def qpnOk (r : Roce) : Bool :=
  qpnBase ≤ r.qpn && r.qpn < qpnBase + qpCount && (qpnBase + 4 ≤ r.qpn || r.qpn = qpnBase + r.port)

/-- Operations of R415's table: requests and what answers them. -/
def rcSupported (op : Nat) : Bool :=
  [rcSend, rcSendImm, rcWrite, rcWriteImm, rcRead, rcReadResponse, rcAck, rcAtomicAck, rcCompareSwap, rcFetchAdd, rcCnp,
    rcAccumulate, rcAccumulateAck].contains op

/-- SEND with invalidate, last and only: well formed, and not supported (R415). -/
def rcUnsupported (op : Nat) : Bool := op = 0x16 || op = 0x17

/-- A message arrives at a host port for a queue pair as responder: `act` serves the one expected, `dup` a duplicate; one
from beyond the expected number gets a sequence-error NAK, and one whose operation is not supported an invalid-request NAK.
What R415's table does not hold at all is discarded and counted. -/
def State.hostArrives (s : State) (r : Roce) (c : QpConf) (ops : List Nat) (act dup : State → QpX → State) : State :=
  if s.serves ∧ r.port < 4 ∧ s.link r.port = lsUp ∧ (ops.contains r.opcode ∨ ¬ rcSupported r.opcode) then
    let s := (s.count .fabPortCount r.port 1 (packetsOf c r.payload.length)).count .fabPortCount r.port 3 (roceBytes c r)
    if ¬ qpnOk r ∨ ¬ (rcSupported r.opcode ∨ rcUnsupported r.opcode) then s.countDiscard r.port
    else
      let (s, x) := s.notify (s.qp r.qpn r.port c) r
      let s := s.setQp r.qpn x
      if x.err then s
      else
        let d := sext 24 (subMod 24 r.psn x.expected)
        if d < 0 then dup s x
        else if 0 < d then s.answer x r rcAck synSequence
        else if rcUnsupported r.opcode then s.refuse x r synInvalid
        else
          let x := { x with expected := (x.expected + psnSpan c r) % 2 ^ 24 }
          act (s.setQp r.qpn x) x
  else s

/-- A message held at a sleeping domain is taken when it comes again: its number is expected once more (R494). -/
def State.redo (s : State) (x : QpX) (r : Roce) : State :=
  if x.expected = (r.psn + psnSpan x.conf r) % 2 ^ 24 then s.setQp r.qpn { x with expected := r.psn } else s

/-- The remote-key check: the entry that the key indexes must hold it, with the right, over the whole range (R416). An access
through an entry whose base is no address of 48 bits is a fault (R579). -/
def rkeyOk (q : XReq) (base count : Nat) (r : Roce) (right len : Nat) : Eng Bool := do
  let i := r.rkey % 4096
  if count ≤ i then return false
  let e ← readLocal { q with pinned := true } (base * 32 + 32 * i) 32
  let ok : Bool := fld e 16 4 = r.rkey && fldBit e 20 right && fld e 0 8 ≤ r.va && r.va + len ≤ fld e 0 8 + fld e 8 8
  if ok ∧ 2 ^ 48 ≤ fld e 0 8 then stop (.fault 5 r.va (right = 1) (right = 2) false)
  return ok

/-- Serves an access to a partition's memory after the remote-key check. -/
def State.rdma {α : Type} (s : State) (x : QpX) (r : Roce) (right len : Nat) (access : XReq → Eng α)
    (ok : α → State → State) : State :=
  match x.conf.part with
  | none => s.refuse x r synInvalid
  | some p =>
    let base := s.fget rf_fabRkeyBase_base p
    let count := s.fget rf_fabRkeyBase_count p
    match s.serve (portReq p r.port false) (fun q => do
        if ← rkeyOk q base count r right len then
          let a ← access q
          return some a
        else return none) with
    | (.ok (some a), s) => ok a s
    | (.ok none, s) => s.refuse x r synAccess
    | (.no a, s) => s.refuse x r (if a = anUncorr then synOperation else synAccess)
    | (.held, s) => s.redo x r

/-- A SEND arrives: it lands in a receive buffer that sapwood posted, at `buffer`; without one the sender must try again. The
admin queue pairs' messages are taken by their own commands (R552). -/
def execRoceSend (r : Roce) (c : QpConf) (buffer : Option Word) (s : State) : Host.Outcome State Fault Refusal :=
  done (s.hostArrives r c [rcSend, rcSendImm]
    (fun s x => match x.conf.part, buffer with
      | none, _ => s.answer x r rcAck synAck
      | some p, some va => match s.serve (portReq p r.port false) (writeLocal · va.toNat r.payload) with
        | (.ok _, s) => s.answer x r rcAck synAck
        | (.no _, s) => s.refuse x r synOperation
        | (.held, s) => s.redo x r
      | some _, none => (s.setQp r.qpn { x with expected := r.psn }).answer x r rcAck synRnr)
    fun s x => s.answer x r rcAck synAck)

def execRdmaWrite (r : Roce) (c : QpConf) (s : State) : Host.Outcome State Fault Refusal :=
  done (s.hostArrives r c [rcWrite, rcWriteImm]
    (fun s x => if r.payload.length ≠ r.len then s.refuse x r synInvalid
      else s.rdma x r 1 r.len (fun q => writeLocal q r.va r.payload) fun _ s => s.answer x r rcAck synAck)
    fun s x => s.answer x r rcAck synAck)

def readAnswer (r : Roce) (s : State) (x : QpX) : State :=
  s.rdma x r 0 r.len (fun q => readLocal q r.va r.len) fun bs s => s.answer x r rcReadResponse synAck bs

def execRdmaRead (r : Roce) (c : QpConf) (s : State) : Host.Outcome State Fault Refusal :=
  done (s.hostArrives r c [rcRead] (readAnswer r) (readAnswer r))

/-- An atomic operation on 8 aligned bytes; its old value is kept for duplicates. -/
def State.atomic (s : State) (x : QpX) (r : Roce) (f : Nat → Nat) : State :=
  if r.va % 8 ≠ 0 then s.refuse x r synInvalid
  else s.rdma x r 2 8 (fun q => do
      let old := leNat (← readLocal q r.va 8)
      writeLocal q r.va (leBytes 8 (f old))
      return old) fun old s =>
    (s.setQp r.qpn { x with atomics := x.atomics ++ [(r.psn, old)] }).answer x r rcAtomicAck synAck [] old

def atomicAgain (r : Roce) (s : State) (x : QpX) : State :=
  match x.atomics.find? (·.1 = r.psn) with
  | some (_, old) => s.answer x r rcAtomicAck synAck [] old
  | none => s

def execCompareAndSwap (r : Roce) (c : QpConf) (s : State) : Host.Outcome State Fault Refusal :=
  done (s.hostArrives r c [rcCompareSwap] (fun s x => s.atomic x r fun old => if old = r.a then r.b else old)
    (atomicAgain r))

def execFetchAndAdd (r : Roce) (c : QpConf) (s : State) : Host.Outcome State Fault Refusal :=
  done (s.hostArrives r c [rcFetchAdd] (fun s x => s.atomic x r fun old => w64 (old + r.a)) (atomicAgain r))

/-- The answer that stands for a translation fault of a host's accumulate (R345). -/
def anFaulted : Nat := 0x100

/-- ACCUMULATE WRITE: the bucket rules answer it, duplicates too; its payload begins with the 16 bytes of the extended header
(R417). One of more than one packet is invalid. -/
def hostAccumulate (r : Roce) (c : QpConf) (s : State) (x : QpX) : State :=
  match x.conf.part with
  | none => s.refuse x r synInvalid
  | some p =>
    if r.payload.length < 16 ∨ 4096 + 16 < r.payload.length ∨ c.mtu + 16 < r.payload.length then s.refuse x r synInvalid
    else
      match s.bktHandle p (accReq (slice r.payload 0 16) (r.payload.drop 16)) r.port anFaulted with
      | ((a, m), s) =>
        if a = anFaulted then s.refuse x r synAccess
        else s.answer x r rcAccumulateAck synAck (leBytes 1 a ++ leBytes 1 (m / 65536) ++ leBytes 2 (m % 65536))

def execAccumulateWrite (r : Roce) (c : QpConf) (s : State) : Host.Outcome State Fault Refusal :=
  done (s.hostArrives r c [rcAccumulate] (hostAccumulate r c) (hostAccumulate r c))

/-! ### The module as requester -/

/-- The last sequence number of a request. -/
def lastPsn (c : QpConf) (r : Roce) : Nat := (r.psn + psnSpan c r - 1) % 2 ^ 24

/-- A request that the module made is answered: its piece of the access is complete. -/
def State.hostPiece (s : State) (r : Roce) (data : List Byte) : State :=
  match s.requests.find? fun q => q.id = r.reqId ∧ q.msg.isSome with
  | some q => match s.flightOf q with
    | some fl => s.remotePiece q fl data
    | none => s.dropRequest q.id
  | none => s

/-- Requests other than READs up to a sequence number are acknowledged. -/
def State.hostAcked (s : State) (n : Nat) (x : QpX) (upTo : Nat) : State × QpX :=
  let old : Roce × Nat × Nat → Bool := fun (r, l, _) => r.opcode ≠ rcRead && sext 24 (subMod 24 l upTo) ≤ 0
  let gone := x.sent.filter old
  let x := { x with sent := x.sent.filter fun e => !old e, retries := if gone.isEmpty then x.retries else 0 }
  (gone.foldl (fun s (r, _, _) => s.hostPiece r []) (s.setQp n x), x)

/-- Sends unacknowledged requests again. -/
def State.hostResend (s : State) (n : Nat) (x : QpX) : State :=
  let s := s.setQp n { x with sent := x.sent.map fun (r, l, _) => (r, l, s.tick) }
  x.sent.foldl (fun s (r, _, _) => s.packetOut x.port (qpPrio n x.conf) r) s

/-- An ACK, NAK or RDMA READ response arrives (R415). -/
def execRoceAcknowledge (r : Roce) (c : QpConf) (s : State) : Host.Outcome State Fault Refusal :=
  done (if s.serves ∧ r.port < 4 ∧ s.link r.port = lsUp ∧ qpnOk r then
      let s := (s.count .fabPortCount r.port 1 (packetsOf c r.payload.length)).count .fabPortCount r.port 3 (roceBytes c r)
      let (s, x) := s.notify (s.qp r.qpn r.port c) r
      if x.err then s
      else if r.opcode = rcReadResponse then
        match x.sent.find? fun (q, _, _) => q.opcode = rcRead && q.psn = r.psn && q.len = r.payload.length with
        | some e =>
          let x := { x with sent := x.sent.filter (· ≠ e), retries := 0 }
          let (s, _) := (s.setQp r.qpn x).hostAcked r.qpn x ((r.psn + 2 ^ 24 - 1) % 2 ^ 24)
          s.hostPiece e.1 r.payload
        | none => s
      else if r.opcode = rcAck then
        if r.a < synRnr then (s.hostAcked r.qpn x r.psn).1
        else
          let (s, x) := s.hostAcked r.qpn x ((r.psn + 2 ^ 24 - 1) % 2 ^ 24)
          if r.a < 0x40 then s
          else if r.a = synSequence then s.hostResend r.qpn x
          else s.qpError r.qpn x
      else s
    else s)

/-- The acknowledgement timer expires: the requests go out again, until the retry count is spent (R415). -/
def execRoceRetryTimeout (qpn : BitVec 24) (c : QpConf) (s : State) : Host.Outcome State Fault Refusal :=
  let n := qpn.toNat
  done (match smGet none s.fab.qps n with
    | some x =>
      let x := { x with conf := c }
      match x.sent with
      | (_, _, t) :: _ =>
        if !x.err ∧ s.since t (us c.timeoutUs) then
          if c.retry ≤ x.retries then s.qpError n x
          else s.hostResend n { x with retries := x.retries + 1 }
        else s
      | [] => s
    | none => s)

/-! ### Congestion (R419) -/

/-- A CNP arrives: the rate halves, at most once every 50 µs, and never falls below 1 Gbit/s. -/
def execCnp (qpn : BitVec 24) (s : State) : Host.Outcome State Fault Refusal :=
  done (match smGet none s.fab.qps qpn.toNat with
    | some x =>
      if s.fbit rf_fabHostCtl_ecnEnable then
        let cut : Bool := match x.cut with
          | some t => s.since t (us 50)
          | none => true
        s.setQp qpn.toNat { x with
          rate := if cut then max gbit (x.rate / 2) else x.rate
          cut := if cut then some s.tick else x.cut
          changed := s.tick }
      else s
    | none => s)

/-- 55 µs without a CNP: the rate rises by 1 Gbit/s, up to the port rate. -/
def execCnpRateIncrease (qpn : BitVec 24) (s : State) : Host.Outcome State Fault Refusal :=
  done (match smGet none s.fab.qps qpn.toNat with
    | some x => if s.since x.changed (us 55) then
        s.setQp qpn.toNat { x with rate := min portRate (x.rate + gbit), changed := s.tick } else s
    | none => s)

/-! ### PFC (R418) -/

/-- The priority is one of the two on which PFC is enabled. -/
def State.pfcOn (s : State) (prio : Nat) : Bool :=
  (s.fbit rf_fabHostCtl_pfcAEnable && s.fget rf_fabHostCtl_pfcPrioA = prio)
    || (s.fbit rf_fabHostCtl_pfcBEnable && s.fget rf_fabHostCtl_pfcPrioB = prio)

/-- A pause ends: its microseconds are counted (R421). -/
def State.unpause (s : State) (n prio : Nat) : State :=
  let x := s.port n
  match smGet none x.paused prio with
  | some t => (s.setPort n { x with paused := smSet none x.paused prio none }).count .fabPortCount n 10 ((s.tick - t) / 1000)
  | none => s

/-- A PFC frame pauses or resumes a priority of a host port. -/
def execPfcPause (port : Fin 4) (prio : Fin 8) (pause : Bool) (s : State) : Host.Outcome State Fault Refusal :=
  done (if s.link port = lsUp ∧ s.pfcOn prio then
      if pause then
        let x := s.port port
        let x := { x with lastPause := smSet 0 x.lastPause prio s.tick }
        s.setPort port (if x.ignoring.contains prio then x
          else { x with paused := smSet none x.paused prio (some ((smGet none x.paused prio).getD s.tick)) })
      else s.unpause port prio
    else s)

/-- A priority paused without a break for pfc_watchdog_ms: its queued packets are discarded, and its pauses are ignored. -/
def execPfcWatchdog (port : Fin 4) (prio : Fin 8) (s : State) : Host.Outcome State Fault Refusal :=
  let limit := s.fget rf_fabHostCtl_pfcWatchdogMs
  done (match smGet none (s.port port).paused prio with
    | some t =>
      if limit ≠ 0 ∧ s.since t (ms limit) then
        let s := s.unpause port prio
        let x := s.port port
        let gone := x.packets.filter (·.1 = some prio.val)
        let s := s.setPort port { x with
          packets := x.packets.filter (·.1 ≠ some prio.val), ignoring := x.ignoring ++ [prio.val] }
        let s := s.count .fabPortCount port 9 gone.length
        s.raiseMod 0x4008 (s.portInfo port gone.length)
      else s
    | none => s)

/-- 100 ms without a pause frame: pauses of the priority are honoured again. -/
def execPfcWatchdogClear (port : Fin 4) (prio : Fin 8) (s : State) : Host.Outcome State Fault Refusal :=
  let x := s.port port
  done (if x.ignoring.contains prio.val ∧ s.since (smGet 0 x.lastPause prio) (ms 100) then
      s.setPort port { x with ignoring := x.ignoring.filter (· ≠ prio.val) }
    else s)

/-! ### What the passing of time does at the ports -/

/-- A queue pair of a host window that no command has shown yet. -/
def State.windowQp (s : State) : QpConf := ⟨none, 4096, some (s.fget rf_fabHostCtl_pfcPrioA), 0, 7, 0, 0⟩

/-- A request that the module made takes its sequence numbers and joins its port's queue. -/
def State.takeRoce (s : State) (m : Msg) : State :=
  match m with
  | .roce r =>
    let x := match smGet none s.fab.qps r.qpn with
      | some x => x
      | none => .new s.windowQp r.port
    if x.err then s.hostFails r
    else
      let r := { r with psn := x.psn }
      let x := { x with psn := (x.psn + psnSpan x.conf r) % 2 ^ 24, sent := x.sent ++ [(r, lastPsn x.conf r, s.tick)] }
      (s.setQp r.qpn x).packetOut r.port (qpPrio r.qpn x.conf) r
  | _ => s

/-- The partition whose host bucket covers a message. -/
def State.qpPart (s : State) (n : Nat) : Option Nat :=
  match smGet none s.fab.qps n with
  | some x => x.conf.part.map (·.val)
  | none => none

/-- The class of a priority among the two of PFC. -/
def State.pfcClass (s : State) (prio : Nat) : Nat := b2n (prio = s.fget rf_fabHostCtl_pfcPrioB)

/-- What a message costs in host bandwidth: its configuration, and its bytes. -/
def State.hostCost (s : State) (r : Roce) : QpConf × Nat :=
  let c := match smGet none s.fab.qps r.qpn with
    | some x => x.conf
    | none => s.windowQp
  (c, roceBytes c r)

/-- Neither a pause nor the host bucket of the partition stops the message; a bucket that is full lets a message through that is
larger than its burst, since its packets leave one by one (R414). -/
def State.hostReady (s : State) (n : Nat) (prio : Option Nat) (r : Roce) : Bool :=
  let paused : Bool := match prio with
    | some k => (smGet none (s.port n).paused k).isSome
    | none => false
  let covered : Bool := match s.qpPart r.qpn with
    | some p => s.fget rf_fabShape_hostCap p = 0
        || min (s.hostCost r).2 (1024 * s.fget rf_fabShape_burstKib p) ≤ smGet 0 s.fab.hostBucket p
    | none => true
  !paused && covered

/-- The message of a host port's queue that leaves next: those of strict priority before the two PFC priorities, and of these
the one that has sent fewer bytes; within a class the oldest of those that are ready, and no message before an older one of its
queue pair (R418). -/
def State.hostNext (s : State) (n : Nat) : Option (Nat × Option Nat × Roce) :=
  let qs := (s.port n).packets.zipIdx.map fun ((prio, r), i) => (i, prio, r)
  let ready := qs.filter fun (i, prio, r) => s.hostReady n prio r && qs.all fun (j, _, o) => i ≤ j || o.qpn ≠ r.qpn
  let inClass := fun k => ready.find? fun (_, prio, _) => prio.any fun a => s.pfcClass a = k
  match ready.find? fun (_, prio, _) => prio.isNone with
  | some e => some e
  | none => match inClass 0, inClass 1 with
    | some a, some b => some (if smGet 0 (s.port n).served 1 < smGet 0 (s.port n).served 0 then b else a)
    | some a, none => some a
    | none, b => b

/-- Sends what a host port's queue holds and nothing stops. -/
def State.hostSend (s : State) (n : Nat) : Nat → State
  | 0 => s
  | k + 1 => match s.hostNext n with
    | some (i, prio, r) =>
      let (c, b) := s.hostCost r
      let x := s.port n
      let s := s.setPort n { x with
        packets := x.packets.eraseIdx i
        served := match prio with
          | some a => smSet 0 x.served (s.pfcClass a) (smGet 0 x.served (s.pfcClass a) + b)
          | none => x.served }
      let s := match s.qpPart r.qpn with
        | some p => if s.fget rf_fabShape_hostCap p = 0 then s
          else s.withFab { s.fab with hostBucket := smSet 0 s.fab.hostBucket p (smGet 0 s.fab.hostBucket p - b) }
        | none => s
      (((s.send (.packet r)).count .fabPortCount n 0 (packetsOf c r.payload.length)).count .fabPortCount n 2 b).hostSend n k
    | none => s

/-- Every host port sends. -/
def State.pumpHost (s : State) : State :=
  (List.range 4).foldl (fun s n =>
    if s.link n = lsUp then (s.hostSend n (s.port n).packets.length).portDrained n else s) s

/-- What the module has sent since the last tick enters the fabric and the host ports, and every port sends what it can. -/
def State.pump (s : State) : State :=
  let new := s.out.drop s.fab.taken
  let s := s.withFab { s.fab with taken := s.out.length }
  let s := new.foldl (fun s m => (s.takeMsg m).takeRoce m) s
  s.pumpFabric.pumpHost

end Sys2Proof.Machine
end

