-- ==== Sys2Proof/Machine/Drain.lean ====
section
/-! DEFINITION. The end of a drain timeout (R131, R132, R399), and what the passing of time does in the whole module. -/
namespace Sys2Proof.Machine

/-- Cuts what remains of a function, and its record ends. A core stands for its three streams, and a partition for its cores
and solver units, which count their own timeouts; a port discards the frames it holds and closes. -/
def State.cutFunc (s : State) (f : Func) : State :=
  let s := s.withDrains (s.drains.filter (·.1 ≠ f))
  match f with
  | .stream k st => (s.cutStream k st).afterComplete k st
  | .core k =>
    -- the Gram unit works for the core that configured the slot: log entry 140
    ((List.range 3).foldl (fun s st => (s.cutStream k st).afterComplete k st) s).gramCut (clusterOf k) fun t => t.core = k.val
  | .solver c => s.cutSolver c
  | .port n => if (s.port n).draining then s.portClose n else s
  | .partition p => (s.clustersOf p).foldl (fun s c => s.gramCut c fun _ => true) s

/-- DRAIN_TIMEOUT of a function whose drain began at least its timeout ago. While a partition is being pre-empted or is saved
its drains stand still (R133). -/
def execDrainTimeout (f : Func) (s : State) : Host.Outcome State Fault Refusal :=
  done (match s.drains.find? (·.1 = f) with
    | some (_, t) =>
      let runs : Bool := (List.range 16).all fun p => !s.ownsFunc p f || s.admits p
      if runs && s.since t (s.drainLimit f) then s.cutFunc f else s
    | none => s)

end Sys2Proof.Machine
end

