-- ==== Sys2Proof/Machine/Wake.lean ====
section
/-! DEFINITION. The phases of a domain's entry and exit (R491, R492, R494), and the start and end of a self-test's hold on its
target (R518, R519, R522). -/
namespace Sys2Proof.Machine

/-! ### Admission reopens -/

/-- Accesses held at a domain proceed: descriptors, and register writes in their order. -/
def State.reopen (s : State) (d : Nat) : State :=
  let x := s.dom d
  let s := s.setDom d { x with heldSince := none, heldWrites := [] }
  let s := x.heldWrites.foldl (fun s (a, k, v) => applyReg a k v.toNat s) s
  (s.flights.filter fun f => f.phase = .held d).foldl (fun s fl => s.resume fl) s

/-- Nanoseconds since an access was first held. -/
def State.stall (s : State) (d : Nat) : Nat :=
  match (s.dom d).heldSince with
  | some t => s.tick - t
  | none => 0

/-- A module state that the domain is still to reach once it is in D0 (R486). -/
def State.toNext (s : State) (d : Nat) : State :=
  let x := s.dom d
  let s := s.setDom d { x with next := none }
  match x.next with
  | some st => if st ≠ 0 ∧ s.mayEnter d st false then s.enterLow d st else s
  | none => s

/-- The domain is STABLE in D0 again. -/
def State.toD0 (s : State) (d : Nat) : State :=
  let s := ((s.fset rf_pwrDomainStatus_state d 0 0).setPhase d phStable).fset rf_pwrDomainCtl_requested d 0 0
  s.setDom d { s.dom d with wake := false }

/-- An entry is abandoned at a point, 4 for the timeout (R491, R492). -/
def State.abandon (s : State) (d point : Nat) : State :=
  let s := ((s.toD0 d).fset rf_pwrDomainStatus_lastAbort d 0 point).count .pwrCount 2 0
  let s := if point = 4 then (s.fset rf_pwrDomainStatus_entryError d 0 1).domEvent 0x8006 d 0
    else s.domEvent 0x8002 d point
  ((s.reopen d).toNext d).advance

/-- A wake event ends the entry at the next point (R492). -/
def State.aborts (s : State) (d : Nat) : Bool := (s.dom d).wake && s.fbit rf_pwrDomainCtl_abortEnable d

/-! ### Entry (R491) -/

/-- Admission has stopped: point A1. -/
def execDomainAdmissionStopped (domain : Fin 128) (s : State) : Host.Outcome State Fault Refusal :=
  let d := domain.val
  done (if s.domPhase d ≠ phStopping then s
    else if s.aborts d then s.abandon d 1
    else (s.setPhase d phDraining).setDom d { s.dom d with drainTick := s.tick })

/-- Every engine of the domain is at a pre-emption point, or stopped at the domain's own boundary, and every outstanding operation
has completed. -/
def State.domDrained (s : State) (d : Nat) : Bool :=
  !s.tested d &&
    if d < 80 then (s.flights.all fun f =>
      engineDomain f.core (engineOf (hOpcode f.bytes)) ≠ d || atPoint f || f.phase = .held d)
        && (d < 64 || (s.gramSlot (d - 64)).isNone)
    else if d < 84 then true
    else if d < 96 then (List.range 16).all fun p => (s.part p).adds.all fun a => s.domOfPa a.pa ≠ some d
    else if d < 112 then (s.port (d - 96)).txq.isEmpty
    else if d = domTaproot then s.flights.all fun f => !isTap f.bytes || atPoint f
    else true

/-- The domain has drained: point A2. -/
def execDomainDrained (domain : Fin 128) (s : State) : Host.Outcome State Fault Refusal :=
  let d := domain.val
  done (if s.domPhase d ≠ phDraining ∨ ¬ s.domDrained d then s
    else if s.aborts d then s.abandon d 2
    else s.setPhase d (if s.fget rf_pwrDomainCtl_requested d = 1 then phIsolating else phSaving))

/-- DRAINING has lasted entry_timeout_us; a running test's time is not counted (R521). -/
def execDomainEntryTimeout (domain : Fin 128) (s : State) : Host.Outcome State Fault Refusal :=
  let d := domain.val
  done (if s.domPhase d = phDraining ∧ ¬ s.tested d
      ∧ s.since (s.dom d).drainTick (us (s.fget rf_pwrDomainCtl_entryTimeoutUs d)) then s.abandon d 4
    else s)

/-- What is to be kept is saved: point A3. -/
def execDomainRetained (domain : Fin 128) (s : State) : Host.Outcome State Fault Refusal :=
  let d := domain.val
  done (if s.domPhase d ≠ phSaving then s
    else if s.aborts d then s.abandon d 3
    else s.setPhase d phIsolating)

/-- The outputs are isolated: the entry commits. -/
def execDomainIsolated (domain : Fin 128) (s : State) : Host.Outcome State Fault Refusal :=
  let d := domain.val
  done (if s.domPhase d ≠ phIsolating then s
    else
      let s := s.fset rf_pwrDomainStatus_state d 0 (s.fget rf_pwrDomainCtl_requested d)
      ((s.setPhase d phStable).count .pwrCount 1 0).advance)

/-! ### Exit (R489, R491, R494) -/

/-- A wake event has arrived: the domain exits, a core or cluster domain once its die uncore is awake. -/
def execDomainWake (domain : Fin 128) (s : State) : Host.Outcome State Fault Refusal :=
  let d := domain.val
  let up : Bool := match uncoreOf d with
    | some u => s.awake u
    | none => true
  done (if s.domState d ≠ 0 ∧ s.domPhase d = phStable ∧ (s.dom d).wake ∧ up then s.setPhase d phExiting else s)

/-- A domain leaves D3: its SRAM is zero and its registers are at reset, with the profile values written again; a stack trains,
and a port's link trains (R382, R396, R488, R490). -/
def State.fromOff (s : State) (d : Nat) (t : Train) : State :=
  let scan := s.fget rf_tapStatus_scanPending
  let plan := s.fget rf_hbmStackStatus_planRefresh (d - 84)
  let s := s.withRegs (s.regs.filter fun (k, _) => regDomain k ≠ some d || k.reg = .tapNs)
  if d < 64 then
    let s := s.clearRange (coreStoreBase + 0x800000 * d) 0x800000
    let s := (List.range 3).foldl (fun s st => s.setWindow d st []) s
    ((s.withTiles (s.tiles.filter fun (k, _) => k / 262144 ≠ d)).withLattices (smSet .reset s.lattices d .reset))
  else if d < 80 then
    let c := d - 64
    let s := s.clearRange (clusterStoreBase + 0x2000000 * c) 0x2000000
    (s.withTaps (s.taps.filter fun (k, _) => k / 16 ≠ c))
  else if d < 84 then s
  else if d < 96 then
    let s := s.stackProfile (d - 84)
    ((s.fset rf_hbmStackStatus_planRefresh (d - 84) 0 plan).effRefresh (d - 84)).train (d - 84) t
  else if d < 112 then s.portStart (d - 96)
  else if d = domTaproot then
    (s.tapProfile.fset rf_tapStatus_scanPending 0 0 scan).fset rf_tapStatus_ready 0 0 1
  else s

/-- The domain is ready: it is in D0 and admission reopens; a stall is reported once per wake. -/
def execDomainReady (domain : Fin 128) (train : Train) (s : State) : Host.Outcome State Fault Refusal :=
  let d := domain.val
  done (if s.domPhase d ≠ phExiting then s
    else
      let was := s.domState d
      let held := (s.dom d).heldSince.isSome
      let ns := s.stall d
      let s := if was = 3 then s.fromOff d train else s
      let s := s.toD0 d
      let s := if held then (s.raiseMod 0x8001 ⟨6, d, 0, ns, was⟩).count .pwrCount 0 0 else s
      ((s.reopen d).toNext d).advance)

/-! ### The end of a self-test (R518, R519, R522) -/

/-- A core or solver unit that failed its test is disabled. -/
def State.testFailed (s : State) (code target : Nat) : State :=
  if code = 0x10 then
    let k := Fin.ofNat 64 target
    (List.finRange 3).foldl (fun s st => streamDisable k st s) (s.kill (.core k))
  else if code = 0x12 then
    let c := Fin.ofNat 16 target
    solverDisable c (s.kill (.solver c))
  else s

/-- A running test ends; `exceeds` is that a retention sweep's failures exceed the limit. -/
def execTestComplete (code : BitVec 8) (target : BitVec 16) (pass exceeds : Bool) (s : State) :
    Host.Outcome State Fault Refusal :=
  let c := code.toNat
  let n := target.toNat
  done (match s.age.running.find? fun t => t.code = c ∧ t.target = n with
    | some t =>
      if ¬ s.since t.tick (s.testTicks c) then s
      else
        let s := s.withAge { s.age with running := s.age.running.erase t }
        let s := (s.testEnds c n pass).undrain t
        let s := if pass then s else s.testFailed c n
        let s := if c = 0x11 ∧ exceeds then
            (s.fset rf_hbmStackStatus_planRefresh (n / 32) 0 2).effRefresh (n / 32)
          else s
        let s := match testBackground c, testDomain c n with
          | false, some d => (s.count .ageCount 3 0 (s.stall d / 1000)).reopen d
          | _, _ => s
        s.syncTests
    | none => s)

end Sys2Proof.Machine
end

