-- ==== Sys2Proof/Machine/Dispatch.lean ====
section
/-! DEFINITION. Which meaning each command has: one arm per constructor, each one direct call. -/
namespace Sys2Proof.Machine

/-- The effect of a command on everything but the queue. -/
def exec (i : Instr) (s : State) : Host.Outcome State Fault Refusal :=
  match i with
  | .doorbell core value => Sys2Proof.Machine.execDoorbell core value s
  | .descriptorFetch core stream => Sys2Proof.Machine.execDescriptorFetch core stream s
  | .deferLimitExpire core stream n => Sys2Proof.Machine.execDeferLimitExpire core stream n s
  | .descriptorComplete core stream n => Sys2Proof.Machine.execDescriptorComplete core stream n s
  | .streamEnable core stream => Sys2Proof.Machine.execStreamEnable core stream s
  | .streamDisable core stream => Sys2Proof.Machine.execStreamDisable core stream s
  | .streamRestart core stream => Sys2Proof.Machine.execStreamRestart core stream s
  | .streamBaseWrite core stream value => Sys2Proof.Machine.execStreamBaseWrite core stream value s
  | .tokenWrite core cluster t value => Sys2Proof.Machine.execTokenWrite core cluster t value s
  | .drainTimeout f => Sys2Proof.Machine.execDrainTimeout f s
  | .matMma core stream n => Sys2Proof.Machine.execMatMma core stream n s
  | .tapQueueRoom core => Sys2Proof.Machine.execTapQueueRoom core s
  | .matLoadAcc core stream n => Sys2Proof.Machine.execMatLoadAcc core stream n s
  | .sequentialPreload core stream n => Sys2Proof.Machine.execSequentialPreload core stream n s
  | .matStoreAcc core stream n => Sys2Proof.Machine.execMatStoreAcc core stream n s
  | .matSwap core stream n => Sys2Proof.Machine.execMatSwap core stream n s
  | .latticeSolverGrant core => Sys2Proof.Machine.execLatticeSolverGrant core s
  | .vecMap core stream n => Sys2Proof.Machine.execVecMap core stream n s
  | .vecReduce core stream n => Sys2Proof.Machine.execVecReduce core stream n s
  | .vecShuffle core stream n => Sys2Proof.Machine.execVecShuffle core stream n s
  | .vecConvert core stream n => Sys2Proof.Machine.execVecConvert core stream n s
  | .softmaxStep core stream n => Sys2Proof.Machine.execSoftmaxStep core stream n s
  | .softmaxFinal core stream n => Sys2Proof.Machine.execSoftmaxFinal core stream n s
  | .vecWiden core stream n => Sys2Proof.Machine.execVecWiden core stream n s
  | .dmaCopy core stream n => Sys2Proof.Machine.execDmaCopy core stream n s
  | .dmaGather core stream n => Sys2Proof.Machine.execDmaGather core stream n s
  | .dmaScatter core stream n => Sys2Proof.Machine.execDmaScatter core stream n s
  | .dmaFill core stream n => Sys2Proof.Machine.execDmaFill core stream n s
  | .dmaTapRead core stream n found => Sys2Proof.Machine.execDmaTapRead core stream n found s
  | .dmaTapWrite core stream n found => Sys2Proof.Machine.execDmaTapWrite core stream n found s
  | .tapTrim core stream n => Sys2Proof.Machine.execTapTrim core stream n s
  | .redContrib core stream n => Sys2Proof.Machine.execRedContrib core stream n s
  | .redBucketOpen core stream n => Sys2Proof.Machine.execRedBucketOpen core stream n s
  | .redBucketWait core stream n => Sys2Proof.Machine.execRedBucketWait core stream n s
  | .colGather core stream n => Sys2Proof.Machine.execColGather core stream n s
  | .colPermute core stream n => Sys2Proof.Machine.execColPermute core stream n s
  | .exchangeDispatch core stream n => Sys2Proof.Machine.execExchangeDispatch core stream n s
  | .exchangeCombine core stream n => Sys2Proof.Machine.execExchangeCombine core stream n s
  | .colRing core stream n => Sys2Proof.Machine.execColRing core stream n s
  | .crvTapCfg core stream n => Sys2Proof.Machine.execCrvTapCfg core stream n s
  | .gramFlush core stream n => Sys2Proof.Machine.execGramFlush core stream n s
  | .gramExplicit core stream n => Sys2Proof.Machine.execGramExplicit core stream n s
  | .gramBatch cluster slot => Sys2Proof.Machine.execGramBatch cluster slot s
  | .crvEma core stream n => Sys2Proof.Machine.execCrvEma core stream n s
  | .crvDamp core stream n => Sys2Proof.Machine.execCrvDamp core stream n s
  | .crvNormal core stream n => Sys2Proof.Machine.execCrvNormal core stream n s
  | .crvStencil core stream n => Sys2Proof.Machine.execCrvStencil core stream n s
  | .slvChol core stream n => Sys2Proof.Machine.execSlvChol core stream n s
  | .slvLdlt core stream n => Sys2Proof.Machine.execSlvLdlt core stream n s
  | .slvTrsm core stream n => Sys2Proof.Machine.execSlvTrsm core stream n s
  | .slvTrinv core stream n => Sys2Proof.Machine.execSlvTrinv core stream n s
  | .slvIroot core stream n => Sys2Proof.Machine.execSlvIroot core stream n s
  | .slvEigj core stream n => Sys2Proof.Machine.execSlvEigj core stream n s
  | .slvPublish core stream n => Sys2Proof.Machine.execSlvPublish core stream n s
  | .publishDiscard core stream n => Sys2Proof.Machine.execPublishDiscard core stream n s
  | .solverSelect cluster => Sys2Proof.Machine.execSolverSelect cluster s
  | .solverDeadline cluster => Sys2Proof.Machine.execSolverDeadline cluster s
  | .solverDisable cluster => Sys2Proof.Machine.execSolverDisable cluster s
  | .updStage core stream n => Sys2Proof.Machine.execUpdStage core stream n s
  | .updSweep core stream n => Sys2Proof.Machine.execUpdSweep core stream n s
  | .updStats core stream n => Sys2Proof.Machine.execUpdStats core stream n s
  | .updRollback core stream n => Sys2Proof.Machine.execUpdRollback core stream n s
  | .synWait core stream n => Sys2Proof.Machine.execSynWait core stream n s
  | .synSignal core stream n => Sys2Proof.Machine.execSynSignal core stream n s
  | .synFence core stream n => Sys2Proof.Machine.execSynFence core stream n s
  | .synStep core stream n => Sys2Proof.Machine.execSynStep core stream n s
  | .ctlNop core stream n => Sys2Proof.Machine.execCtlNop core stream n s
  | .ctlHalt core stream n => Sys2Proof.Machine.execCtlHalt core stream n s
  | .accumulate f => Sys2Proof.Machine.execAccumulate f s
  | .lineAdd p bucket contributor line => Sys2Proof.Machine.execLineAdd p bucket contributor line s
  | .responseTimeout reqId => Sys2Proof.Machine.execResponseTimeout reqId s
  | .retryIntervalExpire reqId => Sys2Proof.Machine.execRetryIntervalExpire reqId s
  | .stepReadySend p job => Sys2Proof.Machine.execStepReadySend p job s
  | .stepReady f => Sys2Proof.Machine.execStepReady f s
  | .stepTimeout job => Sys2Proof.Machine.execStepTimeout job s
  | .verdict f => Sys2Proof.Machine.execVerdict f s
  | .sweepDone f => Sys2Proof.Machine.execSweepDone f s
  | .commit f => Sys2Proof.Machine.execCommit f s
  | .parityApplied f => Sys2Proof.Machine.execParityApplied f s
  | .settled f => Sys2Proof.Machine.execSettled f s
  | .stepMessageResend reqId => Sys2Proof.Machine.execStepMessageResend reqId s
  | .stepMessageAck reqId => Sys2Proof.Machine.execStepMessageAck reqId s
  | .wodricWrite f x => Sys2Proof.Machine.execWodricWrite f x s
  | .wodricRead f x => Sys2Proof.Machine.execWodricRead f x s
  | .ringCommit f => Sys2Proof.Machine.execRingCommit f s
  | .exchCount f x => Sys2Proof.Machine.execExchCount f x s
  | .exchGrant f => Sys2Proof.Machine.execExchGrant f s
  | .exchFinished f => Sys2Proof.Machine.execExchFinished f s
  | .exchReturned f => Sys2Proof.Machine.execExchReturned f s
  | .permutePart f => Sys2Proof.Machine.execPermutePart f s
  | .response f x => Sys2Proof.Machine.execResponse f x s
  | .routedFrame port seq fcs shared header f c => Sys2Proof.Machine.execRoutedFrame port seq fcs shared header f c s
  | .flow port src payload => Sys2Proof.Machine.execFlow port src payload s
  | .flowFrameSend port => Sys2Proof.Machine.execFlowFrameSend port s
  | .linkRetryTimeout port => Sys2Proof.Machine.execLinkRetryTimeout port s
  | .linkResendLimit port => Sys2Proof.Machine.execLinkResendLimit port s
  | .portEnable port => Sys2Proof.Machine.execPortEnable port s
  | .portDisable port => Sys2Proof.Machine.execPortDisable port s
  | .linkTrained port => Sys2Proof.Machine.execLinkTrained port s
  | .linkTrainedDegraded port high => Sys2Proof.Machine.execLinkTrainedDegraded port high s
  | .trainingTimeout port => Sys2Proof.Machine.execTrainingTimeout port s
  | .laneFault port lanes => Sys2Proof.Machine.execLaneFault port lanes s
  | .linkIdleTimeout port => Sys2Proof.Machine.execLinkIdleTimeout port s
  | .relaneTrained port high => Sys2Proof.Machine.execRelaneTrained port high s
  | .relaneTimeout port => Sys2Proof.Machine.execRelaneTimeout port s
  | .downRetrain port => Sys2Proof.Machine.execDownRetrain port s
  | .fabCoordWrite value => Sys2Proof.Machine.execFabCoordWrite value s
  | .coordTakeEffect => Sys2Proof.Machine.execCoordTakeEffect s
  | .shaperRefill p => Sys2Proof.Machine.execShaperRefill p s
  | .roceSend r c buffer => Sys2Proof.Machine.execRoceSend r c buffer s
  | .rdmaWrite r c => Sys2Proof.Machine.execRdmaWrite r c s
  | .rdmaRead r c => Sys2Proof.Machine.execRdmaRead r c s
  | .compareAndSwap r c => Sys2Proof.Machine.execCompareAndSwap r c s
  | .fetchAndAdd r c => Sys2Proof.Machine.execFetchAndAdd r c s
  | .accumulateWrite r c => Sys2Proof.Machine.execAccumulateWrite r c s
  | .pfcPause port prio pause => Sys2Proof.Machine.execPfcPause port prio pause s
  | .pfcWatchdog port prio => Sys2Proof.Machine.execPfcWatchdog port prio s
  | .cnp qpn => Sys2Proof.Machine.execCnp qpn s
  | .cnpRateIncrease qpn => Sys2Proof.Machine.execCnpRateIncrease qpn s
  | .faultResolveRetry p faultId => Sys2Proof.Machine.execFaultResolveRetry p faultId s
  | .faultResolveFail p faultId => Sys2Proof.Machine.execFaultResolveFail p faultId s
  | .faultTimeout p faultId => Sys2Proof.Machine.execFaultTimeout p faultId s
  | .xltInval p value => Sys2Proof.Machine.execXltInval p value s
  | .invalidationDone p => Sys2Proof.Machine.execInvalidationDone p s
  | .preemptRequest p => Sys2Proof.Machine.execPreemptRequest p s
  | .preemptStopped p => Sys2Proof.Machine.execPreemptStopped p s
  | .saveDone p => Sys2Proof.Machine.execSaveDone p s
  | .preemptResume p => Sys2Proof.Machine.execPreemptResume p s
  | .restoreDone p => Sys2Proof.Machine.execRestoreDone p s
  | .preemptRelease p => Sys2Proof.Machine.execPreemptRelease p s
  | .armPreempt p => Sys2Proof.Machine.execArmPreempt p s
  | .saveBaseWrite p value => Sys2Proof.Machine.execSaveBaseWrite p value s
  | .hbmSensorRead stack temp => Sys2Proof.Machine.execHbmSensorRead stack temp s
  | .hbmTempLowerHold stack => Sys2Proof.Machine.execHbmTempLowerHold stack s
  | .hbmThrottleEnd stack => Sys2Proof.Machine.execHbmThrottleEnd stack s
  | .hbmRefresh stack => Sys2Proof.Machine.execHbmRefresh stack s
  | .scrubLine line bad => Sys2Proof.Machine.execScrubLine line bad s
  | .scrubPeriodBoundary => Sys2Proof.Machine.execScrubPeriodBoundary s
  | .regulatorRefill => Sys2Proof.Machine.execRegulatorRefill s
  | .channelSchedule stack pc waiting => Sys2Proof.Machine.execChannelSchedule stack pc waiting s
  | .regRateWrite stack p value => Sys2Proof.Machine.execRegRateWrite stack p value s
  | .hardRepair value => Sys2Proof.Machine.execHardRepair value s
  | .hardRepairDone ok => Sys2Proof.Machine.execHardRepairDone ok s
  | .managerModeActive => Sys2Proof.Machine.execManagerModeActive s
  | .managerModeStandby => Sys2Proof.Machine.execManagerModeStandby s
  | .coordOffer port kx ky kz x y z => Sys2Proof.Machine.execCoordOffer port kx ky kz x y z s
  | .join g role layout units conflict plan => Sys2Proof.Machine.execJoin g role layout units conflict plan s
  | .admission g term manager standby standbyValid spare => Sys2Proof.Machine.execAdmission g term manager standby standbyValid spare s
  | .pulseSend => Sys2Proof.Machine.execPulseSend s
  | .pulse g term restarting failed => Sys2Proof.Machine.execPulse g term restarting failed s
  | .lossTimeout module => Sys2Proof.Machine.execLossTimeout module s
  | .sapwoodGraceTimeout module => Sys2Proof.Machine.execSapwoodGraceTimeout module s
  | .linkReport g port state partner => Sys2Proof.Machine.execLinkReport g port state partner s
  | .faultMap g modules _links gen upMask tables => Sys2Proof.Machine.execFaultMap g modules _links gen upMask tables s
  | .lost g modules r target => Sys2Proof.Machine.execLost g modules r target s
  | .rollbackDone g r => Sys2Proof.Machine.execRollbackDone g r s
  | .activate g lost r p writes regs => Sys2Proof.Machine.execActivate g lost r p writes regs s
  | .activated g r => Sys2Proof.Machine.execActivated g r s
  | .reconstruct g r lost => Sys2Proof.Machine.execReconstruct g r lost s
  | .rebuildForward p bucket => Sys2Proof.Machine.execRebuildForward p bucket s
  | .spareFinalise p factors => Sys2Proof.Machine.execSpareFinalise p factors s
  | .reconstructDone g r => Sys2Proof.Machine.execReconstructDone g r s
  | .reshard g epoch map plan encode => Sys2Proof.Machine.execReshard g epoch map plan encode s
  | .reshardDone g r => Sys2Proof.Machine.execReshardDone g r s
  | .resume g epoch lsExp => Sys2Proof.Machine.execResume g epoch lsExp s
  | .mirror g j peers => Sys2Proof.Machine.execMirror g j peers s
  | .takeover g term => Sys2Proof.Machine.execTakeover g term s
  | .configImage g img => Sys2Proof.Machine.execConfigImage g img s
  | .encode g epoch => Sys2Proof.Machine.execEncode g epoch s
  | .parityApply p => Sys2Proof.Machine.execParityApply p s
  | .tapDieLost die silent => Sys2Proof.Machine.execTapDieLost die silent s
  | .dieRebuildDone die => Sys2Proof.Machine.execDieRebuildDone die s
  | .retentionAgeTick temps => Sys2Proof.Machine.execRetentionAgeTick temps s
  | .tapScrub block found heavy => Sys2Proof.Machine.execTapScrub block found heavy s
  | .readDisturbRewrite block => Sys2Proof.Machine.execReadDisturbRewrite block s
  | .wearLevelMove => Sys2Proof.Machine.execWearLevelMove s
  | .allowanceAccrue => Sys2Proof.Machine.execAllowanceAccrue s
  | .moduleStateM0 => Sys2Proof.Machine.execModuleStateM0 s
  | .moduleStateM1 => Sys2Proof.Machine.execModuleStateM1 s
  | .moduleStateM2 => Sys2Proof.Machine.execModuleStateM2 s
  | .moduleStateM3 => Sys2Proof.Machine.execModuleStateM3 s
  | .domainRequestD0 domain => Sys2Proof.Machine.execDomainRequestD0 domain s
  | .domainRequestD1 domain => Sys2Proof.Machine.execDomainRequestD1 domain s
  | .domainRequestD2 domain => Sys2Proof.Machine.execDomainRequestD2 domain s
  | .domainRequestD3 domain => Sys2Proof.Machine.execDomainRequestD3 domain s
  | .domainAdmissionStopped domain => Sys2Proof.Machine.execDomainAdmissionStopped domain s
  | .domainDrained domain => Sys2Proof.Machine.execDomainDrained domain s
  | .domainRetained domain => Sys2Proof.Machine.execDomainRetained domain s
  | .domainIsolated domain => Sys2Proof.Machine.execDomainIsolated domain s
  | .domainEntryTimeout domain => Sys2Proof.Machine.execDomainEntryTimeout domain s
  | .domainWake domain => Sys2Proof.Machine.execDomainWake domain s
  | .domainReady domain train => Sys2Proof.Machine.execDomainReady domain train s
  | .pwrLimitWrite value => Sys2Proof.Machine.execPwrLimitWrite value s
  | .pwrVwindowWrite value => Sys2Proof.Machine.execPwrVwindowWrite value s
  | .dieTargetWrite die value => Sys2Proof.Machine.execDieTargetWrite die value s
  | .avsAck die => Sys2Proof.Machine.execAvsAck die s
  | .avsTimeout die => Sys2Proof.Machine.execAvsTimeout die s
  | .frequencyStep die => Sys2Proof.Machine.execFrequencyStep die s
  | .powerCapTick watts deciVolts => Sys2Proof.Machine.execPowerCapTick watts deciVolts s
  | .powerCapRaise => Sys2Proof.Machine.execPowerCapRaise s
  | .thermalThrottleTick die temp => Sys2Proof.Machine.execThermalThrottleTick die temp s
  | .thermalRelease die => Sys2Proof.Machine.execThermalRelease die s
  | .monitorRead die crit sram => Sys2Proof.Machine.execMonitorRead die crit sram s
  | .serdesMarginRead lane height width corrected uncorrectable => Sys2Proof.Machine.execSerdesMarginRead lane height width corrected uncorrectable s
  | .planPeriod => Sys2Proof.Machine.execPlanPeriod s
  | .replan => Sys2Proof.Machine.execReplan s
  | .serdesEyeScan lane => Sys2Proof.Machine.execSerdesEyeScan lane s
  | .pathMonitorRead die => Sys2Proof.Machine.execPathMonitorRead die s
  | .hbmScrubPass stack => Sys2Proof.Machine.execHbmScrubPass stack s
  | .taprootScrubPass => Sys2Proof.Machine.execTaprootScrubPass s
  | .coreLogicSelfTest core drain timeoutMs => Sys2Proof.Machine.execCoreLogicSelfTest core drain timeoutMs s
  | .hbmRetentionSweep stack channel drain timeoutMs => Sys2Proof.Machine.execHbmRetentionSweep stack channel drain timeoutMs s
  | .dsuCheck cluster drain timeoutMs => Sys2Proof.Machine.execDsuCheck cluster drain timeoutMs s
  | .fullSerdesRetraining agent port => Sys2Proof.Machine.execFullSerdesRetraining agent port s
  | .taprootDieTest agent die => Sys2Proof.Machine.execTaprootDieTest agent die s
  | .testStart => Sys2Proof.Machine.execTestStart s
  | .testComplete code target pass exceeds => Sys2Proof.Machine.execTestComplete code target pass exceeds s
  | .testExpire => Sys2Proof.Machine.execTestExpire s
  | .pwrEnRise => Sys2Proof.Machine.execPwrEnRise s
  | .pwrEnFall => Sys2Proof.Machine.execPwrEnFall s
  | .resetAssert => Sys2Proof.Machine.execResetAssert s
  | .coldBoot profsel slotId trains survey plan => Sys2Proof.Machine.execColdBoot profsel slotId trains survey plan s
  | .warmRestart key trains survey plan => Sys2Proof.Machine.execWarmRestart key trains survey plan s
  | .inputUndervoltage => Sys2Proof.Machine.execInputUndervoltage s
  | .thermalTrip sensor temp => Sys2Proof.Machine.execThermalTrip sensor temp s
  | .watchdogKick => Sys2Proof.Machine.execWatchdogKick s
  | .watchdogExpire intact => Sys2Proof.Machine.execWatchdogExpire intact s
  | .sapwoodControllerFault intact => Sys2Proof.Machine.execSapwoodControllerFault intact s
  | .nonceExpire => Sys2Proof.Machine.execNonceExpire s
  | .ledgerRead ch req first count => Sys2Proof.Machine.execLedgerRead ch req first count s
  | .ledgerAppend req type unit body => Sys2Proof.Machine.execLedgerAppend req type unit body s
  | .planSubmit req plan => Sys2Proof.Machine.execPlanSubmit req plan s
  | .imageWrite req kind offset bytes nvm => Sys2Proof.Machine.execImageWrite req kind offset bytes nvm s
  | .imageActivate req kind nvm => Sys2Proof.Machine.execImageActivate req kind nvm s
  | .imageConfirm req kind nvm => Sys2Proof.Machine.execImageConfirm req kind nvm s
  | .versionCommit req kind svn => Sys2Proof.Machine.execVersionCommit req kind svn s
  | .profileWrite req slot image nvm => Sys2Proof.Machine.execProfileWrite req slot image nvm s
  | .identityWrite req bytes last nvm => Sys2Proof.Machine.execIdentityWrite req bytes last nvm s
  | .debugChallenge req => Sys2Proof.Machine.execDebugChallenge req s
  | .debugUnlock req token => Sys2Proof.Machine.execDebugUnlock req token s
  | .ownerClaim req digest auth => Sys2Proof.Machine.execOwnerClaim req digest auth s
  | .getVersion via => Sys2Proof.Machine.execGetVersion via s
  | .getCapabilities via => Sys2Proof.Machine.execGetCapabilities via s
  | .negotiateAlgorithms via common => Sys2Proof.Machine.execNegotiateAlgorithms via common s
  | .getDigests via => Sys2Proof.Machine.execGetDigests via s
  | .getCertificate via slot offset length => Sys2Proof.Machine.execGetCertificate via slot offset length s
  | .challenge via slot => Sys2Proof.Machine.execChallenge via slot s
  | .getMeasurements via index => Sys2Proof.Machine.execGetMeasurements via index s
  | .keyExchange via slot => Sys2Proof.Machine.execKeyExchange via slot s
  | .finish via session ok => Sys2Proof.Machine.execFinish via session ok s
  | .heartbeat via session => Sys2Proof.Machine.execHeartbeat via session s
  | .keyUpdate via session => Sys2Proof.Machine.execKeyUpdate via session s
  | .endSession via session => Sys2Proof.Machine.execEndSession via session s
  | .pldmMonitoring sensor measured => Sys2Proof.Machine.execPldmMonitoring sensor measured s
  | .pldmFruData => Sys2Proof.Machine.execPldmFruData s
  | .entdaa address => Sys2Proof.Machine.execEntdaa address s
  | .mctpControl command eid => Sys2Proof.Machine.execMctpControl command eid s
  | .registerMessage via src secured id count ops => Sys2Proof.Machine.execRegisterMessage via src secured id count ops s
  | .registerWrite agent offset value => Sys2Proof.Machine.execRegisterWrite agent offset value s
  | .readClear queue => Sys2Proof.Machine.execReadClear queue s
  | .mqHeadWrite agent value => Sys2Proof.Machine.execMqHeadWrite agent value s
  | .pqBaseWrite p value => Sys2Proof.Machine.execPqBaseWrite p value s
  | .eventPush => Sys2Proof.Machine.execEventPush s
  | .archiveFlush => Sys2Proof.Machine.execArchiveFlush s
  | .archRead first => Sys2Proof.Machine.execArchRead first s
  | .archReadDone => Sys2Proof.Machine.execArchReadDone s
  | .roceAcknowledge r c => Sys2Proof.Machine.execRoceAcknowledge r c s
  | .roceRetryTimeout qpn c => Sys2Proof.Machine.execRoceRetryTimeout qpn c s
  | .pfcWatchdogClear port prio => Sys2Proof.Machine.execPfcWatchdogClear port prio s
  | .avsVoutRead die mv => Sys2Proof.Machine.execAvsVoutRead die mv s
  | .sapwoodRestarted => Sys2Proof.Machine.execSapwoodRestarted s
  | .moduleReady => Sys2Proof.Machine.execModuleReady s
  | .inputInRange => Sys2Proof.Machine.execInputInRange s
  | .recoveryImageWrite image => Sys2Proof.Machine.execRecoveryImageWrite image s
  | .badRequest ch req code length => Sys2Proof.Machine.execBadRequest ch req code length s
  | .testPortInstruction op => Sys2Proof.Machine.execTestPortInstruction op s

end Sys2Proof.Machine
end

