-- ==== Sys2Proof/Machine/Time.lean ====
section
/-! DEFINITION. The passing of local time (R504): what an idle tick does (assumption 5). -/
namespace Sys2Proof.Machine

/-- Deferrable descriptors that are ready are marked with the tick at which they became so (R113). -/
def State.markReady (s : State) : State :=
  s.withWindows (s.windows.map fun (k, w) => (k, w.map fun f =>
      if s.readyToDefer (k / 3) (k % 3) f then { f with ready := some (f.ready.getD s.tick) }
      else { f with ready := none }))

/-- Pre-emption requests whose drains have ended are taken (R133). -/
def State.takePreempts (s : State) : State :=
  (List.range 16).foldl (fun s p =>
    if (s.part p).preemptAsked && !s.draining p then preemptRequest p s else s) s

/-- Ticks spent SAVED are counted (R362), and an hour of run time when it has passed (R523). -/
def State.countTime (s : State) : State :=
  let s := (List.range 16).foldl (fun s p => if s.preState p = psSaved then s.count .prtCount p 4 else s) s
  if s.since s.age.hourTick (hours 1) then
    (s.fset rf_ageStatus_runHours 0 0 (s.fget rf_ageStatus_runHours + 1)).withAge { s.age with hourTick := s.tick }
  else s

/-- One tick of local time: 1 ns (R504). The 64-bit tick runs while the module has power. -/
def State.idleTick (s : State) : State :=
  if s.pins.pwrGood then
    let s := (s.progress.gramTick.markReady.pump.takePreempts).countTime
    State.settle (s.withTick (w64 (s.tick + 1)))
  else s.settle

end Sys2Proof.Machine
end

