-- ==== Sys2Proof/Safety.lean ====
section
/-! DEFINITION. The terms in which claims about the module are stated: what a safe state is, what a command may leave
unchanged, and when a descriptor issues. -/
namespace Sys2Proof.Machine

/-! ### Memory -/

/-- Memory is in its canonical form: addresses strictly rising, and no entry equal to what an unlisted address reads as. -/
def Memory.wf (m : List Host.Cell) : Bool := smWf 0 m

/-- Every byte of memory reads as before. -/
def SameMemory (s t : State) : Prop := ∀ a, t.byte a = s.byte a

/-! ### The alert (R560, R561) -/

/-- GLB_STATUS.alert and EVT_ALERT show what the module queue holds: asserted exactly while a record of at least the
least alerting severity stands between head and tail, with the highest severity there and the oldest such record. -/
def State.AlertShown (s : State) : Prop :=
  s.fbit rf_glbStatus_alert = !s.holding.isEmpty ∧ s.fbit rf_evtAlert_alerting = !s.holding.isEmpty
    ∧ s.fget rf_evtAlert_maxSeverity = s.topSeverity % 8
    ∧ ∀ r, s.holding.head? = some r → s.fget rf_evtAlert_oldestSeq = w32 r.seq

/-! ### What a command leaves unchanged -/

/-- The registers that show the alert, which every command may change. -/
def alertRegs : List RegName := [.evtAlert, .glbStatus]

/-- The registers that a record of the module queue moves. -/
def eventRegs : List RegName := [.evtMqPtr, .evtCount]

/-- Every register is as before but those named, in any element, and the alert's. -/
def RegsBut (l : List RegName) (s t : State) : Prop :=
  ∀ r i j, r ∉ l → r ∉ alertRegs → t.reg r i j = s.reg r i j

/-- Nothing but the named registers has changed, and the in-band interrupts that an alert raises. -/
def OnlyRegs (l : List RegName) (s t : State) : Prop :=
  RegsBut l s t ∧ t = { s with regs := t.regs, pins := { s.pins with ibis := t.pins.ibis } }

/-- Nothing but the named register elements has changed, the registers that show the alert, and the in-band interrupts that an
alert raises. -/
def OnlyElems (l : List RegKey) (s t : State) : Prop :=
  (∀ r i j, regKey r i j ∉ l → r ∉ alertRegs → t.reg r i j = s.reg r i j)
    ∧ t = { s with regs := t.regs, pins := { s.pins with ibis := t.pins.ibis } }

/-- As `OnlyRegs`, with events raised in the module queue. -/
def OnlyRegsEvents (l : List RegName) (s t : State) : Prop :=
  RegsBut (l ++ eventRegs) s t ∧ t = { s with regs := t.regs, evt := t.evt, pins := { s.pins with ibis := t.pins.ibis } }

/-- What a command leaves unchanged in every state: every register but those named, and the alert's; GLB_STATUS but for its
alert and, with an event of severity 5, fatal; every part of the state but the registers, the count of in-band interrupts and
the parts that `parts` takes from the state after. -/
def Within (c : Instr) (regs : List RegName) (parts : State → State → State) : Prop :=
  ∀ s t, exec c s = .next t → RegsBut regs s t
    ∧ (∀ b, b ≠ rf_glbStatus_alert.lo → b ≠ rf_glbStatus_fatal.lo → (t.reg .glbStatus).getLsbD b = (s.reg .glbStatus).getLsbD b)
    ∧ t = { parts s t with regs := t.regs, pins := { s.pins with ibis := t.pins.ibis } }

/-! ### Descriptors (R112 to R118) -/

/-- The state in which the engine of a descriptor starts: the descriptor has left the window, and the arbiters have granted
it. -/
def State.taken (s : State) (core stream : Nat) (f : Fetched) : State :=
  let (eng, s1) := s.pickEngine f
  s1.takeDesc core stream f eng

/-- The flight with which a descriptor starts. -/
def State.starts (s : State) (p core stream : Nat) (f : Fetched) : Flight :=
  newFlight (s.taken core stream f) p core stream f
    (auxAtIssue f.bytes (s.pickEngine f).1)

/-- The state once the descriptor's engine has run to its end or to where it stops: the descriptor is in flight as the engine
left it, and issue has moved on. -/
def State.ran (s : State) (p core stream : Nat) (f : Fetched) (run : Eng Unit) : State :=
  (runEng run (s.taken core stream f) (s.starts p core stream f)).issued (s.pickEngine f).2 core stream f

/-- The state once a descriptor stands in flight with no work left and no effect but its completion to come: it has left the
window, issue has moved on, and its flight is done with a status. -/
def State.placed (s : State) (p core stream : Nat) (f : Fetched) (status : Nat) : State :=
  ({ s := s.taken core stream f, fl := { s.starts p core stream f with status := status } } : Run).issued (s.pickEngine f).2 core
    stream f

/-- The descriptor is in the fetch window, is of the kind that the command names, may issue (R112 to R115), its engine
accepts it, and the engine's domain is awake. -/
structure Ready (s : State) (p core stream n : Nat) (f : Fetched) (kind : List Byte → Bool)
    (accepts : State → List Byte → Bool) : Prop where
  found : (s.window core stream).find? (fun f => f.n = n) = some f
  part : s.partOf core = some p
  kind : kind f.bytes = true
  turn : s.mayIssue core stream (s.pickEngine f).1 f = true
  takes : accepts s f.bytes = true
  awake : s.awake (engineDomain core (engineOf (hOpcode f.bytes))) = true

/-- A descriptor that issues with effect: ready, legal by its header and its chapter (R5, R117), and of the current epoch
where it asks for that (R118). -/
structure Issues (s : State) (p core stream n : Nat) (f : Fetched) (kind : List Byte → Bool)
    (accepts : State → List Byte → Bool) (legal : State → List Byte → Bool) : Prop
    extends Ready s p core stream n f kind accepts where
  header : hdrIllegal f.bytes stream = false
  legal : legal (s.taken core stream f) f.bytes = true
  epoch : hEpochCheck f.bytes = false ∨ hEpoch f.bytes = s.epoch p % 65536

/-- What a command does that issues descriptors of a kind. A descriptor that issues: its engine runs, and the unit's registers
are brought up to date. One that breaks a rule of the contract or of its chapter completes ILLEGAL with no effect (R5, R117).
One of another epoch completes VOIDED without running (R118). -/
def DescriptorCommand (c : Fin 64 → Fin 3 → BitVec 32 → Instr) (kind : List Byte → Bool)
    (accepts : Nat → Nat → Nat → State → List Byte → Bool) (legal : Nat → Nat → State → List Byte → Bool)
    (run : Eng Unit) (after : Nat → Nat → State → State) : Prop :=
  ∀ (core : Fin 64) (stream : Fin 3) (n : BitVec 32) (s : State) (p : Nat) (f : Fetched),
    (Issues s p core stream n.toNat f kind (accepts core stream p) (legal core p) →
      exec (c core stream n) s = .next (after core p (s.ran p core stream f run)).settle)
    ∧ (Ready s p core stream n.toNat f kind (accepts core stream p) →
      (hdrIllegal f.bytes stream = true ∨ legal core p (s.taken core stream f) f.bytes = false →
        exec (c core stream n) s = .next (after core p (s.placed p core stream f stIllegal)).settle)
      ∧ (hdrIllegal f.bytes stream = false → legal core p (s.taken core stream f) f.bytes = true →
        hEpochCheck f.bytes = true → hEpoch f.bytes ≠ s.epoch p % 65536 →
          exec (c core stream n) s = .next (after core p (s.placed p core stream f stVoided)).settle))

/-- Any engine state accepts. -/
def anyEngine (_ _ _ : Nat) : State → List Byte → Bool := always

/-- No unit's registers follow. -/
def noSync (_ _ : Nat) (s : State) : State := s

/-! ### Messages -/

/-- A request frame reaches its target: the module serves requests, the operation and the class are those of the request class,
the partition runs, and the sender is in its peer set; `u` is the state once the job map is read (R267, R298, R403). -/
structure Targets (op : Nat) (f : Frame) (s u : State) : Prop where
  serves : s.serves = true
  here : f.op = op ∧ f.cls = 3 ∧ sameModule f.dst (s.here 0) = true
  runs : s.admits f.dst.part = true
  peer : s.isPeer f.dst.part f.src = (true, u)

/-- A frame of an exchange at a member of its group, of an epoch that has not passed (R298, R300). -/
structure Exchanges (sub : Nat) (f : Frame) (s u : State) (ex : Exch) (m : Nat) : Prop extends Targets 0x05 f s u where
  sub : fld f.ops 0 1 = sub
  epoch : ¬ 0 < epochDiff (u.epoch f.dst.part) (fld f.ops 4 2)
  exchange : u.exchFind f.dst.part (fld f.ops 2 2) (fld f.ops 4 2) = some ex
  member : ex.memberOf f.src = some m

/-- A step message of a type that has not come before from its sender for its job and epoch (R275). -/
structure NewStep (type : Nat) (f : Frame) (s : State) : Prop where
  arrives : s.mgArrives type f = true
  fresh : (type, mgJob f, mgEpoch f, f.src) ∉ s.seen

/-- The state in which a step message is acted on: it is acknowledged, and known to have come. -/
def State.readStep (s : State) (type : Nat) (f : Frame) : State :=
  (s.respond f anAccepted 0).withSeen (s.seen ++ [(type, mgJob f, mgEpoch f, f.src)])

/-- A grove message of a type that has not come before from its sender for its job and epoch (R275, R433). -/
structure NewGrove (type epoch : Nat) (g : Mg) (s : State) : Prop where
  arrives : s.grvArrives g = true
  fresh : (type, g.job, epoch, g.src) ∉ s.seen

def State.readGrove (s : State) (type epoch : Nat) (g : Mg) : State :=
  (s.ackMg g).withSeen (s.seen ++ [(type, g.job, epoch, g.src)])

/-- The active manager keeps the job. -/
structure Manages (s : State) (job : Nat) (j : MgrJob) : Prop where
  active : s.isManager = true
  keeps : s.mgrJob job = some j

/-! ### Host ports -/

/-- A message at a host port as its queue pair takes it: counted, answered with a CNP where it is marked, and its number
expected no more (R415, R419). -/
def State.delivered (s : State) (r : Roce) (c : QpConf) : State × QpX :=
  let a := (s.count .fabPortCount r.port 1 (packetsOf c r.payload.length)).count .fabPortCount r.port 3 (roceBytes c r)
  let b := a.notify (a.qp r.qpn r.port c) r
  let x := { b.2 with expected := (b.2.expected + psnSpan c r) % 2 ^ 24 }
  ((b.1.setQp r.qpn b.2).setQp r.qpn x, x)

/-- The next message of a queue pair, of one of the operations, at a host port that is UP. -/
structure Delivers (ops : List Nat) (r : Roce) (c : QpConf) (s : State) : Prop where
  serves : s.serves = true
  port : r.port < 4 ∧ s.link r.port = lsUp
  op : ops.contains r.opcode = true
  pair : qpnOk r = true
  works : (s.delivered r c).2.err = false
  next : let a := (s.count .fabPortCount r.port 1 (packetsOf c r.payload.length)).count .fabPortCount r.port 3 (roceBytes c r)
    subMod 24 r.psn (a.notify (a.qp r.qpn r.port c) r).2.expected = 0

end Sys2Proof.Machine
end

