-- ==== Sys2Proof/WellFormed.lean ====
section
/-! DEFINITION. When a command's operands stand in the ranges the spec gives them. What a Fin or BitVec bounds needs no check
here; the checks are of the records and lists that travel in frames and messages. -/
namespace Sys2Proof

/-- Torus coordinates and partition are of four bits each (R403). -/
def Addr.wf (a : Addr) : Bool := a.x < 16 && a.y < 16 && a.z < 16 && a.part < 16

/-- The header's fields have their widths, the op_fields are 16 bytes, and the payload is at most 4,096 bytes (R403). -/
def Frame.wf (f : Frame) : Bool :=
  f.cls < 4 && f.set < 3 && f.detourGen < 16 && f.dst.wf && f.src.wf && f.hop < 256 && f.op < 256 && f.reqId < 2 ^ 32
    && f.ops.length = 16 && f.payload.length ≤ 4096

/-- A message at one of the four host ports, its fields as wide as their headers (R415 to R417). -/
def Roce.wf (r : Roce) : Bool :=
  r.port < 4 && r.qpn < 2 ^ 24 && r.opcode < 256 && r.psn < 2 ^ 24 && r.va < 2 ^ 64 && r.rkey < 2 ^ 32 && r.len < 2 ^ 32
    && r.a < 2 ^ 64 && r.b < 2 ^ 64 && r.payload.length ≤ 2 ^ 31

/-- A queue pair's priority is one of eight, and its sequence numbers are of 24 bits. -/
def QpConf.wf (c : QpConf) : Bool := 0 < c.mtu && c.prio.all (· < 8) && c.txPsn < 2 ^ 24 && c.rxPsn < 2 ^ 24

/-- Job, endpoints and request_id of a management message (R275, R403). -/
def Mg.wf (g : Mg) : Bool := g.job < 65536 && g.src.wf && g.dst.wf && g.reqId < 2 ^ 32

/-- Rank, group and position are below 4,096 (R295), and a parity record names ten ranks (R439). -/
def Image.wf (i : Image) : Bool :=
  i.rank < 4096 && i.group < 4096 && i.position < 4096 && (i.parity.isEmpty || i.parity.length = 10)
    && i.parity.all (· < 4096)

/-- A peer is named by its module index (R457), with a layout of R333 and the carve units of its partitions. -/
def Peer.wf (q : Peer) : Bool := q.m < 4096 && q.units.all (· ≤ 768)

/-- A job's members stand at addresses of the grove, and it has at most 4,096 (R295). -/
def MgrJob.wf (j : MgrJob) : Bool :=
  j.job < 65536 && j.members.length ≤ 4096 && j.members.all (fun m => m.1.wf && m.2.wf) && j.epoch < 2 ^ 64

/-- A stack has failing lanes on at most its 32 channels (R382). -/
def Train.wf (t : Train) : Bool := t.degraded ≤ 32

/-- A plan gives at most 41 points to each of 4 dies, a multiplier of three to each of 12 stacks, and rows, offsets and lane
settings of units there are (R511). -/
def Plan.wf (p : Plan) : Bool :=
  p.v.length ≤ 4 && p.v.all (·.length ≤ 41) && p.refresh.length ≤ 12 && p.refresh.all (· < 3)
    && p.repairs.all (· < 12 * 64 * 64 * 16384) && p.offsets.length ≤ 128 && p.serdes.length ≤ 64

/-- A start finds monitors of 4 dies at 41 points (R509). -/
def Survey.wf (v : Survey) : Bool := v.crit.length ≤ 4 && v.crit.all (·.length ≤ 41) && v.sram.length ≤ 4

/-- What goes with a frame names a channel and sequence number of R313, a return tensor's 24 bytes, or runs within an
address space. -/
def Extra.wf : Extra → Bool
  | .ring channel seq => channel < 65536 && seq < 2 ^ 32
  | .counts y rows => y.length = 24 && rows < 2 ^ 32
  | .tile runs entry => (runs.all fun r => r.1 + r.2 ≤ 2 ^ 48) && entry.all (· < 2 ^ 24)
  | .scale stored => stored < 2 ^ 32

def extraWf (x : Option Extra) : Bool := x.all Extra.wf

def Cargo.wf : Cargo → Bool
  | .plain => true
  | .extra x => x.wf
  | .grove g _ => g.wf

/-- An operation of a register message: offset, operation and reserved bits within their fields (R552). -/
def RegOp.wf (o : RegOp) : Bool := o.offset < 2 ^ 32 && o.op < 256 && o.reserved < 2 ^ 23

/-- An access that waits at a pseudo-channel has a 48-bit address. -/
def HbmReq.wf (r : HbmReq) : Bool := r.pa < 2 ^ 48

/-- An instruction of the test port: IDCODE and BYPASS, or one that needs one of the scopes of R543. -/
def TapInstr.wf : TapInstr → Bool
  | .bypass => true
  | .idcode => true
  | .scoped _ code => code < 2 ^ 32

/-- What was found names sectors of the store: 4 KiB each of its 128 dies (R461). -/
def foundWf (found : List (Nat × Fin 10)) : Bool := found.all fun e => e.1 < 2 ^ 33

/-- The command is well formed. -/
def Instr.wf : Instr → Bool
  | .doorbell _ _ => true
  | .descriptorFetch _ _ => true
  | .deferLimitExpire _ _ _ => true
  | .descriptorComplete _ _ _ => true
  | .streamEnable _ _ => true
  | .streamDisable _ _ => true
  | .streamRestart _ _ => true
  | .streamBaseWrite _ _ _ => true
  | .tokenWrite _ _ _ _ => true
  | .drainTimeout _ => true
  | .matMma _ _ _ => true
  | .tapQueueRoom _ => true
  | .matLoadAcc _ _ _ => true
  | .sequentialPreload _ _ _ => true
  | .matStoreAcc _ _ _ => true
  | .matSwap _ _ _ => true
  | .latticeSolverGrant _ => true
  | .vecMap _ _ _ => true
  | .vecReduce _ _ _ => true
  | .vecShuffle _ _ _ => true
  | .vecConvert _ _ _ => true
  | .softmaxStep _ _ _ => true
  | .softmaxFinal _ _ _ => true
  | .vecWiden _ _ _ => true
  | .dmaCopy _ _ _ => true
  | .dmaGather _ _ _ => true
  | .dmaScatter _ _ _ => true
  | .dmaFill _ _ _ => true
  | .dmaTapRead _ _ _ found => foundWf found
  | .dmaTapWrite _ _ _ found => foundWf found
  | .tapTrim _ _ _ => true
  | .redContrib _ _ _ => true
  | .redBucketOpen _ _ _ => true
  | .redBucketWait _ _ _ => true
  | .colGather _ _ _ => true
  | .colPermute _ _ _ => true
  | .exchangeDispatch _ _ _ => true
  | .exchangeCombine _ _ _ => true
  | .colRing _ _ _ => true
  | .crvTapCfg _ _ _ => true
  | .gramFlush _ _ _ => true
  | .gramExplicit _ _ _ => true
  | .gramBatch _ _ => true
  | .crvEma _ _ _ => true
  | .crvDamp _ _ _ => true
  | .crvNormal _ _ _ => true
  | .crvStencil _ _ _ => true
  | .slvChol _ _ _ => true
  | .slvLdlt _ _ _ => true
  | .slvTrsm _ _ _ => true
  | .slvTrinv _ _ _ => true
  | .slvIroot _ _ _ => true
  | .slvEigj _ _ _ => true
  | .slvPublish _ _ _ => true
  | .publishDiscard _ _ _ => true
  | .solverSelect _ => true
  | .solverDeadline _ => true
  | .solverDisable _ => true
  | .updStage _ _ _ => true
  | .updSweep _ _ _ => true
  | .updStats _ _ _ => true
  | .updRollback _ _ _ => true
  | .synWait _ _ _ => true
  | .synSignal _ _ _ => true
  | .synFence _ _ _ => true
  | .synStep _ _ _ => true
  | .ctlNop _ _ _ => true
  | .ctlHalt _ _ _ => true
  | .accumulate f => f.wf
  | .lineAdd _ _ _ _ => true
  | .responseTimeout _ => true
  | .retryIntervalExpire _ => true
  | .stepReadySend _ _ => true
  | .stepReady f => f.wf
  | .stepTimeout _ => true
  | .verdict f => f.wf
  | .sweepDone f => f.wf
  | .commit f => f.wf
  | .parityApplied f => f.wf
  | .settled f => f.wf
  | .stepMessageResend _ => true
  | .stepMessageAck _ => true
  | .wodricWrite f x => f.wf && extraWf x
  | .wodricRead f x => f.wf && extraWf x
  | .ringCommit f => f.wf
  | .exchCount f x => f.wf && extraWf x
  | .exchGrant f => f.wf
  | .exchFinished f => f.wf
  | .exchReturned f => f.wf
  | .permutePart f => f.wf
  | .response f x => f.wf && extraWf x
  | .routedFrame _ _ _ _ _ f c => f.wf && c.wf
  | .flow _ src payload => src.wf && payload.length = 60
  | .flowFrameSend _ => true
  | .linkRetryTimeout _ => true
  | .linkResendLimit _ => true
  | .portEnable _ => true
  | .portDisable _ => true
  | .linkTrained _ => true
  | .linkTrainedDegraded _ _ => true
  | .trainingTimeout _ => true
  | .laneFault _ _ => true
  | .linkIdleTimeout _ => true
  | .relaneTrained _ _ => true
  | .relaneTimeout _ => true
  | .downRetrain _ => true
  | .fabCoordWrite _ => true
  | .coordTakeEffect => true
  | .shaperRefill _ => true
  | .roceSend r c _ => r.wf && c.wf
  | .rdmaWrite r c => r.wf && c.wf
  | .rdmaRead r c => r.wf && c.wf
  | .compareAndSwap r c => r.wf && c.wf
  | .fetchAndAdd r c => r.wf && c.wf
  | .accumulateWrite r c => r.wf && c.wf
  | .pfcPause _ _ _ => true
  | .pfcWatchdog _ _ => true
  | .cnp _ => true
  | .cnpRateIncrease _ => true
  | .faultResolveRetry _ _ => true
  | .faultResolveFail _ _ => true
  | .faultTimeout _ _ => true
  | .xltInval _ _ => true
  | .invalidationDone _ => true
  | .preemptRequest _ => true
  | .preemptStopped _ => true
  | .saveDone _ => true
  | .preemptResume _ => true
  | .restoreDone _ => true
  | .preemptRelease _ => true
  | .armPreempt _ => true
  | .saveBaseWrite _ _ => true
  | .hbmSensorRead _ _ => true
  | .hbmTempLowerHold _ => true
  | .hbmThrottleEnd _ => true
  | .hbmRefresh _ => true
  | .scrubLine _ _ => true
  | .scrubPeriodBoundary => true
  | .regulatorRefill => true
  | .channelSchedule _ _ waiting => waiting.all HbmReq.wf
  | .regRateWrite _ _ _ => true
  | .hardRepair _ => true
  | .hardRepairDone _ => true
  | .managerModeActive => true
  | .managerModeStandby => true
  | .coordOffer _ _ _ _ _ _ _ => true
  | .join g role layout units _ _ => g.wf && role < 4 && (layout = 1 || layout = 4 || layout = 16) && units.length = 16 && units.all (· ≤ 768)
  | .admission g term manager standby _ _ => g.wf && term < 65536 && manager < 4096 && standby < 4096
  | .pulseSend => true
  | .pulse g _ _ _ => g.wf
  | .lossTimeout _ => true
  | .sapwoodGraceTimeout _ => true
  | .linkReport g _ _ _ => g.wf
  | .faultMap g modules links _ _ tables => g.wf && modules.all (· < 4096) && (links.all fun l => l.1 < 4096 && l.2 < 16) && (tables.all fun e => e.1 < 4096 && e.2 < 256)
  | .lost g modules r target => g.wf && modules.all (· < 4096) && r < 2 ^ 64 && target.all (· < 2 ^ 64)
  | .rollbackDone g _ => g.wf
  | .activate g gone r _ writes regs => g.wf && gone.wf && r < 2 ^ 64 && (writes.all fun w => w.1 + w.2.length ≤ 2 ^ 48) && (regs.all fun e => e.1 < 2 ^ 26 && e.1 % 8 = 0)
  | .activated g _ => g.wf
  | .reconstruct g r gone => g.wf && r < 2 ^ 64 && (gone.all fun e => e.1 < 10 && e.2.wf)
  | .rebuildForward _ _ => true
  | .spareFinalise _ factors => factors.all (· < 2 ^ 48)
  | .reconstructDone g _ => g.wf
  | .reshard g epoch map _ _ => g.wf && epoch < 2 ^ 64 && map.length % 8 = 0 && map.length ≤ 32768
  | .reshardDone g _ => g.wf
  | .resume g epoch lsExp => g.wf && epoch < 2 ^ 64 && (-128 ≤ lsExp && lsExp < 128)
  | .mirror g j peers => g.wf && j.wf && peers.all Peer.wf
  | .takeover g _ => g.wf
  | .configImage g img => g.wf && img.wf
  | .encode g epoch => g.wf && epoch < 2 ^ 64
  | .parityApply _ => true
  | .tapDieLost _ _ => true
  | .dieRebuildDone _ => true
  | .retentionAgeTick temps => temps.length = 128
  | .tapScrub block found _ => block < 532480 && foundWf found
  | .readDisturbRewrite block => block < 532480
  | .wearLevelMove => true
  | .allowanceAccrue => true
  | .moduleStateM0 => true
  | .moduleStateM1 => true
  | .moduleStateM2 => true
  | .moduleStateM3 => true
  | .domainRequestD0 _ => true
  | .domainRequestD1 _ => true
  | .domainRequestD2 _ => true
  | .domainRequestD3 _ => true
  | .domainAdmissionStopped _ => true
  | .domainDrained _ => true
  | .domainRetained _ => true
  | .domainIsolated _ => true
  | .domainEntryTimeout _ => true
  | .domainWake _ => true
  | .domainReady _ train => train.wf
  | .pwrLimitWrite _ => true
  | .pwrVwindowWrite _ => true
  | .dieTargetWrite _ _ => true
  | .avsAck _ => true
  | .avsTimeout _ => true
  | .frequencyStep _ => true
  | .powerCapTick _ _ => true
  | .powerCapRaise => true
  | .thermalThrottleTick _ _ => true
  | .thermalRelease _ => true
  | .monitorRead _ _ _ => true
  | .serdesMarginRead _ _ _ _ _ => true
  | .planPeriod => true
  | .replan => true
  | .serdesEyeScan _ => true
  | .pathMonitorRead _ => true
  | .hbmScrubPass _ => true
  | .taprootScrubPass => true
  | .coreLogicSelfTest _ _ _ => true
  | .hbmRetentionSweep _ _ _ _ => true
  | .dsuCheck _ _ _ => true
  | .fullSerdesRetraining _ _ => true
  | .taprootDieTest _ _ => true
  | .testStart => true
  | .testComplete _ _ _ _ => true
  | .testExpire => true
  | .pwrEnRise => true
  | .pwrEnFall => true
  | .resetAssert => true
  | .coldBoot _ _ trains survey plan => trains.length = 12 && trains.all Train.wf && survey.wf && plan.wf
  | .warmRestart _ trains survey plan => trains.length = 12 && trains.all Train.wf && survey.wf && plan.wf
  | .inputUndervoltage => true
  | .thermalTrip _ _ => true
  | .watchdogKick => true
  | .watchdogExpire _ => true
  | .sapwoodControllerFault _ => true
  | .nonceExpire => true
  | .ledgerRead _ _ _ _ => true
  | .ledgerAppend _ _ _ body => body.length ≤ 8128
  | .planSubmit _ plan => plan.wf
  | .imageWrite _ _ _ bytes _ => bytes.length ≤ 8128
  | .imageActivate _ _ _ => true
  | .imageConfirm _ _ _ => true
  | .versionCommit _ _ _ => true
  | .profileWrite _ _ image _ => image.length ≤ 8128
  | .identityWrite _ bytes _ _ => bytes.length ≤ 8128
  | .debugChallenge _ => true
  | .debugUnlock _ token => token.length ≤ 8128
  | .ownerClaim _ digest _ => digest.length ≤ 8128
  | .getVersion _ => true
  | .getCapabilities _ => true
  | .negotiateAlgorithms _ _ => true
  | .getDigests _ => true
  | .getCertificate _ _ _ _ => true
  | .challenge _ _ => true
  | .getMeasurements _ _ => true
  | .keyExchange _ _ => true
  | .finish _ _ _ => true
  | .heartbeat _ _ => true
  | .keyUpdate _ _ => true
  | .endSession _ _ => true
  | .pldmMonitoring _ _ => true
  | .pldmFruData => true
  | .entdaa _ => true
  | .mctpControl _ _ => true
  | .registerMessage _ src _ _ _ ops => src.length = 16 && ops.all RegOp.wf
  | .registerWrite _ _ _ => true
  | .readClear _ => true
  | .mqHeadWrite _ _ => true
  | .pqBaseWrite _ _ => true
  | .eventPush => true
  | .archiveFlush => true
  | .archRead _ => true
  | .archReadDone => true
  | .roceAcknowledge r c => r.wf && c.wf
  | .roceRetryTimeout _ c => c.wf
  | .pfcWatchdogClear _ _ => true
  | .avsVoutRead _ _ => true
  | .sapwoodRestarted => true
  | .moduleReady => true
  | .inputInRange => true
  | .recoveryImageWrite _ => true
  | .badRequest _ _ _ _ => true
  | .testPortInstruction op => op.wf

end Sys2Proof
end

