-- ==== Sys2Proof/Certificates/Slice0/Obligations.lean ====
section
/-! DEFINITION. The statements for the provers: what the machine and its commands do, by the numbered rules of the spec. -/
open Sys2Proof Sys2Proof.Machine

/-! ### The block as a machine -/

/-- A step with a command at the front of the queue is that command's effect with the queue's rest; with no command waiting, one
tick of local time passes (the model's choice: assumption 5). Choices of the model: log entry 5. -/
def Obligations.StepRunsFrontCommand : Prop :=
  (∀ (c : Instr) (cs : List Instr) (s : State), step { s with pending := c :: cs } = exec c { s with pending := cs })
  ∧ (∀ s : State, s.pending = [] → step s = .next s.idleTick)

/-- Every step answers a next state, and that state shows its alert: ALERT_N, GLB_STATUS.alert and EVT_ALERT follow what the
module queue holds between head and tail (R560, R561). Choices of the model: log entries 5 and 125. -/
def Obligations.EveryStepShowsAlert : Prop := ∀ s : State, ∃ t, step s = .next t ∧ t.AlertShown

/-- The machine after reset: nothing waits, runs or is queued, no alert, and the values that the register tables give. Memory that
nothing has written reads as zero (the model's choice: assumption 3). Choices of the model: log entry 3. -/
def Obligations.ResetState : Prop :=
  let s := State.reset
  s.pending = [] ∧ s.flights = [] ∧ s.requests = [] ∧ s.mqRecords = [] ∧ s.AlertShown ∧ Memory.wf s.mem = true
    ∧ (∀ a, s.byte a = 0)
    ∧ (∀ (core : Fin 64) (stream : Fin 3), s.strState core stream = ssDisabled ∧ s.window core stream = []
        ∧ s.fget rf_corStreamBase_log2Size core stream = 4 ∧ s.fget rf_corStreamCtl_deferLimit core stream = 100)
    ∧ (∀ core : Fin 64, s.fget rf_corLatStatus_holder core = 0xF ∧ s.fget rf_corDrainTimeout_timeoutUs core = 1000)
    ∧ (∀ c : Fin 16, s.fget rf_slvCtl_enable c = 1 ∧ s.fget rf_slvPivotTau_tau64Exp c = 48 ∧ s.fget rf_slvPivotTau_tau32Exp c = 24
        ∧ s.fget rf_slvRetryMax_retryMax c = 3)
    ∧ (∀ p : Fin 16, s.fget rf_strLossScale_lsExp p = 16 ∧ s.fget rf_strLossScale_growthInterval p = 2000
        ∧ s.fget rf_grvRedCtl_responseTimeoutUs p = 500 ∧ s.fget rf_prtCtl_faultWait p = 1
        ∧ s.fget rf_evtPqBase_log2Size p = 6)
    ∧ (∀ (st : Fin 12) (p : Fin 16), s.fget rf_hbmRegShape_weight st p = 16 ∧ s.fget rf_hbmRegShape_burstKib st p = 64)
    ∧ s.fget rf_fabRouteCtl_hopLimit = 48 ∧ s.fget rf_grvLiveness_pulseMs = 10 ∧ s.fget rf_grvLiveness_lossMs = 50
    ∧ s.fget rf_tapStatus_scanPending = 1 ∧ s.fget rf_evtHostCtl_alertMinSeverity = 4
    ∧ s.fget rf_evtHostCtl_sapwoodOwnsMq = 1 ∧ s.fget rf_glbStatus_ready = 0 ∧ s.fget rf_evtMqPtr_lost = 0

/-! ### Memory, registers and event records -/

/-- Physical memory (R369, R370): bytes written are read back, a write that is turned away changes none, every other byte keeps its
value, and the canonical form of memory is kept; a range that is cleared reads as zero.
Choices of the model: log entries 8 and 92. -/
def Obligations.MemoryOperations : Prop :=
  ∀ (s : State) (pa : Nat) (bs : List Byte),
    let w := s.paWrite pa bs
    (Memory.wf s.mem = true → Memory.wf w.2.mem = true)
    ∧ (∀ a, a < pa ∨ pa + bs.length ≤ a → w.2.byte a = s.byte a)
    ∧ (w.1 = true → w.2.bytes pa bs.length = bs)
    ∧ (w.1 = false → SameMemory s w.2)
    ∧ (∀ n, SameMemory s (s.paRead pa n).2 ∧ ∀ xs, (s.paRead pa n).1 = some xs → xs = s.bytes pa n)
    ∧ (∀ size, Memory.wf s.mem = true → Memory.wf (s.clearRange pa size).mem = true
        ∧ ∀ a, (s.clearRange pa size).byte a = if pa ≤ a ∧ a < pa + size then 0 else s.byte a)

/-- Registers whose write does more than set fields. -/
def Sys2Proof.actingRegs : List RegName :=
  [.corDoorbell, .corStreamBase, .corStreamCtl, .corToken, .corClusterToken, .slvCtl, .strLossScale, .prtCtl, .prtSaveBase,
   .prtPreempt, .prtXltInval, .prtFaultqPtr, .prtFaultResolve, .hbmRepairCmd, .hbmRegRate, .fabPortCtl, .fabCoord, .grvMgrCtl,
   .pwrModuleState, .pwrDomainCtl, .pwrLimit, .pwrVwindow, .pwrDieTarget, .ageCtl, .ageTestCmd, .truChCtl, .truWdog, .glbRestart,
   .evtMqPtr, .evtArchRead, .evtPqBase, .evtPqPtr]

/-- Field writes (R4, R6): a write sets each RW field unless its new value is reserved, clears the W1C bits and sets the W1S bits
that it writes as one, and leaves every other field, every bit outside the fields, every other register and every other part of
the state as it was. A write of a register that does nothing else is that. -/
def Obligations.FieldWrites : Prop :=
  ∀ (s : State) (k : RegKey) (w : Nat), let t := s.writeFields k w
    (∀ f ∈ regFields k.reg, let v := bits w f.hi f.lo
      let old := s.fget ⟨k.reg, f.hi, f.lo⟩ k.i k.j
      let new := t.fget ⟨k.reg, f.hi, f.lo⟩ k.i k.j
      (f.acc = .rw → new = if fieldOk k f.lo v (s.judged k w) then v else old)
      ∧ (f.acc = .w1c → ∀ b, bit new b = (bit old b && !bit v b))
      ∧ (f.acc = .w1s → ∀ b, bit new b = (bit old b || bit v b))
      ∧ (f.acc ≠ .rw → f.acc ≠ .w1c → f.acc ≠ .w1s → new = old))
    ∧ (∀ b, (∀ f ∈ regFields k.reg, b < f.lo ∨ f.hi < b) →
        (t.reg k.reg k.i k.j).getLsbD b = (s.reg k.reg k.i k.j).getLsbD b)
    ∧ (∀ r i j, regKey r i j ≠ regKey k.reg k.i k.j → t.reg r i j = s.reg r i j)
    ∧ t = { s with regs := t.regs }
    ∧ (∀ (a : Agent) (o : BitVec 26), o.toNat % 8 = 0 → inBlock o.toNat = true → channelAt o.toNat = none →
        keyAt o.toNat = some k → mayWrite a k = true → regDomain k = none → k.reg ∉ actingRegs → s.writable k = true → w < 2 ^ 64 →
        exec (.registerWrite a o (BitVec.ofNat 64 w)) s = .next t.settle)

/-- A record of the module queue (R555 to R557, R559): one of severity 0 or 1 enters while at least 257 slots are free, any other while
one is; it stands at the tail, with lost where records were dropped just before it; one that cannot enter is counted. Every record
is numbered, counted by severity, and kept for the archive without its lost mark. A write of head by the agent that does not own
the queue changes nothing; one by sapwood raises 0xB004. -/
def Obligations.ModuleQueue : Prop :=
  ∀ (s : State) (code : Nat) (x : EvInfo),
    let t := s.raiseMod code x
    let sev := evSeverity code
    let used := subMod 13 (s.fget rf_evtMqPtr_tail) (s.fget rf_evtMqPtr_head)
    let r : EvRec := ⟨code, sev, none, s.evt.seq, s.tick, x.kind, x.index, x.tag, x.aux % 2 ^ 32, x.detail % 2 ^ 64, false⟩
    let enters := used + (if sev ≤ 1 then 257 else 1) ≤ 4096
    (enters → t.mqRecords = s.mqRecords ++ [{ r with lost := s.evt.mqLost }]
      ∧ t.fget rf_evtMqPtr_tail = (s.fget rf_evtMqPtr_tail + 1) % 8192 ∧ t.fget rf_evtMqPtr_lost = s.fget rf_evtMqPtr_lost
      ∧ t.evt.mqLost = false
      ∧ t.evt.toPush = s.evt.toPush ++ (if s.fbit rf_evtHostCtl_pushEnable = true ∧ s.fget rf_evtHostCtl_pushMinSeverity ≤ sev
          then [{ r with lost := s.evt.mqLost }] else []))
    ∧ (¬ enters → t.mqRecords = s.mqRecords ∧ t.fget rf_evtMqPtr_tail = s.fget rf_evtMqPtr_tail
      ∧ t.fget rf_evtMqPtr_lost = (s.fget rf_evtMqPtr_lost + 1) % 2 ^ 32 ∧ t.evt.mqLost = true ∧ t.evt.toPush = s.evt.toPush)
    ∧ t.fget rf_evtMqPtr_head = s.fget rf_evtMqPtr_head
    ∧ t.evt.seq = (s.evt.seq + 1) % 2 ^ 32 ∧ t.evt.toArchive = s.evt.toArchive ++ [r] ∧ t.evt.archive = s.evt.archive
    ∧ t.reg .evtCount sev 0 = s.reg .evtCount sev 0 + 1
    ∧ (∀ q i j, q ∉ [.evtMqPtr, .evtCount, .glbStatus] → t.reg q i j = s.reg q i j)
    ∧ t = { s with regs := t.regs, evt := t.evt }
    ∧ (∀ v : Word, let sap := s.fbit rf_evtHostCtl_sapwoodOwnsMq
      bits v.toNat 12 0 ≠ s.fget rf_evtMqPtr_head →
      (sap = true → exec (.mqHeadWrite .host v) s = .next s.settle)
      ∧ (sap = false → exec (.mqHeadWrite .sapwood v) s
          = .next (s.raiseMod 0xB004 ⟨0, 0, 0, 0, regOffset ⟨.evtMqPtr, 0, 0⟩⟩).settle))

/-! ### Numbers -/

/-- An E8M0 scale byte is a power of two, and 0xFF makes every element of its block NaN (R19). Under the one scale below 2^−126 an
element's value below 2^−126 is zero (R31, R34). -/
def Obligations.ScaleBytes : Prop :=
  (∀ e ≤ 0xFE, decScale e = some ((e : Int) - 127))
  ∧ (∀ fmt e x, e ≤ 0xFE → operandVal (decElem fmt x, decScale e) = (decElem fmt x).scale2 ((e : Int) - 127)
      ∧ (1 ≤ e → decMX fmt e x = (decElem fmt x).scale2 ((e : Int) - 127)))
  ∧ (∀ fmt x n m k, (decElem fmt x).scale2 (-127) = .fin n m k →
      decMX fmt 0 x = if m ≠ 0 ∧ fvLog2 m k < -126 then .fin n 0 0 else .fin n m k)
  ∧ (∀ fmt x, decMX fmt 0xFF x = .nan ∧ operandVal (decElem fmt x, decScale 0xFF) = .nan)

/-- Fed rows and lanes: those of the operand whose mask bit is one, in order (R60). -/
def Obligations.FedCells : Prop :=
  ∀ mask base n : Nat,
    (∀ r i, (r, i) ∈ fed mask base n ↔ base ≤ r ∧ r < base + n ∧ bit mask r = true ∧ i = r - base)
    ∧ ((fed mask base n).map (·.1)).Pairwise (· < ·)

/-- The GF mode of buckets (R256): bucket and contribution are GF16; the product is multiplication modulo 0x1100B (it is additive
in both factors, 1 is its unit, it commutes, and doubling a factor multiplies it by x); each of a line's 64 symbols takes the
exclusive or with its product, and nothing is poisoned. -/
def Obligations.GaloisField : Prop :=
  let byX (a : Nat) : Nat := if a < 32768 then 2 * a else (2 * a - 65536) ^^^ 0x100B
  (∀ c d e, c < 65536 → d < 65536 → e < 65536 → gf c (d ^^^ e) = gf c d ^^^ gf c e ∧ gf (c ^^^ d) e = gf c e ^^^ gf d e)
  ∧ (∀ c < 65536, gf c 1 = c ∧ gf 1 c = c ∧ gf c 0 = 0)
  ∧ (∀ c d, c < 65536 → d < 65536 → gf c d < 65536 ∧ gf c (byX d) = byX (gf c d) ∧ gf c d = gf d c)
  ∧ gf 0x0002 0x8000 = 0x100B
  ∧ (∀ (s : State) (p : Nat) (d : List Byte), (openLegal p s d = true → opnGf d = true → opnFmt d = 0xD)
      ∧ (contribLegal s d = true → conGf d = true → conFmt d = 0xD ∧ (conSrc d).fmt = 0xD))
  ∧ (∀ (r : AccReq) (fmt : Nat), r.wellFormed fmt = true → r.gf = true → r.dfmt = 0xD)
  ∧ (∀ (l : LineAdd) (old : List Byte), l.gf = true → l.fmt = 0xD → l.coef < 65536 →
      (addLine l old).2 = 0 ∧ (addLine l old).1.length = 128
      ∧ ∀ i < 64, fld (addLine l old).1 (2 * i) 2 = fld old (2 * i) 2 ^^^ gf l.coef (fld l.data (2 * i) 2))

/-- Loss-scale steering (R227, R228, R249): an overflowed SKIP lowers the exponent by one and clears the clean count, any other SKIP and
a REPEAT leave both, a COMMIT counts, and at the growth interval raises the exponent by one; the exponent stays between its
limits. What is chosen is in force from the next epoch, and the epoch under way keeps its own.
Choices of the model: log entry 52. -/
def Obligations.LossScaleSteering : Prop :=
  (∀ (verdict : Nat) (ovf : Bool) (x : Int) (clean growth : Nat) (lo hi : Int),
    let r := lossNext verdict ovf x clean growth lo hi
    (lo ≤ x → x ≤ hi → lo ≤ r.1 ∧ r.1 ≤ hi)
    ∧ (verdict = 1 → ovf = true → r.2 = 0 ∧ r.1 = if lo ≤ x - 1 then x - 1 else x)
    ∧ (verdict = 1 → ovf = false → r = (x, clean))
    ∧ (verdict = 2 → r = (x, clean))
    ∧ (verdict = 0 → ovf = false → clean + 1 < growth → r = (x, clean + 1))
    ∧ (verdict = 0 → ovf = false → growth ≤ clean + 1 → r.2 = 0 ∧ r.1 = if x + 1 ≤ hi then x + 1 else x))
  ∧ (∀ (s : State) (p : Fin 16) (e : Nat) (new : Int), -128 ≤ new → new < 128 →
    let old := sext 8 (s.fget rf_strLossScale_lsExp p)
    ∃ u : State, s.setLossScale p e new = (if new = old then u else
        u.raise 0x7003 p ⟨8, p, 0, 0, (old % 256).toNat + 256 * (new % 256).toNat⟩)
      ∧ sext 8 (u.fget rf_strLossScale_lsExp p) = new ∧ u.lossExp p (e + 1) = new ∧ u.lossExp p e = s.lossExp p e
      ∧ OnlyElems [⟨.strLossScale, p, 0⟩] (s.withParts u.parts) u)

/-! ### Descriptors issue: one clause for each command -/

/-- The MAT commands (R49, R53, R57, R74, R75): where the lattice takes the descriptor (R54, R58), its computation runs and
COR_LAT_STATUS follows (R78). Choices of the model: log entries 2, 22 and 23. -/
def Obligations.LatticeCommandsIssue : Prop :=
  let takes : Nat → Nat → Nat → State → List Byte → Bool := fun core stream _ s d => s.latTakes core stream d
  let sync : Nat → Nat → State → State := fun core _ s => s.syncLat core
  DescriptorCommand .matMma (isOp 0x01) takes (fun core _ => mmaLegal core) mmaRun sync
  ∧ DescriptorCommand .matLoadAcc isLoadBg takes (fun _ _ => loadLegal) loadAccRun sync
  ∧ DescriptorCommand .sequentialPreload (fun d => isOp 0x02 d && fldB d 99 1 0 = 2) takes (fun _ _ => loadLegal) preloadRun sync
  ∧ DescriptorCommand .matStoreAcc (isOp 0x03) takes (fun _ _ => storeLegal) storeAccRun sync
  ∧ DescriptorCommand .matSwap (isOp 0x04) takes (fun _ _ => swapLegal) swapRun sync

/-- The VEC commands (R85, R89, R92, R93, R95, R96, R98). Choices of the model: log entries 2 and 127. -/
def Obligations.VectorCommandsIssue : Prop :=
  let free : Nat → Nat → Nat → State → List Byte → Bool := fun core _ _ s _ => s.vecFree core
  let sync : Nat → Nat → State → State := fun core _ s => s.syncVec core
  DescriptorCommand .vecMap (isOp 0x20) free (fun _ _ => mapLegal) mapRun sync
  ∧ DescriptorCommand .vecReduce (isOp 0x21) free (fun _ _ => reduceLegal) reduceRun sync
  ∧ DescriptorCommand .vecShuffle (isOp 0x22) free (fun _ _ => shuffleLegal) shuffleRun sync
  ∧ DescriptorCommand .vecConvert (isOp 0x23) free (fun _ _ => convertLegal) convertRun sync
  ∧ DescriptorCommand .softmaxStep (fun d => isOp 0x24 d && vMode d ≠ 1) free (fun _ _ => softmaxLegal) softmaxRun sync
  ∧ DescriptorCommand .softmaxFinal (fun d => isOp 0x24 d && vMode d = 1) free (fun _ _ => softmaxLegal) softmaxRun sync
  ∧ DescriptorCommand .vecWiden (isOp 0x25) free (fun _ _ => widenLegal) convertRun sync

/-- The DMA and taproot commands (R135 to R138, R465, R466, R479). Choices of the model: log entries 2, 25 and 96. -/
def Obligations.DmaCommandsIssue : Prop :=
  let tap : Nat → Nat → Nat → State → List Byte → Bool := fun _ _ _ => tapAccepts
  DescriptorCommand .dmaCopy (isOp 0x40) anyEngine (fun _ _ => copyLegal) copyRun noSync
  ∧ DescriptorCommand .dmaGather (isOp 0x41) anyEngine (fun _ _ => gatherLegal) gatherRun noSync
  ∧ DescriptorCommand .dmaScatter (isOp 0x42) anyEngine (fun _ _ => scatterLegal) scatterRun noSync
  ∧ DescriptorCommand .dmaFill (isOp 0x43) anyEngine (fun _ _ => fillLegal) fillRun noSync
  ∧ (∀ found, DescriptorCommand (fun core stream n => .dmaTapRead core stream n found) (isOp 0x44) tap (fun _ p => tapLegal p)
      (tapReadRun found) noSync)
  ∧ (∀ found, DescriptorCommand (fun core stream n => .dmaTapWrite core stream n found) isTapWrite tap (fun _ p => tapLegal p)
      (tapStoreRun found) noSync)
  ∧ DescriptorCommand .tapTrim isTapTrim tap (fun _ p => tapLegal p) (tapStoreRun []) noSync

/-- The reduction and collective commands (R274, R285, R286, R300, R302, R306, R313, R319).
Choices of the model: log entries 2, 55 and 121. -/
def Obligations.CollectiveCommandsIssue : Prop :=
  let sync : Nat → Nat → State → State := fun _ p s => s.syncCol p
  DescriptorCommand .redContrib (isOp 0x60) anyEngine (fun _ _ => contribLegal) contribRun noSync
  ∧ DescriptorCommand .redBucketOpen (isOp 0x61) (fun _ _ p s d => s.openMay p d) (fun _ p => openLegal p) openRun noSync
  ∧ DescriptorCommand .redBucketWait (isOp 0x62) anyEngine (fun _ _ => waitLegal) waitRun noSync
  ∧ DescriptorCommand .colGather (isOp 0x63) anyEngine (fun _ _ => colGatherLegal) colGatherRun sync
  ∧ DescriptorCommand .colPermute (isOp 0x64) anyEngine (fun _ p => permuteLegal p) colPermuteRun sync
  ∧ DescriptorCommand .exchangeDispatch isDispatch anyEngine (fun _ _ => exchLegal) exchangeRun sync
  ∧ DescriptorCommand .exchangeCombine isCombine anyEngine (fun _ _ => exchLegal) exchangeRun sync
  ∧ DescriptorCommand .colRing (isOp 0x66) anyEngine (fun _ _ => colRingLegal) colRingRun sync

/-- The curvature commands (R162 to R165, R170, R171): the assembly descriptors find the Gram unit free, and CRV.EMA waits
for its epoch to be final (R159). Choices of the model: log entry 2. -/
def Obligations.CurvatureCommandsIssue : Prop :=
  let free : Nat → Nat → Nat → State → List Byte → Bool := fun core _ _ s _ => s.asmFree core
  let sync : Nat → Nat → State → State := fun core _ s => s.syncAsm core
  DescriptorCommand .crvTapCfg (isOp 0x70) anyEngine (fun core _ => tapCfgLegal core) tapCfgRun noSync
  ∧ DescriptorCommand .gramFlush isFlush anyEngine (fun core _ => gramLegal core) gramFlushRun noSync
  ∧ DescriptorCommand .gramExplicit (fun d => isOp 0x71 d && fldB d 17 1 0 = 1) anyEngine (fun core _ => gramLegal core)
      gramExplicitRun noSync
  ∧ DescriptorCommand .crvEma (isOp 0x72) (fun core _ p s d => s.asmFree core && s.epochFinal p (fld d 88 8))
      (fun _ _ => emaLegal) emaRun sync
  ∧ DescriptorCommand .crvDamp (isOp 0x73) free (fun _ _ => dampLegal) dampRun sync
  ∧ DescriptorCommand .crvNormal (isOp 0x74) free (fun _ _ => normalLegal) normalRun sync
  ∧ DescriptorCommand .crvStencil (isOp 0x75) free (fun _ _ => stencilLegal) stencilRun sync

/-- The solver and update commands (R189 to R206, R230, R233, R240, R246): a solver descriptor enters its unit's queue of 32
where the unit is enabled (R183). Choices of the model: log entries 2 and 46. -/
def Obligations.SolverAndUpdateCommandsIssue : Prop :=
  let takes : Nat → Nat → Nat → State → List Byte → Bool :=
    fun core _ _ s _ => s.fbit rf_slvCtl_enable (clusterOf core) && (s.slvWaiting (clusterOf core)).length < 32
  let sync : Nat → Nat → State → State := fun core _ s => s.syncSlv (clusterOf core)
  let sweep : Nat → Nat → State → State := fun _ p s => s.syncSweep p
  DescriptorCommand .slvChol (isOp 0x80) takes (fun _ _ => slvLegal) slvRun sync
  ∧ DescriptorCommand .slvLdlt (isOp 0x81) takes (fun _ _ => slvLegal) slvRun sync
  ∧ DescriptorCommand .slvTrsm (isOp 0x82) takes (fun _ _ => slvLegal) slvRun sync
  ∧ DescriptorCommand .slvTrinv (isOp 0x83) takes (fun _ _ => slvLegal) slvRun sync
  ∧ DescriptorCommand .slvIroot (isOp 0x84) takes (fun _ _ => slvLegal) slvRun sync
  ∧ DescriptorCommand .slvEigj (isOp 0x85) takes (fun _ _ => slvLegal) slvRun sync
  ∧ DescriptorCommand .slvPublish (fun d => isOp 0x86 d && !fldBit d 24 0) anyEngine (fun _ _ => publishLegal) publishRun noSync
  ∧ DescriptorCommand .publishDiscard (fun d => isOp 0x86 d && fldBit d 24 0) anyEngine (fun _ _ => publishLegal) publishRun
      noSync
  ∧ DescriptorCommand .updStage (isOp 0x90) anyEngine (fun _ _ => stageLegal) stageRun noSync
  ∧ DescriptorCommand .updSweep (isOp 0x91) (fun core _ _ s d => s.sweepMay core d) (fun _ _ => sweepLegal) sweepRun sweep
  ∧ DescriptorCommand .updStats (isOp 0x92) anyEngine (fun _ _ => statsLegal) statsRun noSync
  ∧ DescriptorCommand .updRollback (isOp 0x93) (fun core _ _ s d => s.rollbackMay core d) (fun _ _ => rollbackLegal) rollbackRun
      sweep

/-- The SYN and CTL commands (R124, R125) but SYN.WAIT: a descriptor stands done at once. Choices of the model: log entry 2. -/
def Obligations.SynAndCtlCommandsIssue : Prop :=
  DescriptorCommand .synWait (isOp 0xA0) anyEngine (fun _ _ => synWaitLegal) synWaitRun noSync
  ∧ DescriptorCommand .synSignal (isOp 0xA1) anyEngine (fun _ _ => synSignalLegal) nothing noSync
  ∧ DescriptorCommand .synFence (isOp 0xA2) anyEngine (fun _ _ => synFenceLegal) nothing noSync
  ∧ DescriptorCommand .synStep (isOp 0xA3) anyEngine (fun _ _ => synStepLegal) nothing noSync
  ∧ DescriptorCommand .ctlNop (isOp 0xF0) anyEngine (fun _ _ => ctlLegal) nothing noSync
  ∧ DescriptorCommand .ctlHalt (isOp 0xF1) anyEngine (fun _ _ => ctlLegal) nothing noSync
  ∧ (∀ (s : State) (p core stream : Nat) (f : Fetched),
      s.ran p core stream f nothing = s.placed p core stream f stDone
      ∧ (s.synWaits core f.bytes = true → s.ran p core stream f synWaitRun = s.placed p core stream f stDone)
      ∧ (s.synWaits core f.bytes = false → (s.ran p core stream f synWaitRun).flights
          = s.flights ++ [{ s.starts p core stream f with phase := .awaiting }]))

/-- A descriptor that stands in flight with a status and no work, as one that is turned away does: it has left the fetch window,
issue has moved on (R110), its flight is done with that status, and every other register, every byte of memory and every other
component of the module is as before, but for the arbiters' memory and the draws. Choices of the model: log entry 2. -/
def Obligations.PlacedDescriptorFrame : Prop :=
  ∀ (s : State) (p core stream : Nat) (f : Fetched) (st : Nat),
    let t := s.placed p core stream f st
    t.flights = s.flights ++ [{ s.starts p core stream f with status := st }]
    ∧ (s.starts p core stream f).phase = .done
    ∧ t.window core stream = windowAfter (s.strIssue core stream) (s.window core stream) f
    ∧ (∀ c j, ¬ (c = core ∧ j = stream) → j < 3 → stream < 3 → t.window c j = s.window c j)
    ∧ t.strIssue core stream = nextIssue (s.window core stream) f % 2 ^ 32
    ∧ (∀ r i j, r ≠ .corStreamHead → t.reg r i j = s.reg r i j)
    ∧ SameMemory s t
    ∧ t = { s with windows := t.windows, flights := t.flights, granted := t.granted, free := t.free, regs := t.regs }

/-- What a SYN or CTL descriptor and its header add to a counter when it completes (R121, R125). -/
def Sys2Proof.tokenAdds (core : Nat) (d : List Byte) (k : Tok) : Nat :=
  (if tokOf core (hSignalToken d) = some k then 1 else 0)
    + if hOpcode d = 0xA1 then
        ((List.range 4).map fun i => if tokOf core (fld d (16 + 8 * i) 2) = some k then fld d (20 + 8 * i) 4 else 0).sum
      else 0

/-- A SYN or CTL descriptor that stands done completes DONE: it is in flight no more; every token of the core and of its cluster
takes the header's signal and the payload's additions (R121, R125); SYN.STEP advances its marker; CTL.HALT halts a running
stream (R130). Memory keeps every byte, and no other register changes but the stream's state and counters.
Choices of the model: log entries 2, 30 and 126. -/
def Obligations.SynAndCtlComplete : Prop :=
  ∀ (core : Fin 64) (stream : Fin 3) (n : BitVec 32) (s : State) (fl : Flight),
    s.flight core stream n.toNat = some fl → fl.phase = .done → fl.status = stDone → fl.flags = 0 → fl.event = 0 →
    fl.scales = [] → hRecord fl.bytes = false → hOpcode fl.bytes ∈ [0xA0, 0xA1, 0xA2, 0xA3, 0xF0, 0xF1] →
    s.preState (s.partOfFlight fl) ≤ psStopping →
    ∃ t, exec (.descriptorComplete core stream n) s = .next t
      ∧ t.flight core stream n.toNat = none
      ∧ SameMemory s t
      ∧ (∀ k i, t.fget rf_corToken_value k i
          = (s.fget rf_corToken_value k i + tokenAdds core fl.bytes (.core k i)) % 2 ^ 32)
      ∧ (∀ i, t.fget rf_corClusterToken_value core i
          = (s.fget rf_corClusterToken_value core i + tokenAdds core fl.bytes (.cluster core i)) % 2 ^ 32)
      ∧ (hOpcode fl.bytes = 0xA3 → t.fget rf_prtStepMarker_value (s.partOfFlight fl) (fld fl.bytes 16 1)
          = (s.fget rf_prtStepMarker_value (s.partOfFlight fl) (fld fl.bytes 16 1) + fld fl.bytes 20 4) % 2 ^ 32)
      ∧ (hOpcode fl.bytes = 0xF1 → s.strState core stream = ssRunning → t.strState core stream = ssHalted)
      ∧ RegsBut [.corToken, .corClusterToken, .prtStepMarker, .corStreamHead, .corStreamCtl] s t

/-! ### Streams and tokens -/

/-- A wait compares a token with its value as a signed 32-bit difference; until it is satisfied its descriptor does not issue; and it
depends on the token alone, so that it is evaluated anew whenever the token changes, and has no timeout (R120). -/
def Obligations.TokenWait : Prop :=
  ∀ (core x v : Nat) (s : State), x ≠ 0xFFFF → v < 2 ^ 32 →
    (s.tokWait core x v = true ↔ 0 ≤ (BitVec.ofNat 32 (s.tokVal core x) - BitVec.ofNat 32 v).toInt)
    ∧ (∀ (stream engine : Nat) (f : Fetched), hWaitToken f.bytes = x → hWaitValue f.bytes = v → hdrIllegal f.bytes stream = false →
        s.tokWait core x v = false → s.mayIssue core stream engine f = false)
    ∧ (∀ t : State, t.tokVal core x = s.tokVal core x → t.tokWait core x v = s.tokWait core x v)

/-- Writes of the stream registers with the core awake (R111, R122, R130): what each leaves in the register it writes, and
that nothing else changes. Choices of the model: log entries 1 and 15. -/
def Obligations.StreamRegisterWrites : Prop :=
  ∀ (core : Fin 64) (stream : Fin 3) (s : State), s.awake (domCore core) = true →
    (∀ v : Word, bits v.toNat 33 32 = stream.val →
      let d := subMod 32 (bits v.toNat 31 0) (s.strRetire core stream)
      let valid := subMod 32 (s.strTail core stream) (s.strRetire core stream) ≤ d ∧ d ≤ s.ringSize core stream
      ∃ t, exec (.doorbell core v) s = .next t
        ∧ t.strTail core stream = (if valid then bits v.toNat 31 0 else s.strTail core stream)
        ∧ t.fbit rf_corStreamCtl_doorbellError core stream
            = (if valid then s.fbit rf_corStreamCtl_doorbellError core stream else true)
        ∧ t.strState core stream
            = (if valid ∧ s.strState core stream = ssIdle ∧ bits v.toNat 31 0 ≠ s.strIssue core stream then ssRunning
               else s.strState core stream)
        ∧ OnlyElems [⟨.corStreamTail, core, stream⟩, ⟨.corStreamCtl, core, stream⟩] s t)
    ∧ (∀ v : Word, bits v.toNat 33 32 = 3 → exec (.doorbell core v) s = .next s.settle)
    ∧ (s.strState core stream = ssDisabled → (∀ f ∈ s.age.dead, f ≠ .core core) →
      ∃ t, exec (.streamEnable core stream) s = .next t
        ∧ t.strState core stream = (if s.strTail core stream = s.strIssue core stream then ssIdle else ssRunning)
        ∧ t.fget rf_corStreamCtl_enable core stream = 1
        ∧ OnlyElems [⟨.corStreamCtl, core, stream⟩] s t)
    ∧ (s.strState core stream = ssDisabled → ∀ v : Word,
      ∃ t, exec (.streamBaseWrite core stream v) s = .next t
        ∧ t.strIssue core stream = 0 ∧ t.strRetire core stream = 0 ∧ t.strTail core stream = 0
        ∧ t.fget rf_corStreamBase_ringBase core stream = bits v.toNat 47 12
        ∧ t.fget rf_corStreamBase_log2Size core stream
            = (if 4 ≤ bits v.toNat 4 0 ∧ bits v.toNat 4 0 ≤ 16 then bits v.toNat 4 0
               else s.fget rf_corStreamBase_log2Size core stream)
        ∧ OnlyElems [⟨.corStreamBase, core, stream⟩, ⟨.corStreamHead, core, stream⟩, ⟨.corStreamTail, core, stream⟩]
            (s.setWindow core stream []) t)
    ∧ (s.strState core stream = ssStopped ∨ s.strState core stream = ssHalted →
      ∃ t, exec (.streamRestart core stream) s = .next t
        ∧ t.strState core stream
            = (if s.strIssue core stream = s.strTail core stream ∧ s.inFlight core stream = [] then ssIdle else ssRunning)
        ∧ t.strIssue core stream = s.strIssue core stream
        ∧ OnlyElems [⟨.corStreamCtl, core, stream⟩, ⟨.corStreamHead, core, stream⟩] s t)
    ∧ (∀ (i : Fin 256) (v : Word), ∃ t, exec (.tokenWrite core false i v) s = .next t
        ∧ t.fget rf_corToken_value core i = bits v.toNat 31 0 ∧ OnlyElems [⟨.corToken, core, i⟩] s t)

/-- A disabled stream drains (R130, R131): with nothing in flight it is DISABLED at once, else DRAINING, with the drain timed
from now; when the timeout has passed what remains is cut. A deferral that has lasted for the limit ends (R113). The
core fetches ahead while its partition admits work (R111). Choices of the model: log entries 1, 9 and 124. -/
def Obligations.StreamDrainAndFetch : Prop :=
  ∀ (core : Fin 64) (stream : Fin 3) (s : State) (p : Nat), s.awake (domCore core) = true →
    s.partOf core = some p → s.admits p = true →
    (s.strState core stream = ssIdle ∨ s.strState core stream = ssRunning ∨ s.strState core stream = ssHalted
        ∨ s.strState core stream = ssStopped →
      ∃ t, exec (.streamDisable core stream) s = .next t
        ∧ t.strState core stream = (if s.inFlight core stream = [] then ssDisabled else ssDraining)
        ∧ t.fget rf_corStreamCtl_enable core stream = 0
        ∧ (Func.stream core stream, s.tick) ∈ t.drains
        ∧ OnlyElems [⟨.corStreamCtl, core, stream⟩, ⟨.corStreamHead, core, stream⟩] (s.withDrains t.drains) t)
    ∧ (∀ t0, s.drains.find? (fun d => d.1 = .stream core stream) = some (.stream core stream, t0) →
        s.since t0 (us (s.fget rf_corDrainTimeout_timeoutUs core)) = true →
        (∀ q < 16, s.ownsFunc q (.stream core stream) = true → s.admits q = true) →
        exec (.drainTimeout (.stream core stream)) s = .next (s.cutFunc (.stream core stream)).settle)
    ∧ (∀ n : BitVec 32, ∃ t, exec (.deferLimitExpire core stream n) s = .next t
        ∧ t.window core stream = (s.window core stream).map fun f => match f.ready with
          | some r => if f.n = n.toNat ∧ hDeferrable f.bytes ∧ s.since r (us (s.fget rf_corStreamCtl_deferLimit core stream))
              then { f with expired := true } else f
          | none => f)
    ∧ exec (.descriptorFetch core stream) s = .next (s.fetchAhead p core stream 8).settle
    ∧ (s.fetchNext core stream = s.strTail core stream → s.fetchAhead p core stream 8 = s)

/-! ### Requests and answers -/

/-- Answers, timeouts and retries (R264, R265, R275, R298, R405): an answer is acted on for the request that it names; a request
unanswered for the response timeout is sent again as it was; so is one whose retry interval has passed; a management message is
sent again every millisecond until it is acknowledged. Choices of the model: log entries 1, 9 and 60. -/
def Obligations.RequestsAreResent : Prop :=
  ∀ s : State,
    (∀ (f : Frame) (x : Option Extra) (q : Request), s.serves = true → f.op = 0x10 → f.cls = 1 →
      sameModule f.dst (s.here 0) = true → s.requests.find? (fun r => r.id = f.reqId) = some q → q.msg.isSome = true →
      q.p = f.dst.part → exec (.response f x) s = .next (s.answered q f x).settle)
    ∧ (∀ (f : Frame) (x : Option Extra), s.serves = true → f.op = 0x10 → f.cls = 1 →
      sameModule f.dst (s.here 0) = true → s.requests.find? (fun r => r.id = f.reqId) = none →
      s.mgmt.any (fun m => m.id = f.reqId) = true → exec (.response f x) s = .next (s.acked f.reqId).settle)
    ∧ (∀ (id : BitVec 32) (q : Request) (m : Msg), s.requests.find? (fun r => r.id = id.toNat) = some q → q.msg = some m →
      isFrame (some m) = true → q.waitFrom = none →
      q.sent + us (s.fget rf_grvRedCtl_responseTimeoutUs q.p) ≤ s.tick →
      ∃ t, exec (.responseTimeout id) s = .next t ∧ t.out = s.out ++ [m]
        ∧ t.requests = s.requests.map (fun r => if r.id = q.id then
            { r with sent := s.tick, waitFrom := none, resends := r.resends + 1 } else r)
        ∧ t.reg .grvRedCount q.p 5 = s.reg .grvRedCount q.p 5
            + (if q.aux.headD 0 = 1 ∨ q.aux.headD 0 = 2 then 1 else 0)
        ∧ OnlyElems [⟨.grvRedCount, q.p, 5⟩] ((s.withOut t.out).withRequests t.requests) t)
    ∧ (∀ (id : BitVec 32) (q : Request) (m : Msg) (w : Nat), s.requests.find? (fun r => r.id = id.toNat) = some q →
      q.msg = some m → q.waitFrom = some w → w ≤ s.tick →
      exec (.retryIntervalExpire id) s = .next (((s.send m).withRequests (s.requests.map fun r => if r.id = q.id then
        { r with sent := s.tick, waitFrom := none, resends := r.resends + 1 } else r)).settle))
    ∧ (∀ (id : BitVec 32) (q : Request) (fl : Flight) (w : Nat), s.requests.find? (fun r => r.id = id.toNat) = some q →
      q.msg = none → q.waitFrom = some w → w ≤ s.tick → q.aux.headD 0 ≠ 2 → s.flight q.core q.stream q.n = some fl →
      fl.phase = .remote q.id →
      exec (.retryIntervalExpire id) s
        = .next ((s.dropRequest q.id).resume { fl with phase := .running fl.hasPoints }).settle)
    ∧ (∀ (id : BitVec 32) (m : MgmtMsg), s.mgmt.find? (fun x => x.id = id.toNat) = some m → m.sent + 1000000 ≤ s.tick →
      exec (.stepMessageResend id) s = .next ((s.send m.msg).withMgmt (s.mgmt.map fun x => if x.id = m.id then
        { x with sent := s.tick } else x)).settle)
    ∧ (∀ (id : BitVec 32), (∀ h ∈ s.grove.held, h.mirror ≠ id.toNat) →
      exec (.stepMessageAck id) s = .next (s.withMgmt (s.mgmt.filter fun m => m.id ≠ id.toNat)).settle)

/-- The bucket unit and the adders (R254, R263, R267): an accumulate request from a peer is answered as the bucket unit says, one
from outside the peer set REJECTED, one for a partition that does not run NOT_OPEN; an accepted line is added by its adder when it is the next of its bucket (R273).
Choices of the model: log entries 53, 59, 129, 131, 147, 148 and 153. -/
def Obligations.BucketCommands : Prop :=
  ∀ s : State,
    (∀ (f : Frame) (u : State), s.serves = true → f.op = 0x03 → sameModule f.dst (s.here 0) = true →
      s.admits f.dst.part = true → s.isPeer f.dst.part f.src = (true, u) →
      let r := u.bktHandle f.dst.part (accReq f.ops f.payload) (u.arrivalPort f.src)
      exec (.accumulate f) s = .next (r.2.respond f r.1.1 r.1.2).settle)
    ∧ (∀ (f : Frame) (u : State), s.serves = true → f.op = 0x03 → sameModule f.dst (s.here 0) = true →
      s.admits f.dst.part = true → s.isPeer f.dst.part f.src = (false, u) →
      exec (.accumulate f) s
        = .next (u.respond f anRejected (u.bktMarkOf f.dst.part (accReq f.ops f.payload))).settle)
    ∧ (∀ f : Frame, s.serves = true → f.op = 0x03 → sameModule f.dst (s.here 0) = true → s.admits f.dst.part = false →
      exec (.accumulate f) s = .next (s.respond f anNotOpen 0).settle)
    ∧ (∀ (p : Fin 16) (bucket : BitVec 16) (contributor : Fin 4096) (line : BitVec 16) (l : LineAdd),
      (s.part p).adds.find? (fun l => l.bucket = bucket.toNat) = some l →
      exec (.lineAdd p bucket contributor line) s
        = .next (if l.contributor = contributor.val ∧ l.line = line.toNat then s.lineAdd p l else s).settle)

/-- Frames at their target (R300 to R302, R313, R319, R403, R405): writes, reads, ring commits and the frames of exchanges and
permutations, from a peer of a running partition. Choices of the model: log entries 119 and 120. -/
def Obligations.TargetCommands : Prop :=
  ∀ (f : Frame) (x : Option Extra) (s u : State),
    let p := f.dst.part
    let va := fld f.ops 0 8
    (Targets 0x01 f s u → (∀ ch seq, x ≠ some (.ring ch seq)) →
      exec (.wodricWrite f x) s = .next (State.served f
        (u.serve (u.frameReq f (u.inExchange p va)) fun q => writeLocal q va f.payload) fun _ v => v.respond f anAccepted 0).settle)
    ∧ (Targets 0x02 f s u → (∀ runs i, x ≠ some (.tile runs i)) → 1 ≤ fld f.ops 8 4 → fld f.ops 8 4 ≤ 4096 →
      exec (.wodricRead f x) s = .next (State.served f
        (u.serve (u.frameReq f false) fun q => readLocal q va (fld f.ops 8 4)) fun bs v => v.respond f anDone 0 bs).settle)
    ∧ (Targets 0x02 f s u → fld f.ops 8 4 = 0 ∨ 4096 < fld f.ops 8 4 →
      exec (.wodricRead f x) s = .next (u.respond f anRejected 0).settle)
    ∧ (∀ (e : List Byte) (v w : State), Targets 0x04 f s u → fld f.ops 0 2 ≤ 63 →
      u.serve (u.frameReq f false) (fun q => readLocal q (u.channelAddr p (fld f.ops 0 2)) 16) = (.ok e, v) →
      v.isRank p (chSender e) f.src = (true, w) → chValid e = true → fld f.ops 4 4 = chExpected e →
      chCore e < 64 → w.partOf (chCore e) = some p → chToken e ≤ 0xFF →
      exec (.ringCommit f) s = .next (State.served f
        (w.serve (w.frameReq f false) fun q =>
          writeLocal q (w.channelAddr p (fld f.ops 0 2) + 8) (leBytes 4 (w32 (chExpected e + 1))))
        fun _ y => (((y.ringBlock p (fld f.ops 0 2) false).tokAdd (chCore e) (chToken e) 1).count .grvColCount p 3).respond f anAccepted 0).settle)
    ∧ (∀ (ex : Exch) (m : Nat),
      (Exchanges csCount f s u ex m →
        exec (.exchCount f x) s = .next ((u.takeCount p f x ex m).respond f anAccepted 0).settle)
      ∧ (Exchanges csGrant f s u ex m →
        let gs := (List.range (f.payload.length / 12)).map fun i =>
          (fld f.payload (12 * i) 2, fld f.payload (12 * i + 4) 4, fld f.payload (12 * i + 8) 4)
        let new := { ex with grants := ex.grants.filter (fun g => !gs.any (·.1 = g.1)) ++ gs }
        exec (.exchGrant f) s
          = .next ((((u.setExch p new).freeWork p new).exchResume p new).respond f anAccepted 0).settle)
      ∧ (Exchanges csFinished f s u ex m →
        let new := { ex with finished := ex.finished.filter (· ≠ m) ++ [m] }
        exec (.exchFinished f) s
          = .next ((((u.setExch p new).freeWork p new).exchResume p new).respond f anAccepted 0).settle)
      ∧ (Exchanges csReturned f s u ex m → ex.combining = false → exec (.exchReturned f) s = .next (u.respond f anNotReady 0).settle)
      ∧ (Exchanges csReturned f s u ex m → ex.combining = true →
        let new := { ex with returned := ex.returned.filter (· ≠ m) ++ [m] }
        exec (.exchReturned f) s
          = .next ((((u.setExch p new).freeWork p new).exchResume p new).respond f anAccepted 0).settle))
    ∧ (∀ (pm : Perm) (fl : Flight) (i : Nat) (os is : List Nat) (v : State), Targets 0x05 f s u →
      fld f.ops 0 1 = csPart → (u.part p).perm = some pm → u.permFlight p = some fl →
      pm.ins.findIdx? (fun m => m.peer = f.src ∧ m.round = fld f.ops 2 2 ∧ m.dst = fld f.ops 4 4) = some i →
      pmPlan pm.bytes % 2 ^ 32 = fld f.ops 8 4 → fld f.ops 12 4 % 4096 = 0 → fld f.ops 12 4 < chunkBytes →
      f.payload.length = 4096 → u.serve (u.frameReq f true) (fun q => readJournal q pm.bytes) = (.ok (os, is), v) →
      is.getD i 0 = 0 → lowRound pm.ins is mvPlaced = some (fld f.ops 2 2) → partsBefore pm i (fld f.ops 12 4) = true →
      exec (.permutePart f) s = .next (v.takePart f pm fl i (fld f.ops 12 4)).settle)

/-! ### The optimizer step and recovery at a worker -/

/-- A copy of a step message that has come before is acknowledged and has no other effect (R275), whatever its type.
Choices of the model: log entry 60. -/
def Obligations.RepeatedStepMessage : Prop :=
  ∀ (f : Frame) (s : State),
    let again (type : Nat) : Prop := s.mgArrives type f = true ∧ (type, mgJob f, mgEpoch f, f.src) ∈ s.seen
    (again mtStepReady → exec (.stepReady f) s = .next (s.respond f anAccepted 0).settle)
    ∧ (again mtSweepDone → exec (.sweepDone f) s = .next (s.respond f anAccepted 0).settle)
    ∧ (again mtParityApplied → exec (.parityApplied f) s = .next (s.respond f anAccepted 0).settle)
    ∧ (s.fromManager f.src = true →
      (again mtVerdict → exec (.verdict f) s = .next (s.respond f anAccepted 0).settle)
      ∧ (again mtCommit → exec (.commit f) s = .next (s.respond f anAccepted 0).settle)
      ∧ (again mtSettled → exec (.settled f) s = .next (s.respond f anAccepted 0).settle))

/-- The step at a worker (R276, R280, R281, R350): STEP_READY goes out once the epoch's work is complete; a verdict is applied,
or waits while the partition is pre-empted; COMMIT advances marker 1 for an epoch that committed and SETTLED marker 2, each once,
and SETTLED names the settled epoch. Choices of the model: log entries 50, 51, 52, 60, 128 and 130. -/
def Obligations.StepAtWorker : Prop :=
  ∀ s : State,
    (∀ (p : Fin 16) (job : BitVec 16), s.stepComplete p = true →
      let v := s.setPart p { s.part p with job := job.toNat }
      let r := v.stepReadyBody p job.toNat (v.epoch p)
      exec (.stepReadySend p job) s = .next ((r.2.fset rf_grvRedStatus_verdictPending p 0 1).mgmtSend p mtStepReady
        job.toNat (v.epoch p) r.2.manager r.1).settle)
    ∧ (∀ f : Frame, s.fromManager f.src = true →
      (NewStep mtVerdict f s → s.admits f.dst.part = true →
        exec (.verdict f) s = .next ((s.readStep mtVerdict f).verdict f.dst.part f).settle)
      ∧ (NewStep mtVerdict f s → s.admits f.dst.part = false →
        exec (.verdict f) s = .next ((s.readStep mtVerdict f).setPart f.dst.part
          { s.part f.dst.part with verdicts := (s.part f.dst.part).verdicts ++ [f] }).settle)
      ∧ (∀ r : EpochRec, (s.part f.dst.part).hist.find? (fun x => x.epoch = mgEpoch f) = some r →
        (NewStep mtCommit f s → r.verdict = 0 → r.committed = false →
          exec (.commit f) s = .next (((((s.readStep mtCommit f).noteEpoch f.dst.part { r with committed := true }).markerAdd
            f.dst.part 1 1).deltaStart f.dst.part (w64 (mgEpoch f + 1)) none).settle))
        ∧ (NewStep mtSettled f s → r.committed = true → r.settled = false →
          let v := (((s.readStep mtSettled f).noteEpoch f.dst.part { r with settled := true }).markerAdd f.dst.part 2 1).setReg
            .strSettledEpoch f.dst.part 0 (BitVec.ofNat 64 (mgEpoch f))
          exec (.settled f) s = .next ((match v.parRecord f.dst.part with
            | (some pr, w) => if (w.par f.dst.part).held.isSome then w.releaseDelta f.dst.part pr else w
            | (none, w) => w).steerSettled f.dst.part).settle)))

/-- Recovery at a worker (R438, R440, R444, R446 to R451): a first message of the manager is acknowledged and obeyed.
Choices of the model: log entries 61, 66, 68, 69, 71 and 72. -/
def Obligations.RecoveryAtWorker : Prop :=
  ∀ (g : Mg) (s : State), s.fromManager g.src = true →
    let p := g.dst.part
    (∀ (modules : List Nat) (r : Nat), NewGrove mtLost r g s → s.admits p = true → s.epoch p ≤ r →
      exec (.lost g modules r none) s = .next ((((s.lostEpoch p r none).ackMg g).grvSend p mtRollbackDone g.job r
        (s.lostEpoch p r none).manager (.rollbackDone r)).withSeen
          (((s.lostEpoch p r none).seen) ++ [(mtLost, g.job, r, g.src)])).settle)
    ∧ (∀ (lost : Addr) (r : Nat) (q : Fin 16) (writes : List (Nat × List Byte)) (regs : List (Nat × Word)),
      NewGrove mtActivate r g s → s.fbit rf_grvRole_spare = true →
      let a := writes.foldl (fun v (pa, bs) => if v.fenceOk q pa then (v.paWrite pa bs).2 else v)
        (s.readGrove mtActivate r g)
      let b := regs.foldl (fun v (off, x) => (writeAt .sapwood off x.toNat v).2) a
      let c := (b.setReg .grvEpoch q 0 (BitVec.ofNat 64 r)).fset rf_grvRole_spare 0 0 0
      let d := c.setPart q { c.part q with job := g.job }
      exec (.activate g lost r q writes regs) s = .next ((d.grvSend q mtActivated g.job r d.manager (.activated r)).raise
        0xC002 q ⟨8, q, 0, addrModule lost + (g.job <<< 16), r⟩).settle)
    ∧ (∀ (r : Nat) (lost : List (Nat × Addr)), NewGrove mtReconstruct r g s → s.epoch p = r →
      exec (.reconstruct g r lost) s = .next ((((s.readGrove mtReconstruct r g).setRebuild p ⟨r, lost, 0, []⟩).fset
        rf_grvParityStatus_rebuilding p 0 1).rebuildGo p rebuildFuel).settle)
    ∧ (∀ (epoch : Nat) (lsExp : Int), NewGrove mtResume epoch g s → s.epoch p ≤ epoch →
      exec (.resume g epoch lsExp) s = .next ((((s.readGrove mtResume epoch g).moveEpoch p epoch).finalBefore p epoch).setLossScale
        p (epoch - 1) lsExp).settle)
    ∧ (∀ (epoch : Nat) (map : List Byte) (plan encode : Bool), NewGrove mtReshard epoch g s → s.epoch p ≤ epoch →
      let a := ((s.readGrove mtReshard epoch g).moveEpoch p epoch).finalBefore p epoch
      let b := a.setPar p { a.par p with rebuild := none, reshard := some (epoch, plan, encode) }
      let c := (b.accountWrite p stJobMap (b.fget rf_grvJobMapBase_base p * 64) map).fset rf_grvJobMapBase_count p 0
        (map.length / 8)
      exec (.reshard g epoch map plan encode) s = .next ((if plan || encode then c.fset rf_grvParityStatus_protected p 0 0
        else c).reshardStep p false false).settle)
    ∧ (∀ epoch : Nat, NewGrove mtEncode epoch g s →
      exec (.encode g epoch) s = .next ((s.readGrove mtEncode epoch g).encode p epoch).settle)
    ∧ (∀ (q : Fin 16) (factors : List Nat) (b : Rebuild) (r : ParRec) (u v : State) (x : Unit),
      (s.par q).rebuild = some b → s.parRecord q = (some r, u) → r.quarter * max 1 b.lost.length ≤ b.finished.length →
      b.positions.contains r.position = true → u.opPending q (u.epoch q) [0x63] = false →
      u.ownE (finaliseAll (accountReq q) (u.layerTable q) factors) = (.ok x, v) →
      let w := v.setPar q { v.par q with rebuild := none }
      exec (.spareFinalise q factors) s = .next ((w.grvSend q mtReconstructDone (v.part q).job b.r w.manager
        (.reconstructDone b.r)).raise 0xC003 q ⟨8, q, 0, addrModule (w.here q) + ((v.part q).job <<< 16), b.r⟩).settle)
    ∧ (∀ (q : Fin 16) (bucket : BitVec 16),
      exec (.rebuildForward q bucket) s = .next (s.rebuildForward q bucket.toNat).settle
      ∧ exec (.parityApply q) s = .next (s.parityApply q).settle)

/-! ### The manager -/

/-- The optimizer step at the manager (R279, R282): the last STEP_READY of a collecting job decides the epoch, and so does the
step timeout; the last SWEEP_DONE commits it, and settles it at once where the job has no parity; the last PARITY_APPLIED
settles it. Choices of the model: log entries 61 and 67. -/
def Obligations.StepAtManager : Prop :=
  ∀ (f : Frame) (s : State) (j : MgrJob),
    (NewStep mtStepReady f s → Manages (s.readStep mtStepReady f) (mgJob f) j → j.state = jsCollecting →
      mgEpoch f = j.epoch → j.workers.contains f.src = true →
      let k := { j with ready := j.ready ++ [(f.src, f.payload)] }
      let u := (s.readStep mtStepReady f).setJob k
      (k.allReady = true → exec (.stepReady f) s = .next (u.decideNow k false).settle)
      ∧ (k.allReady = false → exec (.stepReady f) s = .next u.settle))
    ∧ (∀ job : BitVec 16, Manages s job.toNat j → j.state = jsCollecting → s.since j.tStart (s.stepTimeout j) = true →
      s.grove.held.all (·.job ≠ j.job) = true → exec (.stepTimeout job) s = .next (s.decideNow j true).settle)
    ∧ (NewStep mtSweepDone f s → Manages (s.readStep mtSweepDone f) (mgJob f) j → j.state = jsSweeping →
      w64 (mgEpoch f + 1) = j.epoch → j.workers.contains f.src = true →
      let u := s.readStep mtSweepDone f
      let k := { j with swept := j.swept ++ [f.src] }
      let v := u.broadcast { k with state := jsSettling, lastType := mtCommit }
      (k.workers.all (fun a => k.swept.contains a) = false → exec (.sweepDone f) s = .next (u.setJob k).settle)
      ∧ (k.workers.all (fun a => k.swept.contains a) = true → ∀ l, v.mgrJob k.job = some l →
        exec (.sweepDone f) s = .next (if l.holders.isEmpty then v.settleJob l else v).settle))
    ∧ (NewStep mtParityApplied f s → Manages (s.readStep mtParityApplied f) (mgJob f) j → j.encoding.contains f.src = false →
      j.state = jsSettling → w64 (mgEpoch f + 1) = j.epoch → j.holders.contains f.src = true →
      exec (.parityApplied f) s = .next ((s.readStep mtParityApplied f).settleJob
        { j with applied := j.applied ++ [f.src] }).settle)

/-- The recovery of a lost member at the manager (R444): ACTIVATING ends once every survivor has rolled back and every spare
is activated, the rebuild once every spare reports, and the re-sharding once every worker does; a report of another epoch, or in
another state, changes nothing but the acknowledgement. Choices of the model: log entries 61, 70 and 72. -/
def Obligations.RecoveryAtManager : Prop :=
  ∀ (g : Mg) (r : Word) (s : State) (j : MgrJob), r.toNat = j.epoch →
    let u (type : Nat) : State := s.readGrove type r.toNat g
    let k := { j with reported := j.reported ++ [g.src] }
    let new (type st : Nat) : Prop := NewGrove type r.toNat g s ∧ Manages (u type) g.job j ∧ j.state = st
    (new mtRollbackDone jsActivating → j.survivors.contains g.src = true →
      exec (.rollbackDone g r) s = .next ((u mtRollbackDone).activating k).settle)
    ∧ (new mtActivated jsActivating → j.spares.contains g.src = true →
      exec (.activated g r) s = .next ((u mtActivated).activating k).settle)
    ∧ (new mtReconstructDone jsRebuilding →
      (k.spares.all (fun a => k.reported.contains a) = true →
        exec (.reconstructDone g r) s = .next (((u mtReconstructDone).fset rf_grvRecovery_state 0 0 3).broadcast
          { k with state := jsResharding, epoch := w64 (k.epoch + 1), reported := [], lastType := mtReshard }).settle)
      ∧ (k.spares.all (fun a => k.reported.contains a) = false →
        exec (.reconstructDone g r) s = .next ((u mtReconstructDone).setJob k).settle))
    ∧ (new mtReshardDone jsResharding →
      (k.workers.all (fun a => k.reported.contains a) = true →
        exec (.reshardDone g r) s = .next ((((u mtReshardDone).fset rf_grvRecovery_state 0 0 0).count .grvCount 3 0).broadcast
          { k with state := jsCollecting, epoch := w64 (k.epoch + 1), reported := [], lost := [], ready := [], swept := [],
                   applied := [], lastType := mtResume }).settle)
      ∧ (k.workers.all (fun a => k.reported.contains a) = false →
        exec (.reshardDone g r) s = .next ((u mtReshardDone).setJob k).settle))
    ∧ (∀ st, (new mtRollbackDone st → st ≠ jsActivating → exec (.rollbackDone g r) s = .next (u mtRollbackDone).settle)
      ∧ (new mtActivated st → st ≠ jsActivating → exec (.activated g r) s = .next (u mtActivated).settle)
      ∧ (new mtReconstructDone st → st ≠ jsRebuilding → exec (.reconstructDone g r) s = .next (u mtReconstructDone).settle)
      ∧ (new mtReshardDone st → st ≠ jsResharding → exec (.reshardDone g r) s = .next (u mtReshardDone).settle))

/-- Roles and liveness (R427, R428, R430, R434, R435, R453): a manager-profile module takes a mode before it takes part; a
module that pulses is heard; one silent for the loss time, or past the restart grace, is lost.
Choices of the model: log entries 1, 9 and 61. -/
def Obligations.RolesAndLiveness : Prop :=
  ∀ s : State,
    (s.fget rf_grvRole_role = 1 → s.fget rf_grvMgrCtl_mode = 0 → s.fget rf_grvRole_groveState ≠ 3 →
      let v (mode : Nat) := (s.fset rf_grvMgrCtl_mode 0 0 mode).fset rf_grvRole_managerMode 0 0 mode
      exec .managerModeActive s = .next (((v 1).fset rf_grvManager_manager 0 0 (addrModule (v 1).me)).fset
        rf_grvManager_managerValid 0 0 1).settle
      ∧ exec .managerModeStandby s = .next (v 2).settle)
    ∧ (s.fget rf_grvRole_role ≠ 1 ∨ s.fget rf_grvMgrCtl_mode ≠ 0 ∨ s.fget rf_grvRole_groveState = 3 →
      exec .managerModeActive s = .next s.settle ∧ exec .managerModeStandby s = .next s.settle)
    ∧ (∀ t, s.serves = true → s.grove.pulsed = some t → s.since t (ms (s.fget rf_grvLiveness_pulseMs)) = true →
      s.fget rf_grvRole_groveState = 3 → s.fbit rf_grvManager_managerValid = true →
      s.fbit rf_grvManager_standbyValid = false → s.fget rf_grvManager_manager ≠ addrModule s.me →
      exec .pulseSend s = .next (((s.withGrove { s.grove with pulsed := some s.tick }).grvOnce 0
        (moduleAddr (s.fget rf_grvManager_manager) 0) (.pulse (s.fget rf_grvRole_term)
          (s.fbit rf_glbStatus_sapwoodRestarting) (s.fbit rf_glbStatus_sapwoodFailed) s.linkStates
          ((List.range 16).map s.epoch))).count .grvCount 0 0).settle)
    ∧ (∀ (g : Mg) (term : BitVec 16) (restarting : Bool) (q : Peer), s.grvArrives g = true →
      s.fget rf_grvRole_managerMode = 1 → term.toNat ≤ s.fget rf_grvRole_term → s.peer (addrModule g.src) = some q →
      q.lost = false →
      exec (.pulse g term restarting false) s = .next ((s.count .grvCount 1 0).setPeer { q with
        last := s.tick, restarting := if restarting then some (q.restarting.getD s.tick) else none }).settle)
    ∧ (∀ (g : Mg) (term : BitVec 16) (restarting failed : Bool), s.grvArrives g = true →
      s.fget rf_grvRole_managerMode = 1 → s.fget rf_grvRole_term < term.toNat →
      exec (.pulse g term restarting failed) s = .next (((s.count .grvCount 1 0).fset rf_grvRole_managerMode 0 0 3).fset
        rf_grvRole_term 0 0 term.toNat).settle)
    ∧ (∀ (m : BitVec 12) (q : Peer), s.peer m.toNat = some q → q.lost = false →
      (s.since q.last (ms (s.fget rf_grvLiveness_lossMs)) = true → exec (.lossTimeout m) s = .next (s.lose q.m).settle)
      ∧ (s.since q.last (ms (s.fget rf_grvLiveness_lossMs)) = false → exec (.lossTimeout m) s = .next s.settle)
      ∧ (∀ t, q.restarting = some t → t + ms (s.fget rf_grvLiveness_sapwoodGraceMs) < s.tick →
        exec (.sapwoodGraceTimeout m) s = .next (s.lose q.m).settle)
      ∧ (∀ t, q.restarting = some t → s.tick ≤ t + ms (s.fget rf_grvLiveness_sapwoodGraceMs) →
        exec (.sapwoodGraceTimeout m) s = .next s.settle))

/-- Grove messages at the manager and at a module (R427 to R430, R432, R434, R435, R443, R444, R453, R457): joining and admission,
a configuration image, a link report, the mirror and the change of manager.
Choices of the model: log entries 60, 61, 62, 70 and 73. -/
def Obligations.GroveMessages : Prop :=
  ∀ (g : Mg) (s : State),
    (∀ (role layout : Nat) (units : List Nat), NewGrove mtJoin g.reqId g s → (s.readGrove mtJoin g.reqId g).isManager = true →
      role = 0 → (∀ q, (s.readGrove mtJoin g.reqId g).peer (addrModule g.src) = some q → q.lost = false) →
      let u := (s.readGrove mtJoin g.reqId g).setPeer ⟨addrModule g.src, false, layout, units, s.tick, none, false⟩
      exec (.join g role layout units false false) s = .next (u.grvSend 0 mtAdmit 0 0 g.src
        (.admission (u.fget rf_grvRole_term) (u.fget rf_grvManager_manager) (u.fget rf_grvManager_standby)
          (u.fbit rf_grvManager_standbyValid) false)).settle)
    ∧ (∀ (role layout : Nat) (units : List Nat) (plan : Bool), NewGrove mtJoin g.reqId g s →
      exec (.join g role layout units true plan) s = .next (s.readGrove mtJoin g.reqId g).settle)
    ∧ (∀ (term manager standby : Nat) (valid spare : Bool),
      (NewGrove mtAdmit g.reqId g s → s.fget rf_grvRole_term ≤ term →
        exec (.admission g term manager standby valid spare) s
          = .next ((((((((((s.readGrove mtAdmit g.reqId g).fset rf_grvRole_term 0 0 term).fset rf_grvRole_groveState 0 0 3).fset
            rf_grvRole_spare 0 0 (b2n spare)).fset rf_grvManager_term 0 0 term).fset rf_grvManager_manager 0 0 manager).fset
            rf_grvManager_managerValid 0 0 1).fset rf_grvManager_standby 0 0 standby).fset
            rf_grvManager_standbyValid 0 0 (b2n valid)).settle))
      ∧ (term < s.fget rf_grvRole_term → exec (.admission g term manager standby valid spare) s = .next s.settle))
    ∧ (∀ (port : Fin 16) (state : Fin 8) (partner : BitVec 12), NewGrove mtLinkReport g.reqId g s →
      let u := s.readGrove mtLinkReport g.reqId g
      let v := u.withGrove { u.grove with
        links := u.grove.links.filter (fun (a, b, _, _) => ¬ (a = addrModule g.src ∧ b = port.val))
          ++ [(addrModule g.src, port.val, state.val, partner.toNat)] }
      (state.val ≠ 5 → exec (.linkReport g port state partner) s = .next v.settle)
      ∧ (state.val = 5 → v.allFacingDown partner.toNat = true →
        exec (.linkReport g port state partner) s = .next (v.lose partner.toNat).settle)
      ∧ (state.val = 5 → v.allFacingDown partner.toNat = false → v.isManager = true →
        exec (.linkReport g port state partner) s = .next v.sendFaultMap.settle))
    ∧ (∀ (j : MgrJob) (peers : List Peer), s.fromManager g.src = true → NewGrove mtMirror g.reqId g s →
      let u := s.readGrove mtMirror g.reqId g
      (u.fget rf_grvRole_managerMode = 2 → ∃ t, exec (.mirror g j peers) s = .next t ∧ t.mgrJob j.job = some j)
      ∧ (u.fget rf_grvRole_managerMode ≠ 2 → exec (.mirror g j peers) s = .next u.settle))
    ∧ (∀ term : BitVec 16,
      (NewGrove mtTakeover term.toNat g s → s.fget rf_grvRole_term < term.toNat →
        ∃ t, exec (.takeover g term) s = .next t ∧ t.fget rf_grvRole_term = term.toNat
          ∧ t.fget rf_grvManager_term = term.toNat ∧ t.fget rf_grvManager_manager = addrModule g.src % 4096
          ∧ t.fbit rf_grvManager_managerValid = true ∧ t.fbit rf_grvManager_standbyValid = false
          ∧ (s.isManager = true → t.fget rf_grvRole_managerMode = 3))
      ∧ (term.toNat < s.fget rf_grvRole_term → exec (.takeover g term) s = .next s.settle)
      ∧ (term.toNat = s.fget rf_grvRole_term → s.grvArrives g = true →
        exec (.takeover g term) s = .next (s.ackMg g).settle))
    ∧ (∀ (img : Image) (j : MgrJob), NewGrove mtConfigImage g.reqId g s →
      let u := s.readGrove mtConfigImage g.reqId g
      Manages u g.job j → u.fbit rf_grvManager_standbyValid = false → img.parity = [] →
      exec (.configImage g img) s = .next (u.setJob
        { j with members := j.members.filter (·.1 ≠ g.src) ++ [(g.src, img)] }).settle)

/-! ### Links, frames and host ports -/

/-- The states of a link (R395 to R397, R420): what starts, ends and degrades it, and that nothing else moves it.
Choices of the model: log entries 1, 9, 83 and 155. -/
def Obligations.LinkStates : Prop :=
  ∀ (port : Fin 16) (s : State),
    (exec (.linkTrained port) s = .next (if s.link port = lsTraining then s.linkUp port lsUp 15 0x4005 else s).settle)
    ∧ (∀ high : Bool,
      (s.link port = lsTraining → isFabric port = true →
        exec (.linkTrainedDegraded port high) s = .next (s.linkUp port lsDegraded (pairLanes high) 0x4002).settle)
      ∧ (s.link port = lsTraining → isFabric port = false → exec (.linkTrainedDegraded port high) s = .next s.settle)
      ∧ (s.link port = lsRelaning → s.since (s.port port).since (ms 2) = false → s.healthy port high = true →
        let u := (s.setLink port lsDegraded).fset rf_fabPortStatus_activeLanes port 0 (pairLanes high)
        let v := u.setPort port { u.port port with relane := false, heard := u.tick }
        exec (.relaneTrained port high) s
          = .next ((((v.resendAll port).raiseMod 0x4002 (v.portInfo port 1)).linkChanged port).offer port).settle))
    ∧ (s.link port = lsTraining → s.since (s.port port).since (ms 100) = true →
      exec (.trainingTimeout port) s = .next (s.setLink port lsTraining).settle)
    ∧ (isFabric port = true → s.linked port = true →
      (s.since (s.port port).heard (us 20) = true → exec (.linkIdleTimeout port) s = .next (s.linkDown port).settle)
      ∧ (s.since (s.port port).heard (us 20) = false → exec (.linkIdleTimeout port) s = .next s.settle)
      ∧ (8 ≤ (s.port port).resends → exec (.linkResendLimit port) s = .next (s.linkDown port).settle)
      ∧ ((s.port port).resends < 8 → exec (.linkResendLimit port) s = .next s.settle)
      ∧ (∀ lanes : BitVec 4, lanes ≠ 0 →
        let a := s.fecReport port
        let u := a.fset rf_fabPortStatus_failedLanes port 0 (a.fget rf_fabPortStatus_failedLanes port ||| lanes.toNat)
        exec (.laneFault port lanes) s = .next ((u.setPort port { u.port port with relane := true }).relaneOr port).settle))
    ∧ (s.link port = lsRelaning → s.since (s.port port).since (ms 2) = true →
      exec (.relaneTimeout port) s = .next (s.linkDown port).settle)
    ∧ (s.link port = lsDown → s.since (s.port port).since (ms 1) = true →
      exec (.downRetrain port) s = .next ((s.setLink port lsTraining).linkChanged port).settle)
    ∧ (s.awake (domPort port) = true →
      exec (.portEnable port) s = .next (portEnable port s).settle
        ∧ exec (.portDisable port) s = .next (portDisable port s).settle)

/-- Frames of a link (R398, R400, R402, R403): the next one in sequence is routed, one beyond it is asked for, one below it is
dropped; a stomped or damaged frame goes no further; a flow frame tells what was received and freed; frames unacknowledged for
8 µs are sent again. Choices of the model: log entries 11, 76, 80, 81 and 155. -/
def Obligations.FramesOfALink : Prop :=
  ∀ (port : Fin 16) (s : State), isFabric port = true →
    (∀ (seq : BitVec 16) (shared : Bool) (f : Frame) (c : Cargo), s.alive port = true →
      let a := (s.count .fabPortCount port 1).count .fabPortCount port 3 (frameBytes f)
      let u := a.setPort port { a.port port with heard := a.tick }
      let d := sext 16 (subMod 16 seq.toNat (u.port port).rxNext)
      (∀ header, exec (.routedFrame port seq .stomped shared header f c) s = .next (u.count .fabPortCount port 6).settle)
      ∧ (d = 0 → knownOp f.op = true →
        exec (.routedFrame port seq .good shared true f c) s
          = .next ((u.setPort port { u.port port with rxNext := ((u.port port).rxNext + 1) % 65536, nak := false }).route
            ⟨f, f, c, some port.val, some (if shared then sharedPool else vcOf f)⟩).settle)
      ∧ (d < 0 → exec (.routedFrame port seq .good shared true f c) s = .next u.settle)
      ∧ (0 < d → exec (.routedFrame port seq .good shared true f c) s
        = .next (u.setPort port { u.port port with nak := true }).settle)
      ∧ exec (.routedFrame port seq .good shared false f c) s = .next (u.countDiscard port).settle
      ∧ (d < 0 → ∀ header, exec (.routedFrame port seq .bad shared header f c) s = .next (u.badFcs port).settle))
    ∧ (s.linked port = true →
      let u := s.send (.flow port (s.flowBytes port))
      exec (.flowFrameSend port) s = .next (u.setPort port { u.port port with owed := 0, nak := false }).settle)
    ∧ (∀ (src : Addr) (b : List Byte), s.linked port = true → b.length = 60 → fldBit b 2 4 = false → fldBit b 2 5 = false →
      let u := (s.fset rf_fabPortStatus_partner port 0 (src.x * 256 + src.y * 16 + src.z)).fset
        rf_fabPortStatus_partnerValid port 0 1
      let x := u.port port
      let keep := x.retry.filter fun (q, _, _) => 0 < sext 16 (subMod 16 q (fld b 0 2))
      let moved : Bool := keep.length < x.retry.length
      exec (.flow port src b) s = .next ((u.setPort port { x with
        heard := u.tick, retry := keep, peerFailed := fldB b 2 3 0, mac := (Config.portMac (addrModule src) port).toNat, progress := if moved then u.tick else x.progress,
        resends := if moved then 0 else x.resends,
        peerFreed := (List.range 13).foldl (fun m v => smSet 0 m v (fld b (4 + 4 * v) 4)) x.peerFreed }).portDrained
          port).settle)
    ∧ (s.alive port = true → (s.port port).retry ≠ [] → s.since (s.port port).progress (us 8) = true →
      exec (.linkRetryTimeout port) s = .next (s.resendAll port).settle)

/-- Coordinates and the fault map (R406, R410, R414, R422, R429): a write of FAB_COORD takes effect once every channel but
management is empty; an offer of other coordinates is a conflict; a bucket fills by its cap, up to its burst; a fault map
installs the detour tables of the next generation. Choices of the model: log entries 73, 74, 82 and 88. -/
def Obligations.CoordinatesAndRoutes : Prop :=
  ∀ s : State,
    (∀ v : Word, exec (.fabCoordWrite v) s = .next (s.withFab { s.fab with coordNext := some v }).settle)
    ∧ (∀ v : Word, s.fab.coordNext = some v → s.channelsEmpty = true → v.toNat / 2 ^ 24 % 2 = 0 →
      exec .coordTakeEffect s = .next ((s.withFab { s.fab with coordNext := none }).takeCoord v.toNat).settle)
    ∧ (s.fab.coordNext = none ∨ s.channelsEmpty = false → exec .coordTakeEffect s = .next s.settle)
    ∧ (∀ (port kx ky kz x y z : Fin 16), s.serves = true → isFabric port = true → s.alive port = true →
      s.fget rf_glbProfile_role ≠ 2 →
      let v := (1 <<< 24) + (kx.val <<< 20) + (ky.val <<< 16) + (kz.val <<< 12) + (x.val <<< 8) + (y.val <<< 4) + z.val
      (s.fbit rf_fabCoord_valid = false → s.fab.coordNext = none →
        exec (.coordOffer port kx ky kz x y z) s
          = .next (s.withFab { s.fab with coordNext := some (BitVec.ofNat 64 v) }).settle)
      ∧ (s.fbit rf_fabCoord_valid = true → (s.reg .fabCoord).toNat = v →
        exec (.coordOffer port kx ky kz x y z) s = .next s.settle)
      ∧ (s.fbit rf_fabCoord_valid = true → (s.reg .fabCoord).toNat ≠ v → s.fget rf_grvRole_groveState = 3 →
        let u := s.raiseMod 0xC009 ⟨5, port, 0, addrModule (s.here 0), 0⟩
        exec (.coordOffer port kx ky kz x y z) s = .next (u.withGrove { u.grove with conflict := true }).settle))
    ∧ (∀ p : Fin 16, s.since (smGet 0 s.fab.refilled p) 64 = true →
      exec (.shaperRefill p) s = .next (s.withFab { s.fab with
        refilled := smSet 0 s.fab.refilled p s.tick,
        fabricBucket := smSet 0 s.fab.fabricBucket p (min (s.fget rf_fabShape_burstKib p * 1024)
          (smGet 0 s.fab.fabricBucket p + 64 * s.fget rf_fabShape_fabricCap p)),
        hostBucket := smSet 0 s.fab.hostBucket p (min (s.fget rf_fabShape_burstKib p * 1024)
          (smGet 0 s.fab.hostBucket p + 64 * s.fget rf_fabShape_hostCap p)) }).settle)
    ∧ (∀ (g : Mg) (links : List (Nat × Nat)) (gen : Fin 16) (up : BitVec 6) (tables : List (Nat × Nat)),
      s.fromManager g.src = true → NewGrove mtFaultMap g.reqId g s → (∀ e ∈ tables, e.1 < 4096) →
      exec (.faultMap g [] links gen up tables) s
        = .next ((((tables.foldl (fun v e => v.setDetour e.1 e.2) ((s.readGrove mtFaultMap g.reqId g).fset
          rf_fabRouteCtl_detourEnable 0 0 0)).fset rf_fabRouteCtl_upMask 0 0 up.toNat).fset
          rf_fabRouteCtl_detourGen 0 0 gen).fset rf_fabRouteCtl_detourEnable 0 0 1).settle)

/-- RoCE messages at a host port (R415 to R417, R419): the next message of a queue pair is served by its operation.
Choices of the model: log entries 84, 85 and 86. -/
def Obligations.RoceMessages : Prop :=
  ∀ (r : Roce) (c : QpConf) (s : State),
    let u := (s.delivered r c).1
    let x := (s.delivered r c).2
    (Delivers [rcSend, rcSendImm] r c s → x.conf.part = none → ∀ buffer,
      exec (.roceSend r c buffer) s = .next (u.answer x r rcAck synAck).settle)
    ∧ (Delivers [rcSend, rcSendImm] r c s → x.conf.part.isSome = true →
      exec (.roceSend r c none) s = .next ((u.setQp r.qpn { x with expected := r.psn }).answer x r rcAck synRnr).settle)
    ∧ (Delivers [rcWrite, rcWriteImm] r c s →
      (r.payload.length ≠ r.len → exec (.rdmaWrite r c) s = .next (u.refuse x r synInvalid).settle)
      ∧ (r.payload.length = r.len → exec (.rdmaWrite r c) s = .next (u.rdma x r 1 r.len (fun q => writeLocal q r.va r.payload)
        fun _ v => v.answer x r rcAck synAck).settle))
    ∧ (Delivers [rcRead] r c s → exec (.rdmaRead r c) s = .next (u.rdma x r 0 r.len (fun q => readLocal q r.va r.len)
      fun bs v => v.answer x r rcReadResponse synAck bs).settle)
    ∧ (Delivers [rcCompareSwap] r c s →
      exec (.compareAndSwap r c) s = .next (u.atomic x r fun old => if old = r.a then r.b else old).settle)
    ∧ (Delivers [rcFetchAdd] r c s →
      exec (.fetchAndAdd r c) s = .next (u.atomic x r fun old => (old + r.a) % 2 ^ 64).settle)
    ∧ (Delivers [rcAccumulate] r c s → exec (.accumulateWrite r c) s = .next (hostAccumulate r c u x).settle)
    ∧ (s.serves = true → r.port < 4 → s.link r.port = lsUp → qpnOk r = true → r.opcode = rcAck → r.a < synRnr →
      let a := (s.count .fabPortCount r.port 1 (packetsOf c r.payload.length)).count .fabPortCount r.port 3 (roceBytes c r)
      let b := a.notify (a.qp r.qpn r.port c) r
      b.2.err = false → exec (.roceAcknowledge r c) s = .next (b.1.hostAcked r.qpn b.2 r.psn).1.settle)
    ∧ (∀ (n : BitVec 24) (q : QpX) (e : Roce × Nat × Nat) (es : List (Roce × Nat × Nat)),
      smGet none s.fab.qps n.toNat = some q → q.sent = e :: es → q.err = false → s.since e.2.2 (us c.timeoutUs) = true →
      (q.retries < c.retry → exec (.roceRetryTimeout n c) s = .next (s.hostResend n.toNat
        { q with conf := c, retries := q.retries + 1 }).settle)
      ∧ (c.retry ≤ q.retries → exec (.roceRetryTimeout n c) s = .next (s.qpError n.toNat { q with conf := c }).settle))

/-- Congestion at a host port (R418, R419): a pause holds its priority until the resume or the watchdog, whose discard is an
event; a CNP halves a queue pair's rate at most once every 50 µs, and 55 µs of quiet raise it again.
Choices of the model: log entries 1, 9 and 87. -/
def Obligations.CongestionControl : Prop :=
  ∀ s : State,
    (∀ (port : Fin 4) (prio : Fin 8), s.link port = lsUp → s.pfcOn prio = true →
      let x := { s.port port with lastPause := smSet 0 (s.port port).lastPause prio s.tick }
      (x.ignoring.contains prio.val = false →
        exec (.pfcPause port prio true) s = .next (s.setPort port { x with
          paused := smSet none x.paused prio (some ((smGet none x.paused prio).getD s.tick)) }).settle)
      ∧ (x.ignoring.contains prio.val = true → exec (.pfcPause port prio true) s = .next (s.setPort port x).settle)
      ∧ exec (.pfcPause port prio false) s = .next (s.unpause port prio).settle)
    ∧ (∀ (port : Fin 4) (prio : Fin 8) (t : Nat), smGet none (s.port port).paused prio = some t →
      s.fget rf_fabHostCtl_pfcWatchdogMs = 0 ∨ s.since t (ms (s.fget rf_fabHostCtl_pfcWatchdogMs)) = false →
      exec (.pfcWatchdog port prio) s = .next s.settle)
    ∧ (∀ (port : Fin 4) (prio : Fin 8) (t : Nat), smGet none (s.port port).paused prio = some t →
      s.fget rf_fabHostCtl_pfcWatchdogMs ≠ 0 → s.since t (ms (s.fget rf_fabHostCtl_pfcWatchdogMs)) = true →
      let u := s.unpause port prio
      let x := u.port port
      let gone := x.packets.filter (·.1 = some prio.val)
      let v := (u.setPort port { x with packets := x.packets.filter (·.1 ≠ some prio.val),
                                        ignoring := x.ignoring ++ [prio.val] }).count .fabPortCount port 9 gone.length
      exec (.pfcWatchdog port prio) s = .next (v.raiseMod 0x4008 (v.portInfo port gone.length)).settle)
    ∧ (∀ (port : Fin 4) (prio : Fin 8), (s.port port).ignoring.contains prio.val = true →
      s.since (smGet 0 (s.port port).lastPause prio) (ms 100) = true →
      exec (.pfcWatchdogClear port prio) s = .next (s.setPort port { s.port port with
        ignoring := (s.port port).ignoring.filter (· ≠ prio.val) }).settle)
    ∧ (∀ (n : BitVec 24) (x : QpX), smGet none s.fab.qps n.toNat = some x →
      (s.fbit rf_fabHostCtl_ecnEnable = true → (∀ t, x.cut = some t → s.since t (us 50) = true) →
        exec (.cnp n) s = .next (s.setQp n.toNat { x with
          rate := max gbit (x.rate / 2), cut := some s.tick, changed := s.tick }).settle)
      ∧ (∀ t, s.fbit rf_fabHostCtl_ecnEnable = true → x.cut = some t → s.since t (us 50) = false →
        exec (.cnp n) s = .next (s.setQp n.toNat { x with changed := s.tick }).settle)
      ∧ (s.fbit rf_fabHostCtl_ecnEnable = false → exec (.cnp n) s = .next s.settle)
      ∧ (s.since x.changed (us 55) = true → exec (.cnpRateIncrease n) s = .next (s.setQp n.toNat { x with
        rate := min portRate (x.rate + gbit), changed := s.tick }).settle)
      ∧ (s.since x.changed (us 55) = false → exec (.cnpRateIncrease n) s = .next s.settle))

/-! ### Partitions -/

/-- The fault queue and invalidation (R342 to R344, R359, R360): sapwood resolves a waiting fault by a retry, which runs the
access again, or a failure; one that it leaves fails at its timeout; an invalidation of a legal range clears the range's cached
translations, and one that is not sets inval_error. Choices of the model: log entries 1, 9, 29, 152 and 154. -/
def Obligations.TranslationCommands : Prop :=
  ∀ (p : Fin 16) (s : State),
    (∀ (id : BitVec 16) (x : XFault), s.waitingFault p id.toNat = some x →
      exec (.faultResolveRetry p id) s
        = .next ((s.waiters x).foldl (fun v fl => v.resume fl) ((s.dropFault p x.id).count .prtCount p 2)).settle
      ∧ exec (.faultResolveFail p id) s = .next (s.failFault p x 0x2001).settle
      ∧ (s.since x.tick (us (s.fget rf_prtFaultTimeout_timeoutUs p)) = true →
        exec (.faultTimeout p id) s = .next (s.failFault p x 0x2006).settle)
      ∧ (s.since x.tick (us (s.fget rf_prtFaultTimeout_timeoutUs p)) = false →
        exec (.faultTimeout p id) s = .next s.settle))
    ∧ (∀ id : BitVec 16, s.waitingFault p id.toNat = none →
      exec (.faultResolveRetry p id) s = .next s.settle ∧ exec (.faultResolveFail p id) s = .next s.settle
        ∧ exec (.faultTimeout p id) s = .next s.settle)
    ∧ (∀ v : Word,
      let lg := bits v.toNat 53 48
      let va := bits v.toNat 47 16 * 65536
      (s.fbit rf_prtStatus_invalBusy p = true ∨ lg < 16 ∨ 48 < lg ∨ va % 2 ^ lg ≠ 0 →
        exec (.xltInval p v) s = .next (s.fset rf_prtStatus_invalError p 0 1).settle)
      ∧ (s.fbit rf_prtStatus_invalBusy p = false → 16 ≤ lg → lg ≤ 48 → va % 2 ^ lg = 0 →
        exec (.xltInval p v) s
          = .next ((s.setPart p { s.part p with inval := some (va, lg) }).fset rf_prtStatus_invalBusy p 0 1).settle))
    ∧ (∀ va lg : Nat, (s.part p).inval = some (va, lg) → (∀ q ∈ s.requests, q.p ≠ p.val) →
      (s.part p).adds = [] → s.meetsSave p va (2 ^ lg) = false →
      exec (.invalidationDone p) s = .next ((s.setPart p { s.part p with
        inval := none, xcache := (s.part p).xcache.filter fun e => !rangesMeet va (2 ^ lg) e.base (2 ^ e.log2) }).fset
          rf_prtStatus_invalBusy p 0 0).settle)

/-- Pre-emption (R347 to R352, R354, R355, R359): the states that a partition passes through, what refuses a move, and what each one does.
Choices of the model: log entries 1, 2, 89, 90 and 100. -/
def Obligations.PreemptionCommands : Prop :=
  ∀ (p : Fin 16) (s : State),
    (s.preState p = psNone → s.fbit rf_prtCtl_armed p = true → s.draining p = false →
      let u := ((s.setPre p psStopping).wakePart p).endTapWaits p
      exec (.preemptRequest p) s = .next (u.setPart p { u.part p with preemptAsked := false }).settle)
    ∧ (s.preState p = psNone → s.fbit rf_prtCtl_armed p = true → s.draining p = true →
      exec (.preemptRequest p) s = .next (s.setPart p { s.part p with preemptAsked := true }).settle)
    ∧ (s.preState p = psNone → s.fbit rf_prtCtl_armed p = false →
      exec (.preemptRequest p) s = .next ((s.preError p).saveFault p).settle)
    ∧ (s.preState p ≠ psNone → exec (.preemptRequest p) s = .next (s.preError p).settle)
    ∧ ((s.part p).preemptAsked = false → s.preState p = psStopping → s.stopped p = true →
      let u := (s.clustersOf p).foldl State.slvPark s
      exec (.preemptStopped p) s = .next ((u.setPre p psSaving).setPart p { u.part p with xcache := [] }).settle)
    ∧ (∀ (h : Option (List Byte)) (u : State), s.preState p = psSaving → s.own (saveImage p (s.saveVa p) (s.saveBytes p / 4096)) = (h, u) →
      let sts := (u.streamsOf p).filterMap fun (k, st) =>
        if u.strState k st = ssDisabled then none else some (k, st, u.strState k st)
      let v := sts.foldl (fun (v : State) (k, st, _) => v.setStr k st ssSaved) u
      let w := v.setPart p { v.part p with
        savedStreams := sts, savedHeader := h.getD [], saved := some (v.toSave p) }
      exec (.saveDone p) s
        = .next ((((w.setPre p psSaved).syncCol p).count .prtCount p 3).raise 0x2004 p ⟨8, p, 0, 0, s.saveVa p⟩).settle)
    ∧ (s.preState p = psSaved → exec (.preemptResume p) s = .next (s.setPre p psRestoring).settle)
    ∧ (s.preState p ≠ psSaved → exec (.preemptResume p) s = .next (s.preError p).settle
      ∧ exec (.preemptRelease p) s = .next (s.preError p).settle)
    ∧ (∀ (h : List Byte) (u : State), s.preState p = psRestoring → 
      s.own (restoreImage p (s.saveVa p) (s.saveBytes p / 4096)) = (some h, u) →
      (h = (u.part p).savedHeader →
        let v := (u.part p).savedStreams.foldl (fun (v : State) (k, st, x) => v.setStr k st x) u
        let y := match (v.part p).saved with
          | some x => v.putBack p x
          | none => v
        let w := y.setPart p { y.part p with savedStreams := [], savedHeader := [], saved := none }
        let r := ((w.loseStores p).setPre p psNone).restartDrains p
        let t := (r.streamsOf p).foldl (fun (v : State) (k, st) => v.wakeStream k st) r
        exec (.restoreDone p) s
          = .next (((((t.syncCol p).applyDeferred p).applyVerdicts p).raise 0x2007 p ⟨8, p, 0, 0, s.saveVa p⟩).settle))
      ∧ (h ≠ (u.part p).savedHeader → exec (.restoreDone p) s = .next ((u.setPre p psSaved).saveFault p).settle))
    ∧ (s.preState p = psSaved →
      let u := (s.flights.filter fun fl => s.partOf fl.core = some p.val).foldl
        (fun (v : State) fl => (v.endFlight fl stPreempted).syncEngines fl.core (hOpcode fl.bytes)) s
      let v := (u.streamsOf p).foldl (fun (v : State) (k, st) => v.setStr k st ssDisabled) u
      let w := (v.setPart p { v.part p with faults := [], savedStreams := [], savedHeader := [], saved := none }).syncFaults p
      exec (.preemptRelease p) s = .next (((((w.fset rf_prtFaultqPtr_head p 0 (w.fget rf_prtFaultqPtr_tail p)).setPre p
        psNone).applyDeferred p).applyVerdicts p).settle))
    ∧ (∀ v : Word, exec (.saveBaseWrite p v) s
      = .next ((s.fset rf_prtSaveBase_base p 0 (bits v.toNat 47 16)).fset rf_prtCtl_armed p 0 0).settle)
    ∧ (∀ u : State,
      let pages := (List.range (ceilDiv (s.saveBytes p) 65536)).map fun i => s.saveVa p + 65536 * i
      (s.armWalk p pages = (true, u) →
        exec (.armPreempt p) s = .next ((u.fset rf_prtCtl_armed p 0 1).fset rf_prtCtl_armError p 0 0).settle)
      ∧ (s.armWalk p pages = (false, u) →
        exec (.armPreempt p) s
          = .next (((u.fset rf_prtCtl_armed p 0 0).fset rf_prtCtl_armError p 0 1).saveFault p).settle))

/-! ### Memory stacks -/

/-- Repair, scrubbing and refresh of the stacks (R369, R371 to R374, R384, R387, R389): the rate registers, a temperature reading, refresh, one
scrubbed line, the period's end, and a hard repair. Choices of the model: log entries 1, 9, 10, 92, 93 and 94. -/
def Obligations.HbmMaintenance : Prop :=
  ∀ s : State,
    (∀ (stack : Fin 12) (p : Fin 16) (v : Word), s.awake (domStack stack) = true →
      exec (.regRateWrite stack p v) s = .next (regRateWrite stack p v.toNat s).settle)
    ∧ (∀ (stack : Fin 12) (temp : BitVec 8), s.fbit rf_hbmStackStatus_trained stack = true → s.awake (domStack stack) = true →
      let u := (s.noteTemp (16 + stack) temp.toNat).fset rf_hbmStackStatus_tempC stack 0 temp.toNat
      let limit := u.fget rf_hbmRefreshCtl_tempLimitC stack
      let v := u.setStackX stack { u.stackX stack with
        coolSince := if temp.toNat ≤ u.fget rf_hbmRefreshCtl_tempLowerC stack then some ((u.stackX stack).coolSince.getD u.tick)
          else none,
        freeSince := if temp.toNat + 5 ≤ limit then some ((u.stackX stack).freeSince.getD u.tick) else none }
      v.fbit rf_hbmStackStatus_tempRaised stack = true ∨ temp.toNat < v.fget rf_hbmRefreshCtl_tempRaiseC stack →
      v.fbit rf_hbmStackStatus_throttled stack = false →
      (temp.toNat < limit → exec (.hbmSensorRead stack temp) s = .next v.settle)
      ∧ (limit ≤ temp.toNat →
        let w := v.fset rf_hbmStackStatus_throttled stack 0 1
        exec (.hbmSensorRead stack temp) s = .next (((w.setStackX stack { w.stackX stack with throttleTick := w.tick }).raiseMod
          0x3007 ⟨4, stack, 0, 0, 0⟩).rescale stack true).settle))
    ∧ (∀ (stack : Fin 12) (t : Nat), (s.stackX stack).coolSince = some t →
      s.fbit rf_hbmStackStatus_tempRaised stack = true → s.since t (ms 100) = true →
      exec (.hbmTempLowerHold stack) s = .next ((s.fset rf_hbmStackStatus_tempRaised stack 0 0).effRefresh stack).settle)
    ∧ (∀ (stack : Fin 12) (t : Nat), (s.stackX stack).freeSince = some t →
      s.fbit rf_hbmStackStatus_throttled stack = true → s.since t (ms 100) = true →
      exec (.hbmThrottleEnd stack) s
        = .next (((s.countThrottle stack).fset rf_hbmStackStatus_throttled stack 0 0).rescale stack true).settle)
    ∧ (∀ stack : Fin 12, s.fbit rf_hbmStackStatus_ready stack = true →
      exec (.hbmRefresh stack) s = .next (s.setStackX stack { s.stackX stack with refreshTick := s.tick }).settle)
    ∧ (∀ (line : BitVec 33) (bad : Fin 4), let st := (s.hbmPlace (128 * line.toNat)).stack
      s.fbit rf_hbmGlbCtl_scrubEnable = true → 128 * line.toNat < hbmTop → s.fbit rf_hbmStackStatus_ready st = true →
      s.awake (domStack st) = true →
      exec (.scrubLine line bad) s = .next (((s.withHbm { s.hbm with
        lineErr := smSet 0 s.hbm.lineErr line.toNat (max (smGet 0 s.hbm.lineErr line.toNat) bad.val) }).count .hbmCount st 5).lineRead
          1 (128 * line.toNat)).2.settle)
    ∧ (s.since s.hbm.scrubStart (hours s.hbm.scrubHours) = true →
      exec .scrubPeriodBoundary s = .next (s.withHbm { s.hbm with
        rowCnt := [], scrubStart := s.tick, scrubHours := s.fget rf_hbmGlbCtl_scrubPeriodH }).settle)
    ∧ (∀ v : Word, exec (.hardRepair v) s = .next (hardRepair v.toNat s).settle)
    ∧ (∀ row : Nat, s.hbm.repairing = some row →
      let u := (s.withHbm { s.hbm with repairing := none }).fset rf_hbmRepairStatus_busy 0 0 0
      exec (.hardRepairDone false) s = .next (u.fset rf_hbmRepairStatus_result 0 0 6).settle
      ∧ ∃ t, exec (.hardRepairDone true) s = .next t ∧ t.fget rf_hbmRepairStatus_result = 2
        ∧ t.fbit rf_hbmRepairStatus_busy = false ∧ row ∈ t.hbm.hard ∧ row ∉ t.hbm.cand ∧ row ∉ t.hbm.soft)

/-- The regulator of a stack (R376 to R378): every 64 ns each bucket gains its class's rate, up to its burst; an access whose
class's minimum covers it is served, and its cost leaves both buckets. Choices of the model: log entry 91. -/
def Obligations.HbmRegulator : Prop :=
  ∀ s : State,
    (s.since s.hbm.refillTick 64 = true → ∃ t, exec .regulatorRefill s = .next t ∧ t.hbm.refillTick = s.tick
      ∧ ∀ (stack : Fin 12) (c : Fin 17),
        smGet 0 (t.stackX stack).minBucket c
          = min (s.hbmBurst stack c) (smGet 0 (s.stackX stack).minBucket c + 64 * s.hbmMin stack c)
        ∧ smGet 0 (t.stackX stack).capBucket c
          = min (s.hbmBurst stack c) (smGet 0 (s.stackX stack).capBucket c + 64 * s.hbmCap stack c))
    ∧ (∀ (stack : Fin 12) (pc : Fin 64) (r : HbmReq), s.fbit rf_hbmStackStatus_ready stack = true →
      s.fbit rf_hbmStackStatus_throttled stack = false → r.pa < hbmTop → (s.hbmPlace r.pa).stack = stack.val →
      (s.hbmPlace r.pa).pc = pc.val → let x := s.stackX stack
      reqCost r ≤ smGet 0 x.minBucket (s.hbmClass r) →
      exec (.channelSchedule stack pc [r]) s = .next (s.setStackX stack { x with
        lastMin := smSet 0 x.lastMin pc.val (s.hbmClass r),
        minBucket := smSet 0 x.minBucket (s.hbmClass r) (smGet 0 x.minBucket (s.hbmClass r) - reqCost r),
        capBucket := smSet 0 x.capBucket (s.hbmClass r) (smGet 0 x.capBucket (s.hbmClass r) - reqCost r),
        lastRow := smSet none x.lastRow pc.val (some (rowNo (s.hbmPlace r.pa))),
        skip := smSet false x.skip pc.val true,
        served := x.served ++ [(pc.val, s.hbmClass r, r.pa)] }).settle)
    ∧ (∀ (stack : Fin 12) (pc : Fin 64) (rs : List HbmReq), s.fbit rf_hbmStackStatus_ready stack = true →
      s.fbit rf_hbmStackStatus_throttled stack = true → smGet false (s.stackX stack).skip pc.val = true →
      exec (.channelSchedule stack pc rs) s
        = .next (s.setStackX stack { s.stackX stack with skip := smSet false (s.stackX stack).skip pc.val false }).settle)

/-! ### The taproot -/

/-- What the taproot does by itself (R468, R470 to R474): a lost die and its rebuild, ageing, the scan of a block, and the rewrites for
read disturb and for wear; the allowance gains a second's share each second, up to one day's.
Choices of the model: log entries 1, 9, 10, 95, 96 and 97. -/
def Obligations.TaprootMaintenance : Prop :=
  ∀ s : State,
    (∀ (die : Fin 128) (silent : Bool), s.flash.lost.contains die.val = true → exec (.tapDieLost die silent) s = .next s.settle)
    ∧ (∀ die : Fin 128, s.flash.lost.contains die.val = false →
      (∀ x ∈ s.flash.rebuilding, dieSet x ≠ dieSet die.val) →
      exec (.tapDieLost die true) s = .next (((s.setFlash { s.flash with
        lost := s.flash.lost ++ [die.val], rebuilding := s.flash.rebuilding ++ [die.val], dead := s.flash.dead ++ [],
        openBlock := smSet none s.flash.openBlock die.val none }).tapEvent 0xA004 none die.val 1 0 0).syncStore).settle)
    ∧ (∀ die : Fin 128, s.flash.rebuilding.contains die.val = true →
      let vs := s.flash.place.filterMap fun (sec, w) => match w with
        | some w => if dieOfBlock w.block = die.val ∧ ¬ s.flash.dead.contains sec then some sec else none
        | none => none
      let f := { s.flash with rebuilding := s.flash.rebuilding.filter (· ≠ die.val) }
      exec (.dieRebuildDone die) s
        = .next ((s.draw.2.setFlash (f.move (s.draw.1 % 8) vs)).pagesProgrammed).syncStore.settle)
    ∧ (∀ temps : List Int, s.since s.flash.aged (ms 1000) = true →
      let u := (s.setFlash { s.flash with
        blocks := s.flash.blocks.map fun (b, x) => (b, if (s.flash.valid b).isEmpty then x else
          { x with age := x.age + ageFactor (temps.getD (dieOfBlock b) 40) }),
        aged := s.tick }).fset rf_tapStatus_tempC 0 0 ((temps.foldl max 0).toNat)
      (∀ e ∈ u.flash.blocks, e.2.age < u.refreshAge) → exec (.retentionAgeTick temps) s = .next u.syncStore.settle)
    ∧ (∀ block sec : Nat, s.fbit rf_tapStatus_scanPending = true → s.fbit rf_tapStatus_ready = true → s.flash.scanned = [] →
      s.flash.written.contains block = true → s.flash.valid block = [sec] →
      let u := ((s.setFlash { s.flash with passStart := s.tick, passEvt := false }).tapRead none sec 0).2
      let v := u.setFlash { u.flash with scanned := u.flash.scanned ++ [block] }
      exec (.tapScrub block [] false) s = .next (if v.flash.written.all (fun b => v.flash.scanned.contains b) then
        (v.setFlash { v.flash with scanned := [] }).fset rf_tapStatus_scanPending 0 0 0 else v).syncStore.settle)
    ∧ (s.fbit rf_tapStatus_scanPending = true → s.fbit rf_tapStatus_ready = true → s.flash.written = [] →
      ∀ block found heavy, exec (.tapScrub block found heavy) s
        = .next ((s.setFlash { s.flash with scanned := [] }).fset rf_tapStatus_scanPending 0 0 0).settle)
    ∧ (∀ block : Nat, 50000 ≤ (s.flash.block block).reads → s.flash.valid block ≠ [] →
      let f := (s.rewriteBlock block).flash
      exec (.readDisturbRewrite block) s = .next ((((s.rewriteBlock block).setFlash (f.setBlock block
        { f.block block with reads := 0 })).refreshed 1).syncStore).settle)
    ∧ (∀ b : Nat, s.flash.leastWorn s.flash.written = some b →
      (s.flash.block b).pe + 200 < s.flash.blocks.foldl (fun a (_, x) => max a x.pe) 0 →
      exec .wearLevelMove s = .next ((s.rewriteBlock b).syncStore).settle)
    ∧ (s.since s.flash.accrued (ms 1000) = true → s.fbit rf_tapAllowance_waiting = false →
      let u := s.setBalance (min s.dayAllowance (s.flash.balance + s.fget rf_tapAllowance_dailyGb * 1000000000))
      exec .allowanceAccrue s = .next (u.setFlash { u.flash with accrued := u.tick }).settle)
    ∧ (∀ t, s.since s.flash.accrued (ms 1000) = false → exec .allowanceAccrue s = .next t → t = s.settle)

/-! ### Power, clocks and domains -/

/-- The limits and the operating points (R496 to R501, R506): an accepted write is stored and the dies follow it; an acknowledged
voltage command is done, an unanswered one is sent twice more and then fails; a frequency moves by 50 MHz in 100 ns.
Choices of the model: log entries 1, 98 and 99. -/
def Obligations.OperatingPoints : Prop :=
  ∀ s : State,
    (∀ v : Word, (1000 ≤ bits v.toNat 15 0 → bits v.toNat 15 0 ≤ s.prof 8 2 →
        exec (.pwrLimitWrite v) s = .next (s.fset rf_pwrLimit_capW 0 0 (bits v.toNat 15 0)).settle)
      ∧ (bits v.toNat 15 0 < 1000 ∨ s.prof 8 2 < bits v.toNat 15 0 → exec (.pwrLimitWrite v) s = .next s.settle)
      ∧ (bits v.toNat 15 0 < bits v.toNat 31 16 → s.prof 12 2 ≤ bits v.toNat 15 0 → bits v.toNat 31 16 ≤ s.prof 14 2 →
        exec (.pwrVwindowWrite v) s = .next (((s.fset rf_pwrVwindow_vminMv 0 0 (bits v.toNat 15 0)).fset
          rf_pwrVwindow_vmaxMv 0 0 (bits v.toNat 31 16)).retargetAll).settle)
      ∧ (bits v.toNat 31 16 ≤ bits v.toNat 15 0 → exec (.pwrVwindowWrite v) s = .next s.settle))
    ∧ (∀ (d : Fin 4) (v : Word), let f := bits v.toNat 15 0
      (1000 ≤ f → f ≤ 3000 → f % 50 = 0 →
        exec (.dieTargetWrite d v) s = .next ((s.fset rf_pwrDieTarget_targetMhz d 0 f).retarget d).settle)
      ∧ (f < 1000 ∨ 3000 < f ∨ f % 50 ≠ 0 → exec (.dieTargetWrite d v) s = .next s.settle))
    ∧ (∀ (d : Fin 4) (v : Nat), (s.die d).cmd = some v →
      exec (.avsAck d) s = .next (((((s.setDie d { s.die d with cmd := none, back := false }).fset (avsVout d) 0 0 v).fset
        (avsPending d) 0 0 0).fset (avsFailed d) 0 0 0).fset (avsRetries d) 0 0 0).settle
      ∧ (s.since (s.die d).sent (us 200) = true → s.fget (avsRetries d) < 2 →
        let u := s.setDie d { s.die d with sent := s.tick }
        exec (.avsTimeout d) s = .next ((u.fset (avsRetries d) 0 0 (u.fget (avsRetries d) + 1)).withOut
          (s.out ++ [.avs d v])).settle)
      ∧ (s.since (s.die d).sent (us 200) = true → 2 ≤ s.fget (avsRetries d) → (s.die d).back = true →
        exec (.avsTimeout d) s = .next ((((s.setDie d { s.die d with cmd := none }).fset (avsPending d) 0 0 0).fset
          (avsFailed d) 0 0 1).dieEvent 0x8003 d).settle))
    ∧ (∀ (d : Fin 4) (mv : BitVec 16) (v : Nat), (s.die d).silent = some v → v ≤ mv.toNat →
      exec (.avsVoutRead d mv) s = .next ((s.setDie d { s.die d with
        goalF := (s.die d).oldF, goalV := (s.die d).oldV, silent := none }).fset rf_clkDieStatus_changing d 0 1).settle)
    ∧ (∀ d : Fin 4, let x := s.die d
      let f := s.freq d
      let moved (to_ : Nat) : State := (s.fset rf_clkDieStatus_freqMhz d 0 to_).setDie d { s.die d with step := s.tick }
      s.since x.step 100 = true →
      (f + 50 < x.goalF → x.cmd = none → x.silent = none → s.vout d = x.goalV →
        exec (.frequencyStep d) s = .next (moved (f + 50)).settle)
      ∧ (x.goalF + 50 < f → exec (.frequencyStep d) s = .next (moved (f - 50)).settle)
      ∧ (x.goalF = f → exec (.frequencyStep d) s = .next s.settle))

/-- The power cap and the temperature (R498, R500): above the cap every die's limit falls by 50 MHz, and rises again after 10 ms
below 97% of it; at the hot limit a die's thermal limit falls by 50 MHz, and is lifted after 100 ms cooler by 5 °C.
Choices of the model: log entries 1, 9 and 10. -/
def Obligations.PowerAndHeat : Prop :=
  ∀ s : State,
    (∀ w dv : BitVec 16, let u := (s.fset rf_pwrModuleStatus_inputW 0 0 w.toNat).fset rf_pwrModuleStatus_inputDv 0 0 dv.toNat
      (w.toNat ≤ s.fget rf_pwrLimit_capW →
        exec (.powerCapTick w dv) s = .next (u.withPwr { u.pwr with
          below := if 100 * w.toNat < 97 * s.fget rf_pwrLimit_capW then some (u.pwr.below.getD u.tick) else none }).settle)
      ∧ (s.fget rf_pwrLimit_capW < w.toNat → u.fbit rf_pwrModuleStatus_capActive = true →
        let v := (List.range 4).foldl (fun (v : State) d =>
          let new := max 1000 (min (v.die d).capLimit (v.die d).goalF - 50)
          (v.setDie d { v.die d with capLimit := new }).limitSteps (b2n (new < (v.die d).goalF))) u
        exec (.powerCapTick w dv) s = .next (((v.withPwr { v.pwr with below := none }).fset
          rf_pwrModuleStatus_capActive 0 0 1).retargetAll).settle))
    ∧ (∀ t, s.pwr.below = some t → s.fbit rf_pwrModuleStatus_capActive = true → s.since t (ms 10) = true →
      let u := (List.range 4).foldl (fun (v : State) d =>
        (v.setDie d { v.die d with capLimit := min 3000 ((v.die d).capLimit + 50) }).limitSteps
          (b2n ((v.die d).capLimit < 3000))) s
      let v := u.withPwr { u.pwr with below := some u.tick }
      (∃ d ∈ List.range 4, (v.die d).capLimit < min (min (v.fget rf_pwrDieTarget_targetMhz d)
        (v.fget rf_ageDieMargin_maxMhz d)) (v.die d).thermLimit) →
      exec .powerCapRaise s = .next v.retargetAll.settle)
    ∧ (∀ t, s.pwr.below = some t → s.since t (ms 10) = false → exec .powerCapRaise s = .next s.settle)
    ∧ (∀ (d : Fin 4) (temp : BitVec 8),
      let v := s.noteTemp d temp.toNat
      let u := v.fset rf_ageDieMargin_cycles d 0 (smGet 0 v.age.cycles d)
      let x := u.die d
      (temp.toNat < u.prof 22 1 →
        exec (.thermalThrottleTick d temp) s = .next (u.setDie d { x with
          temp := temp.toNat, cool := if temp.toNat + 5 ≤ u.prof 22 1 then some (x.cool.getD u.tick) else none }).settle)
      ∧ (u.prof 22 1 ≤ temp.toNat → x.thermLimit < 3000 →
        let new := max 1000 (min x.thermLimit x.goalF - 50)
        exec (.thermalThrottleTick d temp) s = .next (((u.setDie d { x with
          temp := temp.toNat, cool := none, thermLimit := new }).limitSteps (b2n (new < x.goalF))).retarget d).settle))
    ∧ (∀ (d : Fin 4) (t : Nat), (s.die d).cool = some t → (s.die d).thermLimit < 3000 → s.since t (ms 100) = true →
      exec (.thermalRelease d) s = .next ((((s.setDie d { s.die d with thermLimit := 3000 }).limitSteps 1).retarget d).dieEvent
        0x8004 d).settle)

/-- The states that each domain accepts (R488); domains 114 to 127 accept none. -/
def Sys2Proof.domainTable (d st : Nat) : Bool :=
  if d < 84 then st = 0 || st = 1 || st = 2 || st = 3
  else if d < 96 then st = 0 || st = 2 || st = 3
  else if d < 112 then st = 0 || st = 3
  else if d = 112 then st = 0 || st = 2 || st = 3
  else d = 113 && st = 0

/-- The host's request for a state of a domain. -/
def Sys2Proof.domainRequestFor (d : Fin 128) : Nat → Instr
  | 0 => .domainRequestD0 d
  | 1 => .domainRequestD1 d
  | 2 => .domainRequestD2 d
  | _ => .domainRequestD3 d

/-- The host's request for a state of the module. -/
def Sys2Proof.moduleStateFor : Nat → Instr
  | 0 => .moduleStateM0
  | 1 => .moduleStateM1
  | 2 => .moduleStateM2
  | _ => .moduleStateM3

/-- A host's request for a domain (R488, R492): one that the domain does not accept sets cmd_error and does nothing else; one for
the state where the domain rests does nothing; one for D1 of a core or a cluster domain at rest in D0 starts its entry; one for D0
of a domain at rest below it, whose die uncore is in D0, is a wake event. Choices of the model: log entries 100 and 133. -/
def Obligations.DomainRequests : Prop :=
  ∀ (d : Fin 128) (s : State),
    let req := domainRequestFor d
    (∀ st < 4, domainTable d st = false →
      exec (req st) s = .next (s.fset rf_pwrDomainStatus_cmdError d 0 1).settle)
    ∧ (∀ st < 4, domainTable d st = true → s.domPhase d = phStable → s.domState d = st → exec (req st) s = .next s.settle)
    ∧ (∀ st < 4, 0 < st → domainTable d st = true → s.domPhase d = phStable → s.domState d = 0 → s.mayEnter d st false = true →
      let u := (s.fset rf_pwrDomainCtl_requested d 0 st).setPhase d phStopping
      exec (req st) s = .next (u.setDom d { u.dom d with wake := false }).settle)
    ∧ (domainTable d 0 = true → s.domPhase d = phStable → 0 < s.domState d →
      (∀ u, uncoreOf d = some u → s.domState u = 0) →
      exec (req 0) s = .next ((s.fset rf_pwrDomainCtl_requested d 0 0).wakeEvent d).settle)

/-- The module states (R486, R487, R526): a request for the state in force does nothing, one for M3 while a stream runs is an error,
one for M1 or M2 from M0 moves every domain, and one out of M3 runs the warm-restart path.
Choices of the model: log entries 16 and 102. -/
def Obligations.ModuleStates : Prop :=
  ∀ s : State,
    let old := s.fget rf_pwrModuleState_requested
    let req := moduleStateFor
    (∀ m < 4, m = old → exec (req m) s = .next s.settle)
    ∧ (∀ m < 3, old = 3 →
      let u := s.fset rf_pwrModuleState_requested 0 0 m
      exec (req m) s
        = .next (((u.withPwr { u.pwr with goal := 0, todo := [] }).withTru { u.tru with asked := true, fromM3 := true }).settle))
    ∧ (∀ m < 3, old ≠ 3 → m ≠ old →
      let u := (s.fset rf_pwrModuleState_requested 0 0 m).release m
      exec (req m) s = .next ((u.withPwr { u.pwr with
        goal := m, todo := (List.range 114).filter fun d => (moduleDom m d).isSome }).advance).settle)
    ∧ (old ≠ 3 → s.allDisabled = false →
      exec (req 3) s = .next (s.fset rf_pwrModuleStatus_cmdError 0 0 1).settle)
    ∧ (old ≠ 3 → s.allDisabled = true → (∀ p < 16, s.preState p = psNone) →
      let u := (s.fset rf_pwrModuleState_requested 0 0 3).prepareM3
      exec (req 3) s = .next ((u.withPwr { u.pwr with
        goal := 3, todo := (List.range 114).filter fun d => (moduleDom 3 d).isSome }).advance).settle)

/-- The entry into a low-power state and the exit from it (R489 to R494): each phase leads to the next; a wake event before the
state is saved abandons the entry, as its timeout does; an isolated domain has the requested state; a domain that is ready again
is in D0, and what was held for it goes on. Choices of the model: log entries 100, 101 and 132. -/
def Obligations.DomainPhases : Prop :=
  ∀ (d : Fin 128) (s : State),
    (s.domPhase d = phStopping →
      (s.aborts d = true → exec (.domainAdmissionStopped d) s = .next (s.abandon d 1).settle)
      ∧ (s.aborts d = false → let u := s.setPhase d phDraining
        exec (.domainAdmissionStopped d) s = .next (u.setDom d { u.dom d with drainTick := u.tick }).settle))
    ∧ (s.domPhase d = phDraining →
      (s.domDrained d = true →
        (s.aborts d = true → exec (.domainDrained d) s = .next (s.abandon d 2).settle)
        ∧ (s.aborts d = false → exec (.domainDrained d) s
          = .next (s.setPhase d (if s.fget rf_pwrDomainCtl_requested d = 1 then phIsolating else phSaving)).settle))
      ∧ (s.tested d = false → s.since (s.dom d).drainTick (us (s.fget rf_pwrDomainCtl_entryTimeoutUs d)) = true →
        exec (.domainEntryTimeout d) s = .next (s.abandon d 4).settle))
    ∧ (s.domPhase d = phSaving →
      (s.aborts d = true → exec (.domainRetained d) s = .next (s.abandon d 3).settle)
      ∧ (s.aborts d = false → exec (.domainRetained d) s = .next (s.setPhase d phIsolating).settle))
    ∧ (s.domPhase d = phIsolating →
      let u := s.fset rf_pwrDomainStatus_state d 0 (s.fget rf_pwrDomainCtl_requested d)
      exec (.domainIsolated d) s = .next (((u.setPhase d phStable).count .pwrCount 1 0).advance).settle)
    ∧ (s.domPhase d = phStable → s.domState d ≠ 0 → (s.dom d).wake = true → (∀ u, uncoreOf d = some u → s.awake u = true) →
      exec (.domainWake d) s = .next (s.setPhase d phExiting).settle)
    ∧ (∀ train : Train, s.domPhase d = phExiting → s.domState d ≠ 3 → (s.dom d).heldSince = none →
      exec (.domainReady d train) s = .next ((((s.toD0 d).reopen d).toNext d).advance).settle)

/-! ### Ageing and tests -/

/-- Monitors, plans and tests (R507 to R509, R511, R516, R519 to R522): readings are kept, a plan period starts the planner, a test
request runs at once, is queued, or is refused; a queued test starts where its domain is quiet or drained, and ends with an
event, and one not started in time expires. Choices of the model: log entries 10, 106 and 133. -/
def Obligations.MonitorsAndTests : Prop :=
  ∀ s : State,
    (∀ (d : Fin 4) (c m : BitVec 16),
      exec (.monitorRead d c m) s = .next (((s.withAge { s.age with
        crit := smSet 0 s.age.crit (64 * d + pointNo (s.freq d)) c.toNat, sram := smSet 0 s.age.sram d m.toNat }).fset
        rf_ageDieMargin_critMv d 0 c.toNat).fset rf_ageDieMargin_sramMv d 0 m.toNat).settle)
    ∧ (∀ (l : Fin 64) (h w : BitVec 16) (c u : BitVec 32),
      exec (.serdesMarginRead l h w c u) s = .next (((s.withAge { s.age with
        eyes := smSet (0, 0) s.age.eyes l (h.toNat, w.toNat) }).count .fabPortCount (l / 4) 7 c.toNat).count
        .fabPortCount (l / 4) 8 u.toNat).settle)
    ∧ (s.sapwood = true → s.serves = true →
      let planned := (s.fset rf_ageStatus_planning 0 0 1).withAge { s.age with planTick := s.tick }
      exec .replan s = .next planned.settle
      ∧ (s.since s.age.planTick (hours (s.fget rf_ageCtl_planPeriodH)) = true → exec .planPeriod s = .next planned.settle))
    ∧ (let runs (code target : Nat) : State :=
        s.withAge { s.age with running := s.age.running ++ [⟨code, target, false, 0, s.tick, [], []⟩] }
      (∀ l : Fin 64, exec (.serdesEyeScan l) s = .next (runs 0x01 l).settle)
      ∧ (∀ d : Fin 4, exec (.pathMonitorRead d) s = .next (runs 0x02 d).settle)
      ∧ (∀ t : Fin 12, exec (.hbmScrubPass t) s = .next (runs 0x03 t).settle)
      ∧ exec .taprootScrubPass s = .next (runs 0x04 0).settle
      ∧ (∀ (a : Agent) (port : Fin 16), a ≠ .sapwood → s.drainedFor 0x20 port = true →
        exec (.fullSerdesRetraining a port) s = .next ((runs 0x20 port).syncTests).settle)
      ∧ (∀ (a : Agent) (die : Fin 128), a ≠ .sapwood → s.drainedFor 0x21 die = true →
        exec (.taprootDieTest a die) s = .next ((runs 0x21 die).syncTests).settle)
      ∧ (∀ (a : Agent) (die : Fin 128), a ≠ .sapwood → s.drainedFor 0x21 die = false →
        exec (.taprootDieTest a die) s = .next (s.refuseTest 0x21 die).settle))
    ∧ (∀ t : BitVec 32, s.age.queue.length < 64 →
      let queues (code target : Nat) : State :=
        (s.withAge { s.age with queue := s.age.queue ++ [⟨code, target, false, t.toNat, s.tick, [], []⟩] }).syncTests
      (∀ k : Fin 64, exec (.coreLogicSelfTest k false t) s = .next (queues 0x10 k).settle)
      ∧ (∀ (st : Fin 12) (ch : Fin 32), exec (.hbmRetentionSweep st ch false t) s = .next (queues 0x11 (32 * st + ch)).settle)
      ∧ (∀ c : Fin 16, exec (.dsuCheck c false t) s = .next (queues 0x12 c).settle))
    ∧ (∀ (t : BitVec 32) (k : Fin 64), 64 ≤ s.age.queue.length →
      exec (.coreLogicSelfTest k false t) s = .next (s.refuseTest 0x10 k).settle)
    ∧ (∀ t, s.age.queue.find? s.testStarts = some t →
      exec .testStart s = .next ((s.withAge { s.age with
        queue := s.age.queue.erase t, running := s.age.running ++ [{ t with tick := s.tick }] }).syncTests).settle)
    ∧ (∀ (c : BitVec 8) (n : BitVec 16) (t : TestReq),
      s.age.running.find? (fun t => t.code = c.toNat ∧ t.target = n.toNat) = some t → s.since t.tick (s.testTicks c.toNat) = true →
      testBackground c.toNat = true →
      exec (.testComplete c n true false) s
        = .next ((((s.withAge { s.age with running := s.age.running.erase t }).testEnds c.toNat n.toNat true).undrain t).syncTests).settle)
    ∧ (let late := s.age.queue.filter fun t => t.timeoutMs ≠ 0 && s.since t.tick (ms t.timeoutMs)
      exec .testExpire s = .next ((late.foldl (fun v t => ((v.undrain t).count .ageCount 2 0).testEvent 0x9003 t.code t.target)
        (s.withAge { s.age with queue := s.age.queue.filter fun t => !late.contains t })).syncTests).settle)

/-! ### Pins, reset and boot -/

/-- Power and reset (R563, R567, R569, R576): power starts where the pin rises with the input in range, and ends with the
pin, the input or a thermal trip, which latches until the pin falls; RESET_N resets a powered module.
Choices of the model: log entries 1 and 109. -/
def Obligations.PowerAndReset : Prop :=
  ∀ s : State,
    (s.pins.pwrEn = true → exec .pwrEnRise s = .next s.settle)
    ∧ (s.pins.pwrEn = false → s.pins.input = true → s.pins.trip = false →
      exec .pwrEnRise s = .next ((s.withPowerUps (w32 (s.powerUps + 1))).withPins { s.pins with
        pwrEn := true, pwrGood := true }).settle)
    ∧ (s.pins.pwrEn = false → s.pins.input = false ∨ s.pins.trip = true →
      exec .pwrEnRise s = .next (s.withPins { s.pins with pwrEn := true }).settle)
    ∧ (let u := if s.pins.pwrGood then s.powerLoss else s
      exec .pwrEnFall s = .next (u.withPins { u.pins with pwrEn := false, trip := false }).settle
      ∧ exec .inputUndervoltage s = .next (u.withPins { u.pins with input := false }).settle)
    ∧ exec .inputInRange s = .next (s.withPins { s.pins with input := true }).settle
    ∧ (∀ (sensor : Fin 17) (t : BitVec 8), let limit := if sensor.val ≤ 4 then 115 else 105
      (s.pins.pwrGood = true → limit ≤ t.toNat → let u := s.powerLoss
        exec (.thermalTrip sensor t) s = .next (u.withPins { u.pins with trip := true, tripped := some sensor }).settle)
      ∧ (t.toNat < limit → exec (.thermalTrip sensor t) s = .next s.settle))
    ∧ (s.pins.pwrGood = true → exec .resetAssert s = .next s.resetAll.settle)
    ∧ (s.pins.pwrGood = false → exec .resetAssert s = .next s.settle)

/-- Boot (R526 to R528, R532, R538): a cold boot starts at the release of RESET_N, a warm restart with its key; a restarted
module is ready once its partitions are carved; sapwood's watchdog is kicked, expires after 500 ms, and a third restart within
600 s fails. Choices of the model: log entries 1, 16, 107, 108 and 114. -/
def Obligations.BootCommands : Prop :=
  ∀ s : State,
    (∀ (prof : Fin 4) (slot : BitVec 6) (trains : List Train) (v : Survey) (plan : Plan),
      s.pins.pwrGood = true → s.pins.inReset = true →
      let u := s.resetAll
      let w := ((((u.withPins { u.pins with inReset := false, profsel := prof, slot := slot.toNat }).withAge { u.age with dead := [] }).start
        false prof false prof trains v plan).noteTrip)
      exec (.coldBoot prof slot trains v plan) s
        = .next (if w.tru.starting then (List.range 16).foldl State.portStart w else w).settle)
    ∧ (∀ (trains : List Train) (v : Survey) (plan : Plan), s.heartwood = true →
      exec (.warmRestart 0x5A17#16 trains v plan) s = .next (s.warmRestart trains v plan).settle)
    ∧ (∀ (key : BitVec 16) (trains : List Train) (v : Survey) (plan : Plan), key ≠ 0x5A17#16 → s.tru.asked = false →
      exec (.warmRestart key trains v plan) s = .next s.settle)
    ∧ (s.tru.starting = true →
      let n := s.prof 1 1
      let u := (((List.range n).foldl State.carve s).fset rf_glbStatus_partitionsReady 0 0 (2 ^ n - 1)).fset
        rf_glbStatus_ready 0 0 1
      let v := u.fset rf_truBootStatus_stage 0 0 6
      let w := (v.withTru { v.tru with starting := false, kicked := v.tick }).withAge { v.age with planTick := v.tick }
      exec .moduleReady s = .next (if w.fbit rf_fabCoord_valid then w.joinGrove else w).settle)
    ∧ (s.tru.starting = false → exec .moduleReady s = .next s.settle)
    ∧ (s.sapwood = true → exec .watchdogKick s = .next (s.withTru { s.tru with kicked := s.tick }).settle)
    ∧ (s.sapwoodRuns = true →
      let again := (s.withTru { s.tru with restarts := s.recentRestarts ++ [s.tick] }).fset rf_glbStatus_sapwoodRestarting 0 0 1
      let fails := (((s.withTru { s.tru with restarts := s.recentRestarts }).fset rf_glbStatus_sapwoodFailed 0 0 1).fset
        rf_truBootStatus_cause 0 0 6).raiseMod 0xB007
      (s.recentRestarts.length < 2 → exec (.sapwoodControllerFault true) s = .next again.settle)
      ∧ exec (.sapwoodControllerFault false) s = .next fails.settle
      ∧ (2 ≤ s.recentRestarts.length → exec (.sapwoodControllerFault true) s = .next fails.settle)
      ∧ (s.since s.tru.kicked (ms 500) = true →
        exec (.watchdogExpire false) s = .next fails.settle
        ∧ (s.recentRestarts.length < 2 → exec (.watchdogExpire true) s = .next again.settle))
      ∧ (s.since s.tru.kicked (ms 500) = false → ∀ ok, exec (.watchdogExpire ok) s = .next s.settle))
    ∧ (s.fbit rf_glbStatus_sapwoodRestarting = true →
      let u := wdogKick (s.fset rf_glbStatus_sapwoodRestarting 0 0 0)
      let v := (u.withOut (u.out ++ u.mgmt.map (fun (m : MgmtMsg) => m.msg))).withMgmt (u.mgmt.map fun (m : MgmtMsg) =>
        { m with sent := u.tick })
      exec .sapwoodRestarted s = .next (v.raiseMod 0xC00A ⟨0, 0, 0, addrModule (v.here 0), 0⟩).settle)

/-! ### The mailbox, identity and attestation -/

/-- The mailbox (R509, R510, R511, R531 to R536, R544): a request on an open channel is answered with its result, and has its effect
where the result is DONE. Choices of the model: log entries 14, 104 and 115. -/
def Obligations.MailboxCommands : Prop :=
  ∀ (s : State) (req : BitVec 64),
    let reply (ch : Fin 2) (result : Nat) (body : List Byte) (u : State) := u.mailboxAnswer ch req.toNat result body
    (∀ (ch : Fin 2) (first : BitVec 64) (count : BitVec 16), s.channelOpen ch = true →
      (count.toNat = 0 ∨ 64 < count.toNat → exec (.ledgerRead ch req first count) s = .next (reply ch mbBad [] s).settle)
      ∧ (1 ≤ count.toNat → count.toNat ≤ 64 →
        exec (.ledgerRead ch req first count) s = .next (reply ch mbOk ((s.ledger.filter fun e =>
          first.toNat ≤ e.seq ∧ e.seq < first.toNat + count.toNat).flatMap ledgerBytes) s).settle))
    ∧ (∀ (ty unit : BitVec 8) (body : List Byte), s.channelOpen 0 = true → body.length ≤ 40 →
      (ty = 5#8 ∨ ty = 7#8 →
        exec (.ledgerAppend req ty unit body) s = .next (reply 0 mbOk [] (s.ledgerAdd ty.toNat unit.toNat body)).settle)
      ∧ (ty ≠ 5#8 → ty ≠ 7#8 → exec (.ledgerAppend req ty unit body) s = .next (reply 0 mbRefused [] s).settle))
    ∧ (∀ plan : Plan, s.channelOpen 0 = true →
      exec (.planSubmit req plan) s = .next (reply 0 mbOk [] (s.applyPlan plan false)).settle)
    ∧ (∀ (ch : Fin 2) (code : BitVec 8) (len : BitVec 14), s.channelOpen ch = true →
      mbCode ch code.toNat = false ∨ len.toNat < 64 ∨ 8192 < len.toNat →
      exec (.badRequest ch req code len) s = .next (reply ch mbBad [] s).settle)

/-- Images and anti-rollback (R531 to R536, R544): a request of channel 1 writes to the inactive slot, activates it once it
verifies, and confirms it once it runs; a counter rises only to a value at or below the active image's; a profile is kept once it
verifies. Choices of the model: log entries 10, 111 and 112. -/
def Obligations.ImageCommands : Prop :=
  ∀ (s : State) (req : BitVec 64), s.channelOpen 1 = true →
    let reply (result : Nat) (u : State) := u.mailboxAnswer 1 req.toNat result []
    (∀ (kind : BitVec 8), (kind = 1#8 ∨ kind = 2#8 → ∀ (o : BitVec 32) (bytes : List Byte) (d : Dir),
        o.toNat % 4096 = 0 → bytes.length ≤ 4096 → o.toNat + bytes.length ≤ slotSize kind.toNat → s.dir = some d →
        exec (.imageWrite req kind o bytes true) s
          = .next (reply mbOk (s.nvmWrite (slotBase kind.toNat (d.inactive kind.toNat) + o.toNat) bytes)).settle
        ∧ exec (.imageWrite req kind o bytes false) s = .next (reply mbNvm s).settle)
      ∧ (kind = 1#8 ∨ kind = 2#8 → ∀ d : Dir, s.dir = some d →
        let k := kind.toNat
        (∀ c, s.verifySlot k (d.inactive k) = c → exec (.imageActivate req kind true) s = .next (if c = 0 then
            reply mbOk (s.setDir (d.setSlots k ((d.slots k).1, some (d.inactive k), 3)))
          else reply (mbOf c) (s.imageEvent c k (d.inactive k))).settle)
        ∧ (s.fbit (pendingBit k) = true → (d.slots k).2.1 = some (s.fget (slotBit k)) →
          exec (.imageConfirm req kind true) s = .next (reply mbOk ((s.setDir
            (d.setSlots k (s.fget (slotBit k), none, 0))).fset (pendingBit k) 0 0 0)).settle)
        ∧ (s.fbit (pendingBit k) = false → exec (.imageConfirm req kind true) s = .next (reply mbRefused s).settle))
      ∧ (kind ≠ 1#8 → kind ≠ 2#8 → exec (.imageActivate req kind true) s = .next (reply mbBad s).settle
        ∧ exec (.imageConfirm req kind true) s = .next (reply mbBad s).settle))
    ∧ (∀ (kind : BitVec 8) (svn : BitVec 32) (a : Nat), 1 ≤ kind.toNat → kind.toNat ≤ 3 → s.activeSvn kind.toNat = some a →
      let v := svn.toNat
      let top := if kind.toNat = ikProfile then 63 else 127
      (s.fuseOf kind.toNat < v → v ≤ a → v ≤ top →
        exec (.versionCommit req kind svn) s
          = .next (reply mbOk ((s.setFuse kind.toNat v).raiseMod 0xB009 ⟨0, 0, 0, 0x13, v⟩)).settle)
      ∧ (a < v ∨ v < s.fuseOf kind.toNat ∨ top < v →
        exec (.versionCommit req kind svn) s = .next (reply mbRefused s).settle)
      ∧ (v = s.fuseOf kind.toNat → v ≤ a → v ≤ top → exec (.versionCommit req kind svn) s = .next (reply mbOk s).settle))
    ∧ (∀ (slot : Fin 4) (image : List Byte),
      (image.length = 1536 → ∀ c, s.verifyProfile (slice image 0 512) (slice image 512 1024) = c →
        exec (.profileWrite req slot image true) s = .next (if c = 0 then
            reply mbOk (s.nvmWrite (slotBase ikProfile slot) image)
          else reply (mbOf c) (s.raiseMod c ⟨0, 0, 0, ikProfile + (slot.val <<< 8), imSvn image⟩)).settle)
      ∧ (image.length ≠ 1536 → exec (.profileWrite req slot image true) s = .next (reply mbBad s).settle))
    ∧ (∀ bytes : List Byte, bytes.length ≤ 4096 → s.tru.chainNew.length + bytes.length ≤ 0x100000 →
      let all := s.tru.chainNew ++ bytes
      let u := s.withTru { s.tru with chainNew := [] }
      exec (.identityWrite req bytes false true) s = .next (reply mbOk (s.withTru { s.tru with chainNew := all })).settle
      ∧ ∀ ours : Bool, decide (Config.chainKey all = deviceKey) = ours →
        exec (.identityWrite req bytes true true) s = .next (if ours then
          reply mbOk (u.withTru { u.tru with chain := all }) else reply mbRefused u).settle)

/-- Debug and ownership (R531, R543): a challenge draws a nonce, which expires after its time; a token opens its scopes only under
policy 1 and a live nonce; a claim adds an owner while a slot is left. The recovery image is taken only while the boot code
recovers. Choices of the model: log entries 1, 110 and 113. -/
def Obligations.DebugAndOwnership : Prop :=
  ∀ (s : State) (req : BitVec 64),
    let reply (result : Nat) (body : List Byte) (u : State) := u.mailboxAnswer 1 req.toNat result body
    (s.channelOpen 1 = true →
      exec (.debugChallenge req) s = .next (reply mbOk (s.drawBytes 32).1 ((s.drawBytes 32).2.withTru { (s.drawBytes 32).2.tru with
        nonce := some ((s.drawBytes 32).1, (s.drawBytes 32).2.tick) })).settle
      ∧ (∀ token, s.fget rf_glbProfile_debugPolicy ≠ 1 →
        exec (.debugUnlock req token) s = .next (reply mbRefused [] s).settle)
      ∧ (∀ token, s.fget rf_glbProfile_debugPolicy = 1 → s.tru.nonce = none →
        exec (.debugUnlock req token) s = .next (reply mbSignature [] s).settle)
      ∧ (∀ (token : List Byte) (good : Bool), s.fget rf_glbProfile_debugPolicy = 1 → s.tokenOk token = good →
        let u := s.withTru { s.tru with scope := s.tru.scope ||| fldB token 48 2 0 }
        exec (.debugUnlock req token) s = .next (if good then
            reply mbOk [] ((u.fset rf_truBootStatus_debugUnlocked 0 0 1).raiseMod 0xB005 ⟨0, 0, 0, 0x21, 0⟩)
          else reply mbSignature [] s).settle)
      ∧ (∀ digest auth : List Byte, digest.length = 64 → 4 ≤ s.tru.owners.length →
        exec (.ownerClaim req digest auth) s = .next (reply mbRefused [] s).settle)
      ∧ (∀ digest auth : List Byte, digest.length = 64 → s.tru.owners = [] →
        let u := s.withTru { s.tru with owners := [digest] }
        exec (.ownerClaim req digest auth) s = .next (reply mbOk [] (((u.fset rf_truBootStatus_ownerSlot 0 0 0).fset
          rf_truBootStatus_ownerValid 0 0 1).raiseMod 0xB009 ⟨0, 0, 0, 0x30, 0⟩)).settle))
    ∧ (∀ x : List Byte × Nat, s.tru.nonce = some x →
      (s.since x.2 nonceTicks = true → exec .nonceExpire s = .next (s.withTru { s.tru with nonce := none }).settle)
      ∧ (s.since x.2 nonceTicks = false → exec .nonceExpire s = .next s.settle))
    ∧ (∀ image : List Byte,
      (s.powered = true → s.fbit rf_glbStatus_romRecovery = true →
        ∀ c, s.verify ikHeartwood (slice image 0 512) (image.drop 512) = c →
        let u := s.nvmWrite (slotBase ikHeartwood 0) image
        exec (.recoveryImageWrite image) s = .next (if c = 0 then
            u.setDir { u.dir.getD ⟨0, 0, none, 0, 0, none, 0⟩ with hwActive := 0, hwPending := none, hwTries := 0 }
          else s.raiseMod c ⟨0, 0, 0, ikHeartwood, imSvn image⟩).settle)
      ∧ (s.fbit rf_glbStatus_romRecovery = false → exec (.recoveryImageWrite image) s = .next s.settle))

/-- Attestation (R540 to R542): on an open channel each SPDM request gets its response and moves its channel's connection on; one
out of turn gets an error and moves nothing; on a closed channel nothing happens. Choices of the model: log entries 110 and 116. -/
def Obligations.Attestation : Prop :=
  ∀ (s : State) (via : Via),
    let x := s.conn via
    let ok (r : SpdmResp) (y : SpdmX) : Host.Outcome State Fault Refusal := .next ((s.setConn via y).send (.spdm via r)).settle
    let error : Host.Outcome State Fault Refusal := .next (s.send (.spdm via .error)).settle
    (s.spdmOpen via = true →
      exec (.getVersion via) s = ok (.version [0x12, 0x13]) { SpdmX.reset with version := true }
      ∧ (x.version = true → exec (.getCapabilities via) s = ok .capabilities { x with capable := true })
      ∧ (x.version = false → exec (.getCapabilities via) s = error)
      ∧ (x.capable = true → exec (.negotiateAlgorithms via true) s = ok .algorithms { x with agreed := true })
      ∧ exec (.negotiateAlgorithms via false) s = error
      ∧ (x.agreed = true →
        exec (.getDigests via) s = ok (.digests ([0, 1].filterMap fun k => (s.certChain k).map Config.sha512)) x
        ∧ (∀ (slot : BitVec 4) (o l : BitVec 16) (c : List Byte), s.certChain slot.toNat = some c →
          exec (.getCertificate via slot o l) s
            = ok (.certificate slot.toNat o.toNat ((c.drop o.toNat).take l.toNat)) x
          ∧ exec (.challenge via slot) s = ok (.challengeAuth slot.toNat s.aliasKey) x
          ∧ exec (.keyExchange via slot) s
            = .next ((((s.withTru { s.tru with nextSession := (s.tru.nextSession + 1) % 65536 }).setConn via
              { x with session := some (s.tru.nextSession, false, 0) }).send
              (.spdm via (.keyExchange s.tru.nextSession))).settle))
        ∧ exec (.getMeasurements via 0xFF#8) s = ok (.measurements ([1, 2, 3, 4, 5].map s.measurement)) x
        ∧ (∀ i : BitVec 8, 5 < i.toNat → i.toNat < 255 → exec (.getMeasurements via i) s = error))
      ∧ (x.agreed = false → exec (.getDigests via) s = error ∧ exec (.getMeasurements via 0xFF#8) s = error
        ∧ ∀ slot, exec (.challenge via slot) s = error ∧ exec (.keyExchange via slot) s = error)
      ∧ (∀ k : BitVec 16,
        (x.session = some (k.toNat, false, 0) →
          exec (.finish via k true) s = ok (.finished k.toNat) { x with session := some (k.toNat, true, 0) })
        ∧ exec (.finish via k false) s = error
        ∧ (∀ g, x.live k.toNat = some g →
          exec (.heartbeat via k) s = ok (.heartbeat k.toNat) x
          ∧ exec (.keyUpdate via k) s = ok (.keyUpdate k.toNat) { x with session := some (k.toNat, true, g + 1) }
          ∧ exec (.endSession via k) s = ok (.endSession k.toNat) { x with session := none })
        ∧ (x.live k.toNat = none → exec (.heartbeat via k) s = error ∧ exec (.keyUpdate via k) s = error
          ∧ exec (.endSession via k) s = error)))
    ∧ (s.spdmOpen via = false → exec (.getVersion via) s = .next s.settle ∧ exec (.getDigests via) s = .next s.settle)

/-- The sideband and the test port (R570 to R573): an address is taken once, MCTP control messages are answered, PLDM reads a sensor
or the FRU data, and the test port answers BYPASS and IDCODE always and an instruction of a closed scope as BYPASS.
Choices of the model: log entries 116 and 117. -/
def Obligations.SidebandAndTestPort : Prop :=
  ∀ s : State, s.pins.pwrGood = true →
    let answer (u : State) (c : Nat) (bs : List Nat) := u.send (.mctp c (bs.map (BitVec.ofNat 8)))
    (∀ a : BitVec 7,
      (s.pins.address = none → exec (.entdaa a) s = .next ((s.withPins { s.pins with address := some a.toNat }).send
        (.provisioned s.pins.slot)).settle)
      ∧ (s.pins.address ≠ none → exec (.entdaa a) s = .next s.settle))
    ∧ (∀ eid : BitVec 8,
      (eid ≠ 0#8 → eid ≠ 0xFF#8 → exec (.mctpControl 1#8 eid) s
        = .next (answer (s.withPins { s.pins with endpoint := some eid.toNat }) 1 [0, 0, eid.toNat, 0]).settle)
      ∧ exec (.mctpControl 1#8 0#8) s = .next (answer s 1 [2]).settle
      ∧ exec (.mctpControl 2#8 eid) s = .next (answer s 2 [0, s.pins.endpoint.getD 0, 0, 0]).settle
      ∧ exec (.mctpControl 5#8 eid) s = .next (answer s 5 ([0, mctpTypes.length] ++ mctpTypes)).settle)
    ∧ (s.pins.inReset = false → ∀ m : BitVec 16,
      exec (.pldmMonitoring 23 m) s = .next (s.send (.pldm 2 (leBytes 8 (s.reg .truBootStatus).toNat))).settle
      ∧ (s.heartwood = true → ∀ i : Fin 24, i ≠ 23 →
        let x := s.sensor i m.toNat
        exec (.pldmMonitoring i m) s
          = .next (s.send (.pldm 2 (leBytes 2 x.1 ++ leBytes 1 (if x.2.2 then 2 else b2n x.2.1)))).settle))
    ∧ (s.heartwood = true → exec .pldmFruData s = .next (s.send (.pldm 4 s.fru)).settle)
    ∧ exec (.testPortInstruction .bypass) s = .next (s.send (.testOut 0 1)).settle
    ∧ exec (.testPortInstruction .idcode) s
      = .next (s.send (.testOut ((1 <<< 28) + (0x0A57 <<< 12) + (Config.jedec.toNat <<< 1) + 1) 32)).settle
    ∧ (∀ (scope : Fin 3) (code : Nat),
      (s.scopeOpen scope = false →
        exec (.testPortInstruction (.scoped scope code)) s = .next (s.send (.testOut 0 1)).settle)
      ∧ (s.heartwood = true → s.scopeOpen scope = true →
        exec (.testPortInstruction (.scoped scope code)) s = .next (s.draw.2.send (.testOut s.draw.1 64)).settle))

/-! ### Register access and events -/

/-- Register access (R4, R6, R548 to R551): an access at an offset that is no multiple of 8 does nothing; a register that its
writer may write takes the value by its fields' access codes; reading a queue's pointers clears their lost counts; a register
message runs its operations in order and answers them. Choices of the model: log entries 12 and 13. -/
def Obligations.RegisterAccess : Prop :=
  ∀ s : State,
    (∀ (a : Agent) (o : BitVec 26) (v : Word), o.toNat % 8 ≠ 0 → exec (.registerWrite a o v) s = .next s.settle)
    ∧ (∀ (a : Agent) (o : BitVec 26) (v : Word) (k : RegKey), o.toNat % 8 = 0 → inBlock o.toNat = true →
      channelAt o.toNat = none → keyAt o.toNat = some k → mayWrite a k = true → k.reg ≠ .evtMqPtr → regDomain k = none →
      exec (.registerWrite a o v) s = .next (applyReg a k v.toNat s).settle)
    ∧ (∀ (a : Agent) (o : BitVec 26) (v : Word) (k : RegKey), o.toNat % 8 = 0 → inBlock o.toNat = true →
      channelAt o.toNat = none → keyAt o.toNat = some k → mayWrite a k = false →
      exec (.registerWrite a o v) s = .next (s.denied a (regOffset k)).2.settle)
    ∧ exec (.readClear none) s = .next (s.readClear ⟨.evtMqPtr, 0, 0⟩).settle
    ∧ (∀ p : Fin 16, exec (.readClear (some p)) s = .next (s.readClear ⟨.evtPqPtr, p, 0⟩).settle)
    ∧ (∀ (via : Via) (src : List Byte) (sec : Bool) (id : BitVec 16) (n : BitVec 8) (ops : List RegOp),
      (s.takesRegs via src sec = true → 1 ≤ n.toNat → n.toNat ≤ 64 → ops.length = n.toNat →
        exec (.registerMessage via src sec id n ops) s
          = .next ((runOps ops s).2.send (.registers via id.toNat (runOps ops s).1)).settle)
      ∧ (s.takesRegs via src sec = true → n.toNat = 0 ∨ 64 < n.toNat ∨ ops.length ≠ n.toNat →
        exec (.registerMessage via src sec id n ops) s = .next (s.send (.registers via id.toNat [])).settle)
      ∧ (s.takesRegs via src sec = false → exec (.registerMessage via src sec id n ops) s = .next s.settle))

/-- The event queues and the archive (R557 to R561): the owner moves the module queue's head between head and tail;
a write of a partition queue's base empties the queue; pushes go out in messages of at most 64 records; the archive takes what
waits, and its window is filled from the record asked for. Choices of the model: log entries 1 and 118. -/
def Obligations.EventCommands : Prop :=
  ∀ s : State,
    (∀ (a : Agent) (v : Word), a = (if s.fbit rf_evtHostCtl_sapwoodOwnsMq then Agent.sapwood else Agent.host) →
      (between 13 (s.fget rf_evtMqPtr_head) (s.fget rf_evtMqPtr_tail) (bits v.toNat 12 0) = true →
        exec (.mqHeadWrite a v) s = .next (s.fset rf_evtMqPtr_head 0 0 (bits v.toNat 12 0)).settle)
      ∧ (between 13 (s.fget rf_evtMqPtr_head) (s.fget rf_evtMqPtr_tail) (bits v.toNat 12 0) = false →
        exec (.mqHeadWrite a v) s = .next s.settle))
    ∧ (∀ (p : Fin 16) (v : Word), let u := s.fset rf_evtPqBase_base p 0 (bits v.toNat 47 12)
      let w := if 6 ≤ bits v.toNat 4 0 ∧ bits v.toNat 4 0 ≤ 16 then u.fset rf_evtPqBase_log2Size p 0 (bits v.toNat 4 0) else u
      exec (.pqBaseWrite p v) s = .next ((w.fset rf_evtPqPtr_head p 0 0).fset rf_evtPqPtr_tail p 0 0).settle)
    ∧ (let rs := s.evt.toPush.take 64
      (rs ≠ [] → exec .eventPush s = .next ((s.withEvt { s.evt with toPush := s.evt.toPush.drop 64 }).withOut (s.out
        ++ [.push (s.fget rf_evtHostCtl_pushPort) (leBytes 1 0x08 ++ leBytes 1 rs.length ++ rs.flatMap evBytes)])).settle)
      ∧ (rs = [] → exec .eventPush s = .next s.settle))
    ∧ exec .archiveFlush s = .next s.archiveAll.settle
    ∧ (∀ first : BitVec 32, exec (.archRead first) s = .next ((s.fset rf_evtArchRead_busy 0 0 1).withEvt { s.evt with
      archFirst := first.toNat }).settle)
    ∧ (s.fbit rf_evtArchRead_busy = true → ∃ t, exec .archReadDone s = .next t ∧ t.fbit rf_evtArchRead_busy = false
      ∧ t.evt.archWin.length = 4096
      ∧ ∀ i < 128, ∀ r, s.evt.archive.find? (fun r => r.seq = (s.evt.archFirst + i) % 2 ^ 32) = some r →
        slice t.evt.archWin (32 * i) 32 = evBytes r)

/-- What the engines do between commands (R65, R151, R159, R160, R183 to R187): queued tap rows move on while there is room, a
lattice is granted to a solver that waits, a full tap slot is assembled, the solver of earliest deadline starts, one past its
deadline ends, and a disabled one drains. Choices of the model: log entries 1, 37, 38, 39, 140 and 141. -/
def Obligations.EnginesBetweenCommands : Prop :=
  ∀ s : State,
    (∀ core : Fin 64, exec (.tapQueueRoom core) s = .next (s.tapRoom core).settle)
    ∧ (∀ core : Fin 64, s.fbit rf_corLatStatus_solverWaiting core = true → s.fget rf_corLatStatus_holder core = latNone →
      exec (.latticeSolverGrant core) s = .next (s.solverTakes core).settle)
    ∧ (∀ core : Fin 64, s.fget rf_corLatStatus_holder core ≠ latNone →
      exec (.latticeSolverGrant core) s = .next s.settle)
    ∧ (∀ (c slot : Fin 16) (p : Nat) (t : TapSlot) (h : Nat), s.partOfCluster c = some p → s.tap c slot = some t →
      (s.gramSlot c = some slot.val → exec (.gramBatch c slot) s = .next (s.gramToEnd c).settle)
      ∧ (s.gramSlot c = none → t.ready = some h → s.emaReads t t.epoch = false → s.awake (domCluster c) = true →
        s.admits p = true → exec (.gramBatch c slot) s = .next (s.gramStart c slot t (t.inHalf h)).settle))
    ∧ (∀ (c : Fin 16) (p : Nat) (fl : Flight), s.partOfCluster c = some p → s.admits p = true →
      (s.slvRunning c = none → earliest (s.slvQueued c) = some fl → s.awake (domCluster c) = true →
        exec (.solverSelect c) s
          = .next ((s.resumeWith { fl with aux := fl.aux.set sxStage 1 } slvRun).syncSlv c).settle)
      ∧ (s.slvTimed c = some fl → fl.late s = true → s.domState (domCluster c) = 0 →
        exec (.solverDeadline c) s
          = .next ((((((s.waitEnds fl).leaveFault p fl).dropRequests fl).resumeWith fl slvLate).syncSlv c).settle))
      ∧ (s.slvTimed c = some fl → fl.late s = false → exec (.solverDeadline c) s = .next s.settle))
    ∧ (∀ c : Fin 16, s.testHeld (domCluster c) = false → s.awake (domCluster c) = true →
      exec (.solverDisable c) s = .next (solverDisable c s).settle)

/-! ### What commands leave unchanged -/

/-- Frames of the commands that send nothing (power, memory stacks, monitors, events, links, congestion, partitions, roles, trust):
memory, flights, windows, and every register and part not named, stay as they were. -/
def Obligations.QuietCommandFrames : Prop :=
  (∀ v, Within (.pwrLimitWrite v) [.pwrLimit] fun s _ => s)
  ∧ (∀ d, Within (.avsAck d) [.pwrAvsStatus] fun s t => { s with pwr := t.pwr })
  ∧ (∀ d mv, Within (.avsVoutRead d mv) [.clkDieStatus] fun s t => { s with pwr := t.pwr })
  ∧ (∀ d c m, Within (.monitorRead d c m) [.ageDieMargin] fun s t => { s with age := t.age })
  ∧ (∀ l h w c u, Within (.serdesMarginRead l h w c u) [.fabPortCount] fun s t => { s with age := t.age })
  ∧ Within .planPeriod [.ageStatus] (fun s t => { s with age := t.age })
  ∧ Within .replan [.ageStatus] (fun s t => { s with age := t.age })
  ∧ (∀ st, Within (.hbmTempLowerHold st) (eventRegs ++ [.hbmRegRate, .hbmStackStatus]) fun s t => { s with evt := t.evt })
  ∧ (∀ st, Within (.hbmThrottleEnd st) (eventRegs ++ [.hbmCount, .hbmRegRate, .hbmStackStatus])
      fun s t => { s with evt := t.evt, hbm := t.hbm })
  ∧ (∀ st, Within (.hbmRefresh st) [] fun s t => { s with hbm := t.hbm })
  ∧ Within .regulatorRefill [] (fun s t => { s with hbm := t.hbm })
  ∧ (∀ st pc rs, Within (.channelSchedule st pc rs) [] fun s t => { s with hbm := t.hbm })
  ∧ Within .scrubPeriodBoundary [] (fun s t => { s with hbm := t.hbm })
  ∧ (∀ v, Within (.hardRepair v) [.hbmRepairStatus] fun s t => { s with hbm := t.hbm })
  ∧ (∀ ok, Within (.hardRepairDone ok) (eventRegs ++ [.hbmRepairStatus])
      fun s t => { s with evt := t.evt, free := t.free, hbm := t.hbm, ledger := t.ledger, ledgerSeq := t.ledgerSeq })
  ∧ (∀ f, Within (.archRead f) [.evtArchRead] fun s t => { s with evt := t.evt })
  ∧ Within .archReadDone [.evtArchRead] (fun s t => { s with evt := t.evt })
  ∧ Within .archiveFlush [.evtArchStatus] (fun s t => { s with evt := t.evt })
  ∧ (∀ a v, Within (.mqHeadWrite a v) eventRegs fun s t => { s with evt := t.evt })
  ∧ (∀ p v, Within (.pqBaseWrite p v) [.evtPqBase, .evtPqPtr] fun s _ => s)
  ∧ (∀ n, Within (.trainingTimeout n) [.fabPortStatus] fun s t => { s with fab := t.fab })
  ∧ (∀ v, Within (.fabCoordWrite v) [] fun s t => { s with fab := t.fab })
  ∧ (∀ p, Within (.shaperRefill p) [] fun s t => { s with fab := t.fab })
  ∧ (∀ n prio pause, Within (.pfcPause n prio pause) [.fabPortCount] fun s t => { s with fab := t.fab })
  ∧ (∀ n prio, Within (.pfcWatchdog n prio) (eventRegs ++ [.fabPortCount]) fun s t => { s with evt := t.evt, fab := t.fab })
  ∧ (∀ n prio, Within (.pfcWatchdogClear n prio) [] fun s t => { s with fab := t.fab })
  ∧ (∀ n, Within (.cnp n) [] fun s t => { s with fab := t.fab })
  ∧ (∀ n, Within (.cnpRateIncrease n) [] fun s t => { s with fab := t.fab })
  ∧ (∀ p v, Within (.saveBaseWrite p v) [.prtCtl, .prtSaveBase] fun s _ => s)
  ∧ (∀ p v, Within (.xltInval p v) [.prtStatus] fun s t => { s with parts := t.parts })
  ∧ (∀ p, Within (.preemptResume p) [.grvRedStatus, .prtStatus, .slvUnitStatus] fun s _ => s)
  ∧ Within .managerModeActive [.grvManager, .grvMgrCtl, .grvRole] (fun s _ => s)
  ∧ Within .managerModeStandby [.grvManager, .grvMgrCtl, .grvRole] (fun s _ => s)
  ∧ Within .nonceExpire [] (fun s t => { s with tru := t.tru })
  ∧ Within .watchdogKick [] (fun s t => { s with tru := t.tru })
  ∧ (∀ image, Within (.recoveryImageWrite image) eventRegs fun s t => { s with evt := t.evt, tru := t.tru })
  ∧ (∀ core stream n, Within (.deferLimitExpire core stream n) [] fun s t => { s with windows := t.windows })

/-- Frames of commands that send messages (the mailbox, attestation, the test port, operating points, links, the grove): memory,
flights, windows, and every register and part not named, stay as they were. -/
def Obligations.SendingCommandFrames : Prop :=
  let mail := fun s t : State => { s with tru := t.tru, out := t.out }
  let mailEvt := fun s t : State => { s with tru := t.tru, out := t.out, evt := t.evt }
  let point := fun s t : State => { s with pwr := t.pwr, out := t.out, evt := t.evt }
  let pointRegs := eventRegs ++ [.clkDieStatus, .pwrAvsStatus, .pwrCount, .pwrModuleStatus]
  (∀ ch req first n, Within (.ledgerRead ch req first n) [.truChStatus] mail)
  ∧ (∀ req ty u b, Within (.ledgerAppend req ty u b) [.truChStatus]
      fun s t => { mail s t with free := t.free, ledger := t.ledger, ledgerSeq := t.ledgerSeq })
  ∧ (∀ req k o b nvm, Within (.imageWrite req k o b nvm) [.truChStatus] mail)
  ∧ (∀ req k nvm, Within (.imageActivate req k nvm) (eventRegs ++ [.truChStatus]) mailEvt)
  ∧ (∀ req k nvm, Within (.imageConfirm req k nvm) [.truChStatus, .truBootStatus] mail)
  ∧ (∀ req k v, Within (.versionCommit req k v) (eventRegs ++ [.truChStatus, .truBootStatus]) mailEvt)
  ∧ (∀ req n im nvm, Within (.profileWrite req n im nvm) (eventRegs ++ [.truChStatus]) mailEvt)
  ∧ (∀ req b last nvm, Within (.identityWrite req b last nvm) [.truChStatus] mail)
  ∧ (∀ req, Within (.debugChallenge req) [.truChStatus] fun s t => { mail s t with free := t.free })
  ∧ (∀ req tok, Within (.debugUnlock req tok) (eventRegs ++ [.truChStatus, .truBootStatus]) mailEvt)
  ∧ (∀ req d a, Within (.ownerClaim req d a) (eventRegs ++ [.truChStatus, .truBootStatus]) mailEvt)
  ∧ (∀ ch req c n, Within (.badRequest ch req c n) [.truChStatus] mail)
  ∧ (∀ v, Within (.getVersion v) [] mail ∧ Within (.getCapabilities v) [] mail ∧ Within (.getDigests v) [] mail
      ∧ ∀ ok slot o l i k, Within (.negotiateAlgorithms v ok) [] mail ∧ Within (.getCertificate v slot o l) [] mail
        ∧ Within (.challenge v slot) [] mail ∧ Within (.getMeasurements v i) [] mail ∧ Within (.keyExchange v slot) [] mail
        ∧ Within (.finish v k ok) [] mail ∧ Within (.heartbeat v k) [] mail ∧ Within (.keyUpdate v k) [] mail
        ∧ Within (.endSession v k) [] mail)
  ∧ (∀ i m, Within (.pldmMonitoring i m) [] fun s t => { s with out := t.out })
  ∧ Within .pldmFruData [] (fun s t => { s with out := t.out })
  ∧ (∀ op, Within (.testPortInstruction op) [] fun s t => { s with out := t.out, free := t.free })
  ∧ Within .eventPush [] (fun s t => { s with out := t.out, evt := t.evt })
  ∧ (∀ n, Within (.flowFrameSend n) [] fun s t => { s with out := t.out, fab := t.fab })
  ∧ (∀ n, Within (.linkRetryTimeout n) [.fabPortCount] fun s t => { s with out := t.out, fab := t.fab })
  ∧ (∀ n seq fcs sh h f c, Within (.routedFrame n seq fcs sh h f c) (eventRegs ++ [.fabPortCount])
      fun s t => { s with out := t.out, fab := t.fab, evt := t.evt })
  ∧ (∀ id, Within (.stepMessageResend id) [] fun s t => { s with out := t.out, mgmt := t.mgmt })
  ∧ Within .pulseSend [.grvCount] (fun s t => { s with out := t.out, grove := t.grove })
  ∧ (∀ g j ps, Within (.mirror g j ps) [.grvRecovery] fun s t => { s with out := t.out, grove := t.grove, seen := t.seen })
  ∧ (∀ g n m st v sp, Within (.admission g n m st v sp) [.grvManager, .grvRole]
      fun s t => { s with out := t.out, seen := t.seen })
  ∧ (∀ g n, Within (.takeover g n) (eventRegs ++ [.grvManager, .grvRole])
      fun s t => { s with out := t.out, seen := t.seen, evt := t.evt, mgmt := t.mgmt })
  ∧ (∀ id, Within (.responseTimeout id) [.grvRedCount] fun s t => { s with out := t.out, requests := t.requests })
  ∧ (∀ d, Within (.frequencyStep d) [.clkDieStatus, .pwrAvsStatus] fun s t => { s with out := t.out, pwr := t.pwr })
  ∧ (∀ d, Within (.avsTimeout d) (eventRegs ++ [.clkDieStatus, .pwrAvsStatus]) point)
  ∧ (∀ v, Within (.pwrVwindowWrite v) (pointRegs ++ [.pwrVwindow]) point)
  ∧ (∀ d v, Within (.dieTargetWrite d v) (pointRegs ++ [.pwrDieTarget]) point)
  ∧ (∀ w dv, Within (.powerCapTick w dv) pointRegs point)
  ∧ Within .powerCapRaise pointRegs point
  ∧ (∀ d temp, Within (.thermalThrottleTick d temp) (pointRegs ++ [.ageDieMargin]) fun s t => { point s t with age := t.age })
  ∧ (∀ d, Within (.thermalRelease d) pointRegs point)
end

