-- ==== Sys2Proof/Laws/Bits.lean ====
section
/-! SUPPORT. Laws of bit fields: a field written reads back, and every other field keeps its value. -/
namespace Sys2Proof.Machine

theorem two_pow_split {a b : Nat} (h : a ≤ b) : 2 ^ b = 2 ^ a * 2 ^ (b - a) := by
  rw [← Nat.pow_add]; congr 1; omega

/-- The quotient of a number with bits [hi:lo] replaced, by the weight of bit lo. -/
theorem insBits_div (x hi lo v : Nat) (h : lo ≤ hi + 1) :
    insBits x hi lo v / 2 ^ lo = x / 2 ^ (hi + 1) * 2 ^ (hi + 1 - lo) + v % 2 ^ (hi + 1 - lo) := by
  unfold insBits
  rw [two_pow_split h, Nat.add_comm, ← Nat.mul_assoc, Nat.mul_right_comm _ (2 ^ lo), ← Nat.add_mul,
    Nat.add_mul_div_right _ _ (Nat.two_pow_pos lo), Nat.div_eq_of_lt (Nat.mod_lt _ (Nat.two_pow_pos lo)), Nat.zero_add]

/-- The field written reads as what was written, modulo its width. -/
theorem bits_insBits_same (x hi lo v : Nat) (h : lo ≤ hi + 1) :
    bits (insBits x hi lo v) hi lo = v % 2 ^ (hi + 1 - lo) := by
  unfold bits
  rw [Nat.shiftRight_eq_div_pow, insBits_div x hi lo v h, Nat.add_comm, Nat.add_mul_mod_self_right, Nat.mod_mod]

/-- The bits above the field keep their value. -/
theorem insBits_div_above (x hi lo v : Nat) (h : lo ≤ hi + 1) :
    insBits x hi lo v / 2 ^ (hi + 1) = x / 2 ^ (hi + 1) := by
  have e : 2 ^ (hi + 1) = 2 ^ lo * 2 ^ (hi + 1 - lo) := two_pow_split h
  rw [e, ← Nat.div_div_eq_div_mul, insBits_div x hi lo v h, Nat.add_comm,
    Nat.add_mul_div_right _ _ (Nat.two_pow_pos _), Nat.div_eq_of_lt (Nat.mod_lt _ (Nat.two_pow_pos _)), Nat.zero_add, ← e]

/-- The bits below the field keep their value. -/
theorem insBits_mod_below (x hi lo v : Nat) (h : lo ≤ hi + 1) : insBits x hi lo v % 2 ^ lo = x % 2 ^ lo := by
  unfold insBits
  rw [two_pow_split h, Nat.add_comm, Nat.mul_comm (2 ^ lo), ← Nat.mul_assoc, ← Nat.add_mul,
    Nat.add_mul_mod_self_right, Nat.mod_mod]

theorem bits_insBits_above (x hi lo v a b : Nat) (h : lo ≤ hi + 1) (hb : hi < b) :
    bits (insBits x hi lo v) a b = bits x a b := by
  unfold bits
  have e : 2 ^ b = 2 ^ (hi + 1) * 2 ^ (b - (hi + 1)) := two_pow_split hb
  rw [Nat.shiftRight_eq_div_pow, Nat.shiftRight_eq_div_pow, e, ← Nat.div_div_eq_div_mul, ← Nat.div_div_eq_div_mul,
    insBits_div_above x hi lo v h]

theorem bits_insBits_below (x hi lo v a b : Nat) (h : lo ≤ hi + 1) (ha : a < lo) :
    bits (insBits x hi lo v) a b = bits x a b := by
  unfold bits
  by_cases hb : b ≤ a
  · have key : ∀ y : Nat, y / 2 ^ b % 2 ^ (a + 1 - b) = y % 2 ^ lo / 2 ^ b % 2 ^ (a + 1 - b) := by
      intro y
      have e : 2 ^ lo = 2 ^ b * 2 ^ (lo - b) := two_pow_split (by omega)
      rw [e, Nat.mod_mul_right_div_self, ← Nat.mod_mod_of_dvd (y / 2 ^ b) (Nat.pow_dvd_pow 2 (show a + 1 - b ≤ lo - b by omega))]
    rw [Nat.shiftRight_eq_div_pow, Nat.shiftRight_eq_div_pow, key, insBits_mod_below x hi lo v h, ← key]
  · have e : a + 1 - b = 0 := by omega
    simp [e, Nat.mod_one]

/-- A field replaced within 64 bits leaves a number of 64 bits. -/
theorem insBits_lt (x hi lo v : Nat) (h : lo ≤ hi + 1) (hh : hi < 64) (hx : x < 2 ^ 64) :
    insBits x hi lo v < 2 ^ 64 := by
  have e : 2 ^ 64 = 2 ^ (hi + 1) * 2 ^ (64 - (hi + 1)) := two_pow_split (by omega)
  have hd := insBits_div_above x hi lo v h
  have hq : x / 2 ^ (hi + 1) < 2 ^ (64 - (hi + 1)) := by
    rw [Nat.div_lt_iff_lt_mul (Nat.two_pow_pos _), Nat.mul_comm, ← e]; exact hx
  rw [e, Nat.mul_comm, ← Nat.div_lt_iff_lt_mul (Nat.two_pow_pos _), hd]
  exact hq

theorem bits_lt (x hi lo : Nat) : bits x hi lo < 2 ^ (hi + 1 - lo) := Nat.mod_lt _ (Nat.two_pow_pos _)

end Sys2Proof.Machine
end

