-- ==== Sys2Proof/Laws/Regs.lean ====
section
/-! SUPPORT. Laws of the control window's registers: a register or field written reads back, and every other one keeps
its value. -/
namespace Sys2Proof.Machine

@[simp] theorem regKey_reg (r : RegName) (i j : Nat) : (regKey r i j).reg = r := by
  unfold regKey; split <;> rfl

theorem State.reg_setReg_same (s : State) (r : RegName) (i j : Nat) (v : Word) : (s.setReg r i j v).reg r i j = v :=
  aGet_aSet_same _ _ _ _ _

/-- Another element of the same register keeps its value. -/
theorem State.reg_setReg_elem (s : State) (r : RegName) (i j i' j' : Nat) (v : Word)
    (h : regKey r i' j' ≠ regKey r i j) : (s.setReg r i j v).reg r i' j' = s.reg r i' j' :=
  aGet_aSet_ne' _ _ _ _ _ h

/-- Another register keeps its value. -/
theorem State.reg_setReg_other (s : State) (r r' : RegName) (i j i' j' : Nat) (v : Word) (h : r' ≠ r) :
    (s.setReg r i j v).reg r' i' j' = s.reg r' i' j' :=
  aGet_aSet_ne' _ _ _ _ _ fun e => h (by simpa using congrArg RegKey.reg e)

theorem State.reg_fset_other (s : State) (f : RF) (r' : RegName) (i j i' j' v : Nat) (h : r' ≠ f.reg) :
    (s.fset f i j v).reg r' i' j' = s.reg r' i' j' := s.reg_setReg_other _ _ _ _ _ _ _ h

theorem State.reg_count_other (s : State) (r r' : RegName) (i j i' j' n : Nat) (h : r' ≠ r) :
    (s.count r i j n).reg r' i' j' = s.reg r' i' j' := by
  unfold State.count; split
  · rfl
  · exact s.reg_setReg_other _ _ _ _ _ _ _ h

/-- A counter adds and wraps at 2^64. -/
theorem State.reg_count_same (s : State) (r : RegName) (i j n : Nat) :
    (s.count r i j n).reg r i j = s.reg r i j + BitVec.ofNat 64 n := by
  unfold State.count; split
  · subst n; simp
  · rw [State.reg_setReg_same, BitVec.ofNat_add, BitVec.ofNat_toNat, BitVec.setWidth_eq]

/-- A field of another register keeps its value. -/
theorem State.fget_setReg_other (s : State) (g : RF) (r : RegName) (i j i' j' : Nat) (v : Word) (h : g.reg ≠ r) :
    (s.setReg r i j v).fget g i' j' = s.fget g i' j' := by
  unfold State.fget; rw [s.reg_setReg_other _ _ _ _ _ _ _ h]

theorem State.fget_fset_other (s : State) (f g : RF) (i j i' j' v : Nat) (h : g.reg ≠ f.reg) :
    (s.fset f i j v).fget g i' j' = s.fget g i' j' := s.fget_setReg_other _ _ _ _ _ _ _ h

theorem State.fget_count_other (s : State) (g : RF) (r : RegName) (i j i' j' n : Nat) (h : g.reg ≠ r) :
    (s.count r i j n).fget g i' j' = s.fget g i' j' := by
  unfold State.fget; rw [s.reg_count_other _ _ _ _ _ _ _ h]

/-- A field of another element of the same register keeps its value. -/
theorem State.fget_fset_elem (s : State) (f g : RF) (i j i' j' v : Nat) (hr : g.reg = f.reg)
    (h : regKey f.reg i' j' ≠ regKey f.reg i j) : (s.fset f i j v).fget g i' j' = s.fget g i' j' := by
  unfold State.fget State.fset; rw [hr, s.reg_setReg_elem _ _ _ _ _ _ h]

/-- The field written reads as what was written, modulo its width. -/
theorem State.fget_fset_same (s : State) (f : RF) (i j v : Nat) (h : f.lo ≤ f.hi + 1) (hh : f.hi < 64) :
    (s.fset f i j v).fget f i j = v % 2 ^ (f.hi + 1 - f.lo) := by
  unfold State.fget State.fset
  rw [s.reg_setReg_same, BitVec.toNat_ofNat, Nat.mod_eq_of_lt (insBits_lt _ _ _ _ h hh (BitVec.isLt _)),
    bits_insBits_same _ _ _ _ h]

/-- A field of the same register element that does not overlap keeps its value. -/
theorem State.fget_fset_apart (s : State) (f g : RF) (i j v : Nat) (hr : g.reg = f.reg) (h : f.lo ≤ f.hi + 1)
    (hh : f.hi < 64) (ha : f.hi < g.lo ∨ g.hi < f.lo) : (s.fset f i j v).fget g i j = s.fget g i j := by
  unfold State.fget State.fset
  rw [hr, s.reg_setReg_same, BitVec.toNat_ofNat, Nat.mod_eq_of_lt (insBits_lt _ _ _ _ h hh (BitVec.isLt _))]
  cases ha with
  | inl ha => exact bits_insBits_above _ _ _ _ _ _ h ha
  | inr ha => exact bits_insBits_below _ _ _ _ _ _ h ha

theorem State.fget_lt (s : State) (f : RF) (i j : Nat) : s.fget f i j < 2 ^ (f.hi + 1 - f.lo) := bits_lt _ _ _

/-- A counter's other element keeps its value. -/
theorem State.reg_count_elem (s : State) (r : RegName) (i j i' j' n : Nat) (h : regKey r i' j' ≠ regKey r i j) :
    (s.count r i j n).reg r i' j' = s.reg r i' j' := by
  unfold State.count; split
  · rfl
  · exact s.reg_setReg_elem _ _ _ _ _ _ h

end Sys2Proof.Machine
end

