-- ==== Sys2Proof/Laws/Settle.lean ====
section
/-! SUPPORT. What the condition that every command ends with changes: ALERT_N and the registers that show it follow the
module queue (R560, R561), and nothing else moves. -/
namespace Sys2Proof.Machine

/-- Beside registers, only the count of in-band interrupts changes. -/
theorem State.settle_rest (s : State) :
    s.settle = { s with regs := s.settle.regs, pins := { s.pins with ibis := s.settle.pins.ibis } } := rfl

/-- Every register but the alert's reads as before. -/
theorem State.settle_reg (s : State) (r : RegName) (i j : Nat) (h : r ∉ alertRegs) :
    s.settle.reg r i j = s.reg r i j := by
  simp only [alertRegs, List.mem_cons, List.not_mem_nil, or_false, not_or] at h
  exact (State.reg_fset_other _ _ _ _ _ _ _ _ h.2).trans (s.reg_setReg_other _ _ _ _ _ _ _ h.1)

theorem State.settle_onlyRegs (s : State) : OnlyRegs [] s s.settle :=
  ⟨fun r i j _ h => s.settle_reg r i j h, s.settle_rest⟩

theorem State.fget_settle (s : State) (f : RF) (i j : Nat) (h : f.reg ∉ alertRegs) :
    s.settle.fget f i j = s.fget f i j := by
  unfold State.fget; rw [s.settle_reg _ _ _ h]

theorem State.mqRecords_congr {s t : State} (h : t.reg .evtMqPtr 0 0 = s.reg .evtMqPtr 0 0) (e : t.evt.mq = s.evt.mq) :
    t.mqRecords = s.mqRecords := by
  unfold State.mqRecords State.fget
  rw [show rf_evtMqPtr_head.reg = .evtMqPtr from rfl, show rf_evtMqPtr_tail.reg = .evtMqPtr from rfl, h, e]

@[simp] theorem State.mqRecords_settle (s : State) : s.settle.mqRecords = s.mqRecords :=
  State.mqRecords_congr (s.settle_reg _ _ _ (by decide)) rfl

@[simp] theorem State.holding_settle (s : State) : s.settle.holding = s.holding := by
  unfold State.holding
  rw [State.mqRecords_settle, State.fget_settle _ _ _ _ (by decide)]

@[simp] theorem State.topSeverity_settle (s : State) : s.settle.topSeverity = s.topSeverity := by
  unfold State.topSeverity; rw [State.mqRecords_settle]

/-- The fields of EVT_ALERT. -/
theorem alertWord_fields (x : Bool) (m q : Nat) :
    alertWord x m q < 2 ^ 64 ∧ bits (alertWord x m q) 35 35 = b2n x ∧ bits (alertWord x m q) 34 32 = m % 8
      ∧ bits (alertWord x m q) 31 0 = w32 q := by
  have hm : m % 8 < 8 := Nat.mod_lt _ (by decide)
  have hq : w32 q < 2 ^ 32 := Nat.mod_lt _ (by decide)
  generalize hM : m % 8 = M at hm
  generalize hQ : w32 q = Q at hq
  simp only [alertWord, hM, hQ, bits, Nat.shiftRight_eq_div_pow, Nat.shiftLeft_eq]
  cases x
  · rw [show b2n false = 0 from rfl]; omega
  · rw [show b2n true = 1 from rfl]; omega

/-- EVT_ALERT after a settled command. -/
theorem State.settle_alert (s : State) : (s.settle.reg .evtAlert 0 0).toNat
    = alertWord (!s.holding.isEmpty) s.topSeverity ((s.holding.head?.map (·.seq)).getD 0) := by
  have h := alertWord_fields (!s.holding.isEmpty) s.topSeverity ((s.holding.head?.map (·.seq)).getD 0)
  unfold State.settle
  dsimp only
  rw [State.reg_fset_other _ _ _ _ _ _ _ _ (by decide)]
  refine (congrArg BitVec.toNat (s.reg_setReg_same .evtAlert 0 0 _)).trans ?_
  rw [BitVec.toNat_ofNat, Nat.mod_eq_of_lt h.1]

theorem State.settle_status (s : State) : s.settle.fget rf_glbStatus_alert = b2n (!s.holding.isEmpty) := by
  refine (State.fget_fset_same _ rf_glbStatus_alert 0 0 _ (by decide) (by decide)).trans ?_
  cases s.holding.isEmpty <;> rfl

/-- A settled state shows its alert. -/
theorem State.settle_alertShown (s : State) : s.settle.AlertShown := by
  have h := alertWord_fields (!s.holding.isEmpty) s.topSeverity ((s.holding.head?.map (·.seq)).getD 0)
  rw [← s.settle_alert] at h
  refine ⟨?_, ?_, ?_, ?_⟩
  · unfold State.fbit; rw [s.settle_status, State.holding_settle]; cases s.holding.isEmpty <;> rfl
  · unfold State.fbit State.fget
    rw [State.holding_settle, show rf_evtAlert_alerting = ⟨.evtAlert, 35, 35⟩ from rfl]
    dsimp only; rw [h.2.1]; cases s.holding.isEmpty <;> rfl
  · rw [State.topSeverity_settle]; exact h.2.2.1
  · intro r hr
    rw [State.holding_settle] at hr
    have := h.2.2.2
    rw [hr] at this
    exact this

end Sys2Proof.Machine
end

