-- ==== Sys2Proof/Laws/Frame.lean ====
section
/-! SUPPORT. Frames: how a state built from another by setting registers and parts stays within them. -/
namespace Sys2Proof.Machine

theorem testBit_eq_bits (x b : Nat) : x.testBit b = decide (bits x b b = 1) := by
  unfold Nat.testBit bits
  rw [show b + 1 - b = 1 by omega, Nat.pow_one]
  rcases Nat.mod_two_eq_zero_or_one (x >>> b) with h | h <;>
    simp [h, Nat.and_comm 1, Nat.and_one_is_mod]

/-- A bit outside the field written keeps its value. -/
theorem State.bit_fset_apart (s : State) (f : RF) (i j v b : Nat) (h : f.lo ≤ f.hi + 1)
    (hb : b < f.lo ∨ f.hi < b) : ((s.fset f i j v).reg f.reg i j).getLsbD b = (s.reg f.reg i j).getLsbD b := by
  unfold State.fset
  rw [s.reg_setReg_same]
  by_cases b64 : b < 64
  · rw [BitVec.getLsbD_ofNat, decide_eq_true b64, Bool.true_and, ← BitVec.testBit_toNat, testBit_eq_bits, testBit_eq_bits]
    congr 2
    cases hb with
    | inl hb => exact bits_insBits_below _ _ _ _ _ _ h hb
    | inr hb => exact bits_insBits_above _ _ _ _ _ _ h hb
  · rw [BitVec.getLsbD_of_ge _ _ (by omega), BitVec.getLsbD_of_ge _ _ (by omega)]

/-- What `Within` says of a command, of a state that the command has reached before it settles. -/
structure Keeps (l : List RegName) (parts : State → State → State) (s u : State) : Prop where
  regs : RegsBut l s u
  status : ∀ b, b ≠ rf_glbStatus_alert.lo → b ≠ rf_glbStatus_fatal.lo →
    (u.reg .glbStatus).getLsbD b = (s.reg .glbStatus).getLsbD b
  rest : u = { parts s u with regs := u.regs, pins := { s.pins with ibis := u.pins.ibis } }

/-- Parts taken from a state, which its registers are none of. -/
def PartsOnly (parts : State → State → State) : Prop :=
  (∀ s, parts s s = s) ∧ ∀ s u (r : AMap RegKey Word), parts s (u.withRegs r) = parts s u

variable {l : List RegName} {parts : State → State → State} {s u v : State}

theorem Keeps.refl (hp : PartsOnly parts) : Keeps l parts s s :=
  ⟨fun _ _ _ _ _ => rfl, fun _ _ _ => rfl, by rw [hp.1]⟩

theorem Keeps.setReg (hp : PartsOnly parts) (h : Keeps l parts s u) (r : RegName) (i j : Nat) (w : Word) (m : r ∈ l)
    (a : r ∉ alertRegs) : Keeps l parts s (u.setReg r i j w) := by
  refine ⟨fun r' i' j' hn ha => ?_, fun b h1 h2 => ?_, ?_⟩
  · rw [State.reg_setReg_other _ _ _ _ _ _ _ _ (fun e => hn (by rw [e]; exact m))]; exact h.regs _ _ _ hn ha
  · rw [State.reg_setReg_other _ _ _ _ _ _ _ _ (fun e => a (by rw [← e]; decide))]; exact h.status b h1 h2
  · have e := congrArg (fun x => x.withRegs (u.setReg r i j w).regs) h.rest
    have : parts s (u.setReg r i j w) = parts s u := hp.2 _ _ _
    rw [this]; exact e

theorem Keeps.fset (hp : PartsOnly parts) (h : Keeps l parts s u) (f : RF) (i j x : Nat) (m : f.reg ∈ l)
    (a : f.reg ∉ alertRegs) : Keeps l parts s (u.fset f i j x) := h.setReg hp _ _ _ _ m a

theorem Keeps.count (hp : PartsOnly parts) (h : Keeps l parts s u) (r : RegName) (i j n : Nat) (m : r ∈ l)
    (a : r ∉ alertRegs) : Keeps l parts s (u.count r i j n) := by
  unfold State.count; split
  · exact h
  · exact h.setReg hp _ _ _ _ m a

theorem Keeps.fatal (hp : PartsOnly parts) (h : Keeps l parts s u) (x : Nat) :
    Keeps l parts s (u.fset rf_glbStatus_fatal 0 0 x) := by
  refine ⟨fun r' i' j' hn ha => ?_, fun b h1 h2 => ?_, ?_⟩
  · rw [State.reg_fset_other _ _ _ _ _ _ _ _ (fun e => ha (by rw [e]; decide))]; exact h.regs _ _ _ hn ha
  · have e := u.bit_fset_apart rf_glbStatus_fatal 0 0 x b (by decide)
      (by have : rf_glbStatus_fatal.lo = rf_glbStatus_fatal.hi := rfl
          omega)
    exact e.trans (h.status b h1 h2)
  · have e := congrArg (fun x' => x'.withRegs (u.fset rf_glbStatus_fatal 0 0 x).regs) h.rest
    have : parts s (u.fset rf_glbStatus_fatal 0 0 x) = parts s u := hp.2 _ _ _
    rw [this]; exact e

/-- An update of parts that are named. -/
theorem Keeps.part (h : Keeps l parts s u) (F : State → State) (hr : (F u).regs = u.regs)
    (he : F { parts s u with regs := u.regs, pins := { s.pins with ibis := u.pins.ibis } }
      = { parts s (F u) with regs := (F u).regs, pins := { s.pins with ibis := (F u).pins.ibis } }) : Keeps l parts s (F u) := by
  have rr : ∀ r i j, (F u).reg r i j = u.reg r i j := fun r i j => by unfold State.reg; rw [hr]
  exact ⟨fun r i j a b => (rr r i j).trans (h.regs _ _ _ a b), fun b h1 h2 => by rw [rr]; exact h.status b h1 h2,
    (congrArg F h.rest).trans he⟩

theorem Keeps.ite {c : Prop} [Decidable c] (h : Keeps l parts s u) (k : Keeps l parts s v) :
    Keeps l parts s (if c then u else v) := by split <;> assumption

theorem Keeps.foldl {α : Type} (F : State → α → State) (hF : ∀ u a, Keeps l parts s u → Keeps l parts s (F u a))
    (xs : List α) (u : State) (h : Keeps l parts s u) : Keeps l parts s (xs.foldl F u) := by
  induction xs generalizing u with
  | nil => exact h
  | cons a xs ih => exact ih _ (hF _ _ h)

/-- An event moves the module queue's registers, its record, and the fatal flag. -/
theorem Keeps.raiseMod (hp : PartsOnly parts) (he : ∀ u x, Keeps l parts s u → Keeps l parts s (u.withEvt x))
    (h : Keeps l parts s u) (ptr : .evtMqPtr ∈ l) (cnt : .evtCount ∈ l) (code : Nat) (x : EvInfo) :
    Keeps l parts s (u.raiseMod code x) := by
  have put : ∀ w r, Keeps l parts s w → Keeps l parts s (w.mqPut r) := by
    intro w r hw
    unfold State.mqPut
    dsimp only
    refine Keeps.ite (Keeps.fset hp ?_ _ _ _ _ ptr (by decide)) (Keeps.fset hp (he _ _ hw) _ _ _ _ ptr (by decide))
    exact Keeps.ite (he _ _ (he _ _ hw)) (he _ _ hw)
  unfold State.raiseMod State.evNew
  dsimp only
  refine put _ _ (Keeps.ite (Keeps.fatal hp ?_ _) ?_) <;> exact (he _ _ h).count hp _ _ _ _ cnt (by decide)

/-- The frame of a command, from what it has done before it settles. -/
theorem Within.of_keeps {c : Instr} (hp : ∀ s u, parts s u.settle = parts s u)
    (h : ∀ s, ∃ u, exec c s = done u ∧ Keeps l parts s u) : Within c l parts := by
  intro s t ht
  obtain ⟨u, hu, k⟩ := h s
  rw [hu] at ht; cases ht
  refine ⟨fun r i j a b => (u.settle_reg r i j b).trans (k.regs _ _ _ a b), fun b h1 h2 => ?_, ?_⟩
  · rw [← k.status b h1 h2]
    have e := State.bit_fset_apart ((u.setReg .evtAlert 0 0 (BitVec.ofNat 64 (alertWord (!u.holding.isEmpty) u.topSeverity
      ((u.holding.head?.map (·.seq)).getD 0)))).withPins { u.pins with
        ibis := u.pins.ibis + b2n (!u.holding.isEmpty && !u.fbit rf_glbStatus_alert && u.pins.address.isSome) })
      rf_glbStatus_alert 0 0 (b2n (!u.holding.isEmpty)) b (by decide)
      (by have : rf_glbStatus_alert.lo = rf_glbStatus_alert.hi := rfl
          omega)
    exact e.trans (congrArg (fun w : Word => w.getLsbD b) (u.reg_setReg_other .evtAlert .glbStatus 0 0 0 0 _ (by decide)))
  · rw [hp, u.settle_rest]
    exact congrArg (fun w : State => { w with regs := u.settle.regs, pins := { w.pins with ibis := u.settle.pins.ibis } }) k.rest

end Sys2Proof.Machine
end

