-- ==== Sys2Proof/Laws/State.lean ====
section
/-! SUPPORT. What each update of State leaves unchanged: one lemma for each field and each read, true by definition, so that no
proof unfolds a record update. -/
namespace Sys2Proof.Machine

-- State.setReg
@[simp] theorem State.pending_setReg (s : State) (r : RegName) (i j : Nat) (v : Word) : (s.setReg r i j v).pending = s.pending := (rfl)
@[simp] theorem State.tick_setReg (s : State) (r : RegName) (i j : Nat) (v : Word) : (s.setReg r i j v).tick = s.tick := (rfl)
@[simp] theorem State.free_setReg (s : State) (r : RegName) (i j : Nat) (v : Word) : (s.setReg r i j v).free = s.free := (rfl)
@[simp] theorem State.mem_setReg (s : State) (r : RegName) (i j : Nat) (v : Word) : (s.setReg r i j v).mem = s.mem := (rfl)
@[simp] theorem State.windows_setReg (s : State) (r : RegName) (i j : Nat) (v : Word) : (s.setReg r i j v).windows = s.windows := (rfl)
@[simp] theorem State.flights_setReg (s : State) (r : RegName) (i j : Nat) (v : Word) : (s.setReg r i j v).flights = s.flights := (rfl)
@[simp] theorem State.granted_setReg (s : State) (r : RegName) (i j : Nat) (v : Word) : (s.setReg r i j v).granted = s.granted := (rfl)
@[simp] theorem State.drains_setReg (s : State) (r : RegName) (i j : Nat) (v : Word) : (s.setReg r i j v).drains = s.drains := (rfl)
@[simp] theorem State.parts_setReg (s : State) (r : RegName) (i j : Nat) (v : Word) : (s.setReg r i j v).parts = s.parts := (rfl)
@[simp] theorem State.evt_setReg (s : State) (r : RegName) (i j : Nat) (v : Word) : (s.setReg r i j v).evt = s.evt := (rfl)
@[simp] theorem State.hbm_setReg (s : State) (r : RegName) (i j : Nat) (v : Word) : (s.setReg r i j v).hbm = s.hbm := (rfl)
@[simp] theorem State.ledger_setReg (s : State) (r : RegName) (i j : Nat) (v : Word) : (s.setReg r i j v).ledger = s.ledger := (rfl)
@[simp] theorem State.ledgerSeq_setReg (s : State) (r : RegName) (i j : Nat) (v : Word) : (s.setReg r i j v).ledgerSeq = s.ledgerSeq := (rfl)
@[simp] theorem State.powerUps_setReg (s : State) (r : RegName) (i j : Nat) (v : Word) : (s.setReg r i j v).powerUps = s.powerUps := (rfl)
@[simp] theorem State.domains_setReg (s : State) (r : RegName) (i j : Nat) (v : Word) : (s.setReg r i j v).domains = s.domains := (rfl)
@[simp] theorem State.tiles_setReg (s : State) (r : RegName) (i j : Nat) (v : Word) : (s.setReg r i j v).tiles = s.tiles := (rfl)
@[simp] theorem State.lattices_setReg (s : State) (r : RegName) (i j : Nat) (v : Word) : (s.setReg r i j v).lattices = s.lattices := (rfl)
@[simp] theorem State.taps_setReg (s : State) (r : RegName) (i j : Nat) (v : Word) : (s.setReg r i j v).taps = s.taps := (rfl)
@[simp] theorem State.requests_setReg (s : State) (r : RegName) (i j : Nat) (v : Word) : (s.setReg r i j v).requests = s.requests := (rfl)
@[simp] theorem State.nextReq_setReg (s : State) (r : RegName) (i j : Nat) (v : Word) : (s.setReg r i j v).nextReq = s.nextReq := (rfl)
@[simp] theorem State.mgmt_setReg (s : State) (r : RegName) (i j : Nat) (v : Word) : (s.setReg r i j v).mgmt = s.mgmt := (rfl)
@[simp] theorem State.seen_setReg (s : State) (r : RegName) (i j : Nat) (v : Word) : (s.setReg r i j v).seen = s.seen := (rfl)
@[simp] theorem State.grove_setReg (s : State) (r : RegName) (i j : Nat) (v : Word) : (s.setReg r i j v).grove = s.grove := (rfl)
@[simp] theorem State.flash_setReg (s : State) (r : RegName) (i j : Nat) (v : Word) : (s.setReg r i j v).flash = s.flash := (rfl)
@[simp] theorem State.fab_setReg (s : State) (r : RegName) (i j : Nat) (v : Word) : (s.setReg r i j v).fab = s.fab := (rfl)
@[simp] theorem State.pwr_setReg (s : State) (r : RegName) (i j : Nat) (v : Word) : (s.setReg r i j v).pwr = s.pwr := (rfl)
@[simp] theorem State.age_setReg (s : State) (r : RegName) (i j : Nat) (v : Word) : (s.setReg r i j v).age = s.age := (rfl)
@[simp] theorem State.tru_setReg (s : State) (r : RegName) (i j : Nat) (v : Word) : (s.setReg r i j v).tru = s.tru := (rfl)
@[simp] theorem State.pins_setReg (s : State) (r : RegName) (i j : Nat) (v : Word) : (s.setReg r i j v).pins = s.pins := (rfl)
@[simp] theorem State.out_setReg (s : State) (r : RegName) (i j : Nat) (v : Word) : (s.setReg r i j v).out = s.out := (rfl)
@[simp] theorem State.byte_setReg (s : State) (r : RegName) (i j : Nat) (v : Word) (x' : Nat) :
    (s.setReg r i j v).byte x' = s.byte x' := (rfl)
@[simp] theorem State.part_setReg (s : State) (r : RegName) (i j : Nat) (v : Word) (k : Nat) :
    (s.setReg r i j v).part k = s.part k := (rfl)
@[simp] theorem State.dom_setReg (s : State) (r : RegName) (i j : Nat) (v : Word) (k : Nat) :
    (s.setReg r i j v).dom k = s.dom k := (rfl)
@[simp] theorem State.window_setReg (s : State) (r : RegName) (i j : Nat) (v : Word) (k k' : Nat) :
    (s.setReg r i j v).window k k' = s.window k k' := (rfl)
@[simp] theorem State.lat_setReg (s : State) (r : RegName) (i j : Nat) (v : Word) (k : Nat) :
    (s.setReg r i j v).lat k = s.lat k := (rfl)
@[simp] theorem State.stackX_setReg (s : State) (r : RegName) (i j : Nat) (v : Word) (k : Nat) :
    (s.setReg r i j v).stackX k = s.stackX k := (rfl)
@[simp] theorem State.port_setReg (s : State) (r : RegName) (i j : Nat) (v : Word) (k : Nat) :
    (s.setReg r i j v).port k = s.port k := (rfl)
@[simp] theorem State.die_setReg (s : State) (r : RegName) (i j : Nat) (v : Word) (k : Nat) :
    (s.setReg r i j v).die k = s.die k := (rfl)

-- State.fset
@[simp] theorem State.pending_fset (s : State) (f : RF) (i j v : Nat) : (s.fset f i j v).pending = s.pending := (rfl)
@[simp] theorem State.tick_fset (s : State) (f : RF) (i j v : Nat) : (s.fset f i j v).tick = s.tick := (rfl)
@[simp] theorem State.free_fset (s : State) (f : RF) (i j v : Nat) : (s.fset f i j v).free = s.free := (rfl)
@[simp] theorem State.mem_fset (s : State) (f : RF) (i j v : Nat) : (s.fset f i j v).mem = s.mem := (rfl)
@[simp] theorem State.windows_fset (s : State) (f : RF) (i j v : Nat) : (s.fset f i j v).windows = s.windows := (rfl)
@[simp] theorem State.flights_fset (s : State) (f : RF) (i j v : Nat) : (s.fset f i j v).flights = s.flights := (rfl)
@[simp] theorem State.granted_fset (s : State) (f : RF) (i j v : Nat) : (s.fset f i j v).granted = s.granted := (rfl)
@[simp] theorem State.drains_fset (s : State) (f : RF) (i j v : Nat) : (s.fset f i j v).drains = s.drains := (rfl)
@[simp] theorem State.parts_fset (s : State) (f : RF) (i j v : Nat) : (s.fset f i j v).parts = s.parts := (rfl)
@[simp] theorem State.evt_fset (s : State) (f : RF) (i j v : Nat) : (s.fset f i j v).evt = s.evt := (rfl)
@[simp] theorem State.hbm_fset (s : State) (f : RF) (i j v : Nat) : (s.fset f i j v).hbm = s.hbm := (rfl)
@[simp] theorem State.ledger_fset (s : State) (f : RF) (i j v : Nat) : (s.fset f i j v).ledger = s.ledger := (rfl)
@[simp] theorem State.ledgerSeq_fset (s : State) (f : RF) (i j v : Nat) : (s.fset f i j v).ledgerSeq = s.ledgerSeq := (rfl)
@[simp] theorem State.powerUps_fset (s : State) (f : RF) (i j v : Nat) : (s.fset f i j v).powerUps = s.powerUps := (rfl)
@[simp] theorem State.domains_fset (s : State) (f : RF) (i j v : Nat) : (s.fset f i j v).domains = s.domains := (rfl)
@[simp] theorem State.tiles_fset (s : State) (f : RF) (i j v : Nat) : (s.fset f i j v).tiles = s.tiles := (rfl)
@[simp] theorem State.lattices_fset (s : State) (f : RF) (i j v : Nat) : (s.fset f i j v).lattices = s.lattices := (rfl)
@[simp] theorem State.taps_fset (s : State) (f : RF) (i j v : Nat) : (s.fset f i j v).taps = s.taps := (rfl)
@[simp] theorem State.requests_fset (s : State) (f : RF) (i j v : Nat) : (s.fset f i j v).requests = s.requests := (rfl)
@[simp] theorem State.nextReq_fset (s : State) (f : RF) (i j v : Nat) : (s.fset f i j v).nextReq = s.nextReq := (rfl)
@[simp] theorem State.mgmt_fset (s : State) (f : RF) (i j v : Nat) : (s.fset f i j v).mgmt = s.mgmt := (rfl)
@[simp] theorem State.seen_fset (s : State) (f : RF) (i j v : Nat) : (s.fset f i j v).seen = s.seen := (rfl)
@[simp] theorem State.grove_fset (s : State) (f : RF) (i j v : Nat) : (s.fset f i j v).grove = s.grove := (rfl)
@[simp] theorem State.flash_fset (s : State) (f : RF) (i j v : Nat) : (s.fset f i j v).flash = s.flash := (rfl)
@[simp] theorem State.fab_fset (s : State) (f : RF) (i j v : Nat) : (s.fset f i j v).fab = s.fab := (rfl)
@[simp] theorem State.pwr_fset (s : State) (f : RF) (i j v : Nat) : (s.fset f i j v).pwr = s.pwr := (rfl)
@[simp] theorem State.age_fset (s : State) (f : RF) (i j v : Nat) : (s.fset f i j v).age = s.age := (rfl)
@[simp] theorem State.tru_fset (s : State) (f : RF) (i j v : Nat) : (s.fset f i j v).tru = s.tru := (rfl)
@[simp] theorem State.pins_fset (s : State) (f : RF) (i j v : Nat) : (s.fset f i j v).pins = s.pins := (rfl)
@[simp] theorem State.out_fset (s : State) (f : RF) (i j v : Nat) : (s.fset f i j v).out = s.out := (rfl)
@[simp] theorem State.byte_fset (s : State) (f : RF) (i j v : Nat) (x' : Nat) :
    (s.fset f i j v).byte x' = s.byte x' := (rfl)
@[simp] theorem State.part_fset (s : State) (f : RF) (i j v : Nat) (k : Nat) :
    (s.fset f i j v).part k = s.part k := (rfl)
@[simp] theorem State.dom_fset (s : State) (f : RF) (i j v : Nat) (k : Nat) :
    (s.fset f i j v).dom k = s.dom k := (rfl)
@[simp] theorem State.window_fset (s : State) (f : RF) (i j v : Nat) (k k' : Nat) :
    (s.fset f i j v).window k k' = s.window k k' := (rfl)
@[simp] theorem State.lat_fset (s : State) (f : RF) (i j v : Nat) (k : Nat) :
    (s.fset f i j v).lat k = s.lat k := (rfl)
@[simp] theorem State.stackX_fset (s : State) (f : RF) (i j v : Nat) (k : Nat) :
    (s.fset f i j v).stackX k = s.stackX k := (rfl)
@[simp] theorem State.port_fset (s : State) (f : RF) (i j v : Nat) (k : Nat) :
    (s.fset f i j v).port k = s.port k := (rfl)
@[simp] theorem State.die_fset (s : State) (f : RF) (i j v : Nat) (k : Nat) :
    (s.fset f i j v).die k = s.die k := (rfl)

-- State.setPart
@[simp] theorem State.pending_setPart (s : State) (p : Nat) (x : Part) : (s.setPart p x).pending = s.pending := (rfl)
@[simp] theorem State.tick_setPart (s : State) (p : Nat) (x : Part) : (s.setPart p x).tick = s.tick := (rfl)
@[simp] theorem State.free_setPart (s : State) (p : Nat) (x : Part) : (s.setPart p x).free = s.free := (rfl)
@[simp] theorem State.regs_setPart (s : State) (p : Nat) (x : Part) : (s.setPart p x).regs = s.regs := (rfl)
@[simp] theorem State.mem_setPart (s : State) (p : Nat) (x : Part) : (s.setPart p x).mem = s.mem := (rfl)
@[simp] theorem State.windows_setPart (s : State) (p : Nat) (x : Part) : (s.setPart p x).windows = s.windows := (rfl)
@[simp] theorem State.flights_setPart (s : State) (p : Nat) (x : Part) : (s.setPart p x).flights = s.flights := (rfl)
@[simp] theorem State.granted_setPart (s : State) (p : Nat) (x : Part) : (s.setPart p x).granted = s.granted := (rfl)
@[simp] theorem State.drains_setPart (s : State) (p : Nat) (x : Part) : (s.setPart p x).drains = s.drains := (rfl)
@[simp] theorem State.evt_setPart (s : State) (p : Nat) (x : Part) : (s.setPart p x).evt = s.evt := (rfl)
@[simp] theorem State.hbm_setPart (s : State) (p : Nat) (x : Part) : (s.setPart p x).hbm = s.hbm := (rfl)
@[simp] theorem State.ledger_setPart (s : State) (p : Nat) (x : Part) : (s.setPart p x).ledger = s.ledger := (rfl)
@[simp] theorem State.ledgerSeq_setPart (s : State) (p : Nat) (x : Part) : (s.setPart p x).ledgerSeq = s.ledgerSeq := (rfl)
@[simp] theorem State.powerUps_setPart (s : State) (p : Nat) (x : Part) : (s.setPart p x).powerUps = s.powerUps := (rfl)
@[simp] theorem State.domains_setPart (s : State) (p : Nat) (x : Part) : (s.setPart p x).domains = s.domains := (rfl)
@[simp] theorem State.tiles_setPart (s : State) (p : Nat) (x : Part) : (s.setPart p x).tiles = s.tiles := (rfl)
@[simp] theorem State.lattices_setPart (s : State) (p : Nat) (x : Part) : (s.setPart p x).lattices = s.lattices := (rfl)
@[simp] theorem State.taps_setPart (s : State) (p : Nat) (x : Part) : (s.setPart p x).taps = s.taps := (rfl)
@[simp] theorem State.requests_setPart (s : State) (p : Nat) (x : Part) : (s.setPart p x).requests = s.requests := (rfl)
@[simp] theorem State.nextReq_setPart (s : State) (p : Nat) (x : Part) : (s.setPart p x).nextReq = s.nextReq := (rfl)
@[simp] theorem State.mgmt_setPart (s : State) (p : Nat) (x : Part) : (s.setPart p x).mgmt = s.mgmt := (rfl)
@[simp] theorem State.seen_setPart (s : State) (p : Nat) (x : Part) : (s.setPart p x).seen = s.seen := (rfl)
@[simp] theorem State.grove_setPart (s : State) (p : Nat) (x : Part) : (s.setPart p x).grove = s.grove := (rfl)
@[simp] theorem State.flash_setPart (s : State) (p : Nat) (x : Part) : (s.setPart p x).flash = s.flash := (rfl)
@[simp] theorem State.fab_setPart (s : State) (p : Nat) (x : Part) : (s.setPart p x).fab = s.fab := (rfl)
@[simp] theorem State.pwr_setPart (s : State) (p : Nat) (x : Part) : (s.setPart p x).pwr = s.pwr := (rfl)
@[simp] theorem State.age_setPart (s : State) (p : Nat) (x : Part) : (s.setPart p x).age = s.age := (rfl)
@[simp] theorem State.tru_setPart (s : State) (p : Nat) (x : Part) : (s.setPart p x).tru = s.tru := (rfl)
@[simp] theorem State.pins_setPart (s : State) (p : Nat) (x : Part) : (s.setPart p x).pins = s.pins := (rfl)
@[simp] theorem State.out_setPart (s : State) (p : Nat) (x : Part) : (s.setPart p x).out = s.out := (rfl)
@[simp] theorem State.reg_setPart (s : State) (p : Nat) (x : Part) (r' : RegName) (a b : Nat) :
    (s.setPart p x).reg r' a b = s.reg r' a b := (rfl)
@[simp] theorem State.fget_setPart (s : State) (p : Nat) (x : Part) (g : RF) (a b : Nat) :
    (s.setPart p x).fget g a b = s.fget g a b := (rfl)
@[simp] theorem State.fbit_setPart (s : State) (p : Nat) (x : Part) (g : RF) (a b : Nat) :
    (s.setPart p x).fbit g a b = s.fbit g a b := (rfl)
@[simp] theorem State.byte_setPart (s : State) (p : Nat) (x : Part) (x' : Nat) :
    (s.setPart p x).byte x' = s.byte x' := (rfl)
@[simp] theorem State.dom_setPart (s : State) (p : Nat) (x : Part) (k : Nat) :
    (s.setPart p x).dom k = s.dom k := (rfl)
@[simp] theorem State.window_setPart (s : State) (p : Nat) (x : Part) (k k' : Nat) :
    (s.setPart p x).window k k' = s.window k k' := (rfl)
@[simp] theorem State.lat_setPart (s : State) (p : Nat) (x : Part) (k : Nat) :
    (s.setPart p x).lat k = s.lat k := (rfl)
@[simp] theorem State.stackX_setPart (s : State) (p : Nat) (x : Part) (k : Nat) :
    (s.setPart p x).stackX k = s.stackX k := (rfl)
@[simp] theorem State.port_setPart (s : State) (p : Nat) (x : Part) (k : Nat) :
    (s.setPart p x).port k = s.port k := (rfl)
@[simp] theorem State.die_setPart (s : State) (p : Nat) (x : Part) (k : Nat) :
    (s.setPart p x).die k = s.die k := (rfl)

-- State.setDom
@[simp] theorem State.pending_setDom (s : State) (d : Nat) (x : DomX) : (s.setDom d x).pending = s.pending := (rfl)
@[simp] theorem State.tick_setDom (s : State) (d : Nat) (x : DomX) : (s.setDom d x).tick = s.tick := (rfl)
@[simp] theorem State.free_setDom (s : State) (d : Nat) (x : DomX) : (s.setDom d x).free = s.free := (rfl)
@[simp] theorem State.regs_setDom (s : State) (d : Nat) (x : DomX) : (s.setDom d x).regs = s.regs := (rfl)
@[simp] theorem State.mem_setDom (s : State) (d : Nat) (x : DomX) : (s.setDom d x).mem = s.mem := (rfl)
@[simp] theorem State.windows_setDom (s : State) (d : Nat) (x : DomX) : (s.setDom d x).windows = s.windows := (rfl)
@[simp] theorem State.flights_setDom (s : State) (d : Nat) (x : DomX) : (s.setDom d x).flights = s.flights := (rfl)
@[simp] theorem State.granted_setDom (s : State) (d : Nat) (x : DomX) : (s.setDom d x).granted = s.granted := (rfl)
@[simp] theorem State.drains_setDom (s : State) (d : Nat) (x : DomX) : (s.setDom d x).drains = s.drains := (rfl)
@[simp] theorem State.parts_setDom (s : State) (d : Nat) (x : DomX) : (s.setDom d x).parts = s.parts := (rfl)
@[simp] theorem State.evt_setDom (s : State) (d : Nat) (x : DomX) : (s.setDom d x).evt = s.evt := (rfl)
@[simp] theorem State.hbm_setDom (s : State) (d : Nat) (x : DomX) : (s.setDom d x).hbm = s.hbm := (rfl)
@[simp] theorem State.ledger_setDom (s : State) (d : Nat) (x : DomX) : (s.setDom d x).ledger = s.ledger := (rfl)
@[simp] theorem State.ledgerSeq_setDom (s : State) (d : Nat) (x : DomX) : (s.setDom d x).ledgerSeq = s.ledgerSeq := (rfl)
@[simp] theorem State.powerUps_setDom (s : State) (d : Nat) (x : DomX) : (s.setDom d x).powerUps = s.powerUps := (rfl)
@[simp] theorem State.tiles_setDom (s : State) (d : Nat) (x : DomX) : (s.setDom d x).tiles = s.tiles := (rfl)
@[simp] theorem State.lattices_setDom (s : State) (d : Nat) (x : DomX) : (s.setDom d x).lattices = s.lattices := (rfl)
@[simp] theorem State.taps_setDom (s : State) (d : Nat) (x : DomX) : (s.setDom d x).taps = s.taps := (rfl)
@[simp] theorem State.requests_setDom (s : State) (d : Nat) (x : DomX) : (s.setDom d x).requests = s.requests := (rfl)
@[simp] theorem State.nextReq_setDom (s : State) (d : Nat) (x : DomX) : (s.setDom d x).nextReq = s.nextReq := (rfl)
@[simp] theorem State.mgmt_setDom (s : State) (d : Nat) (x : DomX) : (s.setDom d x).mgmt = s.mgmt := (rfl)
@[simp] theorem State.seen_setDom (s : State) (d : Nat) (x : DomX) : (s.setDom d x).seen = s.seen := (rfl)
@[simp] theorem State.grove_setDom (s : State) (d : Nat) (x : DomX) : (s.setDom d x).grove = s.grove := (rfl)
@[simp] theorem State.flash_setDom (s : State) (d : Nat) (x : DomX) : (s.setDom d x).flash = s.flash := (rfl)
@[simp] theorem State.fab_setDom (s : State) (d : Nat) (x : DomX) : (s.setDom d x).fab = s.fab := (rfl)
@[simp] theorem State.pwr_setDom (s : State) (d : Nat) (x : DomX) : (s.setDom d x).pwr = s.pwr := (rfl)
@[simp] theorem State.age_setDom (s : State) (d : Nat) (x : DomX) : (s.setDom d x).age = s.age := (rfl)
@[simp] theorem State.tru_setDom (s : State) (d : Nat) (x : DomX) : (s.setDom d x).tru = s.tru := (rfl)
@[simp] theorem State.pins_setDom (s : State) (d : Nat) (x : DomX) : (s.setDom d x).pins = s.pins := (rfl)
@[simp] theorem State.out_setDom (s : State) (d : Nat) (x : DomX) : (s.setDom d x).out = s.out := (rfl)
@[simp] theorem State.reg_setDom (s : State) (d : Nat) (x : DomX) (r' : RegName) (a b : Nat) :
    (s.setDom d x).reg r' a b = s.reg r' a b := (rfl)
@[simp] theorem State.fget_setDom (s : State) (d : Nat) (x : DomX) (g : RF) (a b : Nat) :
    (s.setDom d x).fget g a b = s.fget g a b := (rfl)
@[simp] theorem State.fbit_setDom (s : State) (d : Nat) (x : DomX) (g : RF) (a b : Nat) :
    (s.setDom d x).fbit g a b = s.fbit g a b := (rfl)
@[simp] theorem State.byte_setDom (s : State) (d : Nat) (x : DomX) (x' : Nat) :
    (s.setDom d x).byte x' = s.byte x' := (rfl)
@[simp] theorem State.part_setDom (s : State) (d : Nat) (x : DomX) (k : Nat) :
    (s.setDom d x).part k = s.part k := (rfl)
@[simp] theorem State.window_setDom (s : State) (d : Nat) (x : DomX) (k k' : Nat) :
    (s.setDom d x).window k k' = s.window k k' := (rfl)
@[simp] theorem State.lat_setDom (s : State) (d : Nat) (x : DomX) (k : Nat) :
    (s.setDom d x).lat k = s.lat k := (rfl)
@[simp] theorem State.stackX_setDom (s : State) (d : Nat) (x : DomX) (k : Nat) :
    (s.setDom d x).stackX k = s.stackX k := (rfl)
@[simp] theorem State.port_setDom (s : State) (d : Nat) (x : DomX) (k : Nat) :
    (s.setDom d x).port k = s.port k := (rfl)
@[simp] theorem State.die_setDom (s : State) (d : Nat) (x : DomX) (k : Nat) :
    (s.setDom d x).die k = s.die k := (rfl)

-- State.setByte
@[simp] theorem State.pending_setByte (s : State) (pa : Nat) (bt : Byte) : (s.setByte pa bt).pending = s.pending := (rfl)
@[simp] theorem State.tick_setByte (s : State) (pa : Nat) (bt : Byte) : (s.setByte pa bt).tick = s.tick := (rfl)
@[simp] theorem State.free_setByte (s : State) (pa : Nat) (bt : Byte) : (s.setByte pa bt).free = s.free := (rfl)
@[simp] theorem State.regs_setByte (s : State) (pa : Nat) (bt : Byte) : (s.setByte pa bt).regs = s.regs := (rfl)
@[simp] theorem State.windows_setByte (s : State) (pa : Nat) (bt : Byte) : (s.setByte pa bt).windows = s.windows := (rfl)
@[simp] theorem State.flights_setByte (s : State) (pa : Nat) (bt : Byte) : (s.setByte pa bt).flights = s.flights := (rfl)
@[simp] theorem State.granted_setByte (s : State) (pa : Nat) (bt : Byte) : (s.setByte pa bt).granted = s.granted := (rfl)
@[simp] theorem State.drains_setByte (s : State) (pa : Nat) (bt : Byte) : (s.setByte pa bt).drains = s.drains := (rfl)
@[simp] theorem State.parts_setByte (s : State) (pa : Nat) (bt : Byte) : (s.setByte pa bt).parts = s.parts := (rfl)
@[simp] theorem State.evt_setByte (s : State) (pa : Nat) (bt : Byte) : (s.setByte pa bt).evt = s.evt := (rfl)
@[simp] theorem State.hbm_setByte (s : State) (pa : Nat) (bt : Byte) : (s.setByte pa bt).hbm = s.hbm := (rfl)
@[simp] theorem State.ledger_setByte (s : State) (pa : Nat) (bt : Byte) : (s.setByte pa bt).ledger = s.ledger := (rfl)
@[simp] theorem State.ledgerSeq_setByte (s : State) (pa : Nat) (bt : Byte) : (s.setByte pa bt).ledgerSeq = s.ledgerSeq := (rfl)
@[simp] theorem State.powerUps_setByte (s : State) (pa : Nat) (bt : Byte) : (s.setByte pa bt).powerUps = s.powerUps := (rfl)
@[simp] theorem State.domains_setByte (s : State) (pa : Nat) (bt : Byte) : (s.setByte pa bt).domains = s.domains := (rfl)
@[simp] theorem State.tiles_setByte (s : State) (pa : Nat) (bt : Byte) : (s.setByte pa bt).tiles = s.tiles := (rfl)
@[simp] theorem State.lattices_setByte (s : State) (pa : Nat) (bt : Byte) : (s.setByte pa bt).lattices = s.lattices := (rfl)
@[simp] theorem State.taps_setByte (s : State) (pa : Nat) (bt : Byte) : (s.setByte pa bt).taps = s.taps := (rfl)
@[simp] theorem State.requests_setByte (s : State) (pa : Nat) (bt : Byte) : (s.setByte pa bt).requests = s.requests := (rfl)
@[simp] theorem State.nextReq_setByte (s : State) (pa : Nat) (bt : Byte) : (s.setByte pa bt).nextReq = s.nextReq := (rfl)
@[simp] theorem State.mgmt_setByte (s : State) (pa : Nat) (bt : Byte) : (s.setByte pa bt).mgmt = s.mgmt := (rfl)
@[simp] theorem State.seen_setByte (s : State) (pa : Nat) (bt : Byte) : (s.setByte pa bt).seen = s.seen := (rfl)
@[simp] theorem State.grove_setByte (s : State) (pa : Nat) (bt : Byte) : (s.setByte pa bt).grove = s.grove := (rfl)
@[simp] theorem State.flash_setByte (s : State) (pa : Nat) (bt : Byte) : (s.setByte pa bt).flash = s.flash := (rfl)
@[simp] theorem State.fab_setByte (s : State) (pa : Nat) (bt : Byte) : (s.setByte pa bt).fab = s.fab := (rfl)
@[simp] theorem State.pwr_setByte (s : State) (pa : Nat) (bt : Byte) : (s.setByte pa bt).pwr = s.pwr := (rfl)
@[simp] theorem State.age_setByte (s : State) (pa : Nat) (bt : Byte) : (s.setByte pa bt).age = s.age := (rfl)
@[simp] theorem State.tru_setByte (s : State) (pa : Nat) (bt : Byte) : (s.setByte pa bt).tru = s.tru := (rfl)
@[simp] theorem State.pins_setByte (s : State) (pa : Nat) (bt : Byte) : (s.setByte pa bt).pins = s.pins := (rfl)
@[simp] theorem State.out_setByte (s : State) (pa : Nat) (bt : Byte) : (s.setByte pa bt).out = s.out := (rfl)
@[simp] theorem State.reg_setByte (s : State) (pa : Nat) (bt : Byte) (r' : RegName) (a b : Nat) :
    (s.setByte pa bt).reg r' a b = s.reg r' a b := (rfl)
@[simp] theorem State.fget_setByte (s : State) (pa : Nat) (bt : Byte) (g : RF) (a b : Nat) :
    (s.setByte pa bt).fget g a b = s.fget g a b := (rfl)
@[simp] theorem State.fbit_setByte (s : State) (pa : Nat) (bt : Byte) (g : RF) (a b : Nat) :
    (s.setByte pa bt).fbit g a b = s.fbit g a b := (rfl)
@[simp] theorem State.part_setByte (s : State) (pa : Nat) (bt : Byte) (k : Nat) :
    (s.setByte pa bt).part k = s.part k := (rfl)
@[simp] theorem State.dom_setByte (s : State) (pa : Nat) (bt : Byte) (k : Nat) :
    (s.setByte pa bt).dom k = s.dom k := (rfl)
@[simp] theorem State.window_setByte (s : State) (pa : Nat) (bt : Byte) (k k' : Nat) :
    (s.setByte pa bt).window k k' = s.window k k' := (rfl)
@[simp] theorem State.lat_setByte (s : State) (pa : Nat) (bt : Byte) (k : Nat) :
    (s.setByte pa bt).lat k = s.lat k := (rfl)
@[simp] theorem State.stackX_setByte (s : State) (pa : Nat) (bt : Byte) (k : Nat) :
    (s.setByte pa bt).stackX k = s.stackX k := (rfl)
@[simp] theorem State.port_setByte (s : State) (pa : Nat) (bt : Byte) (k : Nat) :
    (s.setByte pa bt).port k = s.port k := (rfl)
@[simp] theorem State.die_setByte (s : State) (pa : Nat) (bt : Byte) (k : Nat) :
    (s.setByte pa bt).die k = s.die k := (rfl)

-- State.touch
@[simp] theorem State.pending_touch (s : State) (u : Nat) : (s.touch u).pending = s.pending := (rfl)
@[simp] theorem State.tick_touch (s : State) (u : Nat) : (s.touch u).tick = s.tick := (rfl)
@[simp] theorem State.free_touch (s : State) (u : Nat) : (s.touch u).free = s.free := (rfl)
@[simp] theorem State.regs_touch (s : State) (u : Nat) : (s.touch u).regs = s.regs := (rfl)
@[simp] theorem State.mem_touch (s : State) (u : Nat) : (s.touch u).mem = s.mem := (rfl)
@[simp] theorem State.windows_touch (s : State) (u : Nat) : (s.touch u).windows = s.windows := (rfl)
@[simp] theorem State.flights_touch (s : State) (u : Nat) : (s.touch u).flights = s.flights := (rfl)
@[simp] theorem State.granted_touch (s : State) (u : Nat) : (s.touch u).granted = s.granted := (rfl)
@[simp] theorem State.drains_touch (s : State) (u : Nat) : (s.touch u).drains = s.drains := (rfl)
@[simp] theorem State.parts_touch (s : State) (u : Nat) : (s.touch u).parts = s.parts := (rfl)
@[simp] theorem State.evt_touch (s : State) (u : Nat) : (s.touch u).evt = s.evt := (rfl)
@[simp] theorem State.hbm_touch (s : State) (u : Nat) : (s.touch u).hbm = s.hbm := (rfl)
@[simp] theorem State.ledger_touch (s : State) (u : Nat) : (s.touch u).ledger = s.ledger := (rfl)
@[simp] theorem State.ledgerSeq_touch (s : State) (u : Nat) : (s.touch u).ledgerSeq = s.ledgerSeq := (rfl)
@[simp] theorem State.powerUps_touch (s : State) (u : Nat) : (s.touch u).powerUps = s.powerUps := (rfl)
@[simp] theorem State.domains_touch (s : State) (u : Nat) : (s.touch u).domains = s.domains := (rfl)
@[simp] theorem State.tiles_touch (s : State) (u : Nat) : (s.touch u).tiles = s.tiles := (rfl)
@[simp] theorem State.lattices_touch (s : State) (u : Nat) : (s.touch u).lattices = s.lattices := (rfl)
@[simp] theorem State.taps_touch (s : State) (u : Nat) : (s.touch u).taps = s.taps := (rfl)
@[simp] theorem State.requests_touch (s : State) (u : Nat) : (s.touch u).requests = s.requests := (rfl)
@[simp] theorem State.nextReq_touch (s : State) (u : Nat) : (s.touch u).nextReq = s.nextReq := (rfl)
@[simp] theorem State.mgmt_touch (s : State) (u : Nat) : (s.touch u).mgmt = s.mgmt := (rfl)
@[simp] theorem State.seen_touch (s : State) (u : Nat) : (s.touch u).seen = s.seen := (rfl)
@[simp] theorem State.grove_touch (s : State) (u : Nat) : (s.touch u).grove = s.grove := (rfl)
@[simp] theorem State.flash_touch (s : State) (u : Nat) : (s.touch u).flash = s.flash := (rfl)
@[simp] theorem State.fab_touch (s : State) (u : Nat) : (s.touch u).fab = s.fab := (rfl)
@[simp] theorem State.pwr_touch (s : State) (u : Nat) : (s.touch u).pwr = s.pwr := (rfl)
@[simp] theorem State.tru_touch (s : State) (u : Nat) : (s.touch u).tru = s.tru := (rfl)
@[simp] theorem State.pins_touch (s : State) (u : Nat) : (s.touch u).pins = s.pins := (rfl)
@[simp] theorem State.out_touch (s : State) (u : Nat) : (s.touch u).out = s.out := (rfl)
@[simp] theorem State.reg_touch (s : State) (u : Nat) (r' : RegName) (a b : Nat) :
    (s.touch u).reg r' a b = s.reg r' a b := (rfl)
@[simp] theorem State.fget_touch (s : State) (u : Nat) (g : RF) (a b : Nat) :
    (s.touch u).fget g a b = s.fget g a b := (rfl)
@[simp] theorem State.fbit_touch (s : State) (u : Nat) (g : RF) (a b : Nat) :
    (s.touch u).fbit g a b = s.fbit g a b := (rfl)
@[simp] theorem State.byte_touch (s : State) (u : Nat) (x' : Nat) :
    (s.touch u).byte x' = s.byte x' := (rfl)
@[simp] theorem State.part_touch (s : State) (u : Nat) (k : Nat) :
    (s.touch u).part k = s.part k := (rfl)
@[simp] theorem State.dom_touch (s : State) (u : Nat) (k : Nat) :
    (s.touch u).dom k = s.dom k := (rfl)
@[simp] theorem State.window_touch (s : State) (u : Nat) (k k' : Nat) :
    (s.touch u).window k k' = s.window k k' := (rfl)
@[simp] theorem State.lat_touch (s : State) (u : Nat) (k : Nat) :
    (s.touch u).lat k = s.lat k := (rfl)
@[simp] theorem State.stackX_touch (s : State) (u : Nat) (k : Nat) :
    (s.touch u).stackX k = s.stackX k := (rfl)
@[simp] theorem State.port_touch (s : State) (u : Nat) (k : Nat) :
    (s.touch u).port k = s.port k := (rfl)
@[simp] theorem State.die_touch (s : State) (u : Nat) (k : Nat) :
    (s.touch u).die k = s.die k := (rfl)

-- State.setWindow
@[simp] theorem State.pending_setWindow (s : State) (core stream : Nat) (w : List Fetched) : (s.setWindow core stream w).pending = s.pending := (rfl)
@[simp] theorem State.tick_setWindow (s : State) (core stream : Nat) (w : List Fetched) : (s.setWindow core stream w).tick = s.tick := (rfl)
@[simp] theorem State.free_setWindow (s : State) (core stream : Nat) (w : List Fetched) : (s.setWindow core stream w).free = s.free := (rfl)
@[simp] theorem State.regs_setWindow (s : State) (core stream : Nat) (w : List Fetched) : (s.setWindow core stream w).regs = s.regs := (rfl)
@[simp] theorem State.mem_setWindow (s : State) (core stream : Nat) (w : List Fetched) : (s.setWindow core stream w).mem = s.mem := (rfl)
@[simp] theorem State.flights_setWindow (s : State) (core stream : Nat) (w : List Fetched) : (s.setWindow core stream w).flights = s.flights := (rfl)
@[simp] theorem State.granted_setWindow (s : State) (core stream : Nat) (w : List Fetched) : (s.setWindow core stream w).granted = s.granted := (rfl)
@[simp] theorem State.drains_setWindow (s : State) (core stream : Nat) (w : List Fetched) : (s.setWindow core stream w).drains = s.drains := (rfl)
@[simp] theorem State.parts_setWindow (s : State) (core stream : Nat) (w : List Fetched) : (s.setWindow core stream w).parts = s.parts := (rfl)
@[simp] theorem State.evt_setWindow (s : State) (core stream : Nat) (w : List Fetched) : (s.setWindow core stream w).evt = s.evt := (rfl)
@[simp] theorem State.hbm_setWindow (s : State) (core stream : Nat) (w : List Fetched) : (s.setWindow core stream w).hbm = s.hbm := (rfl)
@[simp] theorem State.ledger_setWindow (s : State) (core stream : Nat) (w : List Fetched) : (s.setWindow core stream w).ledger = s.ledger := (rfl)
@[simp] theorem State.ledgerSeq_setWindow (s : State) (core stream : Nat) (w : List Fetched) : (s.setWindow core stream w).ledgerSeq = s.ledgerSeq := (rfl)
@[simp] theorem State.powerUps_setWindow (s : State) (core stream : Nat) (w : List Fetched) : (s.setWindow core stream w).powerUps = s.powerUps := (rfl)
@[simp] theorem State.domains_setWindow (s : State) (core stream : Nat) (w : List Fetched) : (s.setWindow core stream w).domains = s.domains := (rfl)
@[simp] theorem State.tiles_setWindow (s : State) (core stream : Nat) (w : List Fetched) : (s.setWindow core stream w).tiles = s.tiles := (rfl)
@[simp] theorem State.lattices_setWindow (s : State) (core stream : Nat) (w : List Fetched) : (s.setWindow core stream w).lattices = s.lattices := (rfl)
@[simp] theorem State.taps_setWindow (s : State) (core stream : Nat) (w : List Fetched) : (s.setWindow core stream w).taps = s.taps := (rfl)
@[simp] theorem State.requests_setWindow (s : State) (core stream : Nat) (w : List Fetched) : (s.setWindow core stream w).requests = s.requests := (rfl)
@[simp] theorem State.nextReq_setWindow (s : State) (core stream : Nat) (w : List Fetched) : (s.setWindow core stream w).nextReq = s.nextReq := (rfl)
@[simp] theorem State.mgmt_setWindow (s : State) (core stream : Nat) (w : List Fetched) : (s.setWindow core stream w).mgmt = s.mgmt := (rfl)
@[simp] theorem State.seen_setWindow (s : State) (core stream : Nat) (w : List Fetched) : (s.setWindow core stream w).seen = s.seen := (rfl)
@[simp] theorem State.grove_setWindow (s : State) (core stream : Nat) (w : List Fetched) : (s.setWindow core stream w).grove = s.grove := (rfl)
@[simp] theorem State.flash_setWindow (s : State) (core stream : Nat) (w : List Fetched) : (s.setWindow core stream w).flash = s.flash := (rfl)
@[simp] theorem State.fab_setWindow (s : State) (core stream : Nat) (w : List Fetched) : (s.setWindow core stream w).fab = s.fab := (rfl)
@[simp] theorem State.pwr_setWindow (s : State) (core stream : Nat) (w : List Fetched) : (s.setWindow core stream w).pwr = s.pwr := (rfl)
@[simp] theorem State.age_setWindow (s : State) (core stream : Nat) (w : List Fetched) : (s.setWindow core stream w).age = s.age := (rfl)
@[simp] theorem State.tru_setWindow (s : State) (core stream : Nat) (w : List Fetched) : (s.setWindow core stream w).tru = s.tru := (rfl)
@[simp] theorem State.pins_setWindow (s : State) (core stream : Nat) (w : List Fetched) : (s.setWindow core stream w).pins = s.pins := (rfl)
@[simp] theorem State.out_setWindow (s : State) (core stream : Nat) (w : List Fetched) : (s.setWindow core stream w).out = s.out := (rfl)
@[simp] theorem State.reg_setWindow (s : State) (core stream : Nat) (w : List Fetched) (r' : RegName) (a b : Nat) :
    (s.setWindow core stream w).reg r' a b = s.reg r' a b := (rfl)
@[simp] theorem State.fget_setWindow (s : State) (core stream : Nat) (w : List Fetched) (g : RF) (a b : Nat) :
    (s.setWindow core stream w).fget g a b = s.fget g a b := (rfl)
@[simp] theorem State.fbit_setWindow (s : State) (core stream : Nat) (w : List Fetched) (g : RF) (a b : Nat) :
    (s.setWindow core stream w).fbit g a b = s.fbit g a b := (rfl)
@[simp] theorem State.byte_setWindow (s : State) (core stream : Nat) (w : List Fetched) (x' : Nat) :
    (s.setWindow core stream w).byte x' = s.byte x' := (rfl)
@[simp] theorem State.part_setWindow (s : State) (core stream : Nat) (w : List Fetched) (k : Nat) :
    (s.setWindow core stream w).part k = s.part k := (rfl)
@[simp] theorem State.dom_setWindow (s : State) (core stream : Nat) (w : List Fetched) (k : Nat) :
    (s.setWindow core stream w).dom k = s.dom k := (rfl)
@[simp] theorem State.lat_setWindow (s : State) (core stream : Nat) (w : List Fetched) (k : Nat) :
    (s.setWindow core stream w).lat k = s.lat k := (rfl)
@[simp] theorem State.stackX_setWindow (s : State) (core stream : Nat) (w : List Fetched) (k : Nat) :
    (s.setWindow core stream w).stackX k = s.stackX k := (rfl)
@[simp] theorem State.port_setWindow (s : State) (core stream : Nat) (w : List Fetched) (k : Nat) :
    (s.setWindow core stream w).port k = s.port k := (rfl)
@[simp] theorem State.die_setWindow (s : State) (core stream : Nat) (w : List Fetched) (k : Nat) :
    (s.setWindow core stream w).die k = s.die k := (rfl)

-- State.setLat
@[simp] theorem State.pending_setLat (s : State) (core : Nat) (x : Lattice) : (s.setLat core x).pending = s.pending := (rfl)
@[simp] theorem State.tick_setLat (s : State) (core : Nat) (x : Lattice) : (s.setLat core x).tick = s.tick := (rfl)
@[simp] theorem State.free_setLat (s : State) (core : Nat) (x : Lattice) : (s.setLat core x).free = s.free := (rfl)
@[simp] theorem State.regs_setLat (s : State) (core : Nat) (x : Lattice) : (s.setLat core x).regs = s.regs := (rfl)
@[simp] theorem State.mem_setLat (s : State) (core : Nat) (x : Lattice) : (s.setLat core x).mem = s.mem := (rfl)
@[simp] theorem State.windows_setLat (s : State) (core : Nat) (x : Lattice) : (s.setLat core x).windows = s.windows := (rfl)
@[simp] theorem State.flights_setLat (s : State) (core : Nat) (x : Lattice) : (s.setLat core x).flights = s.flights := (rfl)
@[simp] theorem State.granted_setLat (s : State) (core : Nat) (x : Lattice) : (s.setLat core x).granted = s.granted := (rfl)
@[simp] theorem State.drains_setLat (s : State) (core : Nat) (x : Lattice) : (s.setLat core x).drains = s.drains := (rfl)
@[simp] theorem State.parts_setLat (s : State) (core : Nat) (x : Lattice) : (s.setLat core x).parts = s.parts := (rfl)
@[simp] theorem State.evt_setLat (s : State) (core : Nat) (x : Lattice) : (s.setLat core x).evt = s.evt := (rfl)
@[simp] theorem State.hbm_setLat (s : State) (core : Nat) (x : Lattice) : (s.setLat core x).hbm = s.hbm := (rfl)
@[simp] theorem State.ledger_setLat (s : State) (core : Nat) (x : Lattice) : (s.setLat core x).ledger = s.ledger := (rfl)
@[simp] theorem State.ledgerSeq_setLat (s : State) (core : Nat) (x : Lattice) : (s.setLat core x).ledgerSeq = s.ledgerSeq := (rfl)
@[simp] theorem State.powerUps_setLat (s : State) (core : Nat) (x : Lattice) : (s.setLat core x).powerUps = s.powerUps := (rfl)
@[simp] theorem State.domains_setLat (s : State) (core : Nat) (x : Lattice) : (s.setLat core x).domains = s.domains := (rfl)
@[simp] theorem State.tiles_setLat (s : State) (core : Nat) (x : Lattice) : (s.setLat core x).tiles = s.tiles := (rfl)
@[simp] theorem State.taps_setLat (s : State) (core : Nat) (x : Lattice) : (s.setLat core x).taps = s.taps := (rfl)
@[simp] theorem State.requests_setLat (s : State) (core : Nat) (x : Lattice) : (s.setLat core x).requests = s.requests := (rfl)
@[simp] theorem State.nextReq_setLat (s : State) (core : Nat) (x : Lattice) : (s.setLat core x).nextReq = s.nextReq := (rfl)
@[simp] theorem State.mgmt_setLat (s : State) (core : Nat) (x : Lattice) : (s.setLat core x).mgmt = s.mgmt := (rfl)
@[simp] theorem State.seen_setLat (s : State) (core : Nat) (x : Lattice) : (s.setLat core x).seen = s.seen := (rfl)
@[simp] theorem State.grove_setLat (s : State) (core : Nat) (x : Lattice) : (s.setLat core x).grove = s.grove := (rfl)
@[simp] theorem State.flash_setLat (s : State) (core : Nat) (x : Lattice) : (s.setLat core x).flash = s.flash := (rfl)
@[simp] theorem State.fab_setLat (s : State) (core : Nat) (x : Lattice) : (s.setLat core x).fab = s.fab := (rfl)
@[simp] theorem State.pwr_setLat (s : State) (core : Nat) (x : Lattice) : (s.setLat core x).pwr = s.pwr := (rfl)
@[simp] theorem State.age_setLat (s : State) (core : Nat) (x : Lattice) : (s.setLat core x).age = s.age := (rfl)
@[simp] theorem State.tru_setLat (s : State) (core : Nat) (x : Lattice) : (s.setLat core x).tru = s.tru := (rfl)
@[simp] theorem State.pins_setLat (s : State) (core : Nat) (x : Lattice) : (s.setLat core x).pins = s.pins := (rfl)
@[simp] theorem State.out_setLat (s : State) (core : Nat) (x : Lattice) : (s.setLat core x).out = s.out := (rfl)
@[simp] theorem State.reg_setLat (s : State) (core : Nat) (x : Lattice) (r' : RegName) (a b : Nat) :
    (s.setLat core x).reg r' a b = s.reg r' a b := (rfl)
@[simp] theorem State.fget_setLat (s : State) (core : Nat) (x : Lattice) (g : RF) (a b : Nat) :
    (s.setLat core x).fget g a b = s.fget g a b := (rfl)
@[simp] theorem State.fbit_setLat (s : State) (core : Nat) (x : Lattice) (g : RF) (a b : Nat) :
    (s.setLat core x).fbit g a b = s.fbit g a b := (rfl)
@[simp] theorem State.byte_setLat (s : State) (core : Nat) (x : Lattice) (x' : Nat) :
    (s.setLat core x).byte x' = s.byte x' := (rfl)
@[simp] theorem State.part_setLat (s : State) (core : Nat) (x : Lattice) (k : Nat) :
    (s.setLat core x).part k = s.part k := (rfl)
@[simp] theorem State.dom_setLat (s : State) (core : Nat) (x : Lattice) (k : Nat) :
    (s.setLat core x).dom k = s.dom k := (rfl)
@[simp] theorem State.window_setLat (s : State) (core : Nat) (x : Lattice) (k k' : Nat) :
    (s.setLat core x).window k k' = s.window k k' := (rfl)
@[simp] theorem State.stackX_setLat (s : State) (core : Nat) (x : Lattice) (k : Nat) :
    (s.setLat core x).stackX k = s.stackX k := (rfl)
@[simp] theorem State.port_setLat (s : State) (core : Nat) (x : Lattice) (k : Nat) :
    (s.setLat core x).port k = s.port k := (rfl)
@[simp] theorem State.die_setLat (s : State) (core : Nat) (x : Lattice) (k : Nat) :
    (s.setLat core x).die k = s.die k := (rfl)

-- State.putFlight
@[simp] theorem State.pending_putFlight (s : State) (fl : Flight) : (s.putFlight fl).pending = s.pending := (rfl)
@[simp] theorem State.tick_putFlight (s : State) (fl : Flight) : (s.putFlight fl).tick = s.tick := (rfl)
@[simp] theorem State.free_putFlight (s : State) (fl : Flight) : (s.putFlight fl).free = s.free := (rfl)
@[simp] theorem State.regs_putFlight (s : State) (fl : Flight) : (s.putFlight fl).regs = s.regs := (rfl)
@[simp] theorem State.mem_putFlight (s : State) (fl : Flight) : (s.putFlight fl).mem = s.mem := (rfl)
@[simp] theorem State.windows_putFlight (s : State) (fl : Flight) : (s.putFlight fl).windows = s.windows := (rfl)
@[simp] theorem State.granted_putFlight (s : State) (fl : Flight) : (s.putFlight fl).granted = s.granted := (rfl)
@[simp] theorem State.drains_putFlight (s : State) (fl : Flight) : (s.putFlight fl).drains = s.drains := (rfl)
@[simp] theorem State.parts_putFlight (s : State) (fl : Flight) : (s.putFlight fl).parts = s.parts := (rfl)
@[simp] theorem State.evt_putFlight (s : State) (fl : Flight) : (s.putFlight fl).evt = s.evt := (rfl)
@[simp] theorem State.hbm_putFlight (s : State) (fl : Flight) : (s.putFlight fl).hbm = s.hbm := (rfl)
@[simp] theorem State.ledger_putFlight (s : State) (fl : Flight) : (s.putFlight fl).ledger = s.ledger := (rfl)
@[simp] theorem State.ledgerSeq_putFlight (s : State) (fl : Flight) : (s.putFlight fl).ledgerSeq = s.ledgerSeq := (rfl)
@[simp] theorem State.powerUps_putFlight (s : State) (fl : Flight) : (s.putFlight fl).powerUps = s.powerUps := (rfl)
@[simp] theorem State.domains_putFlight (s : State) (fl : Flight) : (s.putFlight fl).domains = s.domains := (rfl)
@[simp] theorem State.tiles_putFlight (s : State) (fl : Flight) : (s.putFlight fl).tiles = s.tiles := (rfl)
@[simp] theorem State.lattices_putFlight (s : State) (fl : Flight) : (s.putFlight fl).lattices = s.lattices := (rfl)
@[simp] theorem State.taps_putFlight (s : State) (fl : Flight) : (s.putFlight fl).taps = s.taps := (rfl)
@[simp] theorem State.requests_putFlight (s : State) (fl : Flight) : (s.putFlight fl).requests = s.requests := (rfl)
@[simp] theorem State.nextReq_putFlight (s : State) (fl : Flight) : (s.putFlight fl).nextReq = s.nextReq := (rfl)
@[simp] theorem State.mgmt_putFlight (s : State) (fl : Flight) : (s.putFlight fl).mgmt = s.mgmt := (rfl)
@[simp] theorem State.seen_putFlight (s : State) (fl : Flight) : (s.putFlight fl).seen = s.seen := (rfl)
@[simp] theorem State.grove_putFlight (s : State) (fl : Flight) : (s.putFlight fl).grove = s.grove := (rfl)
@[simp] theorem State.flash_putFlight (s : State) (fl : Flight) : (s.putFlight fl).flash = s.flash := (rfl)
@[simp] theorem State.fab_putFlight (s : State) (fl : Flight) : (s.putFlight fl).fab = s.fab := (rfl)
@[simp] theorem State.pwr_putFlight (s : State) (fl : Flight) : (s.putFlight fl).pwr = s.pwr := (rfl)
@[simp] theorem State.age_putFlight (s : State) (fl : Flight) : (s.putFlight fl).age = s.age := (rfl)
@[simp] theorem State.tru_putFlight (s : State) (fl : Flight) : (s.putFlight fl).tru = s.tru := (rfl)
@[simp] theorem State.pins_putFlight (s : State) (fl : Flight) : (s.putFlight fl).pins = s.pins := (rfl)
@[simp] theorem State.out_putFlight (s : State) (fl : Flight) : (s.putFlight fl).out = s.out := (rfl)
@[simp] theorem State.reg_putFlight (s : State) (fl : Flight) (r' : RegName) (a b : Nat) :
    (s.putFlight fl).reg r' a b = s.reg r' a b := (rfl)
@[simp] theorem State.fget_putFlight (s : State) (fl : Flight) (g : RF) (a b : Nat) :
    (s.putFlight fl).fget g a b = s.fget g a b := (rfl)
@[simp] theorem State.fbit_putFlight (s : State) (fl : Flight) (g : RF) (a b : Nat) :
    (s.putFlight fl).fbit g a b = s.fbit g a b := (rfl)
@[simp] theorem State.byte_putFlight (s : State) (fl : Flight) (x' : Nat) :
    (s.putFlight fl).byte x' = s.byte x' := (rfl)
@[simp] theorem State.part_putFlight (s : State) (fl : Flight) (k : Nat) :
    (s.putFlight fl).part k = s.part k := (rfl)
@[simp] theorem State.dom_putFlight (s : State) (fl : Flight) (k : Nat) :
    (s.putFlight fl).dom k = s.dom k := (rfl)
@[simp] theorem State.window_putFlight (s : State) (fl : Flight) (k k' : Nat) :
    (s.putFlight fl).window k k' = s.window k k' := (rfl)
@[simp] theorem State.lat_putFlight (s : State) (fl : Flight) (k : Nat) :
    (s.putFlight fl).lat k = s.lat k := (rfl)
@[simp] theorem State.stackX_putFlight (s : State) (fl : Flight) (k : Nat) :
    (s.putFlight fl).stackX k = s.stackX k := (rfl)
@[simp] theorem State.port_putFlight (s : State) (fl : Flight) (k : Nat) :
    (s.putFlight fl).port k = s.port k := (rfl)
@[simp] theorem State.die_putFlight (s : State) (fl : Flight) (k : Nat) :
    (s.putFlight fl).die k = s.die k := (rfl)

-- State.setStackX
@[simp] theorem State.pending_setStackX (s : State) (st : Nat) (x : StackX) : (s.setStackX st x).pending = s.pending := (rfl)
@[simp] theorem State.tick_setStackX (s : State) (st : Nat) (x : StackX) : (s.setStackX st x).tick = s.tick := (rfl)
@[simp] theorem State.free_setStackX (s : State) (st : Nat) (x : StackX) : (s.setStackX st x).free = s.free := (rfl)
@[simp] theorem State.regs_setStackX (s : State) (st : Nat) (x : StackX) : (s.setStackX st x).regs = s.regs := (rfl)
@[simp] theorem State.mem_setStackX (s : State) (st : Nat) (x : StackX) : (s.setStackX st x).mem = s.mem := (rfl)
@[simp] theorem State.windows_setStackX (s : State) (st : Nat) (x : StackX) : (s.setStackX st x).windows = s.windows := (rfl)
@[simp] theorem State.flights_setStackX (s : State) (st : Nat) (x : StackX) : (s.setStackX st x).flights = s.flights := (rfl)
@[simp] theorem State.granted_setStackX (s : State) (st : Nat) (x : StackX) : (s.setStackX st x).granted = s.granted := (rfl)
@[simp] theorem State.drains_setStackX (s : State) (st : Nat) (x : StackX) : (s.setStackX st x).drains = s.drains := (rfl)
@[simp] theorem State.parts_setStackX (s : State) (st : Nat) (x : StackX) : (s.setStackX st x).parts = s.parts := (rfl)
@[simp] theorem State.evt_setStackX (s : State) (st : Nat) (x : StackX) : (s.setStackX st x).evt = s.evt := (rfl)
@[simp] theorem State.ledger_setStackX (s : State) (st : Nat) (x : StackX) : (s.setStackX st x).ledger = s.ledger := (rfl)
@[simp] theorem State.ledgerSeq_setStackX (s : State) (st : Nat) (x : StackX) : (s.setStackX st x).ledgerSeq = s.ledgerSeq := (rfl)
@[simp] theorem State.powerUps_setStackX (s : State) (st : Nat) (x : StackX) : (s.setStackX st x).powerUps = s.powerUps := (rfl)
@[simp] theorem State.domains_setStackX (s : State) (st : Nat) (x : StackX) : (s.setStackX st x).domains = s.domains := (rfl)
@[simp] theorem State.tiles_setStackX (s : State) (st : Nat) (x : StackX) : (s.setStackX st x).tiles = s.tiles := (rfl)
@[simp] theorem State.lattices_setStackX (s : State) (st : Nat) (x : StackX) : (s.setStackX st x).lattices = s.lattices := (rfl)
@[simp] theorem State.taps_setStackX (s : State) (st : Nat) (x : StackX) : (s.setStackX st x).taps = s.taps := (rfl)
@[simp] theorem State.requests_setStackX (s : State) (st : Nat) (x : StackX) : (s.setStackX st x).requests = s.requests := (rfl)
@[simp] theorem State.nextReq_setStackX (s : State) (st : Nat) (x : StackX) : (s.setStackX st x).nextReq = s.nextReq := (rfl)
@[simp] theorem State.mgmt_setStackX (s : State) (st : Nat) (x : StackX) : (s.setStackX st x).mgmt = s.mgmt := (rfl)
@[simp] theorem State.seen_setStackX (s : State) (st : Nat) (x : StackX) : (s.setStackX st x).seen = s.seen := (rfl)
@[simp] theorem State.grove_setStackX (s : State) (st : Nat) (x : StackX) : (s.setStackX st x).grove = s.grove := (rfl)
@[simp] theorem State.flash_setStackX (s : State) (st : Nat) (x : StackX) : (s.setStackX st x).flash = s.flash := (rfl)
@[simp] theorem State.fab_setStackX (s : State) (st : Nat) (x : StackX) : (s.setStackX st x).fab = s.fab := (rfl)
@[simp] theorem State.pwr_setStackX (s : State) (st : Nat) (x : StackX) : (s.setStackX st x).pwr = s.pwr := (rfl)
@[simp] theorem State.age_setStackX (s : State) (st : Nat) (x : StackX) : (s.setStackX st x).age = s.age := (rfl)
@[simp] theorem State.tru_setStackX (s : State) (st : Nat) (x : StackX) : (s.setStackX st x).tru = s.tru := (rfl)
@[simp] theorem State.pins_setStackX (s : State) (st : Nat) (x : StackX) : (s.setStackX st x).pins = s.pins := (rfl)
@[simp] theorem State.out_setStackX (s : State) (st : Nat) (x : StackX) : (s.setStackX st x).out = s.out := (rfl)
@[simp] theorem State.reg_setStackX (s : State) (st : Nat) (x : StackX) (r' : RegName) (a b : Nat) :
    (s.setStackX st x).reg r' a b = s.reg r' a b := (rfl)
@[simp] theorem State.fget_setStackX (s : State) (st : Nat) (x : StackX) (g : RF) (a b : Nat) :
    (s.setStackX st x).fget g a b = s.fget g a b := (rfl)
@[simp] theorem State.fbit_setStackX (s : State) (st : Nat) (x : StackX) (g : RF) (a b : Nat) :
    (s.setStackX st x).fbit g a b = s.fbit g a b := (rfl)
@[simp] theorem State.byte_setStackX (s : State) (st : Nat) (x : StackX) (x' : Nat) :
    (s.setStackX st x).byte x' = s.byte x' := (rfl)
@[simp] theorem State.part_setStackX (s : State) (st : Nat) (x : StackX) (k : Nat) :
    (s.setStackX st x).part k = s.part k := (rfl)
@[simp] theorem State.dom_setStackX (s : State) (st : Nat) (x : StackX) (k : Nat) :
    (s.setStackX st x).dom k = s.dom k := (rfl)
@[simp] theorem State.window_setStackX (s : State) (st : Nat) (x : StackX) (k k' : Nat) :
    (s.setStackX st x).window k k' = s.window k k' := (rfl)
@[simp] theorem State.lat_setStackX (s : State) (st : Nat) (x : StackX) (k : Nat) :
    (s.setStackX st x).lat k = s.lat k := (rfl)
@[simp] theorem State.port_setStackX (s : State) (st : Nat) (x : StackX) (k : Nat) :
    (s.setStackX st x).port k = s.port k := (rfl)
@[simp] theorem State.die_setStackX (s : State) (st : Nat) (x : StackX) (k : Nat) :
    (s.setStackX st x).die k = s.die k := (rfl)

-- State.setPort
@[simp] theorem State.pending_setPort (s : State) (n : Nat) (x : PortX) : (s.setPort n x).pending = s.pending := (rfl)
@[simp] theorem State.tick_setPort (s : State) (n : Nat) (x : PortX) : (s.setPort n x).tick = s.tick := (rfl)
@[simp] theorem State.free_setPort (s : State) (n : Nat) (x : PortX) : (s.setPort n x).free = s.free := (rfl)
@[simp] theorem State.regs_setPort (s : State) (n : Nat) (x : PortX) : (s.setPort n x).regs = s.regs := (rfl)
@[simp] theorem State.mem_setPort (s : State) (n : Nat) (x : PortX) : (s.setPort n x).mem = s.mem := (rfl)
@[simp] theorem State.windows_setPort (s : State) (n : Nat) (x : PortX) : (s.setPort n x).windows = s.windows := (rfl)
@[simp] theorem State.flights_setPort (s : State) (n : Nat) (x : PortX) : (s.setPort n x).flights = s.flights := (rfl)
@[simp] theorem State.granted_setPort (s : State) (n : Nat) (x : PortX) : (s.setPort n x).granted = s.granted := (rfl)
@[simp] theorem State.drains_setPort (s : State) (n : Nat) (x : PortX) : (s.setPort n x).drains = s.drains := (rfl)
@[simp] theorem State.parts_setPort (s : State) (n : Nat) (x : PortX) : (s.setPort n x).parts = s.parts := (rfl)
@[simp] theorem State.evt_setPort (s : State) (n : Nat) (x : PortX) : (s.setPort n x).evt = s.evt := (rfl)
@[simp] theorem State.hbm_setPort (s : State) (n : Nat) (x : PortX) : (s.setPort n x).hbm = s.hbm := (rfl)
@[simp] theorem State.ledger_setPort (s : State) (n : Nat) (x : PortX) : (s.setPort n x).ledger = s.ledger := (rfl)
@[simp] theorem State.ledgerSeq_setPort (s : State) (n : Nat) (x : PortX) : (s.setPort n x).ledgerSeq = s.ledgerSeq := (rfl)
@[simp] theorem State.powerUps_setPort (s : State) (n : Nat) (x : PortX) : (s.setPort n x).powerUps = s.powerUps := (rfl)
@[simp] theorem State.domains_setPort (s : State) (n : Nat) (x : PortX) : (s.setPort n x).domains = s.domains := (rfl)
@[simp] theorem State.tiles_setPort (s : State) (n : Nat) (x : PortX) : (s.setPort n x).tiles = s.tiles := (rfl)
@[simp] theorem State.lattices_setPort (s : State) (n : Nat) (x : PortX) : (s.setPort n x).lattices = s.lattices := (rfl)
@[simp] theorem State.taps_setPort (s : State) (n : Nat) (x : PortX) : (s.setPort n x).taps = s.taps := (rfl)
@[simp] theorem State.requests_setPort (s : State) (n : Nat) (x : PortX) : (s.setPort n x).requests = s.requests := (rfl)
@[simp] theorem State.nextReq_setPort (s : State) (n : Nat) (x : PortX) : (s.setPort n x).nextReq = s.nextReq := (rfl)
@[simp] theorem State.mgmt_setPort (s : State) (n : Nat) (x : PortX) : (s.setPort n x).mgmt = s.mgmt := (rfl)
@[simp] theorem State.seen_setPort (s : State) (n : Nat) (x : PortX) : (s.setPort n x).seen = s.seen := (rfl)
@[simp] theorem State.grove_setPort (s : State) (n : Nat) (x : PortX) : (s.setPort n x).grove = s.grove := (rfl)
@[simp] theorem State.flash_setPort (s : State) (n : Nat) (x : PortX) : (s.setPort n x).flash = s.flash := (rfl)
@[simp] theorem State.pwr_setPort (s : State) (n : Nat) (x : PortX) : (s.setPort n x).pwr = s.pwr := (rfl)
@[simp] theorem State.age_setPort (s : State) (n : Nat) (x : PortX) : (s.setPort n x).age = s.age := (rfl)
@[simp] theorem State.tru_setPort (s : State) (n : Nat) (x : PortX) : (s.setPort n x).tru = s.tru := (rfl)
@[simp] theorem State.pins_setPort (s : State) (n : Nat) (x : PortX) : (s.setPort n x).pins = s.pins := (rfl)
@[simp] theorem State.out_setPort (s : State) (n : Nat) (x : PortX) : (s.setPort n x).out = s.out := (rfl)
@[simp] theorem State.reg_setPort (s : State) (n : Nat) (x : PortX) (r' : RegName) (a b : Nat) :
    (s.setPort n x).reg r' a b = s.reg r' a b := (rfl)
@[simp] theorem State.fget_setPort (s : State) (n : Nat) (x : PortX) (g : RF) (a b : Nat) :
    (s.setPort n x).fget g a b = s.fget g a b := (rfl)
@[simp] theorem State.fbit_setPort (s : State) (n : Nat) (x : PortX) (g : RF) (a b : Nat) :
    (s.setPort n x).fbit g a b = s.fbit g a b := (rfl)
@[simp] theorem State.byte_setPort (s : State) (n : Nat) (x : PortX) (x' : Nat) :
    (s.setPort n x).byte x' = s.byte x' := (rfl)
@[simp] theorem State.part_setPort (s : State) (n : Nat) (x : PortX) (k : Nat) :
    (s.setPort n x).part k = s.part k := (rfl)
@[simp] theorem State.dom_setPort (s : State) (n : Nat) (x : PortX) (k : Nat) :
    (s.setPort n x).dom k = s.dom k := (rfl)
@[simp] theorem State.window_setPort (s : State) (n : Nat) (x : PortX) (k k' : Nat) :
    (s.setPort n x).window k k' = s.window k k' := (rfl)
@[simp] theorem State.lat_setPort (s : State) (n : Nat) (x : PortX) (k : Nat) :
    (s.setPort n x).lat k = s.lat k := (rfl)
@[simp] theorem State.stackX_setPort (s : State) (n : Nat) (x : PortX) (k : Nat) :
    (s.setPort n x).stackX k = s.stackX k := (rfl)
@[simp] theorem State.die_setPort (s : State) (n : Nat) (x : PortX) (k : Nat) :
    (s.setPort n x).die k = s.die k := (rfl)

-- State.setDie
@[simp] theorem State.pending_setDie (s : State) (d : Nat) (x : DieX) : (s.setDie d x).pending = s.pending := (rfl)
@[simp] theorem State.tick_setDie (s : State) (d : Nat) (x : DieX) : (s.setDie d x).tick = s.tick := (rfl)
@[simp] theorem State.free_setDie (s : State) (d : Nat) (x : DieX) : (s.setDie d x).free = s.free := (rfl)
@[simp] theorem State.regs_setDie (s : State) (d : Nat) (x : DieX) : (s.setDie d x).regs = s.regs := (rfl)
@[simp] theorem State.mem_setDie (s : State) (d : Nat) (x : DieX) : (s.setDie d x).mem = s.mem := (rfl)
@[simp] theorem State.windows_setDie (s : State) (d : Nat) (x : DieX) : (s.setDie d x).windows = s.windows := (rfl)
@[simp] theorem State.flights_setDie (s : State) (d : Nat) (x : DieX) : (s.setDie d x).flights = s.flights := (rfl)
@[simp] theorem State.granted_setDie (s : State) (d : Nat) (x : DieX) : (s.setDie d x).granted = s.granted := (rfl)
@[simp] theorem State.drains_setDie (s : State) (d : Nat) (x : DieX) : (s.setDie d x).drains = s.drains := (rfl)
@[simp] theorem State.parts_setDie (s : State) (d : Nat) (x : DieX) : (s.setDie d x).parts = s.parts := (rfl)
@[simp] theorem State.evt_setDie (s : State) (d : Nat) (x : DieX) : (s.setDie d x).evt = s.evt := (rfl)
@[simp] theorem State.hbm_setDie (s : State) (d : Nat) (x : DieX) : (s.setDie d x).hbm = s.hbm := (rfl)
@[simp] theorem State.ledger_setDie (s : State) (d : Nat) (x : DieX) : (s.setDie d x).ledger = s.ledger := (rfl)
@[simp] theorem State.ledgerSeq_setDie (s : State) (d : Nat) (x : DieX) : (s.setDie d x).ledgerSeq = s.ledgerSeq := (rfl)
@[simp] theorem State.powerUps_setDie (s : State) (d : Nat) (x : DieX) : (s.setDie d x).powerUps = s.powerUps := (rfl)
@[simp] theorem State.domains_setDie (s : State) (d : Nat) (x : DieX) : (s.setDie d x).domains = s.domains := (rfl)
@[simp] theorem State.tiles_setDie (s : State) (d : Nat) (x : DieX) : (s.setDie d x).tiles = s.tiles := (rfl)
@[simp] theorem State.lattices_setDie (s : State) (d : Nat) (x : DieX) : (s.setDie d x).lattices = s.lattices := (rfl)
@[simp] theorem State.taps_setDie (s : State) (d : Nat) (x : DieX) : (s.setDie d x).taps = s.taps := (rfl)
@[simp] theorem State.requests_setDie (s : State) (d : Nat) (x : DieX) : (s.setDie d x).requests = s.requests := (rfl)
@[simp] theorem State.nextReq_setDie (s : State) (d : Nat) (x : DieX) : (s.setDie d x).nextReq = s.nextReq := (rfl)
@[simp] theorem State.mgmt_setDie (s : State) (d : Nat) (x : DieX) : (s.setDie d x).mgmt = s.mgmt := (rfl)
@[simp] theorem State.seen_setDie (s : State) (d : Nat) (x : DieX) : (s.setDie d x).seen = s.seen := (rfl)
@[simp] theorem State.grove_setDie (s : State) (d : Nat) (x : DieX) : (s.setDie d x).grove = s.grove := (rfl)
@[simp] theorem State.flash_setDie (s : State) (d : Nat) (x : DieX) : (s.setDie d x).flash = s.flash := (rfl)
@[simp] theorem State.fab_setDie (s : State) (d : Nat) (x : DieX) : (s.setDie d x).fab = s.fab := (rfl)
@[simp] theorem State.age_setDie (s : State) (d : Nat) (x : DieX) : (s.setDie d x).age = s.age := (rfl)
@[simp] theorem State.tru_setDie (s : State) (d : Nat) (x : DieX) : (s.setDie d x).tru = s.tru := (rfl)
@[simp] theorem State.pins_setDie (s : State) (d : Nat) (x : DieX) : (s.setDie d x).pins = s.pins := (rfl)
@[simp] theorem State.out_setDie (s : State) (d : Nat) (x : DieX) : (s.setDie d x).out = s.out := (rfl)
@[simp] theorem State.reg_setDie (s : State) (d : Nat) (x : DieX) (r' : RegName) (a b : Nat) :
    (s.setDie d x).reg r' a b = s.reg r' a b := (rfl)
@[simp] theorem State.fget_setDie (s : State) (d : Nat) (x : DieX) (g : RF) (a b : Nat) :
    (s.setDie d x).fget g a b = s.fget g a b := (rfl)
@[simp] theorem State.fbit_setDie (s : State) (d : Nat) (x : DieX) (g : RF) (a b : Nat) :
    (s.setDie d x).fbit g a b = s.fbit g a b := (rfl)
@[simp] theorem State.byte_setDie (s : State) (d : Nat) (x : DieX) (x' : Nat) :
    (s.setDie d x).byte x' = s.byte x' := (rfl)
@[simp] theorem State.part_setDie (s : State) (d : Nat) (x : DieX) (k : Nat) :
    (s.setDie d x).part k = s.part k := (rfl)
@[simp] theorem State.dom_setDie (s : State) (d : Nat) (x : DieX) (k : Nat) :
    (s.setDie d x).dom k = s.dom k := (rfl)
@[simp] theorem State.window_setDie (s : State) (d : Nat) (x : DieX) (k k' : Nat) :
    (s.setDie d x).window k k' = s.window k k' := (rfl)
@[simp] theorem State.lat_setDie (s : State) (d : Nat) (x : DieX) (k : Nat) :
    (s.setDie d x).lat k = s.lat k := (rfl)
@[simp] theorem State.stackX_setDie (s : State) (d : Nat) (x : DieX) (k : Nat) :
    (s.setDie d x).stackX k = s.stackX k := (rfl)
@[simp] theorem State.port_setDie (s : State) (d : Nat) (x : DieX) (k : Nat) :
    (s.setDie d x).port k = s.port k := (rfl)

-- State.setFlash
@[simp] theorem State.pending_setFlash (s : State) (f : FlashX) : (s.setFlash f).pending = s.pending := (rfl)
@[simp] theorem State.tick_setFlash (s : State) (f : FlashX) : (s.setFlash f).tick = s.tick := (rfl)
@[simp] theorem State.free_setFlash (s : State) (f : FlashX) : (s.setFlash f).free = s.free := (rfl)
@[simp] theorem State.regs_setFlash (s : State) (f : FlashX) : (s.setFlash f).regs = s.regs := (rfl)
@[simp] theorem State.mem_setFlash (s : State) (f : FlashX) : (s.setFlash f).mem = s.mem := (rfl)
@[simp] theorem State.windows_setFlash (s : State) (f : FlashX) : (s.setFlash f).windows = s.windows := (rfl)
@[simp] theorem State.flights_setFlash (s : State) (f : FlashX) : (s.setFlash f).flights = s.flights := (rfl)
@[simp] theorem State.granted_setFlash (s : State) (f : FlashX) : (s.setFlash f).granted = s.granted := (rfl)
@[simp] theorem State.drains_setFlash (s : State) (f : FlashX) : (s.setFlash f).drains = s.drains := (rfl)
@[simp] theorem State.parts_setFlash (s : State) (f : FlashX) : (s.setFlash f).parts = s.parts := (rfl)
@[simp] theorem State.evt_setFlash (s : State) (f : FlashX) : (s.setFlash f).evt = s.evt := (rfl)
@[simp] theorem State.hbm_setFlash (s : State) (f : FlashX) : (s.setFlash f).hbm = s.hbm := (rfl)
@[simp] theorem State.ledger_setFlash (s : State) (f : FlashX) : (s.setFlash f).ledger = s.ledger := (rfl)
@[simp] theorem State.ledgerSeq_setFlash (s : State) (f : FlashX) : (s.setFlash f).ledgerSeq = s.ledgerSeq := (rfl)
@[simp] theorem State.powerUps_setFlash (s : State) (f : FlashX) : (s.setFlash f).powerUps = s.powerUps := (rfl)
@[simp] theorem State.domains_setFlash (s : State) (f : FlashX) : (s.setFlash f).domains = s.domains := (rfl)
@[simp] theorem State.tiles_setFlash (s : State) (f : FlashX) : (s.setFlash f).tiles = s.tiles := (rfl)
@[simp] theorem State.lattices_setFlash (s : State) (f : FlashX) : (s.setFlash f).lattices = s.lattices := (rfl)
@[simp] theorem State.taps_setFlash (s : State) (f : FlashX) : (s.setFlash f).taps = s.taps := (rfl)
@[simp] theorem State.requests_setFlash (s : State) (f : FlashX) : (s.setFlash f).requests = s.requests := (rfl)
@[simp] theorem State.nextReq_setFlash (s : State) (f : FlashX) : (s.setFlash f).nextReq = s.nextReq := (rfl)
@[simp] theorem State.mgmt_setFlash (s : State) (f : FlashX) : (s.setFlash f).mgmt = s.mgmt := (rfl)
@[simp] theorem State.seen_setFlash (s : State) (f : FlashX) : (s.setFlash f).seen = s.seen := (rfl)
@[simp] theorem State.grove_setFlash (s : State) (f : FlashX) : (s.setFlash f).grove = s.grove := (rfl)
@[simp] theorem State.fab_setFlash (s : State) (f : FlashX) : (s.setFlash f).fab = s.fab := (rfl)
@[simp] theorem State.pwr_setFlash (s : State) (f : FlashX) : (s.setFlash f).pwr = s.pwr := (rfl)
@[simp] theorem State.age_setFlash (s : State) (f : FlashX) : (s.setFlash f).age = s.age := (rfl)
@[simp] theorem State.tru_setFlash (s : State) (f : FlashX) : (s.setFlash f).tru = s.tru := (rfl)
@[simp] theorem State.pins_setFlash (s : State) (f : FlashX) : (s.setFlash f).pins = s.pins := (rfl)
@[simp] theorem State.out_setFlash (s : State) (f : FlashX) : (s.setFlash f).out = s.out := (rfl)
@[simp] theorem State.reg_setFlash (s : State) (f : FlashX) (r' : RegName) (a b : Nat) :
    (s.setFlash f).reg r' a b = s.reg r' a b := (rfl)
@[simp] theorem State.fget_setFlash (s : State) (f : FlashX) (g : RF) (a b : Nat) :
    (s.setFlash f).fget g a b = s.fget g a b := (rfl)
@[simp] theorem State.fbit_setFlash (s : State) (f : FlashX) (g : RF) (a b : Nat) :
    (s.setFlash f).fbit g a b = s.fbit g a b := (rfl)
@[simp] theorem State.byte_setFlash (s : State) (f : FlashX) (x' : Nat) :
    (s.setFlash f).byte x' = s.byte x' := (rfl)
@[simp] theorem State.part_setFlash (s : State) (f : FlashX) (k : Nat) :
    (s.setFlash f).part k = s.part k := (rfl)
@[simp] theorem State.dom_setFlash (s : State) (f : FlashX) (k : Nat) :
    (s.setFlash f).dom k = s.dom k := (rfl)
@[simp] theorem State.window_setFlash (s : State) (f : FlashX) (k k' : Nat) :
    (s.setFlash f).window k k' = s.window k k' := (rfl)
@[simp] theorem State.lat_setFlash (s : State) (f : FlashX) (k : Nat) :
    (s.setFlash f).lat k = s.lat k := (rfl)
@[simp] theorem State.stackX_setFlash (s : State) (f : FlashX) (k : Nat) :
    (s.setFlash f).stackX k = s.stackX k := (rfl)
@[simp] theorem State.port_setFlash (s : State) (f : FlashX) (k : Nat) :
    (s.setFlash f).port k = s.port k := (rfl)
@[simp] theorem State.die_setFlash (s : State) (f : FlashX) (k : Nat) :
    (s.setFlash f).die k = s.die k := (rfl)

-- State.send
@[simp] theorem State.pending_send (s : State) (m : Msg) : (s.send m).pending = s.pending := (rfl)
@[simp] theorem State.tick_send (s : State) (m : Msg) : (s.send m).tick = s.tick := (rfl)
@[simp] theorem State.free_send (s : State) (m : Msg) : (s.send m).free = s.free := (rfl)
@[simp] theorem State.regs_send (s : State) (m : Msg) : (s.send m).regs = s.regs := (rfl)
@[simp] theorem State.mem_send (s : State) (m : Msg) : (s.send m).mem = s.mem := (rfl)
@[simp] theorem State.windows_send (s : State) (m : Msg) : (s.send m).windows = s.windows := (rfl)
@[simp] theorem State.flights_send (s : State) (m : Msg) : (s.send m).flights = s.flights := (rfl)
@[simp] theorem State.granted_send (s : State) (m : Msg) : (s.send m).granted = s.granted := (rfl)
@[simp] theorem State.drains_send (s : State) (m : Msg) : (s.send m).drains = s.drains := (rfl)
@[simp] theorem State.parts_send (s : State) (m : Msg) : (s.send m).parts = s.parts := (rfl)
@[simp] theorem State.evt_send (s : State) (m : Msg) : (s.send m).evt = s.evt := (rfl)
@[simp] theorem State.hbm_send (s : State) (m : Msg) : (s.send m).hbm = s.hbm := (rfl)
@[simp] theorem State.ledger_send (s : State) (m : Msg) : (s.send m).ledger = s.ledger := (rfl)
@[simp] theorem State.ledgerSeq_send (s : State) (m : Msg) : (s.send m).ledgerSeq = s.ledgerSeq := (rfl)
@[simp] theorem State.powerUps_send (s : State) (m : Msg) : (s.send m).powerUps = s.powerUps := (rfl)
@[simp] theorem State.domains_send (s : State) (m : Msg) : (s.send m).domains = s.domains := (rfl)
@[simp] theorem State.tiles_send (s : State) (m : Msg) : (s.send m).tiles = s.tiles := (rfl)
@[simp] theorem State.lattices_send (s : State) (m : Msg) : (s.send m).lattices = s.lattices := (rfl)
@[simp] theorem State.taps_send (s : State) (m : Msg) : (s.send m).taps = s.taps := (rfl)
@[simp] theorem State.requests_send (s : State) (m : Msg) : (s.send m).requests = s.requests := (rfl)
@[simp] theorem State.nextReq_send (s : State) (m : Msg) : (s.send m).nextReq = s.nextReq := (rfl)
@[simp] theorem State.mgmt_send (s : State) (m : Msg) : (s.send m).mgmt = s.mgmt := (rfl)
@[simp] theorem State.seen_send (s : State) (m : Msg) : (s.send m).seen = s.seen := (rfl)
@[simp] theorem State.grove_send (s : State) (m : Msg) : (s.send m).grove = s.grove := (rfl)
@[simp] theorem State.flash_send (s : State) (m : Msg) : (s.send m).flash = s.flash := (rfl)
@[simp] theorem State.fab_send (s : State) (m : Msg) : (s.send m).fab = s.fab := (rfl)
@[simp] theorem State.pwr_send (s : State) (m : Msg) : (s.send m).pwr = s.pwr := (rfl)
@[simp] theorem State.age_send (s : State) (m : Msg) : (s.send m).age = s.age := (rfl)
@[simp] theorem State.tru_send (s : State) (m : Msg) : (s.send m).tru = s.tru := (rfl)
@[simp] theorem State.pins_send (s : State) (m : Msg) : (s.send m).pins = s.pins := (rfl)
@[simp] theorem State.reg_send (s : State) (m : Msg) (r' : RegName) (a b : Nat) :
    (s.send m).reg r' a b = s.reg r' a b := (rfl)
@[simp] theorem State.fget_send (s : State) (m : Msg) (g : RF) (a b : Nat) :
    (s.send m).fget g a b = s.fget g a b := (rfl)
@[simp] theorem State.fbit_send (s : State) (m : Msg) (g : RF) (a b : Nat) :
    (s.send m).fbit g a b = s.fbit g a b := (rfl)
@[simp] theorem State.byte_send (s : State) (m : Msg) (x' : Nat) :
    (s.send m).byte x' = s.byte x' := (rfl)
@[simp] theorem State.part_send (s : State) (m : Msg) (k : Nat) :
    (s.send m).part k = s.part k := (rfl)
@[simp] theorem State.dom_send (s : State) (m : Msg) (k : Nat) :
    (s.send m).dom k = s.dom k := (rfl)
@[simp] theorem State.window_send (s : State) (m : Msg) (k k' : Nat) :
    (s.send m).window k k' = s.window k k' := (rfl)
@[simp] theorem State.lat_send (s : State) (m : Msg) (k : Nat) :
    (s.send m).lat k = s.lat k := (rfl)
@[simp] theorem State.stackX_send (s : State) (m : Msg) (k : Nat) :
    (s.send m).stackX k = s.stackX k := (rfl)
@[simp] theorem State.port_send (s : State) (m : Msg) (k : Nat) :
    (s.send m).port k = s.port k := (rfl)
@[simp] theorem State.die_send (s : State) (m : Msg) (k : Nat) :
    (s.send m).die k = s.die k := (rfl)

-- State.setPeer
@[simp] theorem State.pending_setPeer (s : State) (x : Peer) : (s.setPeer x).pending = s.pending := (rfl)
@[simp] theorem State.tick_setPeer (s : State) (x : Peer) : (s.setPeer x).tick = s.tick := (rfl)
@[simp] theorem State.free_setPeer (s : State) (x : Peer) : (s.setPeer x).free = s.free := (rfl)
@[simp] theorem State.regs_setPeer (s : State) (x : Peer) : (s.setPeer x).regs = s.regs := (rfl)
@[simp] theorem State.mem_setPeer (s : State) (x : Peer) : (s.setPeer x).mem = s.mem := (rfl)
@[simp] theorem State.windows_setPeer (s : State) (x : Peer) : (s.setPeer x).windows = s.windows := (rfl)
@[simp] theorem State.flights_setPeer (s : State) (x : Peer) : (s.setPeer x).flights = s.flights := (rfl)
@[simp] theorem State.granted_setPeer (s : State) (x : Peer) : (s.setPeer x).granted = s.granted := (rfl)
@[simp] theorem State.drains_setPeer (s : State) (x : Peer) : (s.setPeer x).drains = s.drains := (rfl)
@[simp] theorem State.parts_setPeer (s : State) (x : Peer) : (s.setPeer x).parts = s.parts := (rfl)
@[simp] theorem State.evt_setPeer (s : State) (x : Peer) : (s.setPeer x).evt = s.evt := (rfl)
@[simp] theorem State.hbm_setPeer (s : State) (x : Peer) : (s.setPeer x).hbm = s.hbm := (rfl)
@[simp] theorem State.ledger_setPeer (s : State) (x : Peer) : (s.setPeer x).ledger = s.ledger := (rfl)
@[simp] theorem State.ledgerSeq_setPeer (s : State) (x : Peer) : (s.setPeer x).ledgerSeq = s.ledgerSeq := (rfl)
@[simp] theorem State.powerUps_setPeer (s : State) (x : Peer) : (s.setPeer x).powerUps = s.powerUps := (rfl)
@[simp] theorem State.domains_setPeer (s : State) (x : Peer) : (s.setPeer x).domains = s.domains := (rfl)
@[simp] theorem State.tiles_setPeer (s : State) (x : Peer) : (s.setPeer x).tiles = s.tiles := (rfl)
@[simp] theorem State.lattices_setPeer (s : State) (x : Peer) : (s.setPeer x).lattices = s.lattices := (rfl)
@[simp] theorem State.taps_setPeer (s : State) (x : Peer) : (s.setPeer x).taps = s.taps := (rfl)
@[simp] theorem State.requests_setPeer (s : State) (x : Peer) : (s.setPeer x).requests = s.requests := (rfl)
@[simp] theorem State.nextReq_setPeer (s : State) (x : Peer) : (s.setPeer x).nextReq = s.nextReq := (rfl)
@[simp] theorem State.mgmt_setPeer (s : State) (x : Peer) : (s.setPeer x).mgmt = s.mgmt := (rfl)
@[simp] theorem State.seen_setPeer (s : State) (x : Peer) : (s.setPeer x).seen = s.seen := (rfl)
@[simp] theorem State.flash_setPeer (s : State) (x : Peer) : (s.setPeer x).flash = s.flash := (rfl)
@[simp] theorem State.fab_setPeer (s : State) (x : Peer) : (s.setPeer x).fab = s.fab := (rfl)
@[simp] theorem State.pwr_setPeer (s : State) (x : Peer) : (s.setPeer x).pwr = s.pwr := (rfl)
@[simp] theorem State.age_setPeer (s : State) (x : Peer) : (s.setPeer x).age = s.age := (rfl)
@[simp] theorem State.tru_setPeer (s : State) (x : Peer) : (s.setPeer x).tru = s.tru := (rfl)
@[simp] theorem State.pins_setPeer (s : State) (x : Peer) : (s.setPeer x).pins = s.pins := (rfl)
@[simp] theorem State.out_setPeer (s : State) (x : Peer) : (s.setPeer x).out = s.out := (rfl)
@[simp] theorem State.reg_setPeer (s : State) (x : Peer) (r' : RegName) (a b : Nat) :
    (s.setPeer x).reg r' a b = s.reg r' a b := (rfl)
@[simp] theorem State.fget_setPeer (s : State) (x : Peer) (g : RF) (a b : Nat) :
    (s.setPeer x).fget g a b = s.fget g a b := (rfl)
@[simp] theorem State.fbit_setPeer (s : State) (x : Peer) (g : RF) (a b : Nat) :
    (s.setPeer x).fbit g a b = s.fbit g a b := (rfl)
@[simp] theorem State.byte_setPeer (s : State) (x : Peer) (x' : Nat) :
    (s.setPeer x).byte x' = s.byte x' := (rfl)
@[simp] theorem State.part_setPeer (s : State) (x : Peer) (k : Nat) :
    (s.setPeer x).part k = s.part k := (rfl)
@[simp] theorem State.dom_setPeer (s : State) (x : Peer) (k : Nat) :
    (s.setPeer x).dom k = s.dom k := (rfl)
@[simp] theorem State.window_setPeer (s : State) (x : Peer) (k k' : Nat) :
    (s.setPeer x).window k k' = s.window k k' := (rfl)
@[simp] theorem State.lat_setPeer (s : State) (x : Peer) (k : Nat) :
    (s.setPeer x).lat k = s.lat k := (rfl)
@[simp] theorem State.stackX_setPeer (s : State) (x : Peer) (k : Nat) :
    (s.setPeer x).stackX k = s.stackX k := (rfl)
@[simp] theorem State.port_setPeer (s : State) (x : Peer) (k : Nat) :
    (s.setPeer x).port k = s.port k := (rfl)
@[simp] theorem State.die_setPeer (s : State) (x : Peer) (k : Nat) :
    (s.setPeer x).die k = s.die k := (rfl)

-- State.setJob
@[simp] theorem State.pending_setJob (s : State) (j : MgrJob) : (s.setJob j).pending = s.pending := (rfl)
@[simp] theorem State.tick_setJob (s : State) (j : MgrJob) : (s.setJob j).tick = s.tick := (rfl)
@[simp] theorem State.free_setJob (s : State) (j : MgrJob) : (s.setJob j).free = s.free := (rfl)
@[simp] theorem State.regs_setJob (s : State) (j : MgrJob) : (s.setJob j).regs = s.regs := (rfl)
@[simp] theorem State.mem_setJob (s : State) (j : MgrJob) : (s.setJob j).mem = s.mem := (rfl)
@[simp] theorem State.windows_setJob (s : State) (j : MgrJob) : (s.setJob j).windows = s.windows := (rfl)
@[simp] theorem State.flights_setJob (s : State) (j : MgrJob) : (s.setJob j).flights = s.flights := (rfl)
@[simp] theorem State.granted_setJob (s : State) (j : MgrJob) : (s.setJob j).granted = s.granted := (rfl)
@[simp] theorem State.drains_setJob (s : State) (j : MgrJob) : (s.setJob j).drains = s.drains := (rfl)
@[simp] theorem State.parts_setJob (s : State) (j : MgrJob) : (s.setJob j).parts = s.parts := (rfl)
@[simp] theorem State.evt_setJob (s : State) (j : MgrJob) : (s.setJob j).evt = s.evt := (rfl)
@[simp] theorem State.hbm_setJob (s : State) (j : MgrJob) : (s.setJob j).hbm = s.hbm := (rfl)
@[simp] theorem State.ledger_setJob (s : State) (j : MgrJob) : (s.setJob j).ledger = s.ledger := (rfl)
@[simp] theorem State.ledgerSeq_setJob (s : State) (j : MgrJob) : (s.setJob j).ledgerSeq = s.ledgerSeq := (rfl)
@[simp] theorem State.powerUps_setJob (s : State) (j : MgrJob) : (s.setJob j).powerUps = s.powerUps := (rfl)
@[simp] theorem State.domains_setJob (s : State) (j : MgrJob) : (s.setJob j).domains = s.domains := (rfl)
@[simp] theorem State.tiles_setJob (s : State) (j : MgrJob) : (s.setJob j).tiles = s.tiles := (rfl)
@[simp] theorem State.lattices_setJob (s : State) (j : MgrJob) : (s.setJob j).lattices = s.lattices := (rfl)
@[simp] theorem State.taps_setJob (s : State) (j : MgrJob) : (s.setJob j).taps = s.taps := (rfl)
@[simp] theorem State.requests_setJob (s : State) (j : MgrJob) : (s.setJob j).requests = s.requests := (rfl)
@[simp] theorem State.nextReq_setJob (s : State) (j : MgrJob) : (s.setJob j).nextReq = s.nextReq := (rfl)
@[simp] theorem State.mgmt_setJob (s : State) (j : MgrJob) : (s.setJob j).mgmt = s.mgmt := (rfl)
@[simp] theorem State.seen_setJob (s : State) (j : MgrJob) : (s.setJob j).seen = s.seen := (rfl)
@[simp] theorem State.flash_setJob (s : State) (j : MgrJob) : (s.setJob j).flash = s.flash := (rfl)
@[simp] theorem State.fab_setJob (s : State) (j : MgrJob) : (s.setJob j).fab = s.fab := (rfl)
@[simp] theorem State.pwr_setJob (s : State) (j : MgrJob) : (s.setJob j).pwr = s.pwr := (rfl)
@[simp] theorem State.age_setJob (s : State) (j : MgrJob) : (s.setJob j).age = s.age := (rfl)
@[simp] theorem State.tru_setJob (s : State) (j : MgrJob) : (s.setJob j).tru = s.tru := (rfl)
@[simp] theorem State.pins_setJob (s : State) (j : MgrJob) : (s.setJob j).pins = s.pins := (rfl)
@[simp] theorem State.out_setJob (s : State) (j : MgrJob) : (s.setJob j).out = s.out := (rfl)
@[simp] theorem State.reg_setJob (s : State) (j : MgrJob) (r' : RegName) (a b : Nat) :
    (s.setJob j).reg r' a b = s.reg r' a b := (rfl)
@[simp] theorem State.fget_setJob (s : State) (j : MgrJob) (g : RF) (a b : Nat) :
    (s.setJob j).fget g a b = s.fget g a b := (rfl)
@[simp] theorem State.fbit_setJob (s : State) (j : MgrJob) (g : RF) (a b : Nat) :
    (s.setJob j).fbit g a b = s.fbit g a b := (rfl)
@[simp] theorem State.byte_setJob (s : State) (j : MgrJob) (x' : Nat) :
    (s.setJob j).byte x' = s.byte x' := (rfl)
@[simp] theorem State.part_setJob (s : State) (j : MgrJob) (k : Nat) :
    (s.setJob j).part k = s.part k := (rfl)
@[simp] theorem State.dom_setJob (s : State) (j : MgrJob) (k : Nat) :
    (s.setJob j).dom k = s.dom k := (rfl)
@[simp] theorem State.window_setJob (s : State) (j : MgrJob) (k k' : Nat) :
    (s.setJob j).window k k' = s.window k k' := (rfl)
@[simp] theorem State.lat_setJob (s : State) (j : MgrJob) (k : Nat) :
    (s.setJob j).lat k = s.lat k := (rfl)
@[simp] theorem State.stackX_setJob (s : State) (j : MgrJob) (k : Nat) :
    (s.setJob j).stackX k = s.stackX k := (rfl)
@[simp] theorem State.port_setJob (s : State) (j : MgrJob) (k : Nat) :
    (s.setJob j).port k = s.port k := (rfl)
@[simp] theorem State.die_setJob (s : State) (j : MgrJob) (k : Nat) :
    (s.setJob j).die k = s.die k := (rfl)

@[simp] theorem State.part_setPart_same (s : State) (p : Nat) (x : Part) : (s.setPart p x).part p = x :=
  smGet_smSet_same _ _ _ _
theorem State.part_setPart_ne (s : State) {p q : Nat} (x : Part) (h : q ≠ p) : (s.setPart p x).part q = s.part q :=
  smGet_smSet_ne _ _ _ h
@[simp] theorem State.dom_setDom_same (s : State) (d : Nat) (x : DomX) : (s.setDom d x).dom d = x :=
  smGet_smSet_same _ _ _ _
theorem State.dom_setDom_ne (s : State) {d e : Nat} (x : DomX) (h : e ≠ d) : (s.setDom d x).dom e = s.dom e :=
  smGet_smSet_ne _ _ _ h
@[simp] theorem State.byte_setByte_same (s : State) (a : Nat) (b : Byte) : (s.setByte a b).byte a = b :=
  smGet_smSet_same _ _ _ _
theorem State.byte_setByte_ne (s : State) {a c : Nat} (b : Byte) (h : c ≠ a) : (s.setByte a b).byte c = s.byte c :=
  smGet_smSet_ne _ _ _ h
@[simp] theorem State.lat_setLat_same (s : State) (k : Nat) (x : Lattice) : (s.setLat k x).lat k = x :=
  smGet_smSet_same _ _ _ _
@[simp] theorem State.port_setPort_same (s : State) (n : Nat) (x : PortX) : (s.setPort n x).port n = x :=
  smGet_smSet_same _ _ _ _
theorem State.port_setPort_ne (s : State) {n m : Nat} (x : PortX) (h : m ≠ n) : (s.setPort n x).port m = s.port m :=
  smGet_smSet_ne _ _ _ h
@[simp] theorem State.die_setDie_same (s : State) (d : Nat) (x : DieX) : (s.setDie d x).die d = x :=
  smGet_smSet_same _ _ _ _
theorem State.die_setDie_ne (s : State) {d e : Nat} (x : DieX) (h : e ≠ d) : (s.setDie d x).die e = s.die e :=
  smGet_smSet_ne _ _ _ h
@[simp] theorem State.stackX_setStackX_same (s : State) (st : Nat) (x : StackX) : (s.setStackX st x).stackX st = x :=
  smGet_smSet_same _ _ _ _
theorem State.stackX_setStackX_ne (s : State) {st k : Nat} (x : StackX) (h : k ≠ st) :
    (s.setStackX st x).stackX k = s.stackX k := smGet_smSet_ne _ _ _ h

end Sys2Proof.Machine
end

