-- ==== Sys2Proof/Laws/With.lean ====
section
/-! SUPPORT. What replacing one component of State leaves unchanged, as in Laws/State.lean. -/
namespace Sys2Proof.Machine

-- State.withTick
@[simp] theorem State.pending_withTick (s : State) (v : Nat) : (s.withTick v).pending = s.pending := (rfl)
@[simp] theorem State.free_withTick (s : State) (v : Nat) : (s.withTick v).free = s.free := (rfl)
@[simp] theorem State.regs_withTick (s : State) (v : Nat) : (s.withTick v).regs = s.regs := (rfl)
@[simp] theorem State.mem_withTick (s : State) (v : Nat) : (s.withTick v).mem = s.mem := (rfl)
@[simp] theorem State.windows_withTick (s : State) (v : Nat) : (s.withTick v).windows = s.windows := (rfl)
@[simp] theorem State.flights_withTick (s : State) (v : Nat) : (s.withTick v).flights = s.flights := (rfl)
@[simp] theorem State.granted_withTick (s : State) (v : Nat) : (s.withTick v).granted = s.granted := (rfl)
@[simp] theorem State.drains_withTick (s : State) (v : Nat) : (s.withTick v).drains = s.drains := (rfl)
@[simp] theorem State.parts_withTick (s : State) (v : Nat) : (s.withTick v).parts = s.parts := (rfl)
@[simp] theorem State.evt_withTick (s : State) (v : Nat) : (s.withTick v).evt = s.evt := (rfl)
@[simp] theorem State.hbm_withTick (s : State) (v : Nat) : (s.withTick v).hbm = s.hbm := (rfl)
@[simp] theorem State.ledger_withTick (s : State) (v : Nat) : (s.withTick v).ledger = s.ledger := (rfl)
@[simp] theorem State.ledgerSeq_withTick (s : State) (v : Nat) : (s.withTick v).ledgerSeq = s.ledgerSeq := (rfl)
@[simp] theorem State.powerUps_withTick (s : State) (v : Nat) : (s.withTick v).powerUps = s.powerUps := (rfl)
@[simp] theorem State.domains_withTick (s : State) (v : Nat) : (s.withTick v).domains = s.domains := (rfl)
@[simp] theorem State.tiles_withTick (s : State) (v : Nat) : (s.withTick v).tiles = s.tiles := (rfl)
@[simp] theorem State.lattices_withTick (s : State) (v : Nat) : (s.withTick v).lattices = s.lattices := (rfl)
@[simp] theorem State.taps_withTick (s : State) (v : Nat) : (s.withTick v).taps = s.taps := (rfl)
@[simp] theorem State.requests_withTick (s : State) (v : Nat) : (s.withTick v).requests = s.requests := (rfl)
@[simp] theorem State.nextReq_withTick (s : State) (v : Nat) : (s.withTick v).nextReq = s.nextReq := (rfl)
@[simp] theorem State.mgmt_withTick (s : State) (v : Nat) : (s.withTick v).mgmt = s.mgmt := (rfl)
@[simp] theorem State.seen_withTick (s : State) (v : Nat) : (s.withTick v).seen = s.seen := (rfl)
@[simp] theorem State.grove_withTick (s : State) (v : Nat) : (s.withTick v).grove = s.grove := (rfl)
@[simp] theorem State.flash_withTick (s : State) (v : Nat) : (s.withTick v).flash = s.flash := (rfl)
@[simp] theorem State.fab_withTick (s : State) (v : Nat) : (s.withTick v).fab = s.fab := (rfl)
@[simp] theorem State.pwr_withTick (s : State) (v : Nat) : (s.withTick v).pwr = s.pwr := (rfl)
@[simp] theorem State.age_withTick (s : State) (v : Nat) : (s.withTick v).age = s.age := (rfl)
@[simp] theorem State.tru_withTick (s : State) (v : Nat) : (s.withTick v).tru = s.tru := (rfl)
@[simp] theorem State.pins_withTick (s : State) (v : Nat) : (s.withTick v).pins = s.pins := (rfl)
@[simp] theorem State.out_withTick (s : State) (v : Nat) : (s.withTick v).out = s.out := (rfl)
@[simp] theorem State.reg_withTick (s : State) (v : Nat) (r' : RegName) (a b : Nat) :
    (s.withTick v).reg r' a b = s.reg r' a b := (rfl)
@[simp] theorem State.fget_withTick (s : State) (v : Nat) (g : RF) (a b : Nat) :
    (s.withTick v).fget g a b = s.fget g a b := (rfl)
@[simp] theorem State.fbit_withTick (s : State) (v : Nat) (g : RF) (a b : Nat) :
    (s.withTick v).fbit g a b = s.fbit g a b := (rfl)
@[simp] theorem State.byte_withTick (s : State) (v : Nat) (x' : Nat) :
    (s.withTick v).byte x' = s.byte x' := (rfl)
@[simp] theorem State.part_withTick (s : State) (v : Nat) (k : Nat) :
    (s.withTick v).part k = s.part k := (rfl)
@[simp] theorem State.dom_withTick (s : State) (v : Nat) (k : Nat) :
    (s.withTick v).dom k = s.dom k := (rfl)
@[simp] theorem State.window_withTick (s : State) (v : Nat) (k k' : Nat) :
    (s.withTick v).window k k' = s.window k k' := (rfl)
@[simp] theorem State.lat_withTick (s : State) (v : Nat) (k : Nat) :
    (s.withTick v).lat k = s.lat k := (rfl)
@[simp] theorem State.stackX_withTick (s : State) (v : Nat) (k : Nat) :
    (s.withTick v).stackX k = s.stackX k := (rfl)
@[simp] theorem State.port_withTick (s : State) (v : Nat) (k : Nat) :
    (s.withTick v).port k = s.port k := (rfl)
@[simp] theorem State.die_withTick (s : State) (v : Nat) (k : Nat) :
    (s.withTick v).die k = s.die k := (rfl)

-- State.withFree
@[simp] theorem State.pending_withFree (s : State) (v : Nat) : (s.withFree v).pending = s.pending := (rfl)
@[simp] theorem State.tick_withFree (s : State) (v : Nat) : (s.withFree v).tick = s.tick := (rfl)
@[simp] theorem State.regs_withFree (s : State) (v : Nat) : (s.withFree v).regs = s.regs := (rfl)
@[simp] theorem State.mem_withFree (s : State) (v : Nat) : (s.withFree v).mem = s.mem := (rfl)
@[simp] theorem State.windows_withFree (s : State) (v : Nat) : (s.withFree v).windows = s.windows := (rfl)
@[simp] theorem State.flights_withFree (s : State) (v : Nat) : (s.withFree v).flights = s.flights := (rfl)
@[simp] theorem State.granted_withFree (s : State) (v : Nat) : (s.withFree v).granted = s.granted := (rfl)
@[simp] theorem State.drains_withFree (s : State) (v : Nat) : (s.withFree v).drains = s.drains := (rfl)
@[simp] theorem State.parts_withFree (s : State) (v : Nat) : (s.withFree v).parts = s.parts := (rfl)
@[simp] theorem State.evt_withFree (s : State) (v : Nat) : (s.withFree v).evt = s.evt := (rfl)
@[simp] theorem State.hbm_withFree (s : State) (v : Nat) : (s.withFree v).hbm = s.hbm := (rfl)
@[simp] theorem State.ledger_withFree (s : State) (v : Nat) : (s.withFree v).ledger = s.ledger := (rfl)
@[simp] theorem State.ledgerSeq_withFree (s : State) (v : Nat) : (s.withFree v).ledgerSeq = s.ledgerSeq := (rfl)
@[simp] theorem State.powerUps_withFree (s : State) (v : Nat) : (s.withFree v).powerUps = s.powerUps := (rfl)
@[simp] theorem State.domains_withFree (s : State) (v : Nat) : (s.withFree v).domains = s.domains := (rfl)
@[simp] theorem State.tiles_withFree (s : State) (v : Nat) : (s.withFree v).tiles = s.tiles := (rfl)
@[simp] theorem State.lattices_withFree (s : State) (v : Nat) : (s.withFree v).lattices = s.lattices := (rfl)
@[simp] theorem State.taps_withFree (s : State) (v : Nat) : (s.withFree v).taps = s.taps := (rfl)
@[simp] theorem State.requests_withFree (s : State) (v : Nat) : (s.withFree v).requests = s.requests := (rfl)
@[simp] theorem State.nextReq_withFree (s : State) (v : Nat) : (s.withFree v).nextReq = s.nextReq := (rfl)
@[simp] theorem State.mgmt_withFree (s : State) (v : Nat) : (s.withFree v).mgmt = s.mgmt := (rfl)
@[simp] theorem State.seen_withFree (s : State) (v : Nat) : (s.withFree v).seen = s.seen := (rfl)
@[simp] theorem State.grove_withFree (s : State) (v : Nat) : (s.withFree v).grove = s.grove := (rfl)
@[simp] theorem State.flash_withFree (s : State) (v : Nat) : (s.withFree v).flash = s.flash := (rfl)
@[simp] theorem State.fab_withFree (s : State) (v : Nat) : (s.withFree v).fab = s.fab := (rfl)
@[simp] theorem State.pwr_withFree (s : State) (v : Nat) : (s.withFree v).pwr = s.pwr := (rfl)
@[simp] theorem State.age_withFree (s : State) (v : Nat) : (s.withFree v).age = s.age := (rfl)
@[simp] theorem State.tru_withFree (s : State) (v : Nat) : (s.withFree v).tru = s.tru := (rfl)
@[simp] theorem State.pins_withFree (s : State) (v : Nat) : (s.withFree v).pins = s.pins := (rfl)
@[simp] theorem State.out_withFree (s : State) (v : Nat) : (s.withFree v).out = s.out := (rfl)
@[simp] theorem State.reg_withFree (s : State) (v : Nat) (r' : RegName) (a b : Nat) :
    (s.withFree v).reg r' a b = s.reg r' a b := (rfl)
@[simp] theorem State.fget_withFree (s : State) (v : Nat) (g : RF) (a b : Nat) :
    (s.withFree v).fget g a b = s.fget g a b := (rfl)
@[simp] theorem State.fbit_withFree (s : State) (v : Nat) (g : RF) (a b : Nat) :
    (s.withFree v).fbit g a b = s.fbit g a b := (rfl)
@[simp] theorem State.byte_withFree (s : State) (v : Nat) (x' : Nat) :
    (s.withFree v).byte x' = s.byte x' := (rfl)
@[simp] theorem State.part_withFree (s : State) (v : Nat) (k : Nat) :
    (s.withFree v).part k = s.part k := (rfl)
@[simp] theorem State.dom_withFree (s : State) (v : Nat) (k : Nat) :
    (s.withFree v).dom k = s.dom k := (rfl)
@[simp] theorem State.window_withFree (s : State) (v : Nat) (k k' : Nat) :
    (s.withFree v).window k k' = s.window k k' := (rfl)
@[simp] theorem State.lat_withFree (s : State) (v : Nat) (k : Nat) :
    (s.withFree v).lat k = s.lat k := (rfl)
@[simp] theorem State.stackX_withFree (s : State) (v : Nat) (k : Nat) :
    (s.withFree v).stackX k = s.stackX k := (rfl)
@[simp] theorem State.port_withFree (s : State) (v : Nat) (k : Nat) :
    (s.withFree v).port k = s.port k := (rfl)
@[simp] theorem State.die_withFree (s : State) (v : Nat) (k : Nat) :
    (s.withFree v).die k = s.die k := (rfl)

-- State.withRegs
@[simp] theorem State.pending_withRegs (s : State) (v : AMap RegKey Word) : (s.withRegs v).pending = s.pending := (rfl)
@[simp] theorem State.tick_withRegs (s : State) (v : AMap RegKey Word) : (s.withRegs v).tick = s.tick := (rfl)
@[simp] theorem State.free_withRegs (s : State) (v : AMap RegKey Word) : (s.withRegs v).free = s.free := (rfl)
@[simp] theorem State.mem_withRegs (s : State) (v : AMap RegKey Word) : (s.withRegs v).mem = s.mem := (rfl)
@[simp] theorem State.windows_withRegs (s : State) (v : AMap RegKey Word) : (s.withRegs v).windows = s.windows := (rfl)
@[simp] theorem State.flights_withRegs (s : State) (v : AMap RegKey Word) : (s.withRegs v).flights = s.flights := (rfl)
@[simp] theorem State.granted_withRegs (s : State) (v : AMap RegKey Word) : (s.withRegs v).granted = s.granted := (rfl)
@[simp] theorem State.drains_withRegs (s : State) (v : AMap RegKey Word) : (s.withRegs v).drains = s.drains := (rfl)
@[simp] theorem State.parts_withRegs (s : State) (v : AMap RegKey Word) : (s.withRegs v).parts = s.parts := (rfl)
@[simp] theorem State.evt_withRegs (s : State) (v : AMap RegKey Word) : (s.withRegs v).evt = s.evt := (rfl)
@[simp] theorem State.hbm_withRegs (s : State) (v : AMap RegKey Word) : (s.withRegs v).hbm = s.hbm := (rfl)
@[simp] theorem State.ledger_withRegs (s : State) (v : AMap RegKey Word) : (s.withRegs v).ledger = s.ledger := (rfl)
@[simp] theorem State.ledgerSeq_withRegs (s : State) (v : AMap RegKey Word) : (s.withRegs v).ledgerSeq = s.ledgerSeq := (rfl)
@[simp] theorem State.powerUps_withRegs (s : State) (v : AMap RegKey Word) : (s.withRegs v).powerUps = s.powerUps := (rfl)
@[simp] theorem State.domains_withRegs (s : State) (v : AMap RegKey Word) : (s.withRegs v).domains = s.domains := (rfl)
@[simp] theorem State.tiles_withRegs (s : State) (v : AMap RegKey Word) : (s.withRegs v).tiles = s.tiles := (rfl)
@[simp] theorem State.lattices_withRegs (s : State) (v : AMap RegKey Word) : (s.withRegs v).lattices = s.lattices := (rfl)
@[simp] theorem State.taps_withRegs (s : State) (v : AMap RegKey Word) : (s.withRegs v).taps = s.taps := (rfl)
@[simp] theorem State.requests_withRegs (s : State) (v : AMap RegKey Word) : (s.withRegs v).requests = s.requests := (rfl)
@[simp] theorem State.nextReq_withRegs (s : State) (v : AMap RegKey Word) : (s.withRegs v).nextReq = s.nextReq := (rfl)
@[simp] theorem State.mgmt_withRegs (s : State) (v : AMap RegKey Word) : (s.withRegs v).mgmt = s.mgmt := (rfl)
@[simp] theorem State.seen_withRegs (s : State) (v : AMap RegKey Word) : (s.withRegs v).seen = s.seen := (rfl)
@[simp] theorem State.grove_withRegs (s : State) (v : AMap RegKey Word) : (s.withRegs v).grove = s.grove := (rfl)
@[simp] theorem State.flash_withRegs (s : State) (v : AMap RegKey Word) : (s.withRegs v).flash = s.flash := (rfl)
@[simp] theorem State.fab_withRegs (s : State) (v : AMap RegKey Word) : (s.withRegs v).fab = s.fab := (rfl)
@[simp] theorem State.pwr_withRegs (s : State) (v : AMap RegKey Word) : (s.withRegs v).pwr = s.pwr := (rfl)
@[simp] theorem State.age_withRegs (s : State) (v : AMap RegKey Word) : (s.withRegs v).age = s.age := (rfl)
@[simp] theorem State.tru_withRegs (s : State) (v : AMap RegKey Word) : (s.withRegs v).tru = s.tru := (rfl)
@[simp] theorem State.pins_withRegs (s : State) (v : AMap RegKey Word) : (s.withRegs v).pins = s.pins := (rfl)
@[simp] theorem State.out_withRegs (s : State) (v : AMap RegKey Word) : (s.withRegs v).out = s.out := (rfl)
@[simp] theorem State.byte_withRegs (s : State) (v : AMap RegKey Word) (x' : Nat) :
    (s.withRegs v).byte x' = s.byte x' := (rfl)
@[simp] theorem State.part_withRegs (s : State) (v : AMap RegKey Word) (k : Nat) :
    (s.withRegs v).part k = s.part k := (rfl)
@[simp] theorem State.dom_withRegs (s : State) (v : AMap RegKey Word) (k : Nat) :
    (s.withRegs v).dom k = s.dom k := (rfl)
@[simp] theorem State.window_withRegs (s : State) (v : AMap RegKey Word) (k k' : Nat) :
    (s.withRegs v).window k k' = s.window k k' := (rfl)
@[simp] theorem State.lat_withRegs (s : State) (v : AMap RegKey Word) (k : Nat) :
    (s.withRegs v).lat k = s.lat k := (rfl)
@[simp] theorem State.stackX_withRegs (s : State) (v : AMap RegKey Word) (k : Nat) :
    (s.withRegs v).stackX k = s.stackX k := (rfl)
@[simp] theorem State.port_withRegs (s : State) (v : AMap RegKey Word) (k : Nat) :
    (s.withRegs v).port k = s.port k := (rfl)
@[simp] theorem State.die_withRegs (s : State) (v : AMap RegKey Word) (k : Nat) :
    (s.withRegs v).die k = s.die k := (rfl)

-- State.withMem
@[simp] theorem State.pending_withMem (s : State) (v : List Host.Cell) : (s.withMem v).pending = s.pending := (rfl)
@[simp] theorem State.tick_withMem (s : State) (v : List Host.Cell) : (s.withMem v).tick = s.tick := (rfl)
@[simp] theorem State.free_withMem (s : State) (v : List Host.Cell) : (s.withMem v).free = s.free := (rfl)
@[simp] theorem State.regs_withMem (s : State) (v : List Host.Cell) : (s.withMem v).regs = s.regs := (rfl)
@[simp] theorem State.windows_withMem (s : State) (v : List Host.Cell) : (s.withMem v).windows = s.windows := (rfl)
@[simp] theorem State.flights_withMem (s : State) (v : List Host.Cell) : (s.withMem v).flights = s.flights := (rfl)
@[simp] theorem State.granted_withMem (s : State) (v : List Host.Cell) : (s.withMem v).granted = s.granted := (rfl)
@[simp] theorem State.drains_withMem (s : State) (v : List Host.Cell) : (s.withMem v).drains = s.drains := (rfl)
@[simp] theorem State.parts_withMem (s : State) (v : List Host.Cell) : (s.withMem v).parts = s.parts := (rfl)
@[simp] theorem State.evt_withMem (s : State) (v : List Host.Cell) : (s.withMem v).evt = s.evt := (rfl)
@[simp] theorem State.hbm_withMem (s : State) (v : List Host.Cell) : (s.withMem v).hbm = s.hbm := (rfl)
@[simp] theorem State.ledger_withMem (s : State) (v : List Host.Cell) : (s.withMem v).ledger = s.ledger := (rfl)
@[simp] theorem State.ledgerSeq_withMem (s : State) (v : List Host.Cell) : (s.withMem v).ledgerSeq = s.ledgerSeq := (rfl)
@[simp] theorem State.powerUps_withMem (s : State) (v : List Host.Cell) : (s.withMem v).powerUps = s.powerUps := (rfl)
@[simp] theorem State.domains_withMem (s : State) (v : List Host.Cell) : (s.withMem v).domains = s.domains := (rfl)
@[simp] theorem State.tiles_withMem (s : State) (v : List Host.Cell) : (s.withMem v).tiles = s.tiles := (rfl)
@[simp] theorem State.lattices_withMem (s : State) (v : List Host.Cell) : (s.withMem v).lattices = s.lattices := (rfl)
@[simp] theorem State.taps_withMem (s : State) (v : List Host.Cell) : (s.withMem v).taps = s.taps := (rfl)
@[simp] theorem State.requests_withMem (s : State) (v : List Host.Cell) : (s.withMem v).requests = s.requests := (rfl)
@[simp] theorem State.nextReq_withMem (s : State) (v : List Host.Cell) : (s.withMem v).nextReq = s.nextReq := (rfl)
@[simp] theorem State.mgmt_withMem (s : State) (v : List Host.Cell) : (s.withMem v).mgmt = s.mgmt := (rfl)
@[simp] theorem State.seen_withMem (s : State) (v : List Host.Cell) : (s.withMem v).seen = s.seen := (rfl)
@[simp] theorem State.grove_withMem (s : State) (v : List Host.Cell) : (s.withMem v).grove = s.grove := (rfl)
@[simp] theorem State.flash_withMem (s : State) (v : List Host.Cell) : (s.withMem v).flash = s.flash := (rfl)
@[simp] theorem State.fab_withMem (s : State) (v : List Host.Cell) : (s.withMem v).fab = s.fab := (rfl)
@[simp] theorem State.pwr_withMem (s : State) (v : List Host.Cell) : (s.withMem v).pwr = s.pwr := (rfl)
@[simp] theorem State.age_withMem (s : State) (v : List Host.Cell) : (s.withMem v).age = s.age := (rfl)
@[simp] theorem State.tru_withMem (s : State) (v : List Host.Cell) : (s.withMem v).tru = s.tru := (rfl)
@[simp] theorem State.pins_withMem (s : State) (v : List Host.Cell) : (s.withMem v).pins = s.pins := (rfl)
@[simp] theorem State.out_withMem (s : State) (v : List Host.Cell) : (s.withMem v).out = s.out := (rfl)
@[simp] theorem State.reg_withMem (s : State) (v : List Host.Cell) (r' : RegName) (a b : Nat) :
    (s.withMem v).reg r' a b = s.reg r' a b := (rfl)
@[simp] theorem State.fget_withMem (s : State) (v : List Host.Cell) (g : RF) (a b : Nat) :
    (s.withMem v).fget g a b = s.fget g a b := (rfl)
@[simp] theorem State.fbit_withMem (s : State) (v : List Host.Cell) (g : RF) (a b : Nat) :
    (s.withMem v).fbit g a b = s.fbit g a b := (rfl)
@[simp] theorem State.part_withMem (s : State) (v : List Host.Cell) (k : Nat) :
    (s.withMem v).part k = s.part k := (rfl)
@[simp] theorem State.dom_withMem (s : State) (v : List Host.Cell) (k : Nat) :
    (s.withMem v).dom k = s.dom k := (rfl)
@[simp] theorem State.window_withMem (s : State) (v : List Host.Cell) (k k' : Nat) :
    (s.withMem v).window k k' = s.window k k' := (rfl)
@[simp] theorem State.lat_withMem (s : State) (v : List Host.Cell) (k : Nat) :
    (s.withMem v).lat k = s.lat k := (rfl)
@[simp] theorem State.stackX_withMem (s : State) (v : List Host.Cell) (k : Nat) :
    (s.withMem v).stackX k = s.stackX k := (rfl)
@[simp] theorem State.port_withMem (s : State) (v : List Host.Cell) (k : Nat) :
    (s.withMem v).port k = s.port k := (rfl)
@[simp] theorem State.die_withMem (s : State) (v : List Host.Cell) (k : Nat) :
    (s.withMem v).die k = s.die k := (rfl)

-- State.withWindows
@[simp] theorem State.pending_withWindows (s : State) (v : SMap (List Fetched)) : (s.withWindows v).pending = s.pending := (rfl)
@[simp] theorem State.tick_withWindows (s : State) (v : SMap (List Fetched)) : (s.withWindows v).tick = s.tick := (rfl)
@[simp] theorem State.free_withWindows (s : State) (v : SMap (List Fetched)) : (s.withWindows v).free = s.free := (rfl)
@[simp] theorem State.regs_withWindows (s : State) (v : SMap (List Fetched)) : (s.withWindows v).regs = s.regs := (rfl)
@[simp] theorem State.mem_withWindows (s : State) (v : SMap (List Fetched)) : (s.withWindows v).mem = s.mem := (rfl)
@[simp] theorem State.flights_withWindows (s : State) (v : SMap (List Fetched)) : (s.withWindows v).flights = s.flights := (rfl)
@[simp] theorem State.granted_withWindows (s : State) (v : SMap (List Fetched)) : (s.withWindows v).granted = s.granted := (rfl)
@[simp] theorem State.drains_withWindows (s : State) (v : SMap (List Fetched)) : (s.withWindows v).drains = s.drains := (rfl)
@[simp] theorem State.parts_withWindows (s : State) (v : SMap (List Fetched)) : (s.withWindows v).parts = s.parts := (rfl)
@[simp] theorem State.evt_withWindows (s : State) (v : SMap (List Fetched)) : (s.withWindows v).evt = s.evt := (rfl)
@[simp] theorem State.hbm_withWindows (s : State) (v : SMap (List Fetched)) : (s.withWindows v).hbm = s.hbm := (rfl)
@[simp] theorem State.ledger_withWindows (s : State) (v : SMap (List Fetched)) : (s.withWindows v).ledger = s.ledger := (rfl)
@[simp] theorem State.ledgerSeq_withWindows (s : State) (v : SMap (List Fetched)) : (s.withWindows v).ledgerSeq = s.ledgerSeq := (rfl)
@[simp] theorem State.powerUps_withWindows (s : State) (v : SMap (List Fetched)) : (s.withWindows v).powerUps = s.powerUps := (rfl)
@[simp] theorem State.domains_withWindows (s : State) (v : SMap (List Fetched)) : (s.withWindows v).domains = s.domains := (rfl)
@[simp] theorem State.tiles_withWindows (s : State) (v : SMap (List Fetched)) : (s.withWindows v).tiles = s.tiles := (rfl)
@[simp] theorem State.lattices_withWindows (s : State) (v : SMap (List Fetched)) : (s.withWindows v).lattices = s.lattices := (rfl)
@[simp] theorem State.taps_withWindows (s : State) (v : SMap (List Fetched)) : (s.withWindows v).taps = s.taps := (rfl)
@[simp] theorem State.requests_withWindows (s : State) (v : SMap (List Fetched)) : (s.withWindows v).requests = s.requests := (rfl)
@[simp] theorem State.nextReq_withWindows (s : State) (v : SMap (List Fetched)) : (s.withWindows v).nextReq = s.nextReq := (rfl)
@[simp] theorem State.mgmt_withWindows (s : State) (v : SMap (List Fetched)) : (s.withWindows v).mgmt = s.mgmt := (rfl)
@[simp] theorem State.seen_withWindows (s : State) (v : SMap (List Fetched)) : (s.withWindows v).seen = s.seen := (rfl)
@[simp] theorem State.grove_withWindows (s : State) (v : SMap (List Fetched)) : (s.withWindows v).grove = s.grove := (rfl)
@[simp] theorem State.flash_withWindows (s : State) (v : SMap (List Fetched)) : (s.withWindows v).flash = s.flash := (rfl)
@[simp] theorem State.fab_withWindows (s : State) (v : SMap (List Fetched)) : (s.withWindows v).fab = s.fab := (rfl)
@[simp] theorem State.pwr_withWindows (s : State) (v : SMap (List Fetched)) : (s.withWindows v).pwr = s.pwr := (rfl)
@[simp] theorem State.age_withWindows (s : State) (v : SMap (List Fetched)) : (s.withWindows v).age = s.age := (rfl)
@[simp] theorem State.tru_withWindows (s : State) (v : SMap (List Fetched)) : (s.withWindows v).tru = s.tru := (rfl)
@[simp] theorem State.pins_withWindows (s : State) (v : SMap (List Fetched)) : (s.withWindows v).pins = s.pins := (rfl)
@[simp] theorem State.out_withWindows (s : State) (v : SMap (List Fetched)) : (s.withWindows v).out = s.out := (rfl)
@[simp] theorem State.reg_withWindows (s : State) (v : SMap (List Fetched)) (r' : RegName) (a b : Nat) :
    (s.withWindows v).reg r' a b = s.reg r' a b := (rfl)
@[simp] theorem State.fget_withWindows (s : State) (v : SMap (List Fetched)) (g : RF) (a b : Nat) :
    (s.withWindows v).fget g a b = s.fget g a b := (rfl)
@[simp] theorem State.fbit_withWindows (s : State) (v : SMap (List Fetched)) (g : RF) (a b : Nat) :
    (s.withWindows v).fbit g a b = s.fbit g a b := (rfl)
@[simp] theorem State.byte_withWindows (s : State) (v : SMap (List Fetched)) (x' : Nat) :
    (s.withWindows v).byte x' = s.byte x' := (rfl)
@[simp] theorem State.part_withWindows (s : State) (v : SMap (List Fetched)) (k : Nat) :
    (s.withWindows v).part k = s.part k := (rfl)
@[simp] theorem State.dom_withWindows (s : State) (v : SMap (List Fetched)) (k : Nat) :
    (s.withWindows v).dom k = s.dom k := (rfl)
@[simp] theorem State.lat_withWindows (s : State) (v : SMap (List Fetched)) (k : Nat) :
    (s.withWindows v).lat k = s.lat k := (rfl)
@[simp] theorem State.stackX_withWindows (s : State) (v : SMap (List Fetched)) (k : Nat) :
    (s.withWindows v).stackX k = s.stackX k := (rfl)
@[simp] theorem State.port_withWindows (s : State) (v : SMap (List Fetched)) (k : Nat) :
    (s.withWindows v).port k = s.port k := (rfl)
@[simp] theorem State.die_withWindows (s : State) (v : SMap (List Fetched)) (k : Nat) :
    (s.withWindows v).die k = s.die k := (rfl)

-- State.withFlights
@[simp] theorem State.pending_withFlights (s : State) (v : List Flight) : (s.withFlights v).pending = s.pending := (rfl)
@[simp] theorem State.tick_withFlights (s : State) (v : List Flight) : (s.withFlights v).tick = s.tick := (rfl)
@[simp] theorem State.free_withFlights (s : State) (v : List Flight) : (s.withFlights v).free = s.free := (rfl)
@[simp] theorem State.regs_withFlights (s : State) (v : List Flight) : (s.withFlights v).regs = s.regs := (rfl)
@[simp] theorem State.mem_withFlights (s : State) (v : List Flight) : (s.withFlights v).mem = s.mem := (rfl)
@[simp] theorem State.windows_withFlights (s : State) (v : List Flight) : (s.withFlights v).windows = s.windows := (rfl)
@[simp] theorem State.granted_withFlights (s : State) (v : List Flight) : (s.withFlights v).granted = s.granted := (rfl)
@[simp] theorem State.drains_withFlights (s : State) (v : List Flight) : (s.withFlights v).drains = s.drains := (rfl)
@[simp] theorem State.parts_withFlights (s : State) (v : List Flight) : (s.withFlights v).parts = s.parts := (rfl)
@[simp] theorem State.evt_withFlights (s : State) (v : List Flight) : (s.withFlights v).evt = s.evt := (rfl)
@[simp] theorem State.hbm_withFlights (s : State) (v : List Flight) : (s.withFlights v).hbm = s.hbm := (rfl)
@[simp] theorem State.ledger_withFlights (s : State) (v : List Flight) : (s.withFlights v).ledger = s.ledger := (rfl)
@[simp] theorem State.ledgerSeq_withFlights (s : State) (v : List Flight) : (s.withFlights v).ledgerSeq = s.ledgerSeq := (rfl)
@[simp] theorem State.powerUps_withFlights (s : State) (v : List Flight) : (s.withFlights v).powerUps = s.powerUps := (rfl)
@[simp] theorem State.domains_withFlights (s : State) (v : List Flight) : (s.withFlights v).domains = s.domains := (rfl)
@[simp] theorem State.tiles_withFlights (s : State) (v : List Flight) : (s.withFlights v).tiles = s.tiles := (rfl)
@[simp] theorem State.lattices_withFlights (s : State) (v : List Flight) : (s.withFlights v).lattices = s.lattices := (rfl)
@[simp] theorem State.taps_withFlights (s : State) (v : List Flight) : (s.withFlights v).taps = s.taps := (rfl)
@[simp] theorem State.requests_withFlights (s : State) (v : List Flight) : (s.withFlights v).requests = s.requests := (rfl)
@[simp] theorem State.nextReq_withFlights (s : State) (v : List Flight) : (s.withFlights v).nextReq = s.nextReq := (rfl)
@[simp] theorem State.mgmt_withFlights (s : State) (v : List Flight) : (s.withFlights v).mgmt = s.mgmt := (rfl)
@[simp] theorem State.seen_withFlights (s : State) (v : List Flight) : (s.withFlights v).seen = s.seen := (rfl)
@[simp] theorem State.grove_withFlights (s : State) (v : List Flight) : (s.withFlights v).grove = s.grove := (rfl)
@[simp] theorem State.flash_withFlights (s : State) (v : List Flight) : (s.withFlights v).flash = s.flash := (rfl)
@[simp] theorem State.fab_withFlights (s : State) (v : List Flight) : (s.withFlights v).fab = s.fab := (rfl)
@[simp] theorem State.pwr_withFlights (s : State) (v : List Flight) : (s.withFlights v).pwr = s.pwr := (rfl)
@[simp] theorem State.age_withFlights (s : State) (v : List Flight) : (s.withFlights v).age = s.age := (rfl)
@[simp] theorem State.tru_withFlights (s : State) (v : List Flight) : (s.withFlights v).tru = s.tru := (rfl)
@[simp] theorem State.pins_withFlights (s : State) (v : List Flight) : (s.withFlights v).pins = s.pins := (rfl)
@[simp] theorem State.out_withFlights (s : State) (v : List Flight) : (s.withFlights v).out = s.out := (rfl)
@[simp] theorem State.reg_withFlights (s : State) (v : List Flight) (r' : RegName) (a b : Nat) :
    (s.withFlights v).reg r' a b = s.reg r' a b := (rfl)
@[simp] theorem State.fget_withFlights (s : State) (v : List Flight) (g : RF) (a b : Nat) :
    (s.withFlights v).fget g a b = s.fget g a b := (rfl)
@[simp] theorem State.fbit_withFlights (s : State) (v : List Flight) (g : RF) (a b : Nat) :
    (s.withFlights v).fbit g a b = s.fbit g a b := (rfl)
@[simp] theorem State.byte_withFlights (s : State) (v : List Flight) (x' : Nat) :
    (s.withFlights v).byte x' = s.byte x' := (rfl)
@[simp] theorem State.part_withFlights (s : State) (v : List Flight) (k : Nat) :
    (s.withFlights v).part k = s.part k := (rfl)
@[simp] theorem State.dom_withFlights (s : State) (v : List Flight) (k : Nat) :
    (s.withFlights v).dom k = s.dom k := (rfl)
@[simp] theorem State.window_withFlights (s : State) (v : List Flight) (k k' : Nat) :
    (s.withFlights v).window k k' = s.window k k' := (rfl)
@[simp] theorem State.lat_withFlights (s : State) (v : List Flight) (k : Nat) :
    (s.withFlights v).lat k = s.lat k := (rfl)
@[simp] theorem State.stackX_withFlights (s : State) (v : List Flight) (k : Nat) :
    (s.withFlights v).stackX k = s.stackX k := (rfl)
@[simp] theorem State.port_withFlights (s : State) (v : List Flight) (k : Nat) :
    (s.withFlights v).port k = s.port k := (rfl)
@[simp] theorem State.die_withFlights (s : State) (v : List Flight) (k : Nat) :
    (s.withFlights v).die k = s.die k := (rfl)

-- State.withGranted
@[simp] theorem State.pending_withGranted (s : State) (v : SMap Nat) : (s.withGranted v).pending = s.pending := (rfl)
@[simp] theorem State.tick_withGranted (s : State) (v : SMap Nat) : (s.withGranted v).tick = s.tick := (rfl)
@[simp] theorem State.free_withGranted (s : State) (v : SMap Nat) : (s.withGranted v).free = s.free := (rfl)
@[simp] theorem State.regs_withGranted (s : State) (v : SMap Nat) : (s.withGranted v).regs = s.regs := (rfl)
@[simp] theorem State.mem_withGranted (s : State) (v : SMap Nat) : (s.withGranted v).mem = s.mem := (rfl)
@[simp] theorem State.windows_withGranted (s : State) (v : SMap Nat) : (s.withGranted v).windows = s.windows := (rfl)
@[simp] theorem State.flights_withGranted (s : State) (v : SMap Nat) : (s.withGranted v).flights = s.flights := (rfl)
@[simp] theorem State.drains_withGranted (s : State) (v : SMap Nat) : (s.withGranted v).drains = s.drains := (rfl)
@[simp] theorem State.parts_withGranted (s : State) (v : SMap Nat) : (s.withGranted v).parts = s.parts := (rfl)
@[simp] theorem State.evt_withGranted (s : State) (v : SMap Nat) : (s.withGranted v).evt = s.evt := (rfl)
@[simp] theorem State.hbm_withGranted (s : State) (v : SMap Nat) : (s.withGranted v).hbm = s.hbm := (rfl)
@[simp] theorem State.ledger_withGranted (s : State) (v : SMap Nat) : (s.withGranted v).ledger = s.ledger := (rfl)
@[simp] theorem State.ledgerSeq_withGranted (s : State) (v : SMap Nat) : (s.withGranted v).ledgerSeq = s.ledgerSeq := (rfl)
@[simp] theorem State.powerUps_withGranted (s : State) (v : SMap Nat) : (s.withGranted v).powerUps = s.powerUps := (rfl)
@[simp] theorem State.domains_withGranted (s : State) (v : SMap Nat) : (s.withGranted v).domains = s.domains := (rfl)
@[simp] theorem State.tiles_withGranted (s : State) (v : SMap Nat) : (s.withGranted v).tiles = s.tiles := (rfl)
@[simp] theorem State.lattices_withGranted (s : State) (v : SMap Nat) : (s.withGranted v).lattices = s.lattices := (rfl)
@[simp] theorem State.taps_withGranted (s : State) (v : SMap Nat) : (s.withGranted v).taps = s.taps := (rfl)
@[simp] theorem State.requests_withGranted (s : State) (v : SMap Nat) : (s.withGranted v).requests = s.requests := (rfl)
@[simp] theorem State.nextReq_withGranted (s : State) (v : SMap Nat) : (s.withGranted v).nextReq = s.nextReq := (rfl)
@[simp] theorem State.mgmt_withGranted (s : State) (v : SMap Nat) : (s.withGranted v).mgmt = s.mgmt := (rfl)
@[simp] theorem State.seen_withGranted (s : State) (v : SMap Nat) : (s.withGranted v).seen = s.seen := (rfl)
@[simp] theorem State.grove_withGranted (s : State) (v : SMap Nat) : (s.withGranted v).grove = s.grove := (rfl)
@[simp] theorem State.flash_withGranted (s : State) (v : SMap Nat) : (s.withGranted v).flash = s.flash := (rfl)
@[simp] theorem State.fab_withGranted (s : State) (v : SMap Nat) : (s.withGranted v).fab = s.fab := (rfl)
@[simp] theorem State.pwr_withGranted (s : State) (v : SMap Nat) : (s.withGranted v).pwr = s.pwr := (rfl)
@[simp] theorem State.age_withGranted (s : State) (v : SMap Nat) : (s.withGranted v).age = s.age := (rfl)
@[simp] theorem State.tru_withGranted (s : State) (v : SMap Nat) : (s.withGranted v).tru = s.tru := (rfl)
@[simp] theorem State.pins_withGranted (s : State) (v : SMap Nat) : (s.withGranted v).pins = s.pins := (rfl)
@[simp] theorem State.out_withGranted (s : State) (v : SMap Nat) : (s.withGranted v).out = s.out := (rfl)
@[simp] theorem State.reg_withGranted (s : State) (v : SMap Nat) (r' : RegName) (a b : Nat) :
    (s.withGranted v).reg r' a b = s.reg r' a b := (rfl)
@[simp] theorem State.fget_withGranted (s : State) (v : SMap Nat) (g : RF) (a b : Nat) :
    (s.withGranted v).fget g a b = s.fget g a b := (rfl)
@[simp] theorem State.fbit_withGranted (s : State) (v : SMap Nat) (g : RF) (a b : Nat) :
    (s.withGranted v).fbit g a b = s.fbit g a b := (rfl)
@[simp] theorem State.byte_withGranted (s : State) (v : SMap Nat) (x' : Nat) :
    (s.withGranted v).byte x' = s.byte x' := (rfl)
@[simp] theorem State.part_withGranted (s : State) (v : SMap Nat) (k : Nat) :
    (s.withGranted v).part k = s.part k := (rfl)
@[simp] theorem State.dom_withGranted (s : State) (v : SMap Nat) (k : Nat) :
    (s.withGranted v).dom k = s.dom k := (rfl)
@[simp] theorem State.window_withGranted (s : State) (v : SMap Nat) (k k' : Nat) :
    (s.withGranted v).window k k' = s.window k k' := (rfl)
@[simp] theorem State.lat_withGranted (s : State) (v : SMap Nat) (k : Nat) :
    (s.withGranted v).lat k = s.lat k := (rfl)
@[simp] theorem State.stackX_withGranted (s : State) (v : SMap Nat) (k : Nat) :
    (s.withGranted v).stackX k = s.stackX k := (rfl)
@[simp] theorem State.port_withGranted (s : State) (v : SMap Nat) (k : Nat) :
    (s.withGranted v).port k = s.port k := (rfl)
@[simp] theorem State.die_withGranted (s : State) (v : SMap Nat) (k : Nat) :
    (s.withGranted v).die k = s.die k := (rfl)

-- State.withDrains
@[simp] theorem State.pending_withDrains (s : State) (v : List (Func × Nat)) : (s.withDrains v).pending = s.pending := (rfl)
@[simp] theorem State.tick_withDrains (s : State) (v : List (Func × Nat)) : (s.withDrains v).tick = s.tick := (rfl)
@[simp] theorem State.free_withDrains (s : State) (v : List (Func × Nat)) : (s.withDrains v).free = s.free := (rfl)
@[simp] theorem State.regs_withDrains (s : State) (v : List (Func × Nat)) : (s.withDrains v).regs = s.regs := (rfl)
@[simp] theorem State.mem_withDrains (s : State) (v : List (Func × Nat)) : (s.withDrains v).mem = s.mem := (rfl)
@[simp] theorem State.windows_withDrains (s : State) (v : List (Func × Nat)) : (s.withDrains v).windows = s.windows := (rfl)
@[simp] theorem State.flights_withDrains (s : State) (v : List (Func × Nat)) : (s.withDrains v).flights = s.flights := (rfl)
@[simp] theorem State.granted_withDrains (s : State) (v : List (Func × Nat)) : (s.withDrains v).granted = s.granted := (rfl)
@[simp] theorem State.parts_withDrains (s : State) (v : List (Func × Nat)) : (s.withDrains v).parts = s.parts := (rfl)
@[simp] theorem State.evt_withDrains (s : State) (v : List (Func × Nat)) : (s.withDrains v).evt = s.evt := (rfl)
@[simp] theorem State.hbm_withDrains (s : State) (v : List (Func × Nat)) : (s.withDrains v).hbm = s.hbm := (rfl)
@[simp] theorem State.ledger_withDrains (s : State) (v : List (Func × Nat)) : (s.withDrains v).ledger = s.ledger := (rfl)
@[simp] theorem State.ledgerSeq_withDrains (s : State) (v : List (Func × Nat)) : (s.withDrains v).ledgerSeq = s.ledgerSeq := (rfl)
@[simp] theorem State.powerUps_withDrains (s : State) (v : List (Func × Nat)) : (s.withDrains v).powerUps = s.powerUps := (rfl)
@[simp] theorem State.domains_withDrains (s : State) (v : List (Func × Nat)) : (s.withDrains v).domains = s.domains := (rfl)
@[simp] theorem State.tiles_withDrains (s : State) (v : List (Func × Nat)) : (s.withDrains v).tiles = s.tiles := (rfl)
@[simp] theorem State.lattices_withDrains (s : State) (v : List (Func × Nat)) : (s.withDrains v).lattices = s.lattices := (rfl)
@[simp] theorem State.taps_withDrains (s : State) (v : List (Func × Nat)) : (s.withDrains v).taps = s.taps := (rfl)
@[simp] theorem State.requests_withDrains (s : State) (v : List (Func × Nat)) : (s.withDrains v).requests = s.requests := (rfl)
@[simp] theorem State.nextReq_withDrains (s : State) (v : List (Func × Nat)) : (s.withDrains v).nextReq = s.nextReq := (rfl)
@[simp] theorem State.mgmt_withDrains (s : State) (v : List (Func × Nat)) : (s.withDrains v).mgmt = s.mgmt := (rfl)
@[simp] theorem State.seen_withDrains (s : State) (v : List (Func × Nat)) : (s.withDrains v).seen = s.seen := (rfl)
@[simp] theorem State.grove_withDrains (s : State) (v : List (Func × Nat)) : (s.withDrains v).grove = s.grove := (rfl)
@[simp] theorem State.flash_withDrains (s : State) (v : List (Func × Nat)) : (s.withDrains v).flash = s.flash := (rfl)
@[simp] theorem State.fab_withDrains (s : State) (v : List (Func × Nat)) : (s.withDrains v).fab = s.fab := (rfl)
@[simp] theorem State.pwr_withDrains (s : State) (v : List (Func × Nat)) : (s.withDrains v).pwr = s.pwr := (rfl)
@[simp] theorem State.age_withDrains (s : State) (v : List (Func × Nat)) : (s.withDrains v).age = s.age := (rfl)
@[simp] theorem State.tru_withDrains (s : State) (v : List (Func × Nat)) : (s.withDrains v).tru = s.tru := (rfl)
@[simp] theorem State.pins_withDrains (s : State) (v : List (Func × Nat)) : (s.withDrains v).pins = s.pins := (rfl)
@[simp] theorem State.out_withDrains (s : State) (v : List (Func × Nat)) : (s.withDrains v).out = s.out := (rfl)
@[simp] theorem State.reg_withDrains (s : State) (v : List (Func × Nat)) (r' : RegName) (a b : Nat) :
    (s.withDrains v).reg r' a b = s.reg r' a b := (rfl)
@[simp] theorem State.fget_withDrains (s : State) (v : List (Func × Nat)) (g : RF) (a b : Nat) :
    (s.withDrains v).fget g a b = s.fget g a b := (rfl)
@[simp] theorem State.fbit_withDrains (s : State) (v : List (Func × Nat)) (g : RF) (a b : Nat) :
    (s.withDrains v).fbit g a b = s.fbit g a b := (rfl)
@[simp] theorem State.byte_withDrains (s : State) (v : List (Func × Nat)) (x' : Nat) :
    (s.withDrains v).byte x' = s.byte x' := (rfl)
@[simp] theorem State.part_withDrains (s : State) (v : List (Func × Nat)) (k : Nat) :
    (s.withDrains v).part k = s.part k := (rfl)
@[simp] theorem State.dom_withDrains (s : State) (v : List (Func × Nat)) (k : Nat) :
    (s.withDrains v).dom k = s.dom k := (rfl)
@[simp] theorem State.window_withDrains (s : State) (v : List (Func × Nat)) (k k' : Nat) :
    (s.withDrains v).window k k' = s.window k k' := (rfl)
@[simp] theorem State.lat_withDrains (s : State) (v : List (Func × Nat)) (k : Nat) :
    (s.withDrains v).lat k = s.lat k := (rfl)
@[simp] theorem State.stackX_withDrains (s : State) (v : List (Func × Nat)) (k : Nat) :
    (s.withDrains v).stackX k = s.stackX k := (rfl)
@[simp] theorem State.port_withDrains (s : State) (v : List (Func × Nat)) (k : Nat) :
    (s.withDrains v).port k = s.port k := (rfl)
@[simp] theorem State.die_withDrains (s : State) (v : List (Func × Nat)) (k : Nat) :
    (s.withDrains v).die k = s.die k := (rfl)

-- State.withParts
@[simp] theorem State.pending_withParts (s : State) (v : SMap Part) : (s.withParts v).pending = s.pending := (rfl)
@[simp] theorem State.tick_withParts (s : State) (v : SMap Part) : (s.withParts v).tick = s.tick := (rfl)
@[simp] theorem State.free_withParts (s : State) (v : SMap Part) : (s.withParts v).free = s.free := (rfl)
@[simp] theorem State.regs_withParts (s : State) (v : SMap Part) : (s.withParts v).regs = s.regs := (rfl)
@[simp] theorem State.mem_withParts (s : State) (v : SMap Part) : (s.withParts v).mem = s.mem := (rfl)
@[simp] theorem State.windows_withParts (s : State) (v : SMap Part) : (s.withParts v).windows = s.windows := (rfl)
@[simp] theorem State.flights_withParts (s : State) (v : SMap Part) : (s.withParts v).flights = s.flights := (rfl)
@[simp] theorem State.granted_withParts (s : State) (v : SMap Part) : (s.withParts v).granted = s.granted := (rfl)
@[simp] theorem State.drains_withParts (s : State) (v : SMap Part) : (s.withParts v).drains = s.drains := (rfl)
@[simp] theorem State.evt_withParts (s : State) (v : SMap Part) : (s.withParts v).evt = s.evt := (rfl)
@[simp] theorem State.hbm_withParts (s : State) (v : SMap Part) : (s.withParts v).hbm = s.hbm := (rfl)
@[simp] theorem State.ledger_withParts (s : State) (v : SMap Part) : (s.withParts v).ledger = s.ledger := (rfl)
@[simp] theorem State.ledgerSeq_withParts (s : State) (v : SMap Part) : (s.withParts v).ledgerSeq = s.ledgerSeq := (rfl)
@[simp] theorem State.powerUps_withParts (s : State) (v : SMap Part) : (s.withParts v).powerUps = s.powerUps := (rfl)
@[simp] theorem State.domains_withParts (s : State) (v : SMap Part) : (s.withParts v).domains = s.domains := (rfl)
@[simp] theorem State.tiles_withParts (s : State) (v : SMap Part) : (s.withParts v).tiles = s.tiles := (rfl)
@[simp] theorem State.lattices_withParts (s : State) (v : SMap Part) : (s.withParts v).lattices = s.lattices := (rfl)
@[simp] theorem State.taps_withParts (s : State) (v : SMap Part) : (s.withParts v).taps = s.taps := (rfl)
@[simp] theorem State.requests_withParts (s : State) (v : SMap Part) : (s.withParts v).requests = s.requests := (rfl)
@[simp] theorem State.nextReq_withParts (s : State) (v : SMap Part) : (s.withParts v).nextReq = s.nextReq := (rfl)
@[simp] theorem State.mgmt_withParts (s : State) (v : SMap Part) : (s.withParts v).mgmt = s.mgmt := (rfl)
@[simp] theorem State.seen_withParts (s : State) (v : SMap Part) : (s.withParts v).seen = s.seen := (rfl)
@[simp] theorem State.grove_withParts (s : State) (v : SMap Part) : (s.withParts v).grove = s.grove := (rfl)
@[simp] theorem State.flash_withParts (s : State) (v : SMap Part) : (s.withParts v).flash = s.flash := (rfl)
@[simp] theorem State.fab_withParts (s : State) (v : SMap Part) : (s.withParts v).fab = s.fab := (rfl)
@[simp] theorem State.pwr_withParts (s : State) (v : SMap Part) : (s.withParts v).pwr = s.pwr := (rfl)
@[simp] theorem State.age_withParts (s : State) (v : SMap Part) : (s.withParts v).age = s.age := (rfl)
@[simp] theorem State.tru_withParts (s : State) (v : SMap Part) : (s.withParts v).tru = s.tru := (rfl)
@[simp] theorem State.pins_withParts (s : State) (v : SMap Part) : (s.withParts v).pins = s.pins := (rfl)
@[simp] theorem State.out_withParts (s : State) (v : SMap Part) : (s.withParts v).out = s.out := (rfl)
@[simp] theorem State.reg_withParts (s : State) (v : SMap Part) (r' : RegName) (a b : Nat) :
    (s.withParts v).reg r' a b = s.reg r' a b := (rfl)
@[simp] theorem State.fget_withParts (s : State) (v : SMap Part) (g : RF) (a b : Nat) :
    (s.withParts v).fget g a b = s.fget g a b := (rfl)
@[simp] theorem State.fbit_withParts (s : State) (v : SMap Part) (g : RF) (a b : Nat) :
    (s.withParts v).fbit g a b = s.fbit g a b := (rfl)
@[simp] theorem State.byte_withParts (s : State) (v : SMap Part) (x' : Nat) :
    (s.withParts v).byte x' = s.byte x' := (rfl)
@[simp] theorem State.dom_withParts (s : State) (v : SMap Part) (k : Nat) :
    (s.withParts v).dom k = s.dom k := (rfl)
@[simp] theorem State.window_withParts (s : State) (v : SMap Part) (k k' : Nat) :
    (s.withParts v).window k k' = s.window k k' := (rfl)
@[simp] theorem State.lat_withParts (s : State) (v : SMap Part) (k : Nat) :
    (s.withParts v).lat k = s.lat k := (rfl)
@[simp] theorem State.stackX_withParts (s : State) (v : SMap Part) (k : Nat) :
    (s.withParts v).stackX k = s.stackX k := (rfl)
@[simp] theorem State.port_withParts (s : State) (v : SMap Part) (k : Nat) :
    (s.withParts v).port k = s.port k := (rfl)
@[simp] theorem State.die_withParts (s : State) (v : SMap Part) (k : Nat) :
    (s.withParts v).die k = s.die k := (rfl)

-- State.withEvt
@[simp] theorem State.pending_withEvt (s : State) (v : EvtX) : (s.withEvt v).pending = s.pending := (rfl)
@[simp] theorem State.tick_withEvt (s : State) (v : EvtX) : (s.withEvt v).tick = s.tick := (rfl)
@[simp] theorem State.free_withEvt (s : State) (v : EvtX) : (s.withEvt v).free = s.free := (rfl)
@[simp] theorem State.regs_withEvt (s : State) (v : EvtX) : (s.withEvt v).regs = s.regs := (rfl)
@[simp] theorem State.mem_withEvt (s : State) (v : EvtX) : (s.withEvt v).mem = s.mem := (rfl)
@[simp] theorem State.windows_withEvt (s : State) (v : EvtX) : (s.withEvt v).windows = s.windows := (rfl)
@[simp] theorem State.flights_withEvt (s : State) (v : EvtX) : (s.withEvt v).flights = s.flights := (rfl)
@[simp] theorem State.granted_withEvt (s : State) (v : EvtX) : (s.withEvt v).granted = s.granted := (rfl)
@[simp] theorem State.drains_withEvt (s : State) (v : EvtX) : (s.withEvt v).drains = s.drains := (rfl)
@[simp] theorem State.parts_withEvt (s : State) (v : EvtX) : (s.withEvt v).parts = s.parts := (rfl)
@[simp] theorem State.hbm_withEvt (s : State) (v : EvtX) : (s.withEvt v).hbm = s.hbm := (rfl)
@[simp] theorem State.ledger_withEvt (s : State) (v : EvtX) : (s.withEvt v).ledger = s.ledger := (rfl)
@[simp] theorem State.ledgerSeq_withEvt (s : State) (v : EvtX) : (s.withEvt v).ledgerSeq = s.ledgerSeq := (rfl)
@[simp] theorem State.powerUps_withEvt (s : State) (v : EvtX) : (s.withEvt v).powerUps = s.powerUps := (rfl)
@[simp] theorem State.domains_withEvt (s : State) (v : EvtX) : (s.withEvt v).domains = s.domains := (rfl)
@[simp] theorem State.tiles_withEvt (s : State) (v : EvtX) : (s.withEvt v).tiles = s.tiles := (rfl)
@[simp] theorem State.lattices_withEvt (s : State) (v : EvtX) : (s.withEvt v).lattices = s.lattices := (rfl)
@[simp] theorem State.taps_withEvt (s : State) (v : EvtX) : (s.withEvt v).taps = s.taps := (rfl)
@[simp] theorem State.requests_withEvt (s : State) (v : EvtX) : (s.withEvt v).requests = s.requests := (rfl)
@[simp] theorem State.nextReq_withEvt (s : State) (v : EvtX) : (s.withEvt v).nextReq = s.nextReq := (rfl)
@[simp] theorem State.mgmt_withEvt (s : State) (v : EvtX) : (s.withEvt v).mgmt = s.mgmt := (rfl)
@[simp] theorem State.seen_withEvt (s : State) (v : EvtX) : (s.withEvt v).seen = s.seen := (rfl)
@[simp] theorem State.grove_withEvt (s : State) (v : EvtX) : (s.withEvt v).grove = s.grove := (rfl)
@[simp] theorem State.flash_withEvt (s : State) (v : EvtX) : (s.withEvt v).flash = s.flash := (rfl)
@[simp] theorem State.fab_withEvt (s : State) (v : EvtX) : (s.withEvt v).fab = s.fab := (rfl)
@[simp] theorem State.pwr_withEvt (s : State) (v : EvtX) : (s.withEvt v).pwr = s.pwr := (rfl)
@[simp] theorem State.age_withEvt (s : State) (v : EvtX) : (s.withEvt v).age = s.age := (rfl)
@[simp] theorem State.tru_withEvt (s : State) (v : EvtX) : (s.withEvt v).tru = s.tru := (rfl)
@[simp] theorem State.pins_withEvt (s : State) (v : EvtX) : (s.withEvt v).pins = s.pins := (rfl)
@[simp] theorem State.out_withEvt (s : State) (v : EvtX) : (s.withEvt v).out = s.out := (rfl)
@[simp] theorem State.reg_withEvt (s : State) (v : EvtX) (r' : RegName) (a b : Nat) :
    (s.withEvt v).reg r' a b = s.reg r' a b := (rfl)
@[simp] theorem State.fget_withEvt (s : State) (v : EvtX) (g : RF) (a b : Nat) :
    (s.withEvt v).fget g a b = s.fget g a b := (rfl)
@[simp] theorem State.fbit_withEvt (s : State) (v : EvtX) (g : RF) (a b : Nat) :
    (s.withEvt v).fbit g a b = s.fbit g a b := (rfl)
@[simp] theorem State.byte_withEvt (s : State) (v : EvtX) (x' : Nat) :
    (s.withEvt v).byte x' = s.byte x' := (rfl)
@[simp] theorem State.part_withEvt (s : State) (v : EvtX) (k : Nat) :
    (s.withEvt v).part k = s.part k := (rfl)
@[simp] theorem State.dom_withEvt (s : State) (v : EvtX) (k : Nat) :
    (s.withEvt v).dom k = s.dom k := (rfl)
@[simp] theorem State.window_withEvt (s : State) (v : EvtX) (k k' : Nat) :
    (s.withEvt v).window k k' = s.window k k' := (rfl)
@[simp] theorem State.lat_withEvt (s : State) (v : EvtX) (k : Nat) :
    (s.withEvt v).lat k = s.lat k := (rfl)
@[simp] theorem State.stackX_withEvt (s : State) (v : EvtX) (k : Nat) :
    (s.withEvt v).stackX k = s.stackX k := (rfl)
@[simp] theorem State.port_withEvt (s : State) (v : EvtX) (k : Nat) :
    (s.withEvt v).port k = s.port k := (rfl)
@[simp] theorem State.die_withEvt (s : State) (v : EvtX) (k : Nat) :
    (s.withEvt v).die k = s.die k := (rfl)

-- State.withHbm
@[simp] theorem State.pending_withHbm (s : State) (v : HbmX) : (s.withHbm v).pending = s.pending := (rfl)
@[simp] theorem State.tick_withHbm (s : State) (v : HbmX) : (s.withHbm v).tick = s.tick := (rfl)
@[simp] theorem State.free_withHbm (s : State) (v : HbmX) : (s.withHbm v).free = s.free := (rfl)
@[simp] theorem State.regs_withHbm (s : State) (v : HbmX) : (s.withHbm v).regs = s.regs := (rfl)
@[simp] theorem State.mem_withHbm (s : State) (v : HbmX) : (s.withHbm v).mem = s.mem := (rfl)
@[simp] theorem State.windows_withHbm (s : State) (v : HbmX) : (s.withHbm v).windows = s.windows := (rfl)
@[simp] theorem State.flights_withHbm (s : State) (v : HbmX) : (s.withHbm v).flights = s.flights := (rfl)
@[simp] theorem State.granted_withHbm (s : State) (v : HbmX) : (s.withHbm v).granted = s.granted := (rfl)
@[simp] theorem State.drains_withHbm (s : State) (v : HbmX) : (s.withHbm v).drains = s.drains := (rfl)
@[simp] theorem State.parts_withHbm (s : State) (v : HbmX) : (s.withHbm v).parts = s.parts := (rfl)
@[simp] theorem State.evt_withHbm (s : State) (v : HbmX) : (s.withHbm v).evt = s.evt := (rfl)
@[simp] theorem State.ledger_withHbm (s : State) (v : HbmX) : (s.withHbm v).ledger = s.ledger := (rfl)
@[simp] theorem State.ledgerSeq_withHbm (s : State) (v : HbmX) : (s.withHbm v).ledgerSeq = s.ledgerSeq := (rfl)
@[simp] theorem State.powerUps_withHbm (s : State) (v : HbmX) : (s.withHbm v).powerUps = s.powerUps := (rfl)
@[simp] theorem State.domains_withHbm (s : State) (v : HbmX) : (s.withHbm v).domains = s.domains := (rfl)
@[simp] theorem State.tiles_withHbm (s : State) (v : HbmX) : (s.withHbm v).tiles = s.tiles := (rfl)
@[simp] theorem State.lattices_withHbm (s : State) (v : HbmX) : (s.withHbm v).lattices = s.lattices := (rfl)
@[simp] theorem State.taps_withHbm (s : State) (v : HbmX) : (s.withHbm v).taps = s.taps := (rfl)
@[simp] theorem State.requests_withHbm (s : State) (v : HbmX) : (s.withHbm v).requests = s.requests := (rfl)
@[simp] theorem State.nextReq_withHbm (s : State) (v : HbmX) : (s.withHbm v).nextReq = s.nextReq := (rfl)
@[simp] theorem State.mgmt_withHbm (s : State) (v : HbmX) : (s.withHbm v).mgmt = s.mgmt := (rfl)
@[simp] theorem State.seen_withHbm (s : State) (v : HbmX) : (s.withHbm v).seen = s.seen := (rfl)
@[simp] theorem State.grove_withHbm (s : State) (v : HbmX) : (s.withHbm v).grove = s.grove := (rfl)
@[simp] theorem State.flash_withHbm (s : State) (v : HbmX) : (s.withHbm v).flash = s.flash := (rfl)
@[simp] theorem State.fab_withHbm (s : State) (v : HbmX) : (s.withHbm v).fab = s.fab := (rfl)
@[simp] theorem State.pwr_withHbm (s : State) (v : HbmX) : (s.withHbm v).pwr = s.pwr := (rfl)
@[simp] theorem State.age_withHbm (s : State) (v : HbmX) : (s.withHbm v).age = s.age := (rfl)
@[simp] theorem State.tru_withHbm (s : State) (v : HbmX) : (s.withHbm v).tru = s.tru := (rfl)
@[simp] theorem State.pins_withHbm (s : State) (v : HbmX) : (s.withHbm v).pins = s.pins := (rfl)
@[simp] theorem State.out_withHbm (s : State) (v : HbmX) : (s.withHbm v).out = s.out := (rfl)
@[simp] theorem State.reg_withHbm (s : State) (v : HbmX) (r' : RegName) (a b : Nat) :
    (s.withHbm v).reg r' a b = s.reg r' a b := (rfl)
@[simp] theorem State.fget_withHbm (s : State) (v : HbmX) (g : RF) (a b : Nat) :
    (s.withHbm v).fget g a b = s.fget g a b := (rfl)
@[simp] theorem State.fbit_withHbm (s : State) (v : HbmX) (g : RF) (a b : Nat) :
    (s.withHbm v).fbit g a b = s.fbit g a b := (rfl)
@[simp] theorem State.byte_withHbm (s : State) (v : HbmX) (x' : Nat) :
    (s.withHbm v).byte x' = s.byte x' := (rfl)
@[simp] theorem State.part_withHbm (s : State) (v : HbmX) (k : Nat) :
    (s.withHbm v).part k = s.part k := (rfl)
@[simp] theorem State.dom_withHbm (s : State) (v : HbmX) (k : Nat) :
    (s.withHbm v).dom k = s.dom k := (rfl)
@[simp] theorem State.window_withHbm (s : State) (v : HbmX) (k k' : Nat) :
    (s.withHbm v).window k k' = s.window k k' := (rfl)
@[simp] theorem State.lat_withHbm (s : State) (v : HbmX) (k : Nat) :
    (s.withHbm v).lat k = s.lat k := (rfl)
@[simp] theorem State.port_withHbm (s : State) (v : HbmX) (k : Nat) :
    (s.withHbm v).port k = s.port k := (rfl)
@[simp] theorem State.die_withHbm (s : State) (v : HbmX) (k : Nat) :
    (s.withHbm v).die k = s.die k := (rfl)

-- State.withLedger
@[simp] theorem State.pending_withLedger (s : State) (v : List LedgerEntry) : (s.withLedger v).pending = s.pending := (rfl)
@[simp] theorem State.tick_withLedger (s : State) (v : List LedgerEntry) : (s.withLedger v).tick = s.tick := (rfl)
@[simp] theorem State.free_withLedger (s : State) (v : List LedgerEntry) : (s.withLedger v).free = s.free := (rfl)
@[simp] theorem State.regs_withLedger (s : State) (v : List LedgerEntry) : (s.withLedger v).regs = s.regs := (rfl)
@[simp] theorem State.mem_withLedger (s : State) (v : List LedgerEntry) : (s.withLedger v).mem = s.mem := (rfl)
@[simp] theorem State.windows_withLedger (s : State) (v : List LedgerEntry) : (s.withLedger v).windows = s.windows := (rfl)
@[simp] theorem State.flights_withLedger (s : State) (v : List LedgerEntry) : (s.withLedger v).flights = s.flights := (rfl)
@[simp] theorem State.granted_withLedger (s : State) (v : List LedgerEntry) : (s.withLedger v).granted = s.granted := (rfl)
@[simp] theorem State.drains_withLedger (s : State) (v : List LedgerEntry) : (s.withLedger v).drains = s.drains := (rfl)
@[simp] theorem State.parts_withLedger (s : State) (v : List LedgerEntry) : (s.withLedger v).parts = s.parts := (rfl)
@[simp] theorem State.evt_withLedger (s : State) (v : List LedgerEntry) : (s.withLedger v).evt = s.evt := (rfl)
@[simp] theorem State.hbm_withLedger (s : State) (v : List LedgerEntry) : (s.withLedger v).hbm = s.hbm := (rfl)
@[simp] theorem State.ledgerSeq_withLedger (s : State) (v : List LedgerEntry) : (s.withLedger v).ledgerSeq = s.ledgerSeq := (rfl)
@[simp] theorem State.powerUps_withLedger (s : State) (v : List LedgerEntry) : (s.withLedger v).powerUps = s.powerUps := (rfl)
@[simp] theorem State.domains_withLedger (s : State) (v : List LedgerEntry) : (s.withLedger v).domains = s.domains := (rfl)
@[simp] theorem State.tiles_withLedger (s : State) (v : List LedgerEntry) : (s.withLedger v).tiles = s.tiles := (rfl)
@[simp] theorem State.lattices_withLedger (s : State) (v : List LedgerEntry) : (s.withLedger v).lattices = s.lattices := (rfl)
@[simp] theorem State.taps_withLedger (s : State) (v : List LedgerEntry) : (s.withLedger v).taps = s.taps := (rfl)
@[simp] theorem State.requests_withLedger (s : State) (v : List LedgerEntry) : (s.withLedger v).requests = s.requests := (rfl)
@[simp] theorem State.nextReq_withLedger (s : State) (v : List LedgerEntry) : (s.withLedger v).nextReq = s.nextReq := (rfl)
@[simp] theorem State.mgmt_withLedger (s : State) (v : List LedgerEntry) : (s.withLedger v).mgmt = s.mgmt := (rfl)
@[simp] theorem State.seen_withLedger (s : State) (v : List LedgerEntry) : (s.withLedger v).seen = s.seen := (rfl)
@[simp] theorem State.grove_withLedger (s : State) (v : List LedgerEntry) : (s.withLedger v).grove = s.grove := (rfl)
@[simp] theorem State.flash_withLedger (s : State) (v : List LedgerEntry) : (s.withLedger v).flash = s.flash := (rfl)
@[simp] theorem State.fab_withLedger (s : State) (v : List LedgerEntry) : (s.withLedger v).fab = s.fab := (rfl)
@[simp] theorem State.pwr_withLedger (s : State) (v : List LedgerEntry) : (s.withLedger v).pwr = s.pwr := (rfl)
@[simp] theorem State.age_withLedger (s : State) (v : List LedgerEntry) : (s.withLedger v).age = s.age := (rfl)
@[simp] theorem State.tru_withLedger (s : State) (v : List LedgerEntry) : (s.withLedger v).tru = s.tru := (rfl)
@[simp] theorem State.pins_withLedger (s : State) (v : List LedgerEntry) : (s.withLedger v).pins = s.pins := (rfl)
@[simp] theorem State.out_withLedger (s : State) (v : List LedgerEntry) : (s.withLedger v).out = s.out := (rfl)
@[simp] theorem State.reg_withLedger (s : State) (v : List LedgerEntry) (r' : RegName) (a b : Nat) :
    (s.withLedger v).reg r' a b = s.reg r' a b := (rfl)
@[simp] theorem State.fget_withLedger (s : State) (v : List LedgerEntry) (g : RF) (a b : Nat) :
    (s.withLedger v).fget g a b = s.fget g a b := (rfl)
@[simp] theorem State.fbit_withLedger (s : State) (v : List LedgerEntry) (g : RF) (a b : Nat) :
    (s.withLedger v).fbit g a b = s.fbit g a b := (rfl)
@[simp] theorem State.byte_withLedger (s : State) (v : List LedgerEntry) (x' : Nat) :
    (s.withLedger v).byte x' = s.byte x' := (rfl)
@[simp] theorem State.part_withLedger (s : State) (v : List LedgerEntry) (k : Nat) :
    (s.withLedger v).part k = s.part k := (rfl)
@[simp] theorem State.dom_withLedger (s : State) (v : List LedgerEntry) (k : Nat) :
    (s.withLedger v).dom k = s.dom k := (rfl)
@[simp] theorem State.window_withLedger (s : State) (v : List LedgerEntry) (k k' : Nat) :
    (s.withLedger v).window k k' = s.window k k' := (rfl)
@[simp] theorem State.lat_withLedger (s : State) (v : List LedgerEntry) (k : Nat) :
    (s.withLedger v).lat k = s.lat k := (rfl)
@[simp] theorem State.stackX_withLedger (s : State) (v : List LedgerEntry) (k : Nat) :
    (s.withLedger v).stackX k = s.stackX k := (rfl)
@[simp] theorem State.port_withLedger (s : State) (v : List LedgerEntry) (k : Nat) :
    (s.withLedger v).port k = s.port k := (rfl)
@[simp] theorem State.die_withLedger (s : State) (v : List LedgerEntry) (k : Nat) :
    (s.withLedger v).die k = s.die k := (rfl)

-- State.withLedgerSeq
@[simp] theorem State.pending_withLedgerSeq (s : State) (v : Nat) : (s.withLedgerSeq v).pending = s.pending := (rfl)
@[simp] theorem State.tick_withLedgerSeq (s : State) (v : Nat) : (s.withLedgerSeq v).tick = s.tick := (rfl)
@[simp] theorem State.free_withLedgerSeq (s : State) (v : Nat) : (s.withLedgerSeq v).free = s.free := (rfl)
@[simp] theorem State.regs_withLedgerSeq (s : State) (v : Nat) : (s.withLedgerSeq v).regs = s.regs := (rfl)
@[simp] theorem State.mem_withLedgerSeq (s : State) (v : Nat) : (s.withLedgerSeq v).mem = s.mem := (rfl)
@[simp] theorem State.windows_withLedgerSeq (s : State) (v : Nat) : (s.withLedgerSeq v).windows = s.windows := (rfl)
@[simp] theorem State.flights_withLedgerSeq (s : State) (v : Nat) : (s.withLedgerSeq v).flights = s.flights := (rfl)
@[simp] theorem State.granted_withLedgerSeq (s : State) (v : Nat) : (s.withLedgerSeq v).granted = s.granted := (rfl)
@[simp] theorem State.drains_withLedgerSeq (s : State) (v : Nat) : (s.withLedgerSeq v).drains = s.drains := (rfl)
@[simp] theorem State.parts_withLedgerSeq (s : State) (v : Nat) : (s.withLedgerSeq v).parts = s.parts := (rfl)
@[simp] theorem State.evt_withLedgerSeq (s : State) (v : Nat) : (s.withLedgerSeq v).evt = s.evt := (rfl)
@[simp] theorem State.hbm_withLedgerSeq (s : State) (v : Nat) : (s.withLedgerSeq v).hbm = s.hbm := (rfl)
@[simp] theorem State.ledger_withLedgerSeq (s : State) (v : Nat) : (s.withLedgerSeq v).ledger = s.ledger := (rfl)
@[simp] theorem State.powerUps_withLedgerSeq (s : State) (v : Nat) : (s.withLedgerSeq v).powerUps = s.powerUps := (rfl)
@[simp] theorem State.domains_withLedgerSeq (s : State) (v : Nat) : (s.withLedgerSeq v).domains = s.domains := (rfl)
@[simp] theorem State.tiles_withLedgerSeq (s : State) (v : Nat) : (s.withLedgerSeq v).tiles = s.tiles := (rfl)
@[simp] theorem State.lattices_withLedgerSeq (s : State) (v : Nat) : (s.withLedgerSeq v).lattices = s.lattices := (rfl)
@[simp] theorem State.taps_withLedgerSeq (s : State) (v : Nat) : (s.withLedgerSeq v).taps = s.taps := (rfl)
@[simp] theorem State.requests_withLedgerSeq (s : State) (v : Nat) : (s.withLedgerSeq v).requests = s.requests := (rfl)
@[simp] theorem State.nextReq_withLedgerSeq (s : State) (v : Nat) : (s.withLedgerSeq v).nextReq = s.nextReq := (rfl)
@[simp] theorem State.mgmt_withLedgerSeq (s : State) (v : Nat) : (s.withLedgerSeq v).mgmt = s.mgmt := (rfl)
@[simp] theorem State.seen_withLedgerSeq (s : State) (v : Nat) : (s.withLedgerSeq v).seen = s.seen := (rfl)
@[simp] theorem State.grove_withLedgerSeq (s : State) (v : Nat) : (s.withLedgerSeq v).grove = s.grove := (rfl)
@[simp] theorem State.flash_withLedgerSeq (s : State) (v : Nat) : (s.withLedgerSeq v).flash = s.flash := (rfl)
@[simp] theorem State.fab_withLedgerSeq (s : State) (v : Nat) : (s.withLedgerSeq v).fab = s.fab := (rfl)
@[simp] theorem State.pwr_withLedgerSeq (s : State) (v : Nat) : (s.withLedgerSeq v).pwr = s.pwr := (rfl)
@[simp] theorem State.age_withLedgerSeq (s : State) (v : Nat) : (s.withLedgerSeq v).age = s.age := (rfl)
@[simp] theorem State.tru_withLedgerSeq (s : State) (v : Nat) : (s.withLedgerSeq v).tru = s.tru := (rfl)
@[simp] theorem State.pins_withLedgerSeq (s : State) (v : Nat) : (s.withLedgerSeq v).pins = s.pins := (rfl)
@[simp] theorem State.out_withLedgerSeq (s : State) (v : Nat) : (s.withLedgerSeq v).out = s.out := (rfl)
@[simp] theorem State.reg_withLedgerSeq (s : State) (v : Nat) (r' : RegName) (a b : Nat) :
    (s.withLedgerSeq v).reg r' a b = s.reg r' a b := (rfl)
@[simp] theorem State.fget_withLedgerSeq (s : State) (v : Nat) (g : RF) (a b : Nat) :
    (s.withLedgerSeq v).fget g a b = s.fget g a b := (rfl)
@[simp] theorem State.fbit_withLedgerSeq (s : State) (v : Nat) (g : RF) (a b : Nat) :
    (s.withLedgerSeq v).fbit g a b = s.fbit g a b := (rfl)
@[simp] theorem State.byte_withLedgerSeq (s : State) (v : Nat) (x' : Nat) :
    (s.withLedgerSeq v).byte x' = s.byte x' := (rfl)
@[simp] theorem State.part_withLedgerSeq (s : State) (v : Nat) (k : Nat) :
    (s.withLedgerSeq v).part k = s.part k := (rfl)
@[simp] theorem State.dom_withLedgerSeq (s : State) (v : Nat) (k : Nat) :
    (s.withLedgerSeq v).dom k = s.dom k := (rfl)
@[simp] theorem State.window_withLedgerSeq (s : State) (v : Nat) (k k' : Nat) :
    (s.withLedgerSeq v).window k k' = s.window k k' := (rfl)
@[simp] theorem State.lat_withLedgerSeq (s : State) (v : Nat) (k : Nat) :
    (s.withLedgerSeq v).lat k = s.lat k := (rfl)
@[simp] theorem State.stackX_withLedgerSeq (s : State) (v : Nat) (k : Nat) :
    (s.withLedgerSeq v).stackX k = s.stackX k := (rfl)
@[simp] theorem State.port_withLedgerSeq (s : State) (v : Nat) (k : Nat) :
    (s.withLedgerSeq v).port k = s.port k := (rfl)
@[simp] theorem State.die_withLedgerSeq (s : State) (v : Nat) (k : Nat) :
    (s.withLedgerSeq v).die k = s.die k := (rfl)

-- State.withPowerUps
@[simp] theorem State.pending_withPowerUps (s : State) (v : Nat) : (s.withPowerUps v).pending = s.pending := (rfl)
@[simp] theorem State.tick_withPowerUps (s : State) (v : Nat) : (s.withPowerUps v).tick = s.tick := (rfl)
@[simp] theorem State.free_withPowerUps (s : State) (v : Nat) : (s.withPowerUps v).free = s.free := (rfl)
@[simp] theorem State.regs_withPowerUps (s : State) (v : Nat) : (s.withPowerUps v).regs = s.regs := (rfl)
@[simp] theorem State.mem_withPowerUps (s : State) (v : Nat) : (s.withPowerUps v).mem = s.mem := (rfl)
@[simp] theorem State.windows_withPowerUps (s : State) (v : Nat) : (s.withPowerUps v).windows = s.windows := (rfl)
@[simp] theorem State.flights_withPowerUps (s : State) (v : Nat) : (s.withPowerUps v).flights = s.flights := (rfl)
@[simp] theorem State.granted_withPowerUps (s : State) (v : Nat) : (s.withPowerUps v).granted = s.granted := (rfl)
@[simp] theorem State.drains_withPowerUps (s : State) (v : Nat) : (s.withPowerUps v).drains = s.drains := (rfl)
@[simp] theorem State.parts_withPowerUps (s : State) (v : Nat) : (s.withPowerUps v).parts = s.parts := (rfl)
@[simp] theorem State.evt_withPowerUps (s : State) (v : Nat) : (s.withPowerUps v).evt = s.evt := (rfl)
@[simp] theorem State.hbm_withPowerUps (s : State) (v : Nat) : (s.withPowerUps v).hbm = s.hbm := (rfl)
@[simp] theorem State.ledger_withPowerUps (s : State) (v : Nat) : (s.withPowerUps v).ledger = s.ledger := (rfl)
@[simp] theorem State.ledgerSeq_withPowerUps (s : State) (v : Nat) : (s.withPowerUps v).ledgerSeq = s.ledgerSeq := (rfl)
@[simp] theorem State.domains_withPowerUps (s : State) (v : Nat) : (s.withPowerUps v).domains = s.domains := (rfl)
@[simp] theorem State.tiles_withPowerUps (s : State) (v : Nat) : (s.withPowerUps v).tiles = s.tiles := (rfl)
@[simp] theorem State.lattices_withPowerUps (s : State) (v : Nat) : (s.withPowerUps v).lattices = s.lattices := (rfl)
@[simp] theorem State.taps_withPowerUps (s : State) (v : Nat) : (s.withPowerUps v).taps = s.taps := (rfl)
@[simp] theorem State.requests_withPowerUps (s : State) (v : Nat) : (s.withPowerUps v).requests = s.requests := (rfl)
@[simp] theorem State.nextReq_withPowerUps (s : State) (v : Nat) : (s.withPowerUps v).nextReq = s.nextReq := (rfl)
@[simp] theorem State.mgmt_withPowerUps (s : State) (v : Nat) : (s.withPowerUps v).mgmt = s.mgmt := (rfl)
@[simp] theorem State.seen_withPowerUps (s : State) (v : Nat) : (s.withPowerUps v).seen = s.seen := (rfl)
@[simp] theorem State.grove_withPowerUps (s : State) (v : Nat) : (s.withPowerUps v).grove = s.grove := (rfl)
@[simp] theorem State.flash_withPowerUps (s : State) (v : Nat) : (s.withPowerUps v).flash = s.flash := (rfl)
@[simp] theorem State.fab_withPowerUps (s : State) (v : Nat) : (s.withPowerUps v).fab = s.fab := (rfl)
@[simp] theorem State.pwr_withPowerUps (s : State) (v : Nat) : (s.withPowerUps v).pwr = s.pwr := (rfl)
@[simp] theorem State.age_withPowerUps (s : State) (v : Nat) : (s.withPowerUps v).age = s.age := (rfl)
@[simp] theorem State.tru_withPowerUps (s : State) (v : Nat) : (s.withPowerUps v).tru = s.tru := (rfl)
@[simp] theorem State.pins_withPowerUps (s : State) (v : Nat) : (s.withPowerUps v).pins = s.pins := (rfl)
@[simp] theorem State.out_withPowerUps (s : State) (v : Nat) : (s.withPowerUps v).out = s.out := (rfl)
@[simp] theorem State.reg_withPowerUps (s : State) (v : Nat) (r' : RegName) (a b : Nat) :
    (s.withPowerUps v).reg r' a b = s.reg r' a b := (rfl)
@[simp] theorem State.fget_withPowerUps (s : State) (v : Nat) (g : RF) (a b : Nat) :
    (s.withPowerUps v).fget g a b = s.fget g a b := (rfl)
@[simp] theorem State.fbit_withPowerUps (s : State) (v : Nat) (g : RF) (a b : Nat) :
    (s.withPowerUps v).fbit g a b = s.fbit g a b := (rfl)
@[simp] theorem State.byte_withPowerUps (s : State) (v : Nat) (x' : Nat) :
    (s.withPowerUps v).byte x' = s.byte x' := (rfl)
@[simp] theorem State.part_withPowerUps (s : State) (v : Nat) (k : Nat) :
    (s.withPowerUps v).part k = s.part k := (rfl)
@[simp] theorem State.dom_withPowerUps (s : State) (v : Nat) (k : Nat) :
    (s.withPowerUps v).dom k = s.dom k := (rfl)
@[simp] theorem State.window_withPowerUps (s : State) (v : Nat) (k k' : Nat) :
    (s.withPowerUps v).window k k' = s.window k k' := (rfl)
@[simp] theorem State.lat_withPowerUps (s : State) (v : Nat) (k : Nat) :
    (s.withPowerUps v).lat k = s.lat k := (rfl)
@[simp] theorem State.stackX_withPowerUps (s : State) (v : Nat) (k : Nat) :
    (s.withPowerUps v).stackX k = s.stackX k := (rfl)
@[simp] theorem State.port_withPowerUps (s : State) (v : Nat) (k : Nat) :
    (s.withPowerUps v).port k = s.port k := (rfl)
@[simp] theorem State.die_withPowerUps (s : State) (v : Nat) (k : Nat) :
    (s.withPowerUps v).die k = s.die k := (rfl)

-- State.withDomains
@[simp] theorem State.pending_withDomains (s : State) (v : SMap DomX) : (s.withDomains v).pending = s.pending := (rfl)
@[simp] theorem State.tick_withDomains (s : State) (v : SMap DomX) : (s.withDomains v).tick = s.tick := (rfl)
@[simp] theorem State.free_withDomains (s : State) (v : SMap DomX) : (s.withDomains v).free = s.free := (rfl)
@[simp] theorem State.regs_withDomains (s : State) (v : SMap DomX) : (s.withDomains v).regs = s.regs := (rfl)
@[simp] theorem State.mem_withDomains (s : State) (v : SMap DomX) : (s.withDomains v).mem = s.mem := (rfl)
@[simp] theorem State.windows_withDomains (s : State) (v : SMap DomX) : (s.withDomains v).windows = s.windows := (rfl)
@[simp] theorem State.flights_withDomains (s : State) (v : SMap DomX) : (s.withDomains v).flights = s.flights := (rfl)
@[simp] theorem State.granted_withDomains (s : State) (v : SMap DomX) : (s.withDomains v).granted = s.granted := (rfl)
@[simp] theorem State.drains_withDomains (s : State) (v : SMap DomX) : (s.withDomains v).drains = s.drains := (rfl)
@[simp] theorem State.parts_withDomains (s : State) (v : SMap DomX) : (s.withDomains v).parts = s.parts := (rfl)
@[simp] theorem State.evt_withDomains (s : State) (v : SMap DomX) : (s.withDomains v).evt = s.evt := (rfl)
@[simp] theorem State.hbm_withDomains (s : State) (v : SMap DomX) : (s.withDomains v).hbm = s.hbm := (rfl)
@[simp] theorem State.ledger_withDomains (s : State) (v : SMap DomX) : (s.withDomains v).ledger = s.ledger := (rfl)
@[simp] theorem State.ledgerSeq_withDomains (s : State) (v : SMap DomX) : (s.withDomains v).ledgerSeq = s.ledgerSeq := (rfl)
@[simp] theorem State.powerUps_withDomains (s : State) (v : SMap DomX) : (s.withDomains v).powerUps = s.powerUps := (rfl)
@[simp] theorem State.tiles_withDomains (s : State) (v : SMap DomX) : (s.withDomains v).tiles = s.tiles := (rfl)
@[simp] theorem State.lattices_withDomains (s : State) (v : SMap DomX) : (s.withDomains v).lattices = s.lattices := (rfl)
@[simp] theorem State.taps_withDomains (s : State) (v : SMap DomX) : (s.withDomains v).taps = s.taps := (rfl)
@[simp] theorem State.requests_withDomains (s : State) (v : SMap DomX) : (s.withDomains v).requests = s.requests := (rfl)
@[simp] theorem State.nextReq_withDomains (s : State) (v : SMap DomX) : (s.withDomains v).nextReq = s.nextReq := (rfl)
@[simp] theorem State.mgmt_withDomains (s : State) (v : SMap DomX) : (s.withDomains v).mgmt = s.mgmt := (rfl)
@[simp] theorem State.seen_withDomains (s : State) (v : SMap DomX) : (s.withDomains v).seen = s.seen := (rfl)
@[simp] theorem State.grove_withDomains (s : State) (v : SMap DomX) : (s.withDomains v).grove = s.grove := (rfl)
@[simp] theorem State.flash_withDomains (s : State) (v : SMap DomX) : (s.withDomains v).flash = s.flash := (rfl)
@[simp] theorem State.fab_withDomains (s : State) (v : SMap DomX) : (s.withDomains v).fab = s.fab := (rfl)
@[simp] theorem State.pwr_withDomains (s : State) (v : SMap DomX) : (s.withDomains v).pwr = s.pwr := (rfl)
@[simp] theorem State.age_withDomains (s : State) (v : SMap DomX) : (s.withDomains v).age = s.age := (rfl)
@[simp] theorem State.tru_withDomains (s : State) (v : SMap DomX) : (s.withDomains v).tru = s.tru := (rfl)
@[simp] theorem State.pins_withDomains (s : State) (v : SMap DomX) : (s.withDomains v).pins = s.pins := (rfl)
@[simp] theorem State.out_withDomains (s : State) (v : SMap DomX) : (s.withDomains v).out = s.out := (rfl)
@[simp] theorem State.reg_withDomains (s : State) (v : SMap DomX) (r' : RegName) (a b : Nat) :
    (s.withDomains v).reg r' a b = s.reg r' a b := (rfl)
@[simp] theorem State.fget_withDomains (s : State) (v : SMap DomX) (g : RF) (a b : Nat) :
    (s.withDomains v).fget g a b = s.fget g a b := (rfl)
@[simp] theorem State.fbit_withDomains (s : State) (v : SMap DomX) (g : RF) (a b : Nat) :
    (s.withDomains v).fbit g a b = s.fbit g a b := (rfl)
@[simp] theorem State.byte_withDomains (s : State) (v : SMap DomX) (x' : Nat) :
    (s.withDomains v).byte x' = s.byte x' := (rfl)
@[simp] theorem State.part_withDomains (s : State) (v : SMap DomX) (k : Nat) :
    (s.withDomains v).part k = s.part k := (rfl)
@[simp] theorem State.window_withDomains (s : State) (v : SMap DomX) (k k' : Nat) :
    (s.withDomains v).window k k' = s.window k k' := (rfl)
@[simp] theorem State.lat_withDomains (s : State) (v : SMap DomX) (k : Nat) :
    (s.withDomains v).lat k = s.lat k := (rfl)
@[simp] theorem State.stackX_withDomains (s : State) (v : SMap DomX) (k : Nat) :
    (s.withDomains v).stackX k = s.stackX k := (rfl)
@[simp] theorem State.port_withDomains (s : State) (v : SMap DomX) (k : Nat) :
    (s.withDomains v).port k = s.port k := (rfl)
@[simp] theorem State.die_withDomains (s : State) (v : SMap DomX) (k : Nat) :
    (s.withDomains v).die k = s.die k := (rfl)

-- State.withTiles
@[simp] theorem State.pending_withTiles (s : State) (v : SMap Byte) : (s.withTiles v).pending = s.pending := (rfl)
@[simp] theorem State.tick_withTiles (s : State) (v : SMap Byte) : (s.withTiles v).tick = s.tick := (rfl)
@[simp] theorem State.free_withTiles (s : State) (v : SMap Byte) : (s.withTiles v).free = s.free := (rfl)
@[simp] theorem State.regs_withTiles (s : State) (v : SMap Byte) : (s.withTiles v).regs = s.regs := (rfl)
@[simp] theorem State.mem_withTiles (s : State) (v : SMap Byte) : (s.withTiles v).mem = s.mem := (rfl)
@[simp] theorem State.windows_withTiles (s : State) (v : SMap Byte) : (s.withTiles v).windows = s.windows := (rfl)
@[simp] theorem State.flights_withTiles (s : State) (v : SMap Byte) : (s.withTiles v).flights = s.flights := (rfl)
@[simp] theorem State.granted_withTiles (s : State) (v : SMap Byte) : (s.withTiles v).granted = s.granted := (rfl)
@[simp] theorem State.drains_withTiles (s : State) (v : SMap Byte) : (s.withTiles v).drains = s.drains := (rfl)
@[simp] theorem State.parts_withTiles (s : State) (v : SMap Byte) : (s.withTiles v).parts = s.parts := (rfl)
@[simp] theorem State.evt_withTiles (s : State) (v : SMap Byte) : (s.withTiles v).evt = s.evt := (rfl)
@[simp] theorem State.hbm_withTiles (s : State) (v : SMap Byte) : (s.withTiles v).hbm = s.hbm := (rfl)
@[simp] theorem State.ledger_withTiles (s : State) (v : SMap Byte) : (s.withTiles v).ledger = s.ledger := (rfl)
@[simp] theorem State.ledgerSeq_withTiles (s : State) (v : SMap Byte) : (s.withTiles v).ledgerSeq = s.ledgerSeq := (rfl)
@[simp] theorem State.powerUps_withTiles (s : State) (v : SMap Byte) : (s.withTiles v).powerUps = s.powerUps := (rfl)
@[simp] theorem State.domains_withTiles (s : State) (v : SMap Byte) : (s.withTiles v).domains = s.domains := (rfl)
@[simp] theorem State.lattices_withTiles (s : State) (v : SMap Byte) : (s.withTiles v).lattices = s.lattices := (rfl)
@[simp] theorem State.taps_withTiles (s : State) (v : SMap Byte) : (s.withTiles v).taps = s.taps := (rfl)
@[simp] theorem State.requests_withTiles (s : State) (v : SMap Byte) : (s.withTiles v).requests = s.requests := (rfl)
@[simp] theorem State.nextReq_withTiles (s : State) (v : SMap Byte) : (s.withTiles v).nextReq = s.nextReq := (rfl)
@[simp] theorem State.mgmt_withTiles (s : State) (v : SMap Byte) : (s.withTiles v).mgmt = s.mgmt := (rfl)
@[simp] theorem State.seen_withTiles (s : State) (v : SMap Byte) : (s.withTiles v).seen = s.seen := (rfl)
@[simp] theorem State.grove_withTiles (s : State) (v : SMap Byte) : (s.withTiles v).grove = s.grove := (rfl)
@[simp] theorem State.flash_withTiles (s : State) (v : SMap Byte) : (s.withTiles v).flash = s.flash := (rfl)
@[simp] theorem State.fab_withTiles (s : State) (v : SMap Byte) : (s.withTiles v).fab = s.fab := (rfl)
@[simp] theorem State.pwr_withTiles (s : State) (v : SMap Byte) : (s.withTiles v).pwr = s.pwr := (rfl)
@[simp] theorem State.age_withTiles (s : State) (v : SMap Byte) : (s.withTiles v).age = s.age := (rfl)
@[simp] theorem State.tru_withTiles (s : State) (v : SMap Byte) : (s.withTiles v).tru = s.tru := (rfl)
@[simp] theorem State.pins_withTiles (s : State) (v : SMap Byte) : (s.withTiles v).pins = s.pins := (rfl)
@[simp] theorem State.out_withTiles (s : State) (v : SMap Byte) : (s.withTiles v).out = s.out := (rfl)
@[simp] theorem State.reg_withTiles (s : State) (v : SMap Byte) (r' : RegName) (a b : Nat) :
    (s.withTiles v).reg r' a b = s.reg r' a b := (rfl)
@[simp] theorem State.fget_withTiles (s : State) (v : SMap Byte) (g : RF) (a b : Nat) :
    (s.withTiles v).fget g a b = s.fget g a b := (rfl)
@[simp] theorem State.fbit_withTiles (s : State) (v : SMap Byte) (g : RF) (a b : Nat) :
    (s.withTiles v).fbit g a b = s.fbit g a b := (rfl)
@[simp] theorem State.byte_withTiles (s : State) (v : SMap Byte) (x' : Nat) :
    (s.withTiles v).byte x' = s.byte x' := (rfl)
@[simp] theorem State.part_withTiles (s : State) (v : SMap Byte) (k : Nat) :
    (s.withTiles v).part k = s.part k := (rfl)
@[simp] theorem State.dom_withTiles (s : State) (v : SMap Byte) (k : Nat) :
    (s.withTiles v).dom k = s.dom k := (rfl)
@[simp] theorem State.window_withTiles (s : State) (v : SMap Byte) (k k' : Nat) :
    (s.withTiles v).window k k' = s.window k k' := (rfl)
@[simp] theorem State.lat_withTiles (s : State) (v : SMap Byte) (k : Nat) :
    (s.withTiles v).lat k = s.lat k := (rfl)
@[simp] theorem State.stackX_withTiles (s : State) (v : SMap Byte) (k : Nat) :
    (s.withTiles v).stackX k = s.stackX k := (rfl)
@[simp] theorem State.port_withTiles (s : State) (v : SMap Byte) (k : Nat) :
    (s.withTiles v).port k = s.port k := (rfl)
@[simp] theorem State.die_withTiles (s : State) (v : SMap Byte) (k : Nat) :
    (s.withTiles v).die k = s.die k := (rfl)

-- State.withLattices
@[simp] theorem State.pending_withLattices (s : State) (v : SMap Lattice) : (s.withLattices v).pending = s.pending := (rfl)
@[simp] theorem State.tick_withLattices (s : State) (v : SMap Lattice) : (s.withLattices v).tick = s.tick := (rfl)
@[simp] theorem State.free_withLattices (s : State) (v : SMap Lattice) : (s.withLattices v).free = s.free := (rfl)
@[simp] theorem State.regs_withLattices (s : State) (v : SMap Lattice) : (s.withLattices v).regs = s.regs := (rfl)
@[simp] theorem State.mem_withLattices (s : State) (v : SMap Lattice) : (s.withLattices v).mem = s.mem := (rfl)
@[simp] theorem State.windows_withLattices (s : State) (v : SMap Lattice) : (s.withLattices v).windows = s.windows := (rfl)
@[simp] theorem State.flights_withLattices (s : State) (v : SMap Lattice) : (s.withLattices v).flights = s.flights := (rfl)
@[simp] theorem State.granted_withLattices (s : State) (v : SMap Lattice) : (s.withLattices v).granted = s.granted := (rfl)
@[simp] theorem State.drains_withLattices (s : State) (v : SMap Lattice) : (s.withLattices v).drains = s.drains := (rfl)
@[simp] theorem State.parts_withLattices (s : State) (v : SMap Lattice) : (s.withLattices v).parts = s.parts := (rfl)
@[simp] theorem State.evt_withLattices (s : State) (v : SMap Lattice) : (s.withLattices v).evt = s.evt := (rfl)
@[simp] theorem State.hbm_withLattices (s : State) (v : SMap Lattice) : (s.withLattices v).hbm = s.hbm := (rfl)
@[simp] theorem State.ledger_withLattices (s : State) (v : SMap Lattice) : (s.withLattices v).ledger = s.ledger := (rfl)
@[simp] theorem State.ledgerSeq_withLattices (s : State) (v : SMap Lattice) : (s.withLattices v).ledgerSeq = s.ledgerSeq := (rfl)
@[simp] theorem State.powerUps_withLattices (s : State) (v : SMap Lattice) : (s.withLattices v).powerUps = s.powerUps := (rfl)
@[simp] theorem State.domains_withLattices (s : State) (v : SMap Lattice) : (s.withLattices v).domains = s.domains := (rfl)
@[simp] theorem State.tiles_withLattices (s : State) (v : SMap Lattice) : (s.withLattices v).tiles = s.tiles := (rfl)
@[simp] theorem State.taps_withLattices (s : State) (v : SMap Lattice) : (s.withLattices v).taps = s.taps := (rfl)
@[simp] theorem State.requests_withLattices (s : State) (v : SMap Lattice) : (s.withLattices v).requests = s.requests := (rfl)
@[simp] theorem State.nextReq_withLattices (s : State) (v : SMap Lattice) : (s.withLattices v).nextReq = s.nextReq := (rfl)
@[simp] theorem State.mgmt_withLattices (s : State) (v : SMap Lattice) : (s.withLattices v).mgmt = s.mgmt := (rfl)
@[simp] theorem State.seen_withLattices (s : State) (v : SMap Lattice) : (s.withLattices v).seen = s.seen := (rfl)
@[simp] theorem State.grove_withLattices (s : State) (v : SMap Lattice) : (s.withLattices v).grove = s.grove := (rfl)
@[simp] theorem State.flash_withLattices (s : State) (v : SMap Lattice) : (s.withLattices v).flash = s.flash := (rfl)
@[simp] theorem State.fab_withLattices (s : State) (v : SMap Lattice) : (s.withLattices v).fab = s.fab := (rfl)
@[simp] theorem State.pwr_withLattices (s : State) (v : SMap Lattice) : (s.withLattices v).pwr = s.pwr := (rfl)
@[simp] theorem State.age_withLattices (s : State) (v : SMap Lattice) : (s.withLattices v).age = s.age := (rfl)
@[simp] theorem State.tru_withLattices (s : State) (v : SMap Lattice) : (s.withLattices v).tru = s.tru := (rfl)
@[simp] theorem State.pins_withLattices (s : State) (v : SMap Lattice) : (s.withLattices v).pins = s.pins := (rfl)
@[simp] theorem State.out_withLattices (s : State) (v : SMap Lattice) : (s.withLattices v).out = s.out := (rfl)
@[simp] theorem State.reg_withLattices (s : State) (v : SMap Lattice) (r' : RegName) (a b : Nat) :
    (s.withLattices v).reg r' a b = s.reg r' a b := (rfl)
@[simp] theorem State.fget_withLattices (s : State) (v : SMap Lattice) (g : RF) (a b : Nat) :
    (s.withLattices v).fget g a b = s.fget g a b := (rfl)
@[simp] theorem State.fbit_withLattices (s : State) (v : SMap Lattice) (g : RF) (a b : Nat) :
    (s.withLattices v).fbit g a b = s.fbit g a b := (rfl)
@[simp] theorem State.byte_withLattices (s : State) (v : SMap Lattice) (x' : Nat) :
    (s.withLattices v).byte x' = s.byte x' := (rfl)
@[simp] theorem State.part_withLattices (s : State) (v : SMap Lattice) (k : Nat) :
    (s.withLattices v).part k = s.part k := (rfl)
@[simp] theorem State.dom_withLattices (s : State) (v : SMap Lattice) (k : Nat) :
    (s.withLattices v).dom k = s.dom k := (rfl)
@[simp] theorem State.window_withLattices (s : State) (v : SMap Lattice) (k k' : Nat) :
    (s.withLattices v).window k k' = s.window k k' := (rfl)
@[simp] theorem State.stackX_withLattices (s : State) (v : SMap Lattice) (k : Nat) :
    (s.withLattices v).stackX k = s.stackX k := (rfl)
@[simp] theorem State.port_withLattices (s : State) (v : SMap Lattice) (k : Nat) :
    (s.withLattices v).port k = s.port k := (rfl)
@[simp] theorem State.die_withLattices (s : State) (v : SMap Lattice) (k : Nat) :
    (s.withLattices v).die k = s.die k := (rfl)

-- State.withTaps
@[simp] theorem State.pending_withTaps (s : State) (v : SMap (Option TapSlot)) : (s.withTaps v).pending = s.pending := (rfl)
@[simp] theorem State.tick_withTaps (s : State) (v : SMap (Option TapSlot)) : (s.withTaps v).tick = s.tick := (rfl)
@[simp] theorem State.free_withTaps (s : State) (v : SMap (Option TapSlot)) : (s.withTaps v).free = s.free := (rfl)
@[simp] theorem State.regs_withTaps (s : State) (v : SMap (Option TapSlot)) : (s.withTaps v).regs = s.regs := (rfl)
@[simp] theorem State.mem_withTaps (s : State) (v : SMap (Option TapSlot)) : (s.withTaps v).mem = s.mem := (rfl)
@[simp] theorem State.windows_withTaps (s : State) (v : SMap (Option TapSlot)) : (s.withTaps v).windows = s.windows := (rfl)
@[simp] theorem State.flights_withTaps (s : State) (v : SMap (Option TapSlot)) : (s.withTaps v).flights = s.flights := (rfl)
@[simp] theorem State.granted_withTaps (s : State) (v : SMap (Option TapSlot)) : (s.withTaps v).granted = s.granted := (rfl)
@[simp] theorem State.drains_withTaps (s : State) (v : SMap (Option TapSlot)) : (s.withTaps v).drains = s.drains := (rfl)
@[simp] theorem State.parts_withTaps (s : State) (v : SMap (Option TapSlot)) : (s.withTaps v).parts = s.parts := (rfl)
@[simp] theorem State.evt_withTaps (s : State) (v : SMap (Option TapSlot)) : (s.withTaps v).evt = s.evt := (rfl)
@[simp] theorem State.hbm_withTaps (s : State) (v : SMap (Option TapSlot)) : (s.withTaps v).hbm = s.hbm := (rfl)
@[simp] theorem State.ledger_withTaps (s : State) (v : SMap (Option TapSlot)) : (s.withTaps v).ledger = s.ledger := (rfl)
@[simp] theorem State.ledgerSeq_withTaps (s : State) (v : SMap (Option TapSlot)) : (s.withTaps v).ledgerSeq = s.ledgerSeq := (rfl)
@[simp] theorem State.powerUps_withTaps (s : State) (v : SMap (Option TapSlot)) : (s.withTaps v).powerUps = s.powerUps := (rfl)
@[simp] theorem State.domains_withTaps (s : State) (v : SMap (Option TapSlot)) : (s.withTaps v).domains = s.domains := (rfl)
@[simp] theorem State.tiles_withTaps (s : State) (v : SMap (Option TapSlot)) : (s.withTaps v).tiles = s.tiles := (rfl)
@[simp] theorem State.lattices_withTaps (s : State) (v : SMap (Option TapSlot)) : (s.withTaps v).lattices = s.lattices := (rfl)
@[simp] theorem State.requests_withTaps (s : State) (v : SMap (Option TapSlot)) : (s.withTaps v).requests = s.requests := (rfl)
@[simp] theorem State.nextReq_withTaps (s : State) (v : SMap (Option TapSlot)) : (s.withTaps v).nextReq = s.nextReq := (rfl)
@[simp] theorem State.mgmt_withTaps (s : State) (v : SMap (Option TapSlot)) : (s.withTaps v).mgmt = s.mgmt := (rfl)
@[simp] theorem State.seen_withTaps (s : State) (v : SMap (Option TapSlot)) : (s.withTaps v).seen = s.seen := (rfl)
@[simp] theorem State.grove_withTaps (s : State) (v : SMap (Option TapSlot)) : (s.withTaps v).grove = s.grove := (rfl)
@[simp] theorem State.flash_withTaps (s : State) (v : SMap (Option TapSlot)) : (s.withTaps v).flash = s.flash := (rfl)
@[simp] theorem State.fab_withTaps (s : State) (v : SMap (Option TapSlot)) : (s.withTaps v).fab = s.fab := (rfl)
@[simp] theorem State.pwr_withTaps (s : State) (v : SMap (Option TapSlot)) : (s.withTaps v).pwr = s.pwr := (rfl)
@[simp] theorem State.age_withTaps (s : State) (v : SMap (Option TapSlot)) : (s.withTaps v).age = s.age := (rfl)
@[simp] theorem State.tru_withTaps (s : State) (v : SMap (Option TapSlot)) : (s.withTaps v).tru = s.tru := (rfl)
@[simp] theorem State.pins_withTaps (s : State) (v : SMap (Option TapSlot)) : (s.withTaps v).pins = s.pins := (rfl)
@[simp] theorem State.out_withTaps (s : State) (v : SMap (Option TapSlot)) : (s.withTaps v).out = s.out := (rfl)
@[simp] theorem State.reg_withTaps (s : State) (v : SMap (Option TapSlot)) (r' : RegName) (a b : Nat) :
    (s.withTaps v).reg r' a b = s.reg r' a b := (rfl)
@[simp] theorem State.fget_withTaps (s : State) (v : SMap (Option TapSlot)) (g : RF) (a b : Nat) :
    (s.withTaps v).fget g a b = s.fget g a b := (rfl)
@[simp] theorem State.fbit_withTaps (s : State) (v : SMap (Option TapSlot)) (g : RF) (a b : Nat) :
    (s.withTaps v).fbit g a b = s.fbit g a b := (rfl)
@[simp] theorem State.byte_withTaps (s : State) (v : SMap (Option TapSlot)) (x' : Nat) :
    (s.withTaps v).byte x' = s.byte x' := (rfl)
@[simp] theorem State.part_withTaps (s : State) (v : SMap (Option TapSlot)) (k : Nat) :
    (s.withTaps v).part k = s.part k := (rfl)
@[simp] theorem State.dom_withTaps (s : State) (v : SMap (Option TapSlot)) (k : Nat) :
    (s.withTaps v).dom k = s.dom k := (rfl)
@[simp] theorem State.window_withTaps (s : State) (v : SMap (Option TapSlot)) (k k' : Nat) :
    (s.withTaps v).window k k' = s.window k k' := (rfl)
@[simp] theorem State.lat_withTaps (s : State) (v : SMap (Option TapSlot)) (k : Nat) :
    (s.withTaps v).lat k = s.lat k := (rfl)
@[simp] theorem State.stackX_withTaps (s : State) (v : SMap (Option TapSlot)) (k : Nat) :
    (s.withTaps v).stackX k = s.stackX k := (rfl)
@[simp] theorem State.port_withTaps (s : State) (v : SMap (Option TapSlot)) (k : Nat) :
    (s.withTaps v).port k = s.port k := (rfl)
@[simp] theorem State.die_withTaps (s : State) (v : SMap (Option TapSlot)) (k : Nat) :
    (s.withTaps v).die k = s.die k := (rfl)

-- State.withRequests
@[simp] theorem State.pending_withRequests (s : State) (v : List Request) : (s.withRequests v).pending = s.pending := (rfl)
@[simp] theorem State.tick_withRequests (s : State) (v : List Request) : (s.withRequests v).tick = s.tick := (rfl)
@[simp] theorem State.free_withRequests (s : State) (v : List Request) : (s.withRequests v).free = s.free := (rfl)
@[simp] theorem State.regs_withRequests (s : State) (v : List Request) : (s.withRequests v).regs = s.regs := (rfl)
@[simp] theorem State.mem_withRequests (s : State) (v : List Request) : (s.withRequests v).mem = s.mem := (rfl)
@[simp] theorem State.windows_withRequests (s : State) (v : List Request) : (s.withRequests v).windows = s.windows := (rfl)
@[simp] theorem State.flights_withRequests (s : State) (v : List Request) : (s.withRequests v).flights = s.flights := (rfl)
@[simp] theorem State.granted_withRequests (s : State) (v : List Request) : (s.withRequests v).granted = s.granted := (rfl)
@[simp] theorem State.drains_withRequests (s : State) (v : List Request) : (s.withRequests v).drains = s.drains := (rfl)
@[simp] theorem State.parts_withRequests (s : State) (v : List Request) : (s.withRequests v).parts = s.parts := (rfl)
@[simp] theorem State.evt_withRequests (s : State) (v : List Request) : (s.withRequests v).evt = s.evt := (rfl)
@[simp] theorem State.hbm_withRequests (s : State) (v : List Request) : (s.withRequests v).hbm = s.hbm := (rfl)
@[simp] theorem State.ledger_withRequests (s : State) (v : List Request) : (s.withRequests v).ledger = s.ledger := (rfl)
@[simp] theorem State.ledgerSeq_withRequests (s : State) (v : List Request) : (s.withRequests v).ledgerSeq = s.ledgerSeq := (rfl)
@[simp] theorem State.powerUps_withRequests (s : State) (v : List Request) : (s.withRequests v).powerUps = s.powerUps := (rfl)
@[simp] theorem State.domains_withRequests (s : State) (v : List Request) : (s.withRequests v).domains = s.domains := (rfl)
@[simp] theorem State.tiles_withRequests (s : State) (v : List Request) : (s.withRequests v).tiles = s.tiles := (rfl)
@[simp] theorem State.lattices_withRequests (s : State) (v : List Request) : (s.withRequests v).lattices = s.lattices := (rfl)
@[simp] theorem State.taps_withRequests (s : State) (v : List Request) : (s.withRequests v).taps = s.taps := (rfl)
@[simp] theorem State.nextReq_withRequests (s : State) (v : List Request) : (s.withRequests v).nextReq = s.nextReq := (rfl)
@[simp] theorem State.mgmt_withRequests (s : State) (v : List Request) : (s.withRequests v).mgmt = s.mgmt := (rfl)
@[simp] theorem State.seen_withRequests (s : State) (v : List Request) : (s.withRequests v).seen = s.seen := (rfl)
@[simp] theorem State.grove_withRequests (s : State) (v : List Request) : (s.withRequests v).grove = s.grove := (rfl)
@[simp] theorem State.flash_withRequests (s : State) (v : List Request) : (s.withRequests v).flash = s.flash := (rfl)
@[simp] theorem State.fab_withRequests (s : State) (v : List Request) : (s.withRequests v).fab = s.fab := (rfl)
@[simp] theorem State.pwr_withRequests (s : State) (v : List Request) : (s.withRequests v).pwr = s.pwr := (rfl)
@[simp] theorem State.age_withRequests (s : State) (v : List Request) : (s.withRequests v).age = s.age := (rfl)
@[simp] theorem State.tru_withRequests (s : State) (v : List Request) : (s.withRequests v).tru = s.tru := (rfl)
@[simp] theorem State.pins_withRequests (s : State) (v : List Request) : (s.withRequests v).pins = s.pins := (rfl)
@[simp] theorem State.out_withRequests (s : State) (v : List Request) : (s.withRequests v).out = s.out := (rfl)
@[simp] theorem State.reg_withRequests (s : State) (v : List Request) (r' : RegName) (a b : Nat) :
    (s.withRequests v).reg r' a b = s.reg r' a b := (rfl)
@[simp] theorem State.fget_withRequests (s : State) (v : List Request) (g : RF) (a b : Nat) :
    (s.withRequests v).fget g a b = s.fget g a b := (rfl)
@[simp] theorem State.fbit_withRequests (s : State) (v : List Request) (g : RF) (a b : Nat) :
    (s.withRequests v).fbit g a b = s.fbit g a b := (rfl)
@[simp] theorem State.byte_withRequests (s : State) (v : List Request) (x' : Nat) :
    (s.withRequests v).byte x' = s.byte x' := (rfl)
@[simp] theorem State.part_withRequests (s : State) (v : List Request) (k : Nat) :
    (s.withRequests v).part k = s.part k := (rfl)
@[simp] theorem State.dom_withRequests (s : State) (v : List Request) (k : Nat) :
    (s.withRequests v).dom k = s.dom k := (rfl)
@[simp] theorem State.window_withRequests (s : State) (v : List Request) (k k' : Nat) :
    (s.withRequests v).window k k' = s.window k k' := (rfl)
@[simp] theorem State.lat_withRequests (s : State) (v : List Request) (k : Nat) :
    (s.withRequests v).lat k = s.lat k := (rfl)
@[simp] theorem State.stackX_withRequests (s : State) (v : List Request) (k : Nat) :
    (s.withRequests v).stackX k = s.stackX k := (rfl)
@[simp] theorem State.port_withRequests (s : State) (v : List Request) (k : Nat) :
    (s.withRequests v).port k = s.port k := (rfl)
@[simp] theorem State.die_withRequests (s : State) (v : List Request) (k : Nat) :
    (s.withRequests v).die k = s.die k := (rfl)

-- State.withNextReq
@[simp] theorem State.pending_withNextReq (s : State) (v : Nat) : (s.withNextReq v).pending = s.pending := (rfl)
@[simp] theorem State.tick_withNextReq (s : State) (v : Nat) : (s.withNextReq v).tick = s.tick := (rfl)
@[simp] theorem State.free_withNextReq (s : State) (v : Nat) : (s.withNextReq v).free = s.free := (rfl)
@[simp] theorem State.regs_withNextReq (s : State) (v : Nat) : (s.withNextReq v).regs = s.regs := (rfl)
@[simp] theorem State.mem_withNextReq (s : State) (v : Nat) : (s.withNextReq v).mem = s.mem := (rfl)
@[simp] theorem State.windows_withNextReq (s : State) (v : Nat) : (s.withNextReq v).windows = s.windows := (rfl)
@[simp] theorem State.flights_withNextReq (s : State) (v : Nat) : (s.withNextReq v).flights = s.flights := (rfl)
@[simp] theorem State.granted_withNextReq (s : State) (v : Nat) : (s.withNextReq v).granted = s.granted := (rfl)
@[simp] theorem State.drains_withNextReq (s : State) (v : Nat) : (s.withNextReq v).drains = s.drains := (rfl)
@[simp] theorem State.parts_withNextReq (s : State) (v : Nat) : (s.withNextReq v).parts = s.parts := (rfl)
@[simp] theorem State.evt_withNextReq (s : State) (v : Nat) : (s.withNextReq v).evt = s.evt := (rfl)
@[simp] theorem State.hbm_withNextReq (s : State) (v : Nat) : (s.withNextReq v).hbm = s.hbm := (rfl)
@[simp] theorem State.ledger_withNextReq (s : State) (v : Nat) : (s.withNextReq v).ledger = s.ledger := (rfl)
@[simp] theorem State.ledgerSeq_withNextReq (s : State) (v : Nat) : (s.withNextReq v).ledgerSeq = s.ledgerSeq := (rfl)
@[simp] theorem State.powerUps_withNextReq (s : State) (v : Nat) : (s.withNextReq v).powerUps = s.powerUps := (rfl)
@[simp] theorem State.domains_withNextReq (s : State) (v : Nat) : (s.withNextReq v).domains = s.domains := (rfl)
@[simp] theorem State.tiles_withNextReq (s : State) (v : Nat) : (s.withNextReq v).tiles = s.tiles := (rfl)
@[simp] theorem State.lattices_withNextReq (s : State) (v : Nat) : (s.withNextReq v).lattices = s.lattices := (rfl)
@[simp] theorem State.taps_withNextReq (s : State) (v : Nat) : (s.withNextReq v).taps = s.taps := (rfl)
@[simp] theorem State.requests_withNextReq (s : State) (v : Nat) : (s.withNextReq v).requests = s.requests := (rfl)
@[simp] theorem State.mgmt_withNextReq (s : State) (v : Nat) : (s.withNextReq v).mgmt = s.mgmt := (rfl)
@[simp] theorem State.seen_withNextReq (s : State) (v : Nat) : (s.withNextReq v).seen = s.seen := (rfl)
@[simp] theorem State.grove_withNextReq (s : State) (v : Nat) : (s.withNextReq v).grove = s.grove := (rfl)
@[simp] theorem State.flash_withNextReq (s : State) (v : Nat) : (s.withNextReq v).flash = s.flash := (rfl)
@[simp] theorem State.fab_withNextReq (s : State) (v : Nat) : (s.withNextReq v).fab = s.fab := (rfl)
@[simp] theorem State.pwr_withNextReq (s : State) (v : Nat) : (s.withNextReq v).pwr = s.pwr := (rfl)
@[simp] theorem State.age_withNextReq (s : State) (v : Nat) : (s.withNextReq v).age = s.age := (rfl)
@[simp] theorem State.tru_withNextReq (s : State) (v : Nat) : (s.withNextReq v).tru = s.tru := (rfl)
@[simp] theorem State.pins_withNextReq (s : State) (v : Nat) : (s.withNextReq v).pins = s.pins := (rfl)
@[simp] theorem State.out_withNextReq (s : State) (v : Nat) : (s.withNextReq v).out = s.out := (rfl)
@[simp] theorem State.reg_withNextReq (s : State) (v : Nat) (r' : RegName) (a b : Nat) :
    (s.withNextReq v).reg r' a b = s.reg r' a b := (rfl)
@[simp] theorem State.fget_withNextReq (s : State) (v : Nat) (g : RF) (a b : Nat) :
    (s.withNextReq v).fget g a b = s.fget g a b := (rfl)
@[simp] theorem State.fbit_withNextReq (s : State) (v : Nat) (g : RF) (a b : Nat) :
    (s.withNextReq v).fbit g a b = s.fbit g a b := (rfl)
@[simp] theorem State.byte_withNextReq (s : State) (v : Nat) (x' : Nat) :
    (s.withNextReq v).byte x' = s.byte x' := (rfl)
@[simp] theorem State.part_withNextReq (s : State) (v : Nat) (k : Nat) :
    (s.withNextReq v).part k = s.part k := (rfl)
@[simp] theorem State.dom_withNextReq (s : State) (v : Nat) (k : Nat) :
    (s.withNextReq v).dom k = s.dom k := (rfl)
@[simp] theorem State.window_withNextReq (s : State) (v : Nat) (k k' : Nat) :
    (s.withNextReq v).window k k' = s.window k k' := (rfl)
@[simp] theorem State.lat_withNextReq (s : State) (v : Nat) (k : Nat) :
    (s.withNextReq v).lat k = s.lat k := (rfl)
@[simp] theorem State.stackX_withNextReq (s : State) (v : Nat) (k : Nat) :
    (s.withNextReq v).stackX k = s.stackX k := (rfl)
@[simp] theorem State.port_withNextReq (s : State) (v : Nat) (k : Nat) :
    (s.withNextReq v).port k = s.port k := (rfl)
@[simp] theorem State.die_withNextReq (s : State) (v : Nat) (k : Nat) :
    (s.withNextReq v).die k = s.die k := (rfl)

-- State.withMgmt
@[simp] theorem State.pending_withMgmt (s : State) (v : List MgmtMsg) : (s.withMgmt v).pending = s.pending := (rfl)
@[simp] theorem State.tick_withMgmt (s : State) (v : List MgmtMsg) : (s.withMgmt v).tick = s.tick := (rfl)
@[simp] theorem State.free_withMgmt (s : State) (v : List MgmtMsg) : (s.withMgmt v).free = s.free := (rfl)
@[simp] theorem State.regs_withMgmt (s : State) (v : List MgmtMsg) : (s.withMgmt v).regs = s.regs := (rfl)
@[simp] theorem State.mem_withMgmt (s : State) (v : List MgmtMsg) : (s.withMgmt v).mem = s.mem := (rfl)
@[simp] theorem State.windows_withMgmt (s : State) (v : List MgmtMsg) : (s.withMgmt v).windows = s.windows := (rfl)
@[simp] theorem State.flights_withMgmt (s : State) (v : List MgmtMsg) : (s.withMgmt v).flights = s.flights := (rfl)
@[simp] theorem State.granted_withMgmt (s : State) (v : List MgmtMsg) : (s.withMgmt v).granted = s.granted := (rfl)
@[simp] theorem State.drains_withMgmt (s : State) (v : List MgmtMsg) : (s.withMgmt v).drains = s.drains := (rfl)
@[simp] theorem State.parts_withMgmt (s : State) (v : List MgmtMsg) : (s.withMgmt v).parts = s.parts := (rfl)
@[simp] theorem State.evt_withMgmt (s : State) (v : List MgmtMsg) : (s.withMgmt v).evt = s.evt := (rfl)
@[simp] theorem State.hbm_withMgmt (s : State) (v : List MgmtMsg) : (s.withMgmt v).hbm = s.hbm := (rfl)
@[simp] theorem State.ledger_withMgmt (s : State) (v : List MgmtMsg) : (s.withMgmt v).ledger = s.ledger := (rfl)
@[simp] theorem State.ledgerSeq_withMgmt (s : State) (v : List MgmtMsg) : (s.withMgmt v).ledgerSeq = s.ledgerSeq := (rfl)
@[simp] theorem State.powerUps_withMgmt (s : State) (v : List MgmtMsg) : (s.withMgmt v).powerUps = s.powerUps := (rfl)
@[simp] theorem State.domains_withMgmt (s : State) (v : List MgmtMsg) : (s.withMgmt v).domains = s.domains := (rfl)
@[simp] theorem State.tiles_withMgmt (s : State) (v : List MgmtMsg) : (s.withMgmt v).tiles = s.tiles := (rfl)
@[simp] theorem State.lattices_withMgmt (s : State) (v : List MgmtMsg) : (s.withMgmt v).lattices = s.lattices := (rfl)
@[simp] theorem State.taps_withMgmt (s : State) (v : List MgmtMsg) : (s.withMgmt v).taps = s.taps := (rfl)
@[simp] theorem State.requests_withMgmt (s : State) (v : List MgmtMsg) : (s.withMgmt v).requests = s.requests := (rfl)
@[simp] theorem State.nextReq_withMgmt (s : State) (v : List MgmtMsg) : (s.withMgmt v).nextReq = s.nextReq := (rfl)
@[simp] theorem State.seen_withMgmt (s : State) (v : List MgmtMsg) : (s.withMgmt v).seen = s.seen := (rfl)
@[simp] theorem State.grove_withMgmt (s : State) (v : List MgmtMsg) : (s.withMgmt v).grove = s.grove := (rfl)
@[simp] theorem State.flash_withMgmt (s : State) (v : List MgmtMsg) : (s.withMgmt v).flash = s.flash := (rfl)
@[simp] theorem State.fab_withMgmt (s : State) (v : List MgmtMsg) : (s.withMgmt v).fab = s.fab := (rfl)
@[simp] theorem State.pwr_withMgmt (s : State) (v : List MgmtMsg) : (s.withMgmt v).pwr = s.pwr := (rfl)
@[simp] theorem State.age_withMgmt (s : State) (v : List MgmtMsg) : (s.withMgmt v).age = s.age := (rfl)
@[simp] theorem State.tru_withMgmt (s : State) (v : List MgmtMsg) : (s.withMgmt v).tru = s.tru := (rfl)
@[simp] theorem State.pins_withMgmt (s : State) (v : List MgmtMsg) : (s.withMgmt v).pins = s.pins := (rfl)
@[simp] theorem State.out_withMgmt (s : State) (v : List MgmtMsg) : (s.withMgmt v).out = s.out := (rfl)
@[simp] theorem State.reg_withMgmt (s : State) (v : List MgmtMsg) (r' : RegName) (a b : Nat) :
    (s.withMgmt v).reg r' a b = s.reg r' a b := (rfl)
@[simp] theorem State.fget_withMgmt (s : State) (v : List MgmtMsg) (g : RF) (a b : Nat) :
    (s.withMgmt v).fget g a b = s.fget g a b := (rfl)
@[simp] theorem State.fbit_withMgmt (s : State) (v : List MgmtMsg) (g : RF) (a b : Nat) :
    (s.withMgmt v).fbit g a b = s.fbit g a b := (rfl)
@[simp] theorem State.byte_withMgmt (s : State) (v : List MgmtMsg) (x' : Nat) :
    (s.withMgmt v).byte x' = s.byte x' := (rfl)
@[simp] theorem State.part_withMgmt (s : State) (v : List MgmtMsg) (k : Nat) :
    (s.withMgmt v).part k = s.part k := (rfl)
@[simp] theorem State.dom_withMgmt (s : State) (v : List MgmtMsg) (k : Nat) :
    (s.withMgmt v).dom k = s.dom k := (rfl)
@[simp] theorem State.window_withMgmt (s : State) (v : List MgmtMsg) (k k' : Nat) :
    (s.withMgmt v).window k k' = s.window k k' := (rfl)
@[simp] theorem State.lat_withMgmt (s : State) (v : List MgmtMsg) (k : Nat) :
    (s.withMgmt v).lat k = s.lat k := (rfl)
@[simp] theorem State.stackX_withMgmt (s : State) (v : List MgmtMsg) (k : Nat) :
    (s.withMgmt v).stackX k = s.stackX k := (rfl)
@[simp] theorem State.port_withMgmt (s : State) (v : List MgmtMsg) (k : Nat) :
    (s.withMgmt v).port k = s.port k := (rfl)
@[simp] theorem State.die_withMgmt (s : State) (v : List MgmtMsg) (k : Nat) :
    (s.withMgmt v).die k = s.die k := (rfl)

-- State.withSeen
@[simp] theorem State.pending_withSeen (s : State) (v : List (Nat × Nat × Nat × Addr)) : (s.withSeen v).pending = s.pending := (rfl)
@[simp] theorem State.tick_withSeen (s : State) (v : List (Nat × Nat × Nat × Addr)) : (s.withSeen v).tick = s.tick := (rfl)
@[simp] theorem State.free_withSeen (s : State) (v : List (Nat × Nat × Nat × Addr)) : (s.withSeen v).free = s.free := (rfl)
@[simp] theorem State.regs_withSeen (s : State) (v : List (Nat × Nat × Nat × Addr)) : (s.withSeen v).regs = s.regs := (rfl)
@[simp] theorem State.mem_withSeen (s : State) (v : List (Nat × Nat × Nat × Addr)) : (s.withSeen v).mem = s.mem := (rfl)
@[simp] theorem State.windows_withSeen (s : State) (v : List (Nat × Nat × Nat × Addr)) : (s.withSeen v).windows = s.windows := (rfl)
@[simp] theorem State.flights_withSeen (s : State) (v : List (Nat × Nat × Nat × Addr)) : (s.withSeen v).flights = s.flights := (rfl)
@[simp] theorem State.granted_withSeen (s : State) (v : List (Nat × Nat × Nat × Addr)) : (s.withSeen v).granted = s.granted := (rfl)
@[simp] theorem State.drains_withSeen (s : State) (v : List (Nat × Nat × Nat × Addr)) : (s.withSeen v).drains = s.drains := (rfl)
@[simp] theorem State.parts_withSeen (s : State) (v : List (Nat × Nat × Nat × Addr)) : (s.withSeen v).parts = s.parts := (rfl)
@[simp] theorem State.evt_withSeen (s : State) (v : List (Nat × Nat × Nat × Addr)) : (s.withSeen v).evt = s.evt := (rfl)
@[simp] theorem State.hbm_withSeen (s : State) (v : List (Nat × Nat × Nat × Addr)) : (s.withSeen v).hbm = s.hbm := (rfl)
@[simp] theorem State.ledger_withSeen (s : State) (v : List (Nat × Nat × Nat × Addr)) : (s.withSeen v).ledger = s.ledger := (rfl)
@[simp] theorem State.ledgerSeq_withSeen (s : State) (v : List (Nat × Nat × Nat × Addr)) : (s.withSeen v).ledgerSeq = s.ledgerSeq := (rfl)
@[simp] theorem State.powerUps_withSeen (s : State) (v : List (Nat × Nat × Nat × Addr)) : (s.withSeen v).powerUps = s.powerUps := (rfl)
@[simp] theorem State.domains_withSeen (s : State) (v : List (Nat × Nat × Nat × Addr)) : (s.withSeen v).domains = s.domains := (rfl)
@[simp] theorem State.tiles_withSeen (s : State) (v : List (Nat × Nat × Nat × Addr)) : (s.withSeen v).tiles = s.tiles := (rfl)
@[simp] theorem State.lattices_withSeen (s : State) (v : List (Nat × Nat × Nat × Addr)) : (s.withSeen v).lattices = s.lattices := (rfl)
@[simp] theorem State.taps_withSeen (s : State) (v : List (Nat × Nat × Nat × Addr)) : (s.withSeen v).taps = s.taps := (rfl)
@[simp] theorem State.requests_withSeen (s : State) (v : List (Nat × Nat × Nat × Addr)) : (s.withSeen v).requests = s.requests := (rfl)
@[simp] theorem State.nextReq_withSeen (s : State) (v : List (Nat × Nat × Nat × Addr)) : (s.withSeen v).nextReq = s.nextReq := (rfl)
@[simp] theorem State.mgmt_withSeen (s : State) (v : List (Nat × Nat × Nat × Addr)) : (s.withSeen v).mgmt = s.mgmt := (rfl)
@[simp] theorem State.grove_withSeen (s : State) (v : List (Nat × Nat × Nat × Addr)) : (s.withSeen v).grove = s.grove := (rfl)
@[simp] theorem State.flash_withSeen (s : State) (v : List (Nat × Nat × Nat × Addr)) : (s.withSeen v).flash = s.flash := (rfl)
@[simp] theorem State.fab_withSeen (s : State) (v : List (Nat × Nat × Nat × Addr)) : (s.withSeen v).fab = s.fab := (rfl)
@[simp] theorem State.pwr_withSeen (s : State) (v : List (Nat × Nat × Nat × Addr)) : (s.withSeen v).pwr = s.pwr := (rfl)
@[simp] theorem State.age_withSeen (s : State) (v : List (Nat × Nat × Nat × Addr)) : (s.withSeen v).age = s.age := (rfl)
@[simp] theorem State.tru_withSeen (s : State) (v : List (Nat × Nat × Nat × Addr)) : (s.withSeen v).tru = s.tru := (rfl)
@[simp] theorem State.pins_withSeen (s : State) (v : List (Nat × Nat × Nat × Addr)) : (s.withSeen v).pins = s.pins := (rfl)
@[simp] theorem State.out_withSeen (s : State) (v : List (Nat × Nat × Nat × Addr)) : (s.withSeen v).out = s.out := (rfl)
@[simp] theorem State.reg_withSeen (s : State) (v : List (Nat × Nat × Nat × Addr)) (r' : RegName) (a b : Nat) :
    (s.withSeen v).reg r' a b = s.reg r' a b := (rfl)
@[simp] theorem State.fget_withSeen (s : State) (v : List (Nat × Nat × Nat × Addr)) (g : RF) (a b : Nat) :
    (s.withSeen v).fget g a b = s.fget g a b := (rfl)
@[simp] theorem State.fbit_withSeen (s : State) (v : List (Nat × Nat × Nat × Addr)) (g : RF) (a b : Nat) :
    (s.withSeen v).fbit g a b = s.fbit g a b := (rfl)
@[simp] theorem State.byte_withSeen (s : State) (v : List (Nat × Nat × Nat × Addr)) (x' : Nat) :
    (s.withSeen v).byte x' = s.byte x' := (rfl)
@[simp] theorem State.part_withSeen (s : State) (v : List (Nat × Nat × Nat × Addr)) (k : Nat) :
    (s.withSeen v).part k = s.part k := (rfl)
@[simp] theorem State.dom_withSeen (s : State) (v : List (Nat × Nat × Nat × Addr)) (k : Nat) :
    (s.withSeen v).dom k = s.dom k := (rfl)
@[simp] theorem State.window_withSeen (s : State) (v : List (Nat × Nat × Nat × Addr)) (k k' : Nat) :
    (s.withSeen v).window k k' = s.window k k' := (rfl)
@[simp] theorem State.lat_withSeen (s : State) (v : List (Nat × Nat × Nat × Addr)) (k : Nat) :
    (s.withSeen v).lat k = s.lat k := (rfl)
@[simp] theorem State.stackX_withSeen (s : State) (v : List (Nat × Nat × Nat × Addr)) (k : Nat) :
    (s.withSeen v).stackX k = s.stackX k := (rfl)
@[simp] theorem State.port_withSeen (s : State) (v : List (Nat × Nat × Nat × Addr)) (k : Nat) :
    (s.withSeen v).port k = s.port k := (rfl)
@[simp] theorem State.die_withSeen (s : State) (v : List (Nat × Nat × Nat × Addr)) (k : Nat) :
    (s.withSeen v).die k = s.die k := (rfl)

-- State.withGrove
@[simp] theorem State.pending_withGrove (s : State) (v : GroveX) : (s.withGrove v).pending = s.pending := (rfl)
@[simp] theorem State.tick_withGrove (s : State) (v : GroveX) : (s.withGrove v).tick = s.tick := (rfl)
@[simp] theorem State.free_withGrove (s : State) (v : GroveX) : (s.withGrove v).free = s.free := (rfl)
@[simp] theorem State.regs_withGrove (s : State) (v : GroveX) : (s.withGrove v).regs = s.regs := (rfl)
@[simp] theorem State.mem_withGrove (s : State) (v : GroveX) : (s.withGrove v).mem = s.mem := (rfl)
@[simp] theorem State.windows_withGrove (s : State) (v : GroveX) : (s.withGrove v).windows = s.windows := (rfl)
@[simp] theorem State.flights_withGrove (s : State) (v : GroveX) : (s.withGrove v).flights = s.flights := (rfl)
@[simp] theorem State.granted_withGrove (s : State) (v : GroveX) : (s.withGrove v).granted = s.granted := (rfl)
@[simp] theorem State.drains_withGrove (s : State) (v : GroveX) : (s.withGrove v).drains = s.drains := (rfl)
@[simp] theorem State.parts_withGrove (s : State) (v : GroveX) : (s.withGrove v).parts = s.parts := (rfl)
@[simp] theorem State.evt_withGrove (s : State) (v : GroveX) : (s.withGrove v).evt = s.evt := (rfl)
@[simp] theorem State.hbm_withGrove (s : State) (v : GroveX) : (s.withGrove v).hbm = s.hbm := (rfl)
@[simp] theorem State.ledger_withGrove (s : State) (v : GroveX) : (s.withGrove v).ledger = s.ledger := (rfl)
@[simp] theorem State.ledgerSeq_withGrove (s : State) (v : GroveX) : (s.withGrove v).ledgerSeq = s.ledgerSeq := (rfl)
@[simp] theorem State.powerUps_withGrove (s : State) (v : GroveX) : (s.withGrove v).powerUps = s.powerUps := (rfl)
@[simp] theorem State.domains_withGrove (s : State) (v : GroveX) : (s.withGrove v).domains = s.domains := (rfl)
@[simp] theorem State.tiles_withGrove (s : State) (v : GroveX) : (s.withGrove v).tiles = s.tiles := (rfl)
@[simp] theorem State.lattices_withGrove (s : State) (v : GroveX) : (s.withGrove v).lattices = s.lattices := (rfl)
@[simp] theorem State.taps_withGrove (s : State) (v : GroveX) : (s.withGrove v).taps = s.taps := (rfl)
@[simp] theorem State.requests_withGrove (s : State) (v : GroveX) : (s.withGrove v).requests = s.requests := (rfl)
@[simp] theorem State.nextReq_withGrove (s : State) (v : GroveX) : (s.withGrove v).nextReq = s.nextReq := (rfl)
@[simp] theorem State.mgmt_withGrove (s : State) (v : GroveX) : (s.withGrove v).mgmt = s.mgmt := (rfl)
@[simp] theorem State.seen_withGrove (s : State) (v : GroveX) : (s.withGrove v).seen = s.seen := (rfl)
@[simp] theorem State.flash_withGrove (s : State) (v : GroveX) : (s.withGrove v).flash = s.flash := (rfl)
@[simp] theorem State.fab_withGrove (s : State) (v : GroveX) : (s.withGrove v).fab = s.fab := (rfl)
@[simp] theorem State.pwr_withGrove (s : State) (v : GroveX) : (s.withGrove v).pwr = s.pwr := (rfl)
@[simp] theorem State.age_withGrove (s : State) (v : GroveX) : (s.withGrove v).age = s.age := (rfl)
@[simp] theorem State.tru_withGrove (s : State) (v : GroveX) : (s.withGrove v).tru = s.tru := (rfl)
@[simp] theorem State.pins_withGrove (s : State) (v : GroveX) : (s.withGrove v).pins = s.pins := (rfl)
@[simp] theorem State.out_withGrove (s : State) (v : GroveX) : (s.withGrove v).out = s.out := (rfl)
@[simp] theorem State.reg_withGrove (s : State) (v : GroveX) (r' : RegName) (a b : Nat) :
    (s.withGrove v).reg r' a b = s.reg r' a b := (rfl)
@[simp] theorem State.fget_withGrove (s : State) (v : GroveX) (g : RF) (a b : Nat) :
    (s.withGrove v).fget g a b = s.fget g a b := (rfl)
@[simp] theorem State.fbit_withGrove (s : State) (v : GroveX) (g : RF) (a b : Nat) :
    (s.withGrove v).fbit g a b = s.fbit g a b := (rfl)
@[simp] theorem State.byte_withGrove (s : State) (v : GroveX) (x' : Nat) :
    (s.withGrove v).byte x' = s.byte x' := (rfl)
@[simp] theorem State.part_withGrove (s : State) (v : GroveX) (k : Nat) :
    (s.withGrove v).part k = s.part k := (rfl)
@[simp] theorem State.dom_withGrove (s : State) (v : GroveX) (k : Nat) :
    (s.withGrove v).dom k = s.dom k := (rfl)
@[simp] theorem State.window_withGrove (s : State) (v : GroveX) (k k' : Nat) :
    (s.withGrove v).window k k' = s.window k k' := (rfl)
@[simp] theorem State.lat_withGrove (s : State) (v : GroveX) (k : Nat) :
    (s.withGrove v).lat k = s.lat k := (rfl)
@[simp] theorem State.stackX_withGrove (s : State) (v : GroveX) (k : Nat) :
    (s.withGrove v).stackX k = s.stackX k := (rfl)
@[simp] theorem State.port_withGrove (s : State) (v : GroveX) (k : Nat) :
    (s.withGrove v).port k = s.port k := (rfl)
@[simp] theorem State.die_withGrove (s : State) (v : GroveX) (k : Nat) :
    (s.withGrove v).die k = s.die k := (rfl)

-- State.withFlash
@[simp] theorem State.pending_withFlash (s : State) (v : FlashX) : (s.withFlash v).pending = s.pending := (rfl)
@[simp] theorem State.tick_withFlash (s : State) (v : FlashX) : (s.withFlash v).tick = s.tick := (rfl)
@[simp] theorem State.free_withFlash (s : State) (v : FlashX) : (s.withFlash v).free = s.free := (rfl)
@[simp] theorem State.regs_withFlash (s : State) (v : FlashX) : (s.withFlash v).regs = s.regs := (rfl)
@[simp] theorem State.mem_withFlash (s : State) (v : FlashX) : (s.withFlash v).mem = s.mem := (rfl)
@[simp] theorem State.windows_withFlash (s : State) (v : FlashX) : (s.withFlash v).windows = s.windows := (rfl)
@[simp] theorem State.flights_withFlash (s : State) (v : FlashX) : (s.withFlash v).flights = s.flights := (rfl)
@[simp] theorem State.granted_withFlash (s : State) (v : FlashX) : (s.withFlash v).granted = s.granted := (rfl)
@[simp] theorem State.drains_withFlash (s : State) (v : FlashX) : (s.withFlash v).drains = s.drains := (rfl)
@[simp] theorem State.parts_withFlash (s : State) (v : FlashX) : (s.withFlash v).parts = s.parts := (rfl)
@[simp] theorem State.evt_withFlash (s : State) (v : FlashX) : (s.withFlash v).evt = s.evt := (rfl)
@[simp] theorem State.hbm_withFlash (s : State) (v : FlashX) : (s.withFlash v).hbm = s.hbm := (rfl)
@[simp] theorem State.ledger_withFlash (s : State) (v : FlashX) : (s.withFlash v).ledger = s.ledger := (rfl)
@[simp] theorem State.ledgerSeq_withFlash (s : State) (v : FlashX) : (s.withFlash v).ledgerSeq = s.ledgerSeq := (rfl)
@[simp] theorem State.powerUps_withFlash (s : State) (v : FlashX) : (s.withFlash v).powerUps = s.powerUps := (rfl)
@[simp] theorem State.domains_withFlash (s : State) (v : FlashX) : (s.withFlash v).domains = s.domains := (rfl)
@[simp] theorem State.tiles_withFlash (s : State) (v : FlashX) : (s.withFlash v).tiles = s.tiles := (rfl)
@[simp] theorem State.lattices_withFlash (s : State) (v : FlashX) : (s.withFlash v).lattices = s.lattices := (rfl)
@[simp] theorem State.taps_withFlash (s : State) (v : FlashX) : (s.withFlash v).taps = s.taps := (rfl)
@[simp] theorem State.requests_withFlash (s : State) (v : FlashX) : (s.withFlash v).requests = s.requests := (rfl)
@[simp] theorem State.nextReq_withFlash (s : State) (v : FlashX) : (s.withFlash v).nextReq = s.nextReq := (rfl)
@[simp] theorem State.mgmt_withFlash (s : State) (v : FlashX) : (s.withFlash v).mgmt = s.mgmt := (rfl)
@[simp] theorem State.seen_withFlash (s : State) (v : FlashX) : (s.withFlash v).seen = s.seen := (rfl)
@[simp] theorem State.grove_withFlash (s : State) (v : FlashX) : (s.withFlash v).grove = s.grove := (rfl)
@[simp] theorem State.fab_withFlash (s : State) (v : FlashX) : (s.withFlash v).fab = s.fab := (rfl)
@[simp] theorem State.pwr_withFlash (s : State) (v : FlashX) : (s.withFlash v).pwr = s.pwr := (rfl)
@[simp] theorem State.age_withFlash (s : State) (v : FlashX) : (s.withFlash v).age = s.age := (rfl)
@[simp] theorem State.tru_withFlash (s : State) (v : FlashX) : (s.withFlash v).tru = s.tru := (rfl)
@[simp] theorem State.pins_withFlash (s : State) (v : FlashX) : (s.withFlash v).pins = s.pins := (rfl)
@[simp] theorem State.out_withFlash (s : State) (v : FlashX) : (s.withFlash v).out = s.out := (rfl)
@[simp] theorem State.reg_withFlash (s : State) (v : FlashX) (r' : RegName) (a b : Nat) :
    (s.withFlash v).reg r' a b = s.reg r' a b := (rfl)
@[simp] theorem State.fget_withFlash (s : State) (v : FlashX) (g : RF) (a b : Nat) :
    (s.withFlash v).fget g a b = s.fget g a b := (rfl)
@[simp] theorem State.fbit_withFlash (s : State) (v : FlashX) (g : RF) (a b : Nat) :
    (s.withFlash v).fbit g a b = s.fbit g a b := (rfl)
@[simp] theorem State.byte_withFlash (s : State) (v : FlashX) (x' : Nat) :
    (s.withFlash v).byte x' = s.byte x' := (rfl)
@[simp] theorem State.part_withFlash (s : State) (v : FlashX) (k : Nat) :
    (s.withFlash v).part k = s.part k := (rfl)
@[simp] theorem State.dom_withFlash (s : State) (v : FlashX) (k : Nat) :
    (s.withFlash v).dom k = s.dom k := (rfl)
@[simp] theorem State.window_withFlash (s : State) (v : FlashX) (k k' : Nat) :
    (s.withFlash v).window k k' = s.window k k' := (rfl)
@[simp] theorem State.lat_withFlash (s : State) (v : FlashX) (k : Nat) :
    (s.withFlash v).lat k = s.lat k := (rfl)
@[simp] theorem State.stackX_withFlash (s : State) (v : FlashX) (k : Nat) :
    (s.withFlash v).stackX k = s.stackX k := (rfl)
@[simp] theorem State.port_withFlash (s : State) (v : FlashX) (k : Nat) :
    (s.withFlash v).port k = s.port k := (rfl)
@[simp] theorem State.die_withFlash (s : State) (v : FlashX) (k : Nat) :
    (s.withFlash v).die k = s.die k := (rfl)

-- State.withFab
@[simp] theorem State.pending_withFab (s : State) (v : FabX) : (s.withFab v).pending = s.pending := (rfl)
@[simp] theorem State.tick_withFab (s : State) (v : FabX) : (s.withFab v).tick = s.tick := (rfl)
@[simp] theorem State.free_withFab (s : State) (v : FabX) : (s.withFab v).free = s.free := (rfl)
@[simp] theorem State.regs_withFab (s : State) (v : FabX) : (s.withFab v).regs = s.regs := (rfl)
@[simp] theorem State.mem_withFab (s : State) (v : FabX) : (s.withFab v).mem = s.mem := (rfl)
@[simp] theorem State.windows_withFab (s : State) (v : FabX) : (s.withFab v).windows = s.windows := (rfl)
@[simp] theorem State.flights_withFab (s : State) (v : FabX) : (s.withFab v).flights = s.flights := (rfl)
@[simp] theorem State.granted_withFab (s : State) (v : FabX) : (s.withFab v).granted = s.granted := (rfl)
@[simp] theorem State.drains_withFab (s : State) (v : FabX) : (s.withFab v).drains = s.drains := (rfl)
@[simp] theorem State.parts_withFab (s : State) (v : FabX) : (s.withFab v).parts = s.parts := (rfl)
@[simp] theorem State.evt_withFab (s : State) (v : FabX) : (s.withFab v).evt = s.evt := (rfl)
@[simp] theorem State.hbm_withFab (s : State) (v : FabX) : (s.withFab v).hbm = s.hbm := (rfl)
@[simp] theorem State.ledger_withFab (s : State) (v : FabX) : (s.withFab v).ledger = s.ledger := (rfl)
@[simp] theorem State.ledgerSeq_withFab (s : State) (v : FabX) : (s.withFab v).ledgerSeq = s.ledgerSeq := (rfl)
@[simp] theorem State.powerUps_withFab (s : State) (v : FabX) : (s.withFab v).powerUps = s.powerUps := (rfl)
@[simp] theorem State.domains_withFab (s : State) (v : FabX) : (s.withFab v).domains = s.domains := (rfl)
@[simp] theorem State.tiles_withFab (s : State) (v : FabX) : (s.withFab v).tiles = s.tiles := (rfl)
@[simp] theorem State.lattices_withFab (s : State) (v : FabX) : (s.withFab v).lattices = s.lattices := (rfl)
@[simp] theorem State.taps_withFab (s : State) (v : FabX) : (s.withFab v).taps = s.taps := (rfl)
@[simp] theorem State.requests_withFab (s : State) (v : FabX) : (s.withFab v).requests = s.requests := (rfl)
@[simp] theorem State.nextReq_withFab (s : State) (v : FabX) : (s.withFab v).nextReq = s.nextReq := (rfl)
@[simp] theorem State.mgmt_withFab (s : State) (v : FabX) : (s.withFab v).mgmt = s.mgmt := (rfl)
@[simp] theorem State.seen_withFab (s : State) (v : FabX) : (s.withFab v).seen = s.seen := (rfl)
@[simp] theorem State.grove_withFab (s : State) (v : FabX) : (s.withFab v).grove = s.grove := (rfl)
@[simp] theorem State.flash_withFab (s : State) (v : FabX) : (s.withFab v).flash = s.flash := (rfl)
@[simp] theorem State.pwr_withFab (s : State) (v : FabX) : (s.withFab v).pwr = s.pwr := (rfl)
@[simp] theorem State.age_withFab (s : State) (v : FabX) : (s.withFab v).age = s.age := (rfl)
@[simp] theorem State.tru_withFab (s : State) (v : FabX) : (s.withFab v).tru = s.tru := (rfl)
@[simp] theorem State.pins_withFab (s : State) (v : FabX) : (s.withFab v).pins = s.pins := (rfl)
@[simp] theorem State.out_withFab (s : State) (v : FabX) : (s.withFab v).out = s.out := (rfl)
@[simp] theorem State.reg_withFab (s : State) (v : FabX) (r' : RegName) (a b : Nat) :
    (s.withFab v).reg r' a b = s.reg r' a b := (rfl)
@[simp] theorem State.fget_withFab (s : State) (v : FabX) (g : RF) (a b : Nat) :
    (s.withFab v).fget g a b = s.fget g a b := (rfl)
@[simp] theorem State.fbit_withFab (s : State) (v : FabX) (g : RF) (a b : Nat) :
    (s.withFab v).fbit g a b = s.fbit g a b := (rfl)
@[simp] theorem State.byte_withFab (s : State) (v : FabX) (x' : Nat) :
    (s.withFab v).byte x' = s.byte x' := (rfl)
@[simp] theorem State.part_withFab (s : State) (v : FabX) (k : Nat) :
    (s.withFab v).part k = s.part k := (rfl)
@[simp] theorem State.dom_withFab (s : State) (v : FabX) (k : Nat) :
    (s.withFab v).dom k = s.dom k := (rfl)
@[simp] theorem State.window_withFab (s : State) (v : FabX) (k k' : Nat) :
    (s.withFab v).window k k' = s.window k k' := (rfl)
@[simp] theorem State.lat_withFab (s : State) (v : FabX) (k : Nat) :
    (s.withFab v).lat k = s.lat k := (rfl)
@[simp] theorem State.stackX_withFab (s : State) (v : FabX) (k : Nat) :
    (s.withFab v).stackX k = s.stackX k := (rfl)
@[simp] theorem State.die_withFab (s : State) (v : FabX) (k : Nat) :
    (s.withFab v).die k = s.die k := (rfl)

-- State.withPwr
@[simp] theorem State.pending_withPwr (s : State) (v : PwrX) : (s.withPwr v).pending = s.pending := (rfl)
@[simp] theorem State.tick_withPwr (s : State) (v : PwrX) : (s.withPwr v).tick = s.tick := (rfl)
@[simp] theorem State.free_withPwr (s : State) (v : PwrX) : (s.withPwr v).free = s.free := (rfl)
@[simp] theorem State.regs_withPwr (s : State) (v : PwrX) : (s.withPwr v).regs = s.regs := (rfl)
@[simp] theorem State.mem_withPwr (s : State) (v : PwrX) : (s.withPwr v).mem = s.mem := (rfl)
@[simp] theorem State.windows_withPwr (s : State) (v : PwrX) : (s.withPwr v).windows = s.windows := (rfl)
@[simp] theorem State.flights_withPwr (s : State) (v : PwrX) : (s.withPwr v).flights = s.flights := (rfl)
@[simp] theorem State.granted_withPwr (s : State) (v : PwrX) : (s.withPwr v).granted = s.granted := (rfl)
@[simp] theorem State.drains_withPwr (s : State) (v : PwrX) : (s.withPwr v).drains = s.drains := (rfl)
@[simp] theorem State.parts_withPwr (s : State) (v : PwrX) : (s.withPwr v).parts = s.parts := (rfl)
@[simp] theorem State.evt_withPwr (s : State) (v : PwrX) : (s.withPwr v).evt = s.evt := (rfl)
@[simp] theorem State.hbm_withPwr (s : State) (v : PwrX) : (s.withPwr v).hbm = s.hbm := (rfl)
@[simp] theorem State.ledger_withPwr (s : State) (v : PwrX) : (s.withPwr v).ledger = s.ledger := (rfl)
@[simp] theorem State.ledgerSeq_withPwr (s : State) (v : PwrX) : (s.withPwr v).ledgerSeq = s.ledgerSeq := (rfl)
@[simp] theorem State.powerUps_withPwr (s : State) (v : PwrX) : (s.withPwr v).powerUps = s.powerUps := (rfl)
@[simp] theorem State.domains_withPwr (s : State) (v : PwrX) : (s.withPwr v).domains = s.domains := (rfl)
@[simp] theorem State.tiles_withPwr (s : State) (v : PwrX) : (s.withPwr v).tiles = s.tiles := (rfl)
@[simp] theorem State.lattices_withPwr (s : State) (v : PwrX) : (s.withPwr v).lattices = s.lattices := (rfl)
@[simp] theorem State.taps_withPwr (s : State) (v : PwrX) : (s.withPwr v).taps = s.taps := (rfl)
@[simp] theorem State.requests_withPwr (s : State) (v : PwrX) : (s.withPwr v).requests = s.requests := (rfl)
@[simp] theorem State.nextReq_withPwr (s : State) (v : PwrX) : (s.withPwr v).nextReq = s.nextReq := (rfl)
@[simp] theorem State.mgmt_withPwr (s : State) (v : PwrX) : (s.withPwr v).mgmt = s.mgmt := (rfl)
@[simp] theorem State.seen_withPwr (s : State) (v : PwrX) : (s.withPwr v).seen = s.seen := (rfl)
@[simp] theorem State.grove_withPwr (s : State) (v : PwrX) : (s.withPwr v).grove = s.grove := (rfl)
@[simp] theorem State.flash_withPwr (s : State) (v : PwrX) : (s.withPwr v).flash = s.flash := (rfl)
@[simp] theorem State.fab_withPwr (s : State) (v : PwrX) : (s.withPwr v).fab = s.fab := (rfl)
@[simp] theorem State.age_withPwr (s : State) (v : PwrX) : (s.withPwr v).age = s.age := (rfl)
@[simp] theorem State.tru_withPwr (s : State) (v : PwrX) : (s.withPwr v).tru = s.tru := (rfl)
@[simp] theorem State.pins_withPwr (s : State) (v : PwrX) : (s.withPwr v).pins = s.pins := (rfl)
@[simp] theorem State.out_withPwr (s : State) (v : PwrX) : (s.withPwr v).out = s.out := (rfl)
@[simp] theorem State.reg_withPwr (s : State) (v : PwrX) (r' : RegName) (a b : Nat) :
    (s.withPwr v).reg r' a b = s.reg r' a b := (rfl)
@[simp] theorem State.fget_withPwr (s : State) (v : PwrX) (g : RF) (a b : Nat) :
    (s.withPwr v).fget g a b = s.fget g a b := (rfl)
@[simp] theorem State.fbit_withPwr (s : State) (v : PwrX) (g : RF) (a b : Nat) :
    (s.withPwr v).fbit g a b = s.fbit g a b := (rfl)
@[simp] theorem State.byte_withPwr (s : State) (v : PwrX) (x' : Nat) :
    (s.withPwr v).byte x' = s.byte x' := (rfl)
@[simp] theorem State.part_withPwr (s : State) (v : PwrX) (k : Nat) :
    (s.withPwr v).part k = s.part k := (rfl)
@[simp] theorem State.dom_withPwr (s : State) (v : PwrX) (k : Nat) :
    (s.withPwr v).dom k = s.dom k := (rfl)
@[simp] theorem State.window_withPwr (s : State) (v : PwrX) (k k' : Nat) :
    (s.withPwr v).window k k' = s.window k k' := (rfl)
@[simp] theorem State.lat_withPwr (s : State) (v : PwrX) (k : Nat) :
    (s.withPwr v).lat k = s.lat k := (rfl)
@[simp] theorem State.stackX_withPwr (s : State) (v : PwrX) (k : Nat) :
    (s.withPwr v).stackX k = s.stackX k := (rfl)
@[simp] theorem State.port_withPwr (s : State) (v : PwrX) (k : Nat) :
    (s.withPwr v).port k = s.port k := (rfl)

-- State.withAge
@[simp] theorem State.pending_withAge (s : State) (v : AgeX) : (s.withAge v).pending = s.pending := (rfl)
@[simp] theorem State.tick_withAge (s : State) (v : AgeX) : (s.withAge v).tick = s.tick := (rfl)
@[simp] theorem State.free_withAge (s : State) (v : AgeX) : (s.withAge v).free = s.free := (rfl)
@[simp] theorem State.regs_withAge (s : State) (v : AgeX) : (s.withAge v).regs = s.regs := (rfl)
@[simp] theorem State.mem_withAge (s : State) (v : AgeX) : (s.withAge v).mem = s.mem := (rfl)
@[simp] theorem State.windows_withAge (s : State) (v : AgeX) : (s.withAge v).windows = s.windows := (rfl)
@[simp] theorem State.flights_withAge (s : State) (v : AgeX) : (s.withAge v).flights = s.flights := (rfl)
@[simp] theorem State.granted_withAge (s : State) (v : AgeX) : (s.withAge v).granted = s.granted := (rfl)
@[simp] theorem State.drains_withAge (s : State) (v : AgeX) : (s.withAge v).drains = s.drains := (rfl)
@[simp] theorem State.parts_withAge (s : State) (v : AgeX) : (s.withAge v).parts = s.parts := (rfl)
@[simp] theorem State.evt_withAge (s : State) (v : AgeX) : (s.withAge v).evt = s.evt := (rfl)
@[simp] theorem State.hbm_withAge (s : State) (v : AgeX) : (s.withAge v).hbm = s.hbm := (rfl)
@[simp] theorem State.ledger_withAge (s : State) (v : AgeX) : (s.withAge v).ledger = s.ledger := (rfl)
@[simp] theorem State.ledgerSeq_withAge (s : State) (v : AgeX) : (s.withAge v).ledgerSeq = s.ledgerSeq := (rfl)
@[simp] theorem State.powerUps_withAge (s : State) (v : AgeX) : (s.withAge v).powerUps = s.powerUps := (rfl)
@[simp] theorem State.domains_withAge (s : State) (v : AgeX) : (s.withAge v).domains = s.domains := (rfl)
@[simp] theorem State.tiles_withAge (s : State) (v : AgeX) : (s.withAge v).tiles = s.tiles := (rfl)
@[simp] theorem State.lattices_withAge (s : State) (v : AgeX) : (s.withAge v).lattices = s.lattices := (rfl)
@[simp] theorem State.taps_withAge (s : State) (v : AgeX) : (s.withAge v).taps = s.taps := (rfl)
@[simp] theorem State.requests_withAge (s : State) (v : AgeX) : (s.withAge v).requests = s.requests := (rfl)
@[simp] theorem State.nextReq_withAge (s : State) (v : AgeX) : (s.withAge v).nextReq = s.nextReq := (rfl)
@[simp] theorem State.mgmt_withAge (s : State) (v : AgeX) : (s.withAge v).mgmt = s.mgmt := (rfl)
@[simp] theorem State.seen_withAge (s : State) (v : AgeX) : (s.withAge v).seen = s.seen := (rfl)
@[simp] theorem State.grove_withAge (s : State) (v : AgeX) : (s.withAge v).grove = s.grove := (rfl)
@[simp] theorem State.flash_withAge (s : State) (v : AgeX) : (s.withAge v).flash = s.flash := (rfl)
@[simp] theorem State.fab_withAge (s : State) (v : AgeX) : (s.withAge v).fab = s.fab := (rfl)
@[simp] theorem State.pwr_withAge (s : State) (v : AgeX) : (s.withAge v).pwr = s.pwr := (rfl)
@[simp] theorem State.tru_withAge (s : State) (v : AgeX) : (s.withAge v).tru = s.tru := (rfl)
@[simp] theorem State.pins_withAge (s : State) (v : AgeX) : (s.withAge v).pins = s.pins := (rfl)
@[simp] theorem State.out_withAge (s : State) (v : AgeX) : (s.withAge v).out = s.out := (rfl)
@[simp] theorem State.reg_withAge (s : State) (v : AgeX) (r' : RegName) (a b : Nat) :
    (s.withAge v).reg r' a b = s.reg r' a b := (rfl)
@[simp] theorem State.fget_withAge (s : State) (v : AgeX) (g : RF) (a b : Nat) :
    (s.withAge v).fget g a b = s.fget g a b := (rfl)
@[simp] theorem State.fbit_withAge (s : State) (v : AgeX) (g : RF) (a b : Nat) :
    (s.withAge v).fbit g a b = s.fbit g a b := (rfl)
@[simp] theorem State.byte_withAge (s : State) (v : AgeX) (x' : Nat) :
    (s.withAge v).byte x' = s.byte x' := (rfl)
@[simp] theorem State.part_withAge (s : State) (v : AgeX) (k : Nat) :
    (s.withAge v).part k = s.part k := (rfl)
@[simp] theorem State.dom_withAge (s : State) (v : AgeX) (k : Nat) :
    (s.withAge v).dom k = s.dom k := (rfl)
@[simp] theorem State.window_withAge (s : State) (v : AgeX) (k k' : Nat) :
    (s.withAge v).window k k' = s.window k k' := (rfl)
@[simp] theorem State.lat_withAge (s : State) (v : AgeX) (k : Nat) :
    (s.withAge v).lat k = s.lat k := (rfl)
@[simp] theorem State.stackX_withAge (s : State) (v : AgeX) (k : Nat) :
    (s.withAge v).stackX k = s.stackX k := (rfl)
@[simp] theorem State.port_withAge (s : State) (v : AgeX) (k : Nat) :
    (s.withAge v).port k = s.port k := (rfl)
@[simp] theorem State.die_withAge (s : State) (v : AgeX) (k : Nat) :
    (s.withAge v).die k = s.die k := (rfl)

-- State.withTru
@[simp] theorem State.pending_withTru (s : State) (v : TruX) : (s.withTru v).pending = s.pending := (rfl)
@[simp] theorem State.tick_withTru (s : State) (v : TruX) : (s.withTru v).tick = s.tick := (rfl)
@[simp] theorem State.free_withTru (s : State) (v : TruX) : (s.withTru v).free = s.free := (rfl)
@[simp] theorem State.regs_withTru (s : State) (v : TruX) : (s.withTru v).regs = s.regs := (rfl)
@[simp] theorem State.mem_withTru (s : State) (v : TruX) : (s.withTru v).mem = s.mem := (rfl)
@[simp] theorem State.windows_withTru (s : State) (v : TruX) : (s.withTru v).windows = s.windows := (rfl)
@[simp] theorem State.flights_withTru (s : State) (v : TruX) : (s.withTru v).flights = s.flights := (rfl)
@[simp] theorem State.granted_withTru (s : State) (v : TruX) : (s.withTru v).granted = s.granted := (rfl)
@[simp] theorem State.drains_withTru (s : State) (v : TruX) : (s.withTru v).drains = s.drains := (rfl)
@[simp] theorem State.parts_withTru (s : State) (v : TruX) : (s.withTru v).parts = s.parts := (rfl)
@[simp] theorem State.evt_withTru (s : State) (v : TruX) : (s.withTru v).evt = s.evt := (rfl)
@[simp] theorem State.hbm_withTru (s : State) (v : TruX) : (s.withTru v).hbm = s.hbm := (rfl)
@[simp] theorem State.ledger_withTru (s : State) (v : TruX) : (s.withTru v).ledger = s.ledger := (rfl)
@[simp] theorem State.ledgerSeq_withTru (s : State) (v : TruX) : (s.withTru v).ledgerSeq = s.ledgerSeq := (rfl)
@[simp] theorem State.powerUps_withTru (s : State) (v : TruX) : (s.withTru v).powerUps = s.powerUps := (rfl)
@[simp] theorem State.domains_withTru (s : State) (v : TruX) : (s.withTru v).domains = s.domains := (rfl)
@[simp] theorem State.tiles_withTru (s : State) (v : TruX) : (s.withTru v).tiles = s.tiles := (rfl)
@[simp] theorem State.lattices_withTru (s : State) (v : TruX) : (s.withTru v).lattices = s.lattices := (rfl)
@[simp] theorem State.taps_withTru (s : State) (v : TruX) : (s.withTru v).taps = s.taps := (rfl)
@[simp] theorem State.requests_withTru (s : State) (v : TruX) : (s.withTru v).requests = s.requests := (rfl)
@[simp] theorem State.nextReq_withTru (s : State) (v : TruX) : (s.withTru v).nextReq = s.nextReq := (rfl)
@[simp] theorem State.mgmt_withTru (s : State) (v : TruX) : (s.withTru v).mgmt = s.mgmt := (rfl)
@[simp] theorem State.seen_withTru (s : State) (v : TruX) : (s.withTru v).seen = s.seen := (rfl)
@[simp] theorem State.grove_withTru (s : State) (v : TruX) : (s.withTru v).grove = s.grove := (rfl)
@[simp] theorem State.flash_withTru (s : State) (v : TruX) : (s.withTru v).flash = s.flash := (rfl)
@[simp] theorem State.fab_withTru (s : State) (v : TruX) : (s.withTru v).fab = s.fab := (rfl)
@[simp] theorem State.pwr_withTru (s : State) (v : TruX) : (s.withTru v).pwr = s.pwr := (rfl)
@[simp] theorem State.age_withTru (s : State) (v : TruX) : (s.withTru v).age = s.age := (rfl)
@[simp] theorem State.pins_withTru (s : State) (v : TruX) : (s.withTru v).pins = s.pins := (rfl)
@[simp] theorem State.out_withTru (s : State) (v : TruX) : (s.withTru v).out = s.out := (rfl)
@[simp] theorem State.reg_withTru (s : State) (v : TruX) (r' : RegName) (a b : Nat) :
    (s.withTru v).reg r' a b = s.reg r' a b := (rfl)
@[simp] theorem State.fget_withTru (s : State) (v : TruX) (g : RF) (a b : Nat) :
    (s.withTru v).fget g a b = s.fget g a b := (rfl)
@[simp] theorem State.fbit_withTru (s : State) (v : TruX) (g : RF) (a b : Nat) :
    (s.withTru v).fbit g a b = s.fbit g a b := (rfl)
@[simp] theorem State.byte_withTru (s : State) (v : TruX) (x' : Nat) :
    (s.withTru v).byte x' = s.byte x' := (rfl)
@[simp] theorem State.part_withTru (s : State) (v : TruX) (k : Nat) :
    (s.withTru v).part k = s.part k := (rfl)
@[simp] theorem State.dom_withTru (s : State) (v : TruX) (k : Nat) :
    (s.withTru v).dom k = s.dom k := (rfl)
@[simp] theorem State.window_withTru (s : State) (v : TruX) (k k' : Nat) :
    (s.withTru v).window k k' = s.window k k' := (rfl)
@[simp] theorem State.lat_withTru (s : State) (v : TruX) (k : Nat) :
    (s.withTru v).lat k = s.lat k := (rfl)
@[simp] theorem State.stackX_withTru (s : State) (v : TruX) (k : Nat) :
    (s.withTru v).stackX k = s.stackX k := (rfl)
@[simp] theorem State.port_withTru (s : State) (v : TruX) (k : Nat) :
    (s.withTru v).port k = s.port k := (rfl)
@[simp] theorem State.die_withTru (s : State) (v : TruX) (k : Nat) :
    (s.withTru v).die k = s.die k := (rfl)

-- State.withPins
@[simp] theorem State.pending_withPins (s : State) (v : PinX) : (s.withPins v).pending = s.pending := (rfl)
@[simp] theorem State.tick_withPins (s : State) (v : PinX) : (s.withPins v).tick = s.tick := (rfl)
@[simp] theorem State.free_withPins (s : State) (v : PinX) : (s.withPins v).free = s.free := (rfl)
@[simp] theorem State.regs_withPins (s : State) (v : PinX) : (s.withPins v).regs = s.regs := (rfl)
@[simp] theorem State.mem_withPins (s : State) (v : PinX) : (s.withPins v).mem = s.mem := (rfl)
@[simp] theorem State.windows_withPins (s : State) (v : PinX) : (s.withPins v).windows = s.windows := (rfl)
@[simp] theorem State.flights_withPins (s : State) (v : PinX) : (s.withPins v).flights = s.flights := (rfl)
@[simp] theorem State.granted_withPins (s : State) (v : PinX) : (s.withPins v).granted = s.granted := (rfl)
@[simp] theorem State.drains_withPins (s : State) (v : PinX) : (s.withPins v).drains = s.drains := (rfl)
@[simp] theorem State.parts_withPins (s : State) (v : PinX) : (s.withPins v).parts = s.parts := (rfl)
@[simp] theorem State.evt_withPins (s : State) (v : PinX) : (s.withPins v).evt = s.evt := (rfl)
@[simp] theorem State.hbm_withPins (s : State) (v : PinX) : (s.withPins v).hbm = s.hbm := (rfl)
@[simp] theorem State.ledger_withPins (s : State) (v : PinX) : (s.withPins v).ledger = s.ledger := (rfl)
@[simp] theorem State.ledgerSeq_withPins (s : State) (v : PinX) : (s.withPins v).ledgerSeq = s.ledgerSeq := (rfl)
@[simp] theorem State.powerUps_withPins (s : State) (v : PinX) : (s.withPins v).powerUps = s.powerUps := (rfl)
@[simp] theorem State.domains_withPins (s : State) (v : PinX) : (s.withPins v).domains = s.domains := (rfl)
@[simp] theorem State.tiles_withPins (s : State) (v : PinX) : (s.withPins v).tiles = s.tiles := (rfl)
@[simp] theorem State.lattices_withPins (s : State) (v : PinX) : (s.withPins v).lattices = s.lattices := (rfl)
@[simp] theorem State.taps_withPins (s : State) (v : PinX) : (s.withPins v).taps = s.taps := (rfl)
@[simp] theorem State.requests_withPins (s : State) (v : PinX) : (s.withPins v).requests = s.requests := (rfl)
@[simp] theorem State.nextReq_withPins (s : State) (v : PinX) : (s.withPins v).nextReq = s.nextReq := (rfl)
@[simp] theorem State.mgmt_withPins (s : State) (v : PinX) : (s.withPins v).mgmt = s.mgmt := (rfl)
@[simp] theorem State.seen_withPins (s : State) (v : PinX) : (s.withPins v).seen = s.seen := (rfl)
@[simp] theorem State.grove_withPins (s : State) (v : PinX) : (s.withPins v).grove = s.grove := (rfl)
@[simp] theorem State.flash_withPins (s : State) (v : PinX) : (s.withPins v).flash = s.flash := (rfl)
@[simp] theorem State.fab_withPins (s : State) (v : PinX) : (s.withPins v).fab = s.fab := (rfl)
@[simp] theorem State.pwr_withPins (s : State) (v : PinX) : (s.withPins v).pwr = s.pwr := (rfl)
@[simp] theorem State.age_withPins (s : State) (v : PinX) : (s.withPins v).age = s.age := (rfl)
@[simp] theorem State.tru_withPins (s : State) (v : PinX) : (s.withPins v).tru = s.tru := (rfl)
@[simp] theorem State.out_withPins (s : State) (v : PinX) : (s.withPins v).out = s.out := (rfl)
@[simp] theorem State.reg_withPins (s : State) (v : PinX) (r' : RegName) (a b : Nat) :
    (s.withPins v).reg r' a b = s.reg r' a b := (rfl)
@[simp] theorem State.fget_withPins (s : State) (v : PinX) (g : RF) (a b : Nat) :
    (s.withPins v).fget g a b = s.fget g a b := (rfl)
@[simp] theorem State.fbit_withPins (s : State) (v : PinX) (g : RF) (a b : Nat) :
    (s.withPins v).fbit g a b = s.fbit g a b := (rfl)
@[simp] theorem State.byte_withPins (s : State) (v : PinX) (x' : Nat) :
    (s.withPins v).byte x' = s.byte x' := (rfl)
@[simp] theorem State.part_withPins (s : State) (v : PinX) (k : Nat) :
    (s.withPins v).part k = s.part k := (rfl)
@[simp] theorem State.dom_withPins (s : State) (v : PinX) (k : Nat) :
    (s.withPins v).dom k = s.dom k := (rfl)
@[simp] theorem State.window_withPins (s : State) (v : PinX) (k k' : Nat) :
    (s.withPins v).window k k' = s.window k k' := (rfl)
@[simp] theorem State.lat_withPins (s : State) (v : PinX) (k : Nat) :
    (s.withPins v).lat k = s.lat k := (rfl)
@[simp] theorem State.stackX_withPins (s : State) (v : PinX) (k : Nat) :
    (s.withPins v).stackX k = s.stackX k := (rfl)
@[simp] theorem State.port_withPins (s : State) (v : PinX) (k : Nat) :
    (s.withPins v).port k = s.port k := (rfl)
@[simp] theorem State.die_withPins (s : State) (v : PinX) (k : Nat) :
    (s.withPins v).die k = s.die k := (rfl)

-- State.withOut
@[simp] theorem State.pending_withOut (s : State) (v : List Msg) : (s.withOut v).pending = s.pending := (rfl)
@[simp] theorem State.tick_withOut (s : State) (v : List Msg) : (s.withOut v).tick = s.tick := (rfl)
@[simp] theorem State.free_withOut (s : State) (v : List Msg) : (s.withOut v).free = s.free := (rfl)
@[simp] theorem State.regs_withOut (s : State) (v : List Msg) : (s.withOut v).regs = s.regs := (rfl)
@[simp] theorem State.mem_withOut (s : State) (v : List Msg) : (s.withOut v).mem = s.mem := (rfl)
@[simp] theorem State.windows_withOut (s : State) (v : List Msg) : (s.withOut v).windows = s.windows := (rfl)
@[simp] theorem State.flights_withOut (s : State) (v : List Msg) : (s.withOut v).flights = s.flights := (rfl)
@[simp] theorem State.granted_withOut (s : State) (v : List Msg) : (s.withOut v).granted = s.granted := (rfl)
@[simp] theorem State.drains_withOut (s : State) (v : List Msg) : (s.withOut v).drains = s.drains := (rfl)
@[simp] theorem State.parts_withOut (s : State) (v : List Msg) : (s.withOut v).parts = s.parts := (rfl)
@[simp] theorem State.evt_withOut (s : State) (v : List Msg) : (s.withOut v).evt = s.evt := (rfl)
@[simp] theorem State.hbm_withOut (s : State) (v : List Msg) : (s.withOut v).hbm = s.hbm := (rfl)
@[simp] theorem State.ledger_withOut (s : State) (v : List Msg) : (s.withOut v).ledger = s.ledger := (rfl)
@[simp] theorem State.ledgerSeq_withOut (s : State) (v : List Msg) : (s.withOut v).ledgerSeq = s.ledgerSeq := (rfl)
@[simp] theorem State.powerUps_withOut (s : State) (v : List Msg) : (s.withOut v).powerUps = s.powerUps := (rfl)
@[simp] theorem State.domains_withOut (s : State) (v : List Msg) : (s.withOut v).domains = s.domains := (rfl)
@[simp] theorem State.tiles_withOut (s : State) (v : List Msg) : (s.withOut v).tiles = s.tiles := (rfl)
@[simp] theorem State.lattices_withOut (s : State) (v : List Msg) : (s.withOut v).lattices = s.lattices := (rfl)
@[simp] theorem State.taps_withOut (s : State) (v : List Msg) : (s.withOut v).taps = s.taps := (rfl)
@[simp] theorem State.requests_withOut (s : State) (v : List Msg) : (s.withOut v).requests = s.requests := (rfl)
@[simp] theorem State.nextReq_withOut (s : State) (v : List Msg) : (s.withOut v).nextReq = s.nextReq := (rfl)
@[simp] theorem State.mgmt_withOut (s : State) (v : List Msg) : (s.withOut v).mgmt = s.mgmt := (rfl)
@[simp] theorem State.seen_withOut (s : State) (v : List Msg) : (s.withOut v).seen = s.seen := (rfl)
@[simp] theorem State.grove_withOut (s : State) (v : List Msg) : (s.withOut v).grove = s.grove := (rfl)
@[simp] theorem State.flash_withOut (s : State) (v : List Msg) : (s.withOut v).flash = s.flash := (rfl)
@[simp] theorem State.fab_withOut (s : State) (v : List Msg) : (s.withOut v).fab = s.fab := (rfl)
@[simp] theorem State.pwr_withOut (s : State) (v : List Msg) : (s.withOut v).pwr = s.pwr := (rfl)
@[simp] theorem State.age_withOut (s : State) (v : List Msg) : (s.withOut v).age = s.age := (rfl)
@[simp] theorem State.tru_withOut (s : State) (v : List Msg) : (s.withOut v).tru = s.tru := (rfl)
@[simp] theorem State.pins_withOut (s : State) (v : List Msg) : (s.withOut v).pins = s.pins := (rfl)
@[simp] theorem State.reg_withOut (s : State) (v : List Msg) (r' : RegName) (a b : Nat) :
    (s.withOut v).reg r' a b = s.reg r' a b := (rfl)
@[simp] theorem State.fget_withOut (s : State) (v : List Msg) (g : RF) (a b : Nat) :
    (s.withOut v).fget g a b = s.fget g a b := (rfl)
@[simp] theorem State.fbit_withOut (s : State) (v : List Msg) (g : RF) (a b : Nat) :
    (s.withOut v).fbit g a b = s.fbit g a b := (rfl)
@[simp] theorem State.byte_withOut (s : State) (v : List Msg) (x' : Nat) :
    (s.withOut v).byte x' = s.byte x' := (rfl)
@[simp] theorem State.part_withOut (s : State) (v : List Msg) (k : Nat) :
    (s.withOut v).part k = s.part k := (rfl)
@[simp] theorem State.dom_withOut (s : State) (v : List Msg) (k : Nat) :
    (s.withOut v).dom k = s.dom k := (rfl)
@[simp] theorem State.window_withOut (s : State) (v : List Msg) (k k' : Nat) :
    (s.withOut v).window k k' = s.window k k' := (rfl)
@[simp] theorem State.lat_withOut (s : State) (v : List Msg) (k : Nat) :
    (s.withOut v).lat k = s.lat k := (rfl)
@[simp] theorem State.stackX_withOut (s : State) (v : List Msg) (k : Nat) :
    (s.withOut v).stackX k = s.stackX k := (rfl)
@[simp] theorem State.port_withOut (s : State) (v : List Msg) (k : Nat) :
    (s.withOut v).port k = s.port k := (rfl)
@[simp] theorem State.die_withOut (s : State) (v : List Msg) (k : Nat) :
    (s.withOut v).die k = s.die k := (rfl)

@[simp] theorem State.tick_withTick (s : State) (v : Nat) : (s.withTick v).tick = v := (rfl)
@[simp] theorem State.free_withFree (s : State) (v : Nat) : (s.withFree v).free = v := (rfl)
@[simp] theorem State.regs_withRegs (s : State) (v : AMap RegKey Word) : (s.withRegs v).regs = v := (rfl)
@[simp] theorem State.mem_withMem (s : State) (v : List Host.Cell) : (s.withMem v).mem = v := (rfl)
@[simp] theorem State.windows_withWindows (s : State) (v : SMap (List Fetched)) : (s.withWindows v).windows = v := (rfl)
@[simp] theorem State.flights_withFlights (s : State) (v : List Flight) : (s.withFlights v).flights = v := (rfl)
@[simp] theorem State.granted_withGranted (s : State) (v : SMap Nat) : (s.withGranted v).granted = v := (rfl)
@[simp] theorem State.drains_withDrains (s : State) (v : List (Func × Nat)) : (s.withDrains v).drains = v := (rfl)
@[simp] theorem State.parts_withParts (s : State) (v : SMap Part) : (s.withParts v).parts = v := (rfl)
@[simp] theorem State.evt_withEvt (s : State) (v : EvtX) : (s.withEvt v).evt = v := (rfl)
@[simp] theorem State.hbm_withHbm (s : State) (v : HbmX) : (s.withHbm v).hbm = v := (rfl)
@[simp] theorem State.ledger_withLedger (s : State) (v : List LedgerEntry) : (s.withLedger v).ledger = v := (rfl)
@[simp] theorem State.ledgerSeq_withLedgerSeq (s : State) (v : Nat) : (s.withLedgerSeq v).ledgerSeq = v := (rfl)
@[simp] theorem State.powerUps_withPowerUps (s : State) (v : Nat) : (s.withPowerUps v).powerUps = v := (rfl)
@[simp] theorem State.domains_withDomains (s : State) (v : SMap DomX) : (s.withDomains v).domains = v := (rfl)
@[simp] theorem State.tiles_withTiles (s : State) (v : SMap Byte) : (s.withTiles v).tiles = v := (rfl)
@[simp] theorem State.lattices_withLattices (s : State) (v : SMap Lattice) : (s.withLattices v).lattices = v := (rfl)
@[simp] theorem State.taps_withTaps (s : State) (v : SMap (Option TapSlot)) : (s.withTaps v).taps = v := (rfl)
@[simp] theorem State.requests_withRequests (s : State) (v : List Request) : (s.withRequests v).requests = v := (rfl)
@[simp] theorem State.nextReq_withNextReq (s : State) (v : Nat) : (s.withNextReq v).nextReq = v := (rfl)
@[simp] theorem State.mgmt_withMgmt (s : State) (v : List MgmtMsg) : (s.withMgmt v).mgmt = v := (rfl)
@[simp] theorem State.seen_withSeen (s : State) (v : List (Nat × Nat × Nat × Addr)) : (s.withSeen v).seen = v := (rfl)
@[simp] theorem State.grove_withGrove (s : State) (v : GroveX) : (s.withGrove v).grove = v := (rfl)
@[simp] theorem State.flash_withFlash (s : State) (v : FlashX) : (s.withFlash v).flash = v := (rfl)
@[simp] theorem State.fab_withFab (s : State) (v : FabX) : (s.withFab v).fab = v := (rfl)
@[simp] theorem State.pwr_withPwr (s : State) (v : PwrX) : (s.withPwr v).pwr = v := (rfl)
@[simp] theorem State.age_withAge (s : State) (v : AgeX) : (s.withAge v).age = v := (rfl)
@[simp] theorem State.tru_withTru (s : State) (v : TruX) : (s.withTru v).tru = v := (rfl)
@[simp] theorem State.pins_withPins (s : State) (v : PinX) : (s.withPins v).pins = v := (rfl)
@[simp] theorem State.out_withOut (s : State) (v : List Msg) : (s.withOut v).out = v := (rfl)

end Sys2Proof.Machine
end

