-- ==== Sys2Proof/Laws/Issue.lean ====
section
/-! SUPPORT. What issuing a descriptor does, said once: with effect, ILLEGAL, or VOIDED (R5, R112 to R118). -/
namespace Sys2Proof.Machine

/-- Taking a descriptor changes the fetch window, the arbiters' memory and the draws, and nothing else. -/
theorem State.taken_rest (s : State) (core stream : Nat) (f : Fetched) :
    s.taken core stream f = { s with
      windows := (s.taken core stream f).windows, granted := (s.taken core stream f).granted
      free := (s.taken core stream f).free } := by
  unfold State.taken State.takeDesc State.pickEngine State.draw State.setWindow
  dsimp only
  split <;> split <;> rfl

theorem State.regs_taken (s : State) (core stream : Nat) (f : Fetched) : (s.taken core stream f).regs = s.regs := by
  rw [s.taken_rest]

theorem State.age_taken (s : State) (core stream : Nat) (f : Fetched) : (s.taken core stream f).age = s.age := by
  rw [s.taken_rest]

theorem State.mem_taken (s : State) (core stream : Nat) (f : Fetched) : (s.taken core stream f).mem = s.mem := by
  rw [s.taken_rest]

theorem State.fget_congr {s t : State} (h : t.regs = s.regs) (f : RF) (i j : Nat) : t.fget f i j = s.fget f i j := by
  unfold State.fget State.reg; rw [h]

theorem State.epoch_congr {s t : State} (h : t.regs = s.regs) (p : Nat) : t.epoch p = s.epoch p :=
  State.fget_congr h _ _ _

theorem State.awake_congr {s t : State} (h : t.regs = s.regs) (g : t.age = s.age) (d : Nat) : t.awake d = s.awake d := by
  unfold State.awake State.domState State.domPhase State.testHeld
  rw [State.fget_congr h, State.fget_congr h, g]

theorem State.flights_taken (s : State) (core stream : Nat) (f : Fetched) :
    (s.taken core stream f).flights = s.flights := by
  rw [s.taken_rest]

theorem State.windows_taken (s : State) (core stream : Nat) (f : Fetched) : (s.taken core stream f).windows
    = smSet [] s.windows (strKey core stream) (windowAfter (s.strIssue core stream) (s.window core stream) f) := by
  unfold State.taken State.takeDesc State.pickEngine State.draw State.setWindow
  dsimp only
  split <;> split <;> rfl

theorem State.partOf_congr {s t : State} (h : t.regs = s.regs) (core : Nat) : t.partOf core = s.partOf core := by
  unfold State.partOf State.partOfCluster; simp only [State.fget_congr h]

theorem State.tokVal_congr {s t : State} (h : t.regs = s.regs) (core x : Nat) : t.tokVal core x = s.tokVal core x := by
  unfold State.tokVal; simp only [State.fget_congr h, State.partOf_congr h]

/-- A placed descriptor: the state it is taken in, with its flight, and issue moved on. -/
theorem State.placed_eq (s : State) (p core stream : Nat) (f : Fetched) (st : Nat) : s.placed p core stream f st
    = ((s.taken core stream f).withFlights ((s.taken core stream f).flights
        ++ [{ s.starts p core stream f with status := st }])).fset rf_corStreamHead_issue core stream
          (nextIssue ((s.pickEngine f).2.window core stream) f) := by
  unfold State.placed Run.issued; dsimp only

/-- A descriptor that may issue, with the engine's domain awake: it is taken, and its engine's run, ILLEGAL or VOIDED
decides how it stands (R5, R117, R118). -/
theorem State.issueDesc_ready {s : State} {p core stream n : Nat} {f : Fetched} {kind : List Byte → Bool}
    {accepts : State → List Byte → Bool} (h : Ready s p core stream n f kind accepts)
    (legal : State → List Byte → Bool) (run : Eng Unit) :
    s.issueDesc core stream n kind accepts legal run =
      if hdrIllegal f.bytes stream || !legal (s.taken core stream f) f.bytes then s.placed p core stream f stIllegal
      else if hEpochCheck f.bytes && hEpoch f.bytes ≠ s.epoch p % 65536 then s.placed p core stream f stVoided
      else s.ran p core stream f run := by
  have ha : (s.taken core stream f).awake (engineDomain core (engineOf (hOpcode f.bytes))) = true :=
    (State.awake_congr (s.regs_taken ..) (s.age_taken ..) _).trans h.awake
  have he := State.epoch_congr (s.regs_taken core stream f) p
  unfold State.issueDesc
  rw [h.found, h.part]
  simp only [h.kind, h.turn, h.takes, h.awake, Bool.and_self, if_true, Bool.not_true, Bool.false_and, Bool.false_eq_true, if_false]
  show Run.issued (if hdrIllegal f.bytes stream || !legal (s.taken core stream f) f.bytes then
        ⟨s.taken core stream f, { s.starts p core stream f with status := stIllegal }, false⟩
      else if hEpochCheck f.bytes && hEpoch f.bytes ≠ (s.taken core stream f).epoch p % 65536 then
        ⟨s.taken core stream f, { s.starts p core stream f with status := stVoided }, false⟩
      else if (s.taken core stream f).awake (engineDomain core (engineOf (hOpcode f.bytes))) then
        runEng run (s.taken core stream f) (s.starts p core stream f)
      else _) (s.pickEngine f).2 core stream f = _
  rw [ha, he]
  split
  · rfl
  · split <;> rfl

/-- A descriptor that issues with effect runs its engine. -/
theorem State.issueDesc_issues {s : State} {p core stream n : Nat} {f : Fetched} {kind : List Byte → Bool}
    {accepts : State → List Byte → Bool} {legal : State → List Byte → Bool}
    (h : Issues s p core stream n f kind accepts legal) (run : Eng Unit) :
    s.issueDesc core stream n kind accepts legal run = s.ran p core stream f run := by
  rw [State.issueDesc_ready h.toReady, h.header, h.legal]
  rcases h.epoch with e | e <;> simp [e]

end Sys2Proof.Machine
end

