-- ==== Sys2Proof/Laws/Memory.lean ====
section
/-! SUPPORT. Laws of memory: a write is read back, every other byte keeps its value, and the canonical form is kept. -/
namespace Sys2Proof.Machine

/-! ### The canonical form of sparse maps -/

/-- Every key of a map exceeds a number. -/
def keysAbove {α : Type} (k : Nat) (m : SMap α) : Prop := ∀ e ∈ m, k < e.1

/-- The canonical form, taken apart at the first entry. -/
theorem smWf_cons {α : Type} [DecidableEq α] (d : α) (k : Nat) (v : α) (m : SMap α) :
    smWf d ((k, v) :: m) = true ↔ v ≠ d ∧ keysAbove k m ∧ smWf d m = true := by
  induction m generalizing k v with
  | nil => simp [smWf, keysAbove]
  | cons e m ih =>
    obtain ⟨k', v'⟩ := e
    have h := ih k' v'
    simp only [smWf, Bool.and_eq_true, decide_eq_true_eq]
    constructor
    · rintro ⟨⟨hv, hk⟩, hm⟩
      refine ⟨by simpa using hv, ?_, hm⟩
      intro e he
      rcases List.mem_cons.mp he with rfl | he
      · exact hk
      · exact Nat.lt_trans hk ((h.mp hm).2.1 e he)
    · rintro ⟨hv, hk, hm⟩
      exact ⟨⟨by simpa using hv, hk _ (List.mem_cons_self ..)⟩, hm⟩

theorem keysAbove_aErase {α : Type} (k x : Nat) (m : SMap α) (h : keysAbove k m) : keysAbove k (aErase m x) := by
  induction m with
  | nil => exact h
  | cons e m ih =>
    obtain ⟨k', v'⟩ := e
    have ht : keysAbove k m := fun e he => h e (List.mem_cons_of_mem _ he)
    unfold aErase
    split
    · exact ih ht
    · intro e he
      rcases List.mem_cons.mp he with rfl | he
      · exact h _ (List.mem_cons_self ..)
      · exact ih ht e he

theorem smWf_aErase {α : Type} [DecidableEq α] (d : α) (x : Nat) (m : SMap α) (h : smWf d m = true) :
    smWf d (aErase m x) = true := by
  induction m with
  | nil => exact h
  | cons e m ih =>
    obtain ⟨k, v⟩ := e
    obtain ⟨hv, hk, hm⟩ := (smWf_cons d k v m).mp h
    unfold aErase
    split
    · exact ih hm
    · exact (smWf_cons d k v _).mpr ⟨hv, keysAbove_aErase k x m hk, ih hm⟩

theorem keysAbove_aPut {α : Type} (k x : Nat) (w : α) (m : SMap α) (h : keysAbove k m) (hx : k < x) :
    keysAbove k (aPut id m x w) := by
  induction m with
  | nil => intro e he; rcases List.mem_cons.mp he with rfl | he; exact hx; cases he
  | cons e m ih =>
    obtain ⟨k', v'⟩ := e
    have ht : keysAbove k m := fun e he => h e (List.mem_cons_of_mem _ he)
    unfold aPut
    split
    · intro e he
      rcases List.mem_cons.mp he with rfl | he
      · exact hx
      · exact ht e he
    · split
      · intro e he
        rcases List.mem_cons.mp he with rfl | he
        · exact hx
        · exact h e he
      · intro e he
        rcases List.mem_cons.mp he with rfl | he
        · exact h _ (List.mem_cons_self ..)
        · exact ih ht e he

theorem smWf_aPut {α : Type} [DecidableEq α] (d : α) (x : Nat) (w : α) (m : SMap α) (h : smWf d m = true) (hw : w ≠ d) :
    smWf d (aPut id m x w) = true := by
  induction m with
  | nil => simpa [aPut, smWf] using hw
  | cons e m ih =>
    obtain ⟨k, v⟩ := e
    obtain ⟨hv, hk, hm⟩ := (smWf_cons d k v m).mp h
    unfold aPut
    split
    · rename_i e; subst e; exact (smWf_cons d k w m).mpr ⟨hw, hk, hm⟩
    · rename_i hne
      split
      · rename_i hlt
        exact (smWf_cons d x w _).mpr ⟨hw, fun e he => by
          rcases List.mem_cons.mp he with rfl | he
          · exact hlt
          · exact Nat.lt_trans hlt (hk e he), h⟩
      · rename_i hge
        have hlt : k < x := by simp only [id_eq] at hge; omega
        exact (smWf_cons d k v _).mpr ⟨hv, keysAbove_aPut k x w m hk hlt, ih hm⟩

/-- A write keeps the canonical form. -/
theorem smWf_smSet {α : Type} [DecidableEq α] (d : α) (m : SMap α) (x : Nat) (w : α) (h : smWf d m = true) :
    smWf d (smSet d m x w) = true := by
  unfold smSet aSet
  split
  · exact smWf_aErase d x m h
  · rename_i hw; exact smWf_aPut d x w m h hw

theorem keysAbove_filter {α : Type} (k : Nat) (p : Nat × α → Bool) (m : SMap α) (h : keysAbove k m) :
    keysAbove k (m.filter p) := fun e he => h e (List.mem_filter.mp he).1

/-- Leaving out entries keeps the canonical form. -/
theorem smWf_filter {α : Type} [DecidableEq α] (d : α) (p : Nat × α → Bool) (m : SMap α) (h : smWf d m = true) :
    smWf d (m.filter p) = true := by
  induction m with
  | nil => exact h
  | cons e m ih =>
    obtain ⟨k, v⟩ := e
    obtain ⟨hv, hk, hm⟩ := (smWf_cons d k v m).mp h
    by_cases hp : p (k, v)
    · rw [List.filter_cons_of_pos hp]
      exact (smWf_cons d k v _).mpr ⟨hv, keysAbove_filter k p m hk, ih hm⟩
    · rw [List.filter_cons_of_neg hp]; exact ih hm

/-! ### Bytes of memory -/

theorem State.setByte_wf (s : State) (pa : Nat) (b : Byte) (h : Memory.wf s.mem = true) :
    Memory.wf (s.setByte pa b).mem = true := smWf_smSet 0 s.mem pa b h

theorem State.setBytes_wf (s : State) (pa : Nat) (bs : List Byte) (h : Memory.wf s.mem = true) :
    Memory.wf (s.setBytes pa bs).mem = true := by
  induction bs generalizing s pa with
  | nil => exact h
  | cons b bs ih => exact ih _ _ (s.setByte_wf pa b h)

/-- Beside memory, a write of bytes changes nothing. -/
theorem State.setBytes_rest (s : State) (pa : Nat) (bs : List Byte) :
    s.setBytes pa bs = { s with mem := (s.setBytes pa bs).mem } := by
  induction bs generalizing s pa with
  | nil => rfl
  | cons b bs ih => exact ih (s.setByte pa b) (pa + 1)

/-- Bytes outside those written keep their values. -/
theorem State.byte_setBytes_other (s : State) (pa : Nat) (bs : List Byte) (a : Nat) (h : a < pa ∨ pa + bs.length ≤ a) :
    (s.setBytes pa bs).byte a = s.byte a := by
  induction bs generalizing s pa with
  | nil => rfl
  | cons b bs ih =>
    simp only [List.length_cons] at h
    refine (ih (s.setByte pa b) (pa + 1) (by omega)).trans (State.byte_setByte_ne _ _ (by omega))

/-- Bytes written are read back. -/
theorem State.bytes_setBytes_same (s : State) (pa : Nat) (bs : List Byte) :
    (s.setBytes pa bs).bytes pa bs.length = bs := by
  induction bs generalizing s pa with
  | nil => rfl
  | cons b bs ih =>
    simp only [List.length_cons, State.bytes, State.setBytes]
    refine List.cons_eq_cons.mpr ⟨?_, ih _ _⟩
    rw [State.byte_setBytes_other _ _ _ _ (by omega), State.byte_setByte_same]

/-- The memory a write leaves follows from the memory before it. -/
theorem State.setBytes_mem_congr {s t : State} (h : t.mem = s.mem) (pa : Nat) (bs : List Byte) :
    (t.setBytes pa bs).mem = (s.setBytes pa bs).mem := by
  induction bs generalizing s t pa with
  | nil => exact h
  | cons b bs ih => exact ih (s := s.setByte pa b) (t := t.setByte pa b) (by unfold State.setByte; rw [h]; rfl) (pa + 1)

theorem State.clearRange_wf (s : State) (base size : Nat) (h : Memory.wf s.mem = true) :
    Memory.wf (s.clearRange base size).mem = true := smWf_filter 0 _ _ h

/-! ### Reads and writes through the line code (R369, R370) -/

@[simp] theorem State.mem_count (s : State) (r : RegName) (i j n : Nat) : (s.count r i j n).mem = s.mem := by
  unfold State.count; split <;> rfl

@[simp] theorem State.mem_mqPut (s : State) (r : EvRec) : (s.mqPut r).mem = s.mem := by
  unfold State.mqPut
  simp only [apply_ite State.mem, State.mem_fset, State.mem_withEvt, ite_self]

@[simp] theorem State.mem_raiseMod (s : State) (code : Nat) (x : EvInfo) : (s.raiseMod code x).mem = s.mem := by
  unfold State.raiseMod State.evNew
  simp only [apply_ite State.mem, State.mem_mqPut, State.mem_fset, State.mem_count, State.mem_withEvt, ite_self]

@[simp] theorem State.mem_drawWords (s : State) (n : Nat) : (s.drawWords n).2.mem = s.mem := by
  induction n generalizing s with
  | zero => rfl
  | succ n ih => exact ih _

@[simp] theorem State.mem_ledgerAdd (s : State) (t u : Nat) (b : List Byte) : (s.ledgerAdd t u b).mem = s.mem := by
  unfold State.ledgerAdd State.ledgerPut State.drawBytes
  simp only [apply_ite State.mem, State.mem_drawWords, State.mem_withLedger, State.mem_withLedgerSeq, ite_self]

@[simp] theorem State.mem_repairCandidate (s : State) (row pa : Nat) : (s.repairCandidate row pa).mem = s.mem := by
  unfold State.repairCandidate
  simp only [apply_ite State.mem, State.mem_raiseMod, State.mem_ledgerAdd, State.mem_withHbm, ite_self]

@[simp] theorem State.mem_lineRead (s : State) (src pa : Nat) : (s.lineRead src pa).2.mem = s.mem := by
  unfold State.lineRead
  split
  · dsimp only
    split
    · exact State.mem_count ..
    · simp only [apply_ite Prod.snd, apply_ite State.mem, State.mem_raiseMod, State.mem_repairCandidate, State.mem_count,
        State.mem_withHbm, State.mem_setReg, ite_self]
  · rfl

@[simp] theorem State.mem_readLines (s : State) (src : Nat) (ls : List Nat) : (s.readLines src ls).2.mem = s.mem := by
  induction ls generalizing s with
  | nil => rfl
  | cons l ls ih =>
    unfold State.readLines; dsimp only
    split
    · exact s.mem_lineRead src _
    · rw [ih]; exact s.mem_lineRead src _

/-- A read changes no byte. -/
@[simp] theorem State.mem_paRead (s : State) (pa n : Nat) : (s.paRead pa n).2.mem = s.mem := by
  unfold State.paRead; dsimp only; split <;> exact s.mem_readLines 0 _

/-- The lines counted by a write. -/
theorem mem_foldl {α : Type} (f : State → α → State) (h : ∀ s a, (f s a).mem = s.mem) (s : State) (xs : List α) :
    (xs.foldl f s).mem = s.mem := by
  induction xs generalizing s with
  | nil => rfl
  | cons x xs ih => exact (ih _).trans (h s x)

theorem State.byte_congr {s t : State} (h : t.mem = s.mem) (a : Nat) : t.byte a = s.byte a := by
  unfold State.byte; rw [h]

/-- A write of physical memory either changes no byte, or is the write of its bytes. -/
theorem State.paWrite_mem (s : State) (pa : Nat) (bs : List Byte) :
    (s.paWrite pa bs).2.mem = if (s.paWrite pa bs).1 then (s.setBytes pa bs).mem else s.mem := by
  unfold State.paWrite; dsimp only
  split
  · simp
  · rw [if_pos rfl]
    refine State.setBytes_mem_congr ?_ pa bs
    rw [mem_foldl]
    · exact s.mem_readLines 3 _
    · intro s a; split <;> simp only [State.mem_count]

/-- A write of physical memory keeps the canonical form. -/
theorem State.paWrite_wf (s : State) (pa : Nat) (bs : List Byte) (h : Memory.wf s.mem = true) :
    Memory.wf (s.paWrite pa bs).2.mem = true := by
  rw [State.paWrite_mem]; split
  · exact s.setBytes_wf pa bs h
  · exact h

/-- Bytes outside those of a write keep their values. -/
theorem State.paWrite_other (s : State) (pa : Nat) (bs : List Byte) (a : Nat) (h : a < pa ∨ pa + bs.length ≤ a) :
    (s.paWrite pa bs).2.byte a = s.byte a := by
  unfold State.byte; rw [State.paWrite_mem]; split
  · exact s.byte_setBytes_other pa bs a h
  · rfl

/-- Bytes that become undefined (R352) are single bytes written. -/
theorem State.loseStore_wf (s : State) (base size extent : Nat) (h : Memory.wf s.mem = true) :
    Memory.wf (s.loseStore base size extent).mem = true := by
  unfold State.loseStore
  generalize rangeFrom (roundUp extent 4096) size = xs
  induction xs generalizing s with
  | nil => exact h
  | cons x xs ih => exact ih _ (State.setByte_wf _ _ _ h)

end Sys2Proof.Machine
end

