-- ==== Sys2Proof/Laws/Messages.lean ====
section
/-! SUPPORT. What receiving a management message does, once: a first copy is acted on, a later one is only acknowledged. -/
namespace Sys2Proof.Machine

@[simp] theorem respond_seen (s : State) (f : Frame) (a d : Nat) (bs : List Byte) :
    (s.respond f a d bs).seen = s.seen := by unfold State.respond; rfl
@[simp] theorem ackMg_seen (s : State) (g : Mg) : (s.ackMg g).seen = s.seen := by unfold State.ackMg; rfl

theorem mgReceive_new {type : Nat} {f : Frame} {s : State} (h : NewStep type f s) (act : State → State) :
    s.mgReceive type (mgEpoch f) f act = act (s.readStep type f) := by
  have fresh : ¬ ((s.respond f anAccepted 0).seen.contains (type, mgJob f, mgEpoch f, f.src) = true) := by simpa using h.fresh
  simp only [State.mgReceive, h.arrives, if_true, if_neg fresh]; rfl

theorem mgReceive_copy {type : Nat} {f : Frame} {s : State} (arrives : s.mgArrives type f = true)
    (known : (type, mgJob f, mgEpoch f, f.src) ∈ s.seen) (act : State → State) :
    s.mgReceive type (mgEpoch f) f act = s.respond f anAccepted 0 := by
  have copy : (s.respond f anAccepted 0).seen.contains (type, mgJob f, mgEpoch f, f.src) = true := by simpa using known
  simp only [State.mgReceive, arrives, if_true, if_pos copy]

theorem mgOrder_new {type : Nat} {f : Frame} {s : State} (manager : s.fromManager f.src = true) (h : NewStep type f s) (act : State → State) :
    s.mgOrder type f act = act (s.readStep type f) := by
  rw [State.mgOrder, if_pos manager, mgReceive_new h]

theorem mgOrder_copy {type : Nat} {f : Frame} {s : State} (manager : s.fromManager f.src = true) (arrives : s.mgArrives type f = true)
    (known : (type, mgJob f, mgEpoch f, f.src) ∈ s.seen) (act : State → State) :
    s.mgOrder type f act = s.respond f anAccepted 0 := by
  rw [State.mgOrder, if_pos manager, mgReceive_copy arrives known]

theorem grvReceive_new {type epoch : Nat} {g : Mg} {s : State} (h : NewGrove type epoch g s) (act : State → State) :
    s.grvReceive type epoch g act = act (s.readGrove type epoch g) := by
  have fresh : ¬ ((s.ackMg g).seen.contains (type, g.job, epoch, g.src) = true) := by simpa using h.fresh
  simp only [State.grvReceive, h.arrives, if_true, if_neg fresh]; rfl

theorem grvOrder_new {type epoch : Nat} {g : Mg} {s : State} (manager : s.fromManager g.src = true) (h : NewGrove type epoch g s)
    (act : State → State) : s.grvOrder type epoch g act = act (s.readGrove type epoch g) := by
  rw [State.grvOrder, if_pos manager, grvReceive_new h]

theorem onJob_managed {s : State} {job : Nat} {j : MgrJob} (h : Manages s job j) (act : State → MgrJob → State) : s.onJob job act = act s j := by
  simp only [State.onJob, h.active, if_true, h.keeps]

end Sys2Proof.Machine
end

