-- ==== Sys2Proof/Tests/Slice0.lean ====
section
/-! SUPPORT. Tests: terms that the well-formedness check refuses, states that meet the statements' hypotheses, and small checks
of single commands against the spec. -/
namespace Sys2Proof.Tests

-- Proofs by evaluation, one after another: each asks for its own stack.
set_option Elab.async false

open Machine

/-! ### Descriptors, from the spec's layouts -/

/-- A descriptor with the plain header of R116 (no tokens, level 1) and fields as (offset, bytes, value). -/
def dsc (op stream : Nat) (fs : List (Nat × Nat × Nat)) : List Byte :=
  ([(0, 1, op), (4, 2, 0xFFFF), (6, 2, 0xFFFF), (14, 1, stream), (15, 1, 1)] ++ fs).foldl
    (fun d (o, n, v) => patchN d o n v) (List.replicate 128 0)

/-- The fields of a tensor reference (R126). -/
def ref (o addr rows cols stride fmt : Nat) (layout : Nat := 0) : List (Nat × Nat × Nat) :=
  [(o, 8, addr), (o + 8, 4, rows), (o + 12, 4, cols), (o + 16, 4, stride), (o + 20, 1, fmt), (o + 21, 1, layout),
   (o + 22, 2, 0xFFFF)]

/-- A tap slot of width 64 (R144). -/
def tapSlot : TapSlot := ⟨0, false, 0, 0, 64, 64, 0, 0, 6, 0, 0x1000000, 0x2000000, 0x3000000, 0, 0, 0, [], none⟩

/-- Core 0 belongs to partition 0, which is at epoch 5; stream `stream` runs and has fetched one descriptor. -/
def holding (stream : Nat) (d : List Byte) : State := { State.reset with
  regs := [(⟨.corStreamCtl, 0, stream⟩, 2#64 <<< 28), (⟨.prtFenceClusters, 0, 0⟩, 1), (⟨.tapStatus, 0, 0⟩, 1),
    (⟨.tapNs, 0, 0⟩, 16#64 <<< 32), (⟨.grvEpoch, 0, 0⟩, 5)]
  parts := [(0, { Part.reset with hist := [⟨1, 0, true, true, false⟩, ⟨0, 0, true, true, false⟩] })]
  taps := [(0, some tapSlot)]
  windows := [(stream, [⟨0, d, none, false, 0, []⟩])] }

def held (d : List Byte) : Fetched := ⟨0, d, none, false, 0, []⟩

/-- A descriptor with what its command takes. -/
structure Case where
  d : List Byte
  kind : List Byte → Bool
  accepts : State → List Byte → Bool
  legal : State → List Byte → Bool
  stream : Nat := 0

def readyB (x : Case) (d : List Byte) : Bool :=
  let s := holding x.stream d
  decide ((s.window 0 x.stream).find? (fun f => f.n = 0) = some (held d)) && decide (s.partOf 0 = some 0) && x.kind d
    && s.mayIssue 0 x.stream (s.pickEngine (held d)).1 (held d) && x.accepts s d
    && s.awake (engineDomain 0 (engineOf (hOpcode d)))

theorem ready_of (x : Case) (d : List Byte) (h : readyB x d = true) :
    Ready (holding x.stream d) 0 0 x.stream 0 (held d) x.kind x.accepts := by
  simp only [readyB, Bool.and_eq_true, decide_eq_true_eq] at h
  obtain ⟨⟨⟨⟨⟨h1, h2⟩, h3⟩, h4⟩, h5⟩, h6⟩ := h
  exact ⟨h1, h2, h3, h4, h5, h6⟩

/-- The descriptor issues with effect. -/
def Case.issues (x : Case) : Bool :=
  readyB x x.d && !hdrIllegal x.d x.stream && x.legal ((holding x.stream x.d).taken 0 x.stream (held x.d)) x.d
    && !hEpochCheck x.d

theorem Case.issues_spec (x : Case) (h : x.issues = true) :
    Issues (holding x.stream x.d) 0 0 x.stream 0 (held x.d) x.kind x.accepts x.legal := by
  simp only [Case.issues, Bool.and_eq_true, Bool.not_eq_true'] at h
  obtain ⟨⟨⟨h1, h2⟩, h3⟩, h4⟩ := h
  exact { toReady := ready_of x x.d h1, header := h2, legal := h3, epoch := .inl h4 }

/-- With a reserved bit of its header set it is ready and breaks R117; with the check of R118 and another epoch it is ready, legal and
of that epoch. -/
def Case.refused (x : Case) : Bool :=
  let a := patchN x.d 1 1 0x80
  let b := patchN (patchN x.d 1 1 0x20) 12 2 1
  readyB x a && hdrIllegal a x.stream && readyB x b && !hdrIllegal b x.stream
    && x.legal ((holding x.stream b).taken 0 x.stream (held b)) b && hEpochCheck b && hEpoch b ≠ (holding x.stream b).epoch 0 % 65536

/-- Each descriptor issues with effect, and the first one can be turned away for either reason. -/
def shown (xs : List Case) : Bool := xs.all Case.issues && (xs.take 1).all Case.refused

def lattice (d : List Byte) (kind : List Byte → Bool) (legal : State → List Byte → Bool) : Case :=
  { d, kind, accepts := fun s d => s.latTakes 0 0 d, legal }

theorem witness_LatticeCommandsIssue : shown
    [lattice (dsc 0x01 0 (ref 16 0x1000 16 32 64 1 ++ ref 40 0x2000 32 16 32 1)) (isOp 0x01) (mmaLegal 0),
     lattice (dsc 0x02 0 (ref 16 0x1000 16 16 64 0)) isLoadBg loadLegal,
     lattice (dsc 0x02 0 (ref 16 0x1000 128 128 512 0 ++ [(64, 16, allOnes), (80, 16, allOnes), (99, 1, 2)]))
       (fun d => isOp 0x02 d && fldB d 99 1 0 = 2) loadLegal,
     lattice (dsc 0x03 0 (ref 16 0x1000 16 16 64 0)) (isOp 0x03) storeLegal,
     lattice (dsc 0x04 0 []) (isOp 0x04) swapLegal] = true := by decide +kernel

def vector (d : List Byte) (kind : List Byte → Bool) (legal : State → List Byte → Bool) : Case :=
  { d, kind, accepts := fun s _ => s.vecFree 0, legal }

theorem witness_VectorCommandsIssue : shown
    [vector (dsc 0x20 0 (ref 16 0x1000 1 128 512 0 ++ ref 40 0x2000 1 128 512 0)) (isOp 0x20) mapLegal,
     vector (dsc 0x21 0 (ref 16 0x1000 4 1 4 0 ++ ref 40 0x2000 4 128 512 0)) (isOp 0x21) reduceLegal,
     vector (dsc 0x22 0 (ref 16 0x1000 1 128 512 0 ++ ref 40 0x2000 1 128 512 0)) (isOp 0x22) shuffleLegal,
     vector (dsc 0x23 0 (ref 16 0x1000 1 128 256 1 ++ ref 40 0x2000 1 128 512 0)) (isOp 0x23) convertLegal,
     vector (dsc 0x24 0 (ref 16 0x1000 2 128 256 1 ++ ref 40 0x2000 2 128 512 0 ++ ref 64 0x3000 2 4 16 0))
       (fun d => isOp 0x24 d && vMode d ≠ 1) softmaxLegal,
     vector (dsc 0x24 0 (ref 16 0x1000 2 128 512 0 ++ ref 40 0x2000 2 128 512 0 ++ ref 64 0x3000 2 4 16 0 ++ [(124, 1, 1)]))
       (fun d => isOp 0x24 d && vMode d = 1) softmaxLegal,
     vector (dsc 0x25 0 (ref 16 0x1000 1 128 512 0 ++ ref 40 0x2000 1 128 128 3)) (isOp 0x25) widenLegal] = true := by decide +kernel

def free (d : List Byte) (kind : List Byte → Bool) (legal : State → List Byte → Bool) : Case :=
  { d, kind, accepts := always, legal }

theorem witness_DmaCommandsIssue : shown
    [free (dsc 0x40 0 (ref 16 0x1000 2 16 64 0 ++ ref 40 0x2000 2 16 64 0)) (isOp 0x40) copyLegal,
     free (dsc 0x41 0 (ref 16 0x1000 2 16 64 0 ++ ref 40 0x2000 8 16 64 0 ++ [(64, 8, 0x5000)])) (isOp 0x41) gatherLegal,
     free (dsc 0x42 0 (ref 16 0x2000 8 16 64 0 ++ ref 40 0x1000 2 16 64 0 ++ [(64, 8, 0x5000)])) (isOp 0x42) scatterLegal,
     free (dsc 0x43 0 (ref 16 0x1000 2 16 64 0)) (isOp 0x43) fillLegal,
     { free (dsc 0x44 0 (ref 16 0x1000 1 1024 4096 0)) (isOp 0x44) (tapLegal 0) with accepts := tapAccepts },
     { free (dsc 0x45 0 (ref 16 0x1000 1 1024 4096 0)) isTapWrite (tapLegal 0) with accepts := tapAccepts },
     { free (dsc 0x45 0 (ref 16 0 1 1024 4096 0 ++ [(48, 1, 4)])) isTapTrim (tapLegal 0) with accepts := tapAccepts }] = true := by
  decide +kernel

theorem witness_CollectiveCommandsIssue : shown
    [free (dsc 0x60 0 (ref 16 0x1000 1 32 128 0 ++ [(42, 1, 1)])) (isOp 0x60) contribLegal,
     { free (dsc 0x61 0 [(16, 8, 0x1000000), (24, 8, 0x1100000), (32, 4, 1), (38, 2, 1)]) (isOp 0x61) (openLegal 0) with
       accepts := fun s d => s.openMay 0 d },
     free (dsc 0x62 0 [(20, 4, 1)]) (isOp 0x62) waitLegal,
     free (dsc 0x63 0 (ref 16 0x1000 2 16 64 0 ++ ref 40 0x2000 2 16 64 0)) (isOp 0x63) colGatherLegal,
     free (dsc 0x64 0 [(16, 8, 0x10000000), (24, 4, 1), (28, 4, 1), (32, 8, 0x10100000), (40, 8, 0x20000000),
       (56, 8, 0x20001000), (64, 8, 0x20002000)]) (isOp 0x64) (permuteLegal 0),
     free (dsc 0x65 0 (ref 16 0x1000 2 16 64 0 ++ ref 40 0x2000 2 16 64 0 ++ [(64, 8, 0x3000), (72, 8, 0x4000), (80, 8, 0x5000),
       (88, 8, 0x6000), (100, 4, 1), (104, 1, 4)])) isDispatch exchLegal,
     free (dsc 0x65 0 (ref 40 0x2000 2 16 64 0 ++ [(64, 8, 0x3000), (72, 8, 0x4000), (80, 8, 0x5000), (88, 8, 0x6000),
       (100, 4, 1), (104, 1, 5)])) isCombine exchLegal,
     free (dsc 0x66 0 (ref 16 0x1000 2 16 64 0 ++ ref 40 0x2000 2 16 64 0)) (isOp 0x66) colRingLegal] = true := by decide +kernel

def assembly (d : List Byte) (op : Nat) (legal : State → List Byte → Bool) : Case :=
  { d, kind := isOp op, accepts := fun s _ => s.asmFree 0, legal }

theorem witness_CurvatureCommandsIssue : shown
    [free (dsc 0x70 0 [(24, 4, 64), (28, 4, 64), (33, 1, 6), (40, 8, 0x1000000), (48, 4, 32768), (56, 8, 0x2000000),
       (64, 8, 0x3000000)]) (isOp 0x70) (tapCfgLegal 0),
     free (dsc 0x71 0 []) isFlush (gramLegal 0),
     free (dsc 0x71 0 (ref 24 0x1000 2 64 256 0 ++ [(17, 1, 1)])) (fun d => isOp 0x71 d && fldB d 17 1 0 = 1) (gramLegal 0),
     { assembly (dsc 0x72 0 (ref 16 0x1000 4 4 0 0 2 ++ ref 56 0x2000 4 4 0 0 2 ++ [(40, 8, 0x3000), (48, 8, 0x4000)])) 0x72 emaLegal with
       accepts := fun s d => s.asmFree 0 && s.epochFinal 0 (fld d 88 8) },
     assembly (dsc 0x73 0 (ref 16 0x1000 4 4 0 0 2 ++ ref 40 0x2000 4 4 0 0 2 ++ [(64, 8, 0x3000)])) 0x73 dampLegal,
     assembly (dsc 0x74 0 (ref 16 0x1000 4 4 0 0 2 ++ ref 40 0x2000 8 4 16 0 ++ [(104, 8, 0x3000)])) 0x74 normalLegal,
     assembly (dsc 0x75 0 (ref 16 0x1000 4 4 0 0 2 ++ ref 40 0x2000 4 1 4 0 ++ [(64, 8, 0x4000), (72, 1, 1), (73, 1, 2),
       (80, 8, 0x3000)])) 0x75 stencilLegal] = true := by decide +kernel

def solver (d : List Byte) (op : Nat) : Case :=
  { d, kind := isOp op, legal := slvLegal,
    accepts := fun s _ => s.fbit rf_slvCtl_enable (clusterOf 0) && (s.slvWaiting (clusterOf 0)).length < 32 }

theorem witness_SolverAndUpdateCommandsIssue : shown
    [solver (dsc 0x80 0 (ref 16 0x1000 4 4 0 0 2 ++ ref 64 0 4 4 0 0 2 ++ [(96, 8, 0x3000)])) 0x80,
     solver (dsc 0x81 0 (ref 16 0x1000 4 4 0 0 2 ++ ref 64 0 4 4 0 0 2 ++ [(96, 8, 0x3000)])) 0x81,
     solver (dsc 0x82 0 (ref 16 0x1000 4 4 0 0 2 ++ ref 40 0x2000 4 2 8 0 ++ ref 64 0 4 2 8 0 ++ [(96, 8, 0x3000)])) 0x82,
     solver (dsc 0x83 0 (ref 16 0x1000 4 4 0 0 2 ++ ref 64 0 4 4 0 0 2 ++ [(96, 8, 0x3000)])) 0x83,
     solver (dsc 0x84 0 (ref 16 0x1000 4 4 0 0 2 ++ ref 40 0x2000 16 4 16 0 ++ ref 64 0 4 4 0 0 2 ++ [(96, 8, 0x3000)])) 0x84,
     solver (dsc 0x85 0 (ref 16 0x1000 4 4 0 0 2 ++ ref 64 0 4 5 16 0 1 ++ [(96, 8, 0x3000)])) 0x85,
     free (dsc 0x86 0 [(16, 8, 0x3000)]) (fun d => isOp 0x86 d && !fldBit d 24 0) publishLegal,
     free (dsc 0x86 0 [(16, 8, 0x3000), (24, 1, 1)]) (fun d => isOp 0x86 d && fldBit d 24 0) publishLegal,
     free (dsc 0x90 0 [(18, 2, 1)]) (isOp 0x90) stageLegal,
     { free (dsc 0x91 2 [(18, 2, 1)]) (isOp 0x91) sweepLegal with accepts := fun s d => s.sweepMay 0 d, stream := 2 },
     free (dsc 0x92 0 [(18, 2, 1), (24, 8, 0x4000)]) (isOp 0x92) statsLegal,
     { free (dsc 0x93 2 [(18, 2, 1)]) (isOp 0x93) rollbackLegal with accepts := fun s d => s.rollbackMay 0 d, stream := 2 }]
      = true := by decide +kernel

def noTokens : List (Nat × Nat × Nat) := [(16, 2, 0xFFFF), (24, 2, 0xFFFF), (32, 2, 0xFFFF), (40, 2, 0xFFFF)]

theorem witness_SynAndCtlCommandsIssue : shown
    [free (dsc 0xA0 0 noTokens) (isOp 0xA0) synWaitLegal, free (dsc 0xA1 0 noTokens) (isOp 0xA1) synSignalLegal,
     free (dsc 0xA2 0 []) (isOp 0xA2) synFenceLegal, free (dsc 0xA3 0 [(16, 1, 3), (20, 4, 1)]) (isOp 0xA3) synStepLegal,
     free (dsc 0xF0 0 []) (isOp 0xF0) ctlLegal, free (dsc 0xF1 0 []) (isOp 0xF1) ctlLegal] = true := by decide +kernel

/-- A SYN.WAIT whose token stands, and one whose token is still to come. -/
theorem witness_SynAndCtlCommandsIssue_waits : State.reset.synWaits 0 (dsc 0xA0 0 noTokens) = true
    ∧ State.reset.synWaits 0 (dsc 0xA0 0 (noTokens ++ [(16, 2, 3), (20, 4, 1)])) = false := by decide +kernel

/-! ### States -/

/-- The module runs: sapwood serves, power is good; partition 0 owns cluster 0 and carve unit 0 and is at epoch 5; its page table
maps the first GiB onto itself, its job map names this module and (1, 0, 0), and its channel 0 takes commit 7 of that module. -/
def mod : State := { State.reset with
  tick := 10 ^ 18
  regs := [(⟨.prtFenceClusters, 0, 0⟩, 1), (⟨.prtFenceHbm, 0, 0⟩, 1), (⟨.prtPtRoot, 0, 0⟩, 0x10000),
    (⟨.grvJobMapBase, 0, 0⟩, 0x4000 + (2#64 <<< 48)), (⟨.grvChannelBase, 0, 0⟩, 0x5000), (⟨.grvEpoch, 0, 0⟩, 5),
    (⟨.glbStatus, 0, 0⟩, 1)]
  mem := [(0x4006, 1), (0x4008, 1), (0x400E, 1), (0x5000, 1), (0x5006, 1), (0x5008, 7), (0x10000, 0x21), (0x10002, 0x10),
    (0x10003, 0x01), (0x11000, 0x7F)]
  pins := { PinX.reset with inReset := false } }

/-- What a command leaves; every command answers a next state. -/
def after (c : Instr) (s : State) : State := match exec c s with
  | .next t => t
  | _ => s

def fields (n : Nat) (fs : List (Nat × Nat × Nat)) : List Byte :=
  fs.foldl (fun d (o, k, v) => patchN d o k v) (List.replicate n 0)

def self : Addr := ⟨0, 0, 0, 0⟩
def peer : Addr := ⟨1, 0, 0, 0⟩

/-- A frame from the peer to partition 0 of this module. -/
def frame (cls op : Nat) (ops : List (Nat × Nat × Nat)) (payload : List Byte := []) : Frame :=
  { cls, dst := self, src := peer, op, reqId := 9, ops := fields 16 ops, payload }

/-- A step message of a type for epoch 5 of job 1. -/
def stepFrame (type : Nat) : Frame := frame 0 0x20 [(0, 1, type), (2, 2, 1)] (fields 64 [(0, 8, 5)])

def mg : Mg := ⟨1, peer, self, 9⟩

def flightOf (core stream n : Nat) (d : List Byte) (phase : Phase) : Flight :=
  ⟨core, stream, n, d, 0, 5, phase, stDone, 0, 0, 0, 0, [], [], [], [], [], false⟩

/-! ### Memory, registers, events and numbers -/

theorem witness_StepRunsFrontCommand : mod.pending = [] := by decide

/-- A write that reads back, and one turned away by an uncorrectable line that it fills in part. -/
theorem witness_MemoryOperations : Memory.wf mod.mem = true ∧ (mod.paWrite 0x20000 [1, 2]).1 = true
    ∧ ((mod.withHbm { mod.hbm with lineErr := [(0x400, 3)] }).paWrite 0x20000 [1, 2]).1 = false
    ∧ (mod.paRead 0x4000 8).1 = some (mod.bytes 0x4000 8) := by decide +kernel

theorem witness_FieldWrites :
    (∃ f ∈ regFields .strCtl, f.acc = .rw) ∧ (∃ f ∈ regFields .corStreamCtl, f.acc = .w1c)
    ∧ (∃ f ∈ regFields .corStreamCtl, f.acc ≠ .rw ∧ f.acc ≠ .w1c ∧ f.acc ≠ .w1s)
    ∧ (let k : RegKey := ⟨.strCtl, 3, 0⟩
      let o := regOffset k
      o % 8 = 0 ∧ o < 2 ^ 26 ∧ inBlock o = true ∧ channelAt o = none ∧ keyAt o = some k ∧ mayWrite .sapwood k = true
        ∧ regDomain k = none ∧ k.reg ∉ actingRegs ∧ mod.writable k = true) := by decide +kernel

/-- A queue with room for any record, one with room for severity 2 and not for 1, and a full one; and a head that is not theirs to
move. -/
theorem witness_ModuleQueue :
    subMod 13 (mod.fget rf_evtMqPtr_tail) (mod.fget rf_evtMqPtr_head) + 257 ≤ 4096
    ∧ (let s := mod.fset rf_evtMqPtr_tail 0 0 3840
      let used := subMod 13 (s.fget rf_evtMqPtr_tail) (s.fget rf_evtMqPtr_head)
      used + 1 ≤ 4096 ∧ ¬ used + 257 ≤ 4096 ∧ evSeverity 0x3001 ≤ 1 ∧ 2 ≤ evSeverity 0x3002)
    ∧ (let s := mod.fset rf_evtMqPtr_tail 0 0 4096
      ¬ subMod 13 (s.fget rf_evtMqPtr_tail) (s.fget rf_evtMqPtr_head) + 1 ≤ 4096)
    ∧ bits (1#64).toNat 12 0 ≠ mod.fget rf_evtMqPtr_head ∧ mod.fbit rf_evtHostCtl_sapwoodOwnsMq = true
    ∧ (mod.fset rf_evtHostCtl_sapwoodOwnsMq 0 0 0).fbit rf_evtHostCtl_sapwoodOwnsMq = false := by decide +kernel

theorem witness_ScaleBytes : decScale 0xFE = some 127 ∧ decScale 0 = some (-127)
    ∧ (∃ n m k, (decElem cMXE4M3 0x38).scale2 (-127) = .fin n m k ∧ m ≠ 0 ∧ fvLog2 m k < -126)
    ∧ (∃ n m k, (decElem cMXE4M3 0x40).scale2 (-127) = .fin n m k ∧ ¬ fvLog2 m k < -126) :=
  ⟨by decide, by decide, ⟨_, _, _, rfl, by decide, by decide⟩, ⟨_, _, _, rfl, by decide⟩⟩

theorem witness_FedCells : (130, 2) ∈ fed (2 ^ 130 + 1) 128 4 := by decide +kernel

/-- A GF-mode opening, contribution, request and line. -/
theorem witness_GaloisField :
    (let d := dsc 0x61 0 [(16, 8, 0x1000000), (24, 8, 0x1100000), (32, 4, 1), (38, 2, 1), (40, 1, 0xD0), (41, 1, 1)]
     openLegal 0 mod d = true ∧ opnGf d = true)
    ∧ (let d := dsc 0x60 0 (ref 16 0x1000 1 64 128 0xD ++ [(42, 1, 3), (43, 1, 0xD), (52, 2, 7)])
      contribLegal mod d = true ∧ conGf d = true)
    ∧ (let r : AccReq := ⟨0, 0, 0, 1, true, 0xD, 0xD, 1, List.replicate 128 0⟩
      r.wellFormed 0xD = true ∧ r.gf = true)
    ∧ (65535 : Nat) < 65536 := by decide +kernel

theorem witness_LossScaleSteering : (-128 : Int) ≤ 127 ∧ (127 : Int) < 128 ∧ (lossNext 1 true 16 5 2000 16 24) = (16, 0)
    ∧ lossNext 0 false 24 1999 2000 0 24 = (24, 0) := by decide +kernel

/-! ### Streams -/

theorem witness_PlacedDescriptorFrame : ¬ ((1 : Nat) = 0 ∧ (0 : Nat) = 0) ∧ (0 : Nat) < 3 := by decide

/-- A SYN.SIGNAL, a SYN.STEP and a CTL.HALT that stand done. -/
theorem witness_SynAndCtlComplete : ∀ d ∈ [dsc 0xA1 0 ([(16, 2, 0xFF), (20, 4, 1)] ++ noTokens.drop 1), dsc 0xA3 0 [(16, 1, 7), (20, 4, 1)],
      dsc 0xF1 0 []],
    (let s := (mod.setStr 0 0 ssRunning).withFlights [flightOf 0 0 4 d .done]
     s.flight 0 0 4 = some (flightOf 0 0 4 d .done) ∧ hRecord d = false
      ∧ hOpcode d ∈ [0xA0, 0xA1, 0xA2, 0xA3, 0xF0, 0xF1] ∧ s.strState 0 0 = ssRunning
      ∧ s.preState (s.partOfFlight (flightOf 0 0 4 d .done)) ≤ psStopping) := by decide +kernel

/-- A wait half the range ahead does not stand; the same token at its value does. -/
theorem witness_TokenWait : (let d := dsc 0xF0 0 [(4, 2, 0xFF), (8, 4, 0x7FFFFFFF)]
      hWaitToken d = 0xFF ∧ hWaitValue d = 0x7FFFFFFF ∧ hdrIllegal d 0 = false ∧ mod.tokWait 0 0xFF 0x7FFFFFFF = false)
    ∧ mod.tokWait 0 0xFF 0 = true ∧ mod.tokWait 0 0xFF 0x80000000 = false
    ∧ mod.tokWait 0 0xFF 0x80000001 = true := by decide +kernel

/-- A full posting and one beyond it; each state that a clause names. -/
theorem witness_StreamRegisterWrites : mod.awake (domCore 63) = true
    ∧ bits (0x200000010#64).toNat 33 32 = 2 ∧ bits (0x300000000#64).toNat 33 32 = 3
    ∧ subMod 32 16 (mod.strRetire 63 2) ≤ mod.ringSize 63 2 ∧ ¬ subMod 32 17 (mod.strRetire 63 2) ≤ mod.ringSize 63 2
    ∧ mod.strState 63 2 = ssDisabled ∧ (mod.setStr 63 2 ssStopped).strState 63 2 = ssStopped
    ∧ (mod.setStr 63 2 ssHalted).strState 63 2 = ssHalted := by decide +kernel

/-- A running stream of an admitted partition, a drain that has lasted for its timeout, and a window filled to its tail. -/
theorem witness_StreamDrainAndFetch : mod.awake (domCore 0) = true ∧ mod.partOf 0 = some 0 ∧ mod.admits 0 = true
    ∧ (mod.setStr 0 1 ssRunning).strState 0 1 = ssRunning
    ∧ (let t0 := 10 ^ 18 - 1000000
      let s := mod.withDrains [(.stream 0 1, t0)]
      s.drains.find? (fun d => d.1 = .stream 0 1) = some (.stream 0 1, t0)
        ∧ s.since t0 (us (s.fget rf_corDrainTimeout_timeoutUs 0)) = true
        ∧ ∀ q < 16, s.ownsFunc q (.stream 0 1) = true → s.admits q = true)
    ∧ mod.fetchNext 0 1 = mod.strTail 0 1 := by decide +kernel

/-! ### Requests, buckets and frames at their target -/

def waiting (msg : Option Msg) (waitFrom : Option Nat) (aux : List Nat) : Request :=
  ⟨9, 0, 0, 0, 4, msg, 10 ^ 18 - 500000, waitFrom, 0, aux⟩

/-- A request that an answer names, one at its timeout, two at the end of a retry interval, and a management message due again. -/
theorem witness_RequestsAreResent :
    (let f := frame 1 0x10 []
     let m : Msg := .frame (frame 2 0x03 [])
     let q := waiting (some m) none [1]
     let s := mod.withRequests [q]
     s.serves = true ∧ f.op = 0x10 ∧ f.cls = 1 ∧ sameModule f.dst (s.here 0) = true
      ∧ s.requests.find? (fun r => r.id = f.reqId) = some q ∧ q.msg.isSome = true ∧ q.p = f.dst.part
      ∧ isFrame (some m) = true ∧ q.sent + us (s.fget rf_grvRedCtl_responseTimeoutUs q.p) ≤ s.tick)
    ∧ (let s := mod.withMgmt [⟨9, 1, 0, 5, .frame (stepFrame 1), 10 ^ 18 - 1000000⟩]
      s.requests.find? (fun r => r.id = 9) = none ∧ s.mgmt.any (fun m => m.id = 9) = true
        ∧ ∀ m ∈ s.mgmt, m.sent + 1000000 ≤ s.tick)
    ∧ (let s := (mod.withRequests [waiting none (some (10 ^ 18)) [0]]).withFlights [flightOf 0 0 4 (dsc 0x60 0 []) (.remote 9)]
      s.flight 0 0 4 = some (flightOf 0 0 4 (dsc 0x60 0 []) (.remote 9))
        ∧ ∀ q ∈ s.requests, q.waitFrom = some s.tick ∧ q.aux.headD 0 ≠ 2)
    ∧ ∀ h ∈ mod.grove.held, h.mirror ≠ 9 := by decide +kernel

def lineAdd : LineAdd := ⟨65535, 5, 4095, 65535, false, 0, 0, 0, List.replicate 128 0, 0x20000⟩

/-- A request from a peer, one from a stranger, and one while the partition is being stopped; a line that waits. -/
theorem witness_BucketCommands :
    (let f := frame 3 0x03 []
     mod.serves = true ∧ f.op = 0x03 ∧ sameModule f.dst (mod.here 0) = true ∧ mod.admits f.dst.part = true
      ∧ (mod.isPeer f.dst.part f.src).1 = true ∧ (mod.isPeer f.dst.part ⟨2, 0, 0, 0⟩).1 = false
      ∧ (mod.setPre 0 psStopping).admits f.dst.part = false)
    ∧ (mod.setPart 0 { mod.part 0 with adds := [lineAdd] }).part 0 = { mod.part 0 with adds := [lineAdd] } := by decide +kernel

/-- A request of the peer reaches its target. -/
def arrives (op : Nat) (f : Frame) (s : State) : Bool :=
  s.serves && f.op = op && f.cls = 3 && sameModule f.dst (s.here 0) && s.admits f.dst.part && (s.isPeer f.dst.part f.src).1

theorem arrives_spec (op : Nat) (f : Frame) (s : State) (h : arrives op f s = true) :
    Targets op f s (s.isPeer f.dst.part f.src).2 := by
  simp only [arrives, Bool.and_eq_true, decide_eq_true_eq] at h
  obtain ⟨⟨⟨⟨⟨h1, h2⟩, h3⟩, h4⟩, h5⟩, h6⟩ := h
  exact ⟨h1, ⟨h2, h3, h4⟩, h5, Prod.ext h6 rfl⟩

theorem witness_TargetCommands_access :
    arrives 0x01 (frame 3 0x01 [(0, 8, 0x20000)] [1]) mod = true ∧ arrives 0x02 (frame 3 0x02 [(8, 4, 4096)]) mod = true
    ∧ arrives 0x02 (frame 3 0x02 [(8, 4, 4097)]) mod = true ∧ arrives 0x02 (frame 3 0x02 []) mod = true := by decide +kernel

/-- The next commit of a channel, from the rank that the channel names. -/
theorem witness_TargetCommands_ring :
    (let f := frame 3 0x04 [(4, 4, 7)]
     let u := (mod.isPeer 0 peer).2
     arrives 0x04 f mod = true ∧ fld f.ops 0 2 ≤ 63
      ∧ (match u.serve (u.frameReq f false) fun q => readLocal q (u.channelAddr 0 0) 16 with
        | (.ok e, v) => (v.isRank 0 (chSender e) peer).1 && chValid e && decide (fld f.ops 4 4 = chExpected e)
          && decide ((v.isRank 0 (chSender e) peer).2.partOf (chCore e) = some 0) && decide (chToken e ≤ 0xFF)
        | _ => false) = true) := by decide +kernel

def exch : Exch := ⟨3, 5, 0, 0, 4, dsc 0x65 0 [], [(0, self), (1, peer)], 0, [], [], [], [], [], [], [], true⟩

theorem witness_TargetCommands_exchange : ∀ sub ∈ [csCount, csGrant, csFinished, csReturned],
    (let f := frame 3 0x05 [(0, 1, sub), (2, 2, 3), (4, 2, 5)]
     let s := mod.setPart 0 { mod.part 0 with exch := [exch] }
     let u := (s.isPeer 0 peer).2
     arrives 0x05 f s = true ∧ fld f.ops 0 1 = sub ∧ ¬ 0 < epochDiff (u.epoch 0) (fld f.ops 4 2)
      ∧ u.exchFind 0 (fld f.ops 2 2) (fld f.ops 4 2) = some exch ∧ exch.memberOf f.src = some 1 ∧ exch.combining = true) := by decide +kernel

/-- A part of the only incoming move of a permutation in flight. -/
theorem witness_TargetCommands_permute :
    (let d := dsc 0x64 0 [(16, 8, 0x100000), (24, 4, 3), (52, 4, 1), (64, 8, 0x8000), (72, 8, 77)]
     let pm : Perm := ⟨d, [], [⟨peer, 0, 0, 2⟩], []⟩
     let f := frame 3 0x05 [(0, 1, csPart), (4, 4, 2), (8, 4, 77)] (List.replicate 4096 0)
     let s := (mod.setPart 0 { mod.part 0 with perm := some pm }).withFlights [flightOf 0 0 4 d .awaiting]
     let u := (s.isPeer 0 peer).2
     arrives 0x05 f s = true ∧ fld f.ops 0 1 = csPart ∧ (u.part 0).perm = some pm
      ∧ u.permFlight 0 = some (flightOf 0 0 4 d .awaiting)
      ∧ pm.ins.findIdx? (fun m => m.peer = f.src ∧ m.round = fld f.ops 2 2 ∧ m.dst = fld f.ops 4 4) = some 0
      ∧ pmPlan pm.bytes % 2 ^ 32 = fld f.ops 8 4 ∧ fld f.ops 12 4 % 4096 = 0 ∧ fld f.ops 12 4 < chunkBytes
      ∧ f.payload.length = 4096
      ∧ (match u.serve (u.frameReq f true) fun q => readJournal q pm.bytes with
        | (.ok (_, is), _) => partsBefore pm 0 (fld f.ops 12 4) && decide (is.getD 0 0 = 0) && decide (lowRound pm.ins is mvPlaced = some (fld f.ops 2 2))
        | _ => false) = true) := by decide +kernel

/-! ### The optimizer step and recovery -/

theorem witness_RepeatedStepMessage : ∀ type ∈ [mtStepReady, mtSweepDone, mtParityApplied, mtVerdict, mtCommit, mtSettled],
    (let f := stepFrame type
     let s := mod.withSeen [(type, 1, 5, peer)]
     s.mgArrives type f = true ∧ (type, mgJob f, mgEpoch f, f.src) ∈ s.seen ∧ s.fromManager f.src = true) := by decide +kernel

theorem newStep (type : Nat) (s : State) (h : s.mgArrives type (stepFrame type) = true)
    (k : (type, mgJob (stepFrame type), mgEpoch (stepFrame type), peer) ∉ s.seen) : NewStep type (stepFrame type) s := ⟨h, k⟩

/-- A complete step; first messages of each type; an epoch that committed, and then has not settled. -/
theorem witness_StepAtWorker : mod.stepComplete 0 = true ∧ mod.fromManager peer = true
    ∧ (∀ type ∈ [mtVerdict, mtCommit, mtSettled], mod.mgArrives type (stepFrame type) = true
      ∧ (type, mgJob (stepFrame type), mgEpoch (stepFrame type), peer) ∉ mod.seen)
    ∧ mod.admits 0 = true ∧ (mod.setPre 0 psSaving).admits 0 = false
    ∧ (∀ r ∈ [(⟨5, 0, false, false, false⟩ : EpochRec), ⟨5, 0, true, false, false⟩],
      ((mod.setPart 0 { mod.part 0 with hist := [r] }).part 0).hist.find? (fun x => x.epoch = mgEpoch (stepFrame 2)) = some r) := by
  decide +kernel

/-- A partition under parity whose only lost column is rebuilt, and whose layer table starts with the last record that fits below
2^48. -/
def rebuilt : State := { mod with
  parts := [(0, { Part.reset with par := { ParX.reset with rebuild := some ⟨5, [(3, self)], 5, [0, 1, 2, 3, 4]⟩ } })]
  regs := (⟨.grvParityBase, 0, 0⟩, BitVec.ofNat 64 (0x7000 + 2 ^ rf_grvParityBase_enable.lo))
    :: (⟨.strLayerBase, 0, 0⟩, BitVec.ofNat 64 (2 ^ 48 - 128)) :: mod.regs
  mem := [(0x7014, 3), (0x7018, 20), (0x10000, 0x21), (0x10002, 0x10), (0x10003, 0x01), (0x11000, 0x7F)] }

theorem layerAt_above (s : State) (p i : Nat) (h : 2 ^ 48 ≤ s.layerAddr p i) : s.layerAt p i = none := by
  obtain ⟨c, r, hc⟩ : ∃ c r, chunksOf (s.layerAddr p i) 128 = (s.layerAddr p i, c) :: r := ⟨_, _, rfl⟩
  have : (s.own (readLocal (accountReq p) (s.layerAddr p i) 128)).1 = none := by
    simp only [State.own, readLocal, hc, mapE, xltLocal, if_pos h]
    rfl
  rw [State.layerAt, this]

theorem layerTable_top (s : State) (p : Nat) (h : s.fget rf_strLayerBase_base p = 2 ^ 41 - 1) (h0 : s.layerAt p 0 = none) :
    s.layerTable p = [] := by
  simp only [State.layerTable, List.filterMap_eq_nil_iff, Option.map_eq_none_iff]
  intro i _
  cases i with
  | zero => exact h0
  | succ i => exact layerAt_above s p _ (by simp only [State.layerAddr, h]; omega)

theorem finalise_nil (s : State) (q : XReq) : s.ownE (finaliseAll q [] []) = (.ok (), s) := rfl

/-- The partition's state once its parity record is read. -/
def rebuiltRead : State := (rebuilt.parRecord 0).2

theorem witness_RecoveryAtWorker_finalise :
    (match (rebuilt.par 0).rebuild, (rebuilt.parRecord 0).1 with
      | some b, some r => decide (r.quarter * max 1 b.lost.length ≤ b.finished.length) && b.positions.contains r.position
        && !rebuiltRead.opPending 0 (rebuiltRead.epoch 0) [0x63]
      | _, _ => false) = true
    ∧ rebuiltRead.ownE (finaliseAll (accountReq 0) (rebuiltRead.layerTable 0) []) = (.ok (), rebuiltRead) := by
  refine ⟨by decide +kernel, ?_⟩
  rw [layerTable_top rebuiltRead 0 (by decide +kernel) (by decide +kernel)]
  exact finalise_nil _ _

theorem witness_RecoveryAtWorker : mod.fromManager peer = true ∧ mod.grvArrives mg = true ∧ mod.seen = [] ∧ mod.admits 0 = true
    ∧ mod.epoch 0 = 5 ∧ (mod.fset rf_grvRole_spare 0 0 1).fbit rf_grvRole_spare = true := by decide +kernel

def image : Image := ⟨1, 0, 1, [], 0, false, 0, []⟩

/-- A job of the peer alone, in a state. -/
def jobIn (state : Nat) (holders : List Nat := []) : MgrJob :=
  ⟨1, [(peer, { image with parity := holders })], state, 0, 5, 0, [], [], [], [], 16, 0, [], [], 0, [], none, 0, []⟩

/-- The active manager with a job. -/
def managing (j : MgrJob) : State :=
  ((mod.fset rf_grvRole_managerMode 0 0 1).withGrove { mod.grove with jobs := [j] })

/-- The last report of the only worker in each state of its job, and a first of two. -/
theorem witness_StepAtManager :
    (∀ type ∈ [mtStepReady, mtSweepDone, mtParityApplied], (managing (jobIn 0)).mgArrives type (stepFrame type) = true)
    ∧ (managing (jobIn 0)).isManager = true ∧ (managing (jobIn 0)).mgrJob 1 = some (jobIn 0) ∧ (managing (jobIn 0)).seen = []
    ∧ (jobIn 0).state = jsCollecting ∧ (jobIn 0).epoch = mgEpoch (stepFrame 1) ∧ (jobIn 0).workers.contains peer = true
    ∧ (let k := { jobIn 0 with ready := [(peer, (stepFrame 1).payload)] }
      k.allReady = true ∧ ({ k with members := k.members ++ [(⟨2, 0, 0, 0⟩, image)] } : MgrJob).allReady = false)
    ∧ (managing (jobIn 0)).since (jobIn 0).tStart ((managing (jobIn 0)).stepTimeout (jobIn 0)) = true
    ∧ (managing (jobIn 0)).grove.held.all (·.job ≠ 1) = true
    ∧ (jobIn 1).state = jsSweeping ∧ w64 (4 + 1) = (jobIn 1).epoch
    ∧ (let k := { jobIn 1 with swept := [peer] }
      k.workers.all (fun a => k.swept.contains a) = true)
    ∧ ((managing (jobIn 1)).broadcast { jobIn 1 with swept := [peer], state := jsSettling, lastType := mtCommit }).mgrJob 1 ≠ none
    ∧ (let j := jobIn 2 ((List.range 9).map (· + 2) ++ [1])
      j.state = jsSettling ∧ j.encoding.contains peer = false ∧ j.holders.contains peer = true) := by decide +kernel

theorem witness_RecoveryAtManager :
    (managing (jobIn 3)).grvArrives mg = true ∧ (managing (jobIn 3)).seen = [] ∧ (5#64).toNat = (jobIn 3).epoch
    ∧ (managing (jobIn 3)).isManager = true ∧ (managing (jobIn 3)).mgrJob mg.job = some (jobIn 3)
    ∧ (jobIn 3).state = jsActivating ∧ (jobIn 4).state = jsRebuilding ∧ (jobIn 5).state = jsResharding ∧ (jobIn 6).state ≠ jsActivating
    ∧ (jobIn 3).survivors.contains peer = true
    ∧ ({ jobIn 3 with lost := [(⟨2, 0, 0, 0⟩, peer)] } : MgrJob).spares.contains peer = true
    ∧ (let k := { jobIn 4 with lost := [(⟨2, 0, 0, 0⟩, peer)], reported := [peer] }
      k.spares.all (fun a => k.reported.contains a) = true
        ∧ ({ k with lost := k.lost ++ [(⟨3, 0, 0, 0⟩, ⟨4, 0, 0, 0⟩)] } : MgrJob).spares.all (fun a => k.reported.contains a) = false)
    ∧ (let k := { jobIn 5 with reported := [peer] }
      k.workers.all (fun a => k.reported.contains a) = true
        ∧ ({ k with members := k.members ++ [(⟨2, 0, 0, 0⟩, image)] } : MgrJob).workers.all (fun a => k.reported.contains a) = false) := by
  decide +kernel

def heard (last : Nat) (restarting : Option Nat) : Peer := ⟨1, false, 1, [], last, restarting, false⟩

/-- A manager-profile module before and after it takes a mode, a pulse due, and a peer at its loss time and one tick before. -/
theorem witness_RolesAndLiveness :
    (let s := mod.fset rf_grvRole_role 0 0 1
     s.fget rf_grvRole_role = 1 ∧ s.fget rf_grvMgrCtl_mode = 0 ∧ s.fget rf_grvRole_groveState ≠ 3
      ∧ (s.fset rf_grvRole_groveState 0 0 3).fget rf_grvRole_groveState = 3)
    ∧ mod.fget rf_grvRole_role ≠ 1
    ∧ (let s := (((mod.fset rf_grvRole_groveState 0 0 3).fset rf_grvManager_managerValid 0 0 1).fset rf_grvManager_manager 0 0 1).withGrove
        { mod.grove with pulsed := some (10 ^ 18 - 10000000) }
      s.serves = true ∧ s.since (10 ^ 18 - 10000000) (ms (s.fget rf_grvLiveness_pulseMs)) = true ∧ s.fget rf_grvRole_groveState = 3
        ∧ s.fbit rf_grvManager_managerValid = true ∧ s.fbit rf_grvManager_standbyValid = false
        ∧ s.fget rf_grvManager_manager ≠ addrModule s.me)
    ∧ (let s := (managing (jobIn 0)).setPeer (heard (10 ^ 18 - 50000000) none)
      s.grvArrives mg = true ∧ s.fget rf_grvRole_managerMode = 1 ∧ s.fget rf_grvRole_term = 0
        ∧ s.peer (addrModule mg.src) = some (heard (10 ^ 18 - 50000000) none)
        ∧ s.since (10 ^ 18 - 50000000) (ms (s.fget rf_grvLiveness_lossMs)) = true
        ∧ s.since (10 ^ 18 - 49999999) (ms (s.fget rf_grvLiveness_lossMs)) = false)
    ∧ (let g := ms (mod.fget rf_grvLiveness_sapwoodGraceMs)
      10 ^ 18 - g - 1 + g < mod.tick ∧ mod.tick ≤ 10 ^ 18 - g + g) := by decide +kernel

/-- A joining module with worker profile, an admission, link reports of each kind, a mirror, a takeover and an image. -/
theorem witness_GroveMessages :
    (mod.grvArrives mg = true ∧ mod.seen = [] ∧ mod.fromManager peer = true ∧ mod.fget rf_grvRole_term = 0)
    ∧ (let s := managing (jobIn 0)
      s.grvArrives mg = true ∧ (s.readGrove mtJoin 9 mg).isManager = true ∧ (s.readGrove mtJoin 9 mg).peer 1 = none
        ∧ (s.readGrove mtConfigImage 9 mg).mgrJob mg.job = some (jobIn 0)
        ∧ (s.readGrove mtConfigImage 9 mg).fbit rf_grvManager_standbyValid = false)
    ∧ (let u := managing (jobIn 0)
      (u.withGrove { u.grove with links := [(1, 4, 5, 2)] }).allFacingDown 2 = true
        ∧ (u.withGrove { u.grove with links := [(1, 4, 5, 2), (3, 5, 2, 2)] }).allFacingDown 2 = false)
    ∧ ((mod.fset rf_grvRole_managerMode 0 0 2).readGrove mtMirror 9 mg).fget rf_grvRole_managerMode = 2
    ∧ (mod.readGrove mtMirror 9 mg).fget rf_grvRole_managerMode ≠ 2
    ∧ (mod.fset rf_grvRole_term 0 0 7).fget rf_grvRole_term = 7 := by decide +kernel

/-! ### Links, frames and host ports -/

/-- Port 5, or another, in a state that it entered `ago` ticks before now. -/
def port (n st ago : Nat) : State :=
  let s := mod.setPort n { PortX.reset with since := 10 ^ 18 - ago, heard := 10 ^ 18 - ago }
  { s with regs := (⟨.fabPortStatus, n, 0⟩, BitVec.ofNat 64 (insBits 0 rf_fabPortStatus_linkState.hi rf_fabPortStatus_linkState.lo st))
      :: s.regs }

/-- Each state that a clause names, at the moments at which its timers end and one tick before. -/
theorem witness_LinkStates :
    (port 5 lsTraining 100000000).link 5 = lsTraining ∧ (port 2 lsTraining 0).link 2 = lsTraining ∧ isFabric 5 = true ∧ isFabric 2 = false
    ∧ (port 5 lsTraining 100000000).since ((port 5 lsTraining 100000000).port 5).since (ms 100) = true
    ∧ (let s := port 5 lsRelaning 1999999
      s.link 5 = lsRelaning ∧ s.since (s.port 5).since (ms 2) = false ∧ s.healthy 5 true = true ∧ s.linked 5 = true)
    ∧ (let s := port 5 lsRelaning 2000000
      s.since (s.port 5).since (ms 2) = true)
    ∧ (let s := port 15 lsUp 20000
      s.linked 15 = true ∧ s.since (s.port 15).heard (us 20) = true ∧ (s.port 15).resends < 8)
    ∧ (let s := port 15 lsUp 19999
      s.since (s.port 15).heard (us 20) = false)
    ∧ (let s := (port 4 lsUp 0).setPort 4 { PortX.reset with resends := 8 }
      8 ≤ (s.port 4).resends)
    ∧ (let s := port 4 lsDown 1000000
      s.link 4 = lsDown ∧ s.since (s.port 4).since (ms 1) = true ∧ s.awake (domPort 4) = true) := by decide +kernel

/-- The next frame, one ahead across the wrap, one behind; a flow frame; frames unacknowledged for 8 µs. -/
theorem witness_FramesOfALink :
    (let s := port 15 lsUp 0
     isFabric 15 = true ∧ s.alive 15 = true ∧ s.linked 15 = true ∧ knownOp 0x20 = true
      ∧ sext 16 (subMod 16 0 (s.port 15).rxNext) = 0 ∧ 0 < sext 16 (subMod 16 0x7FFF (s.port 15).rxNext)
      ∧ sext 16 (subMod 16 0x8000 (s.port 15).rxNext) < 0)
    ∧ (fields 60 []).length = 60 ∧ fldBit (fields 60 []) 2 4 = false ∧ fldBit (fields 60 []) 2 5 = false
    ∧ (let s := (port 15 lsUp 0).setPort 15 { PortX.reset with retry := [(0, frame 3 1 [], .plain)], progress := 10 ^ 18 - 8000 }
      (s.port 15).retry ≠ [] ∧ s.since (s.port 15).progress (us 8) = true) := by decide +kernel

theorem witness_CoordinatesAndRoutes :
    (let s := mod.withFab { mod.fab with coordNext := some 0x00FFF123 }
     s.fab.coordNext = some 0x00FFF123 ∧ s.channelsEmpty = true ∧ (0x00FFF123#64).toNat / 2 ^ 24 % 2 = 0)
    ∧ mod.fab.coordNext = none
    ∧ (let s := port 4 lsUp 0
      s.serves = true ∧ isFabric 4 = true ∧ s.alive 4 = true ∧ s.fget rf_glbProfile_role ≠ 2 ∧ s.fbit rf_fabCoord_valid = false
        ∧ s.fab.coordNext = none
        ∧ ((s.setReg .fabCoord 0 0 0x1FFF123).reg .fabCoord).toNat
          = (1 <<< 24) + (15 <<< 20) + (15 <<< 16) + (15 <<< 12) + (1 <<< 8) + (2 <<< 4) + 3
        ∧ (s.setReg .fabCoord 0 0 0x1FFF123).fbit rf_fabCoord_valid = true
        ∧ (s.fset rf_grvRole_groveState 0 0 3).fget rf_grvRole_groveState = 3)
    ∧ mod.since (10 ^ 18 - 64) 64 = true ∧ mod.fromManager peer = true ∧ mod.grvArrives mg = true ∧ mod.seen = []
    ∧ ∀ e ∈ [(4095, 255)], e.1 < 4096 := by decide +kernel

def conf (part : Option (Fin 16)) : QpConf := ⟨part, 4096, some 3, 100, 7, 0, 0⟩

def message (opcode : Nat) : Roce := { port := 3, qpn := qpnBase + 65535, opcode, psn := 0 }

/-- The next message of the last queue pair on the last port, for each operation, as responder of no partition and of one. -/
theorem witness_RoceMessages :
    (∀ op ∈ [rcSend, rcSendImm, rcWrite, rcWriteImm, rcRead, rcCompareSwap, rcFetchAdd, rcAccumulate],
      let s := port 3 lsUp 0
      let r := message op
      let c := conf (some 15)
      s.serves = true ∧ r.port < 4 ∧ s.link r.port = lsUp ∧ qpnOk r = true ∧ (s.delivered r c).2.err = false
        ∧ subMod 24 r.psn (s.notify (s.qp r.qpn r.port c) r).2.expected = 0 ∧ (s.delivered r c).2.conf.part.isSome = true
        ∧ (s.delivered r (conf none)).2.conf.part = none)
    ∧ (let r := { message rcAck with a := 0x1F }
      let s := port 3 lsUp 0
      r.opcode = rcAck ∧ r.a < synRnr ∧ (s.notify (s.qp r.qpn r.port (conf none)) r).2.err = false)
    ∧ (let q := { QpX.new (conf none) 3 with sent := [(message rcSend, 0, 10 ^ 18 - 100000)] }
      let s := (port 3 lsUp 0).setQp (qpnBase + 65535) q
      smGet none s.fab.qps (qpnBase + 65535) = some q ∧ q.err = false ∧ s.since (10 ^ 18 - 100000) (us (conf none).timeoutUs) = true
        ∧ q.retries < (conf none).retry ∧ (conf none).retry ≤ { q with retries := 7 }.retries) := by decide +kernel

theorem witness_CongestionControl :
    (let s := (port 3 lsUp 0).setReg .fabHostCtl 0 0 (BitVec.ofNat 64
      (insBits (insBits (insBits (insBits 0 rf_fabHostCtl_pfcPrioA.hi rf_fabHostCtl_pfcPrioA.lo 7) rf_fabHostCtl_pfcAEnable.hi
        rf_fabHostCtl_pfcAEnable.lo 1) rf_fabHostCtl_pfcWatchdogMs.hi rf_fabHostCtl_pfcWatchdogMs.lo 10)
        rf_fabHostCtl_ecnEnable.hi rf_fabHostCtl_ecnEnable.lo 1))
     let x := { s.port 3 with paused := [(7, some (10 ^ 18 - 10000000))], lastPause := [(7, 10 ^ 18 - 100000000)] }
     let q := { QpX.new (conf none) 3 with cut := some (10 ^ 18 - 50000), changed := 10 ^ 18 - 55000 }
     s.link 3 = lsUp ∧ s.pfcOn 7 = true ∧ (s.port 3).ignoring.contains 7 = false
      ∧ smGet none ((s.setPort 3 x).port 3).paused 7 = some (10 ^ 18 - 10000000) ∧ s.fget rf_fabHostCtl_pfcWatchdogMs = 10
      ∧ s.since (10 ^ 18 - 10000000) (ms 10) = true ∧ s.since (10 ^ 18 - 9999999) (ms 10) = false
      ∧ ((s.setPort 3 { x with ignoring := [7] }).port 3).ignoring.contains 7 = true
      ∧ s.since (smGet 0 ((s.setPort 3 x).port 3).lastPause 7) (ms 100) = true
      ∧ smGet none (s.setQp qpnBase q).fab.qps qpnBase = some q ∧ s.fbit rf_fabHostCtl_ecnEnable = true
      ∧ s.since (10 ^ 18 - 50000) (us 50) = true ∧ s.since (10 ^ 18 - 49999) (us 50) = false
      ∧ s.since q.changed (us 55) = true ∧ s.since (10 ^ 18 - 54999) (us 55) = false
      ∧ (s.fset rf_fabHostCtl_ecnEnable 0 0 0).fbit rf_fabHostCtl_ecnEnable = false) := by decide +kernel

/-! ### Partitions and memory stacks -/

theorem witness_TranslationCommands :
    (let x : XFault := ⟨1, 0x20000, 1, 10 ^ 18 - 1000, true, true, some 0, [(0, 0, 4)], [], [], []⟩
     let s := mod.setPart 0 { mod.part 0 with faults := [x], inval := some (0x40000000, 30) }
     s.waitingFault 0 1 = some x ∧ s.waitingFault 0 2 = none
      ∧ s.since (10 ^ 18 - us (s.fget rf_prtFaultTimeout_timeoutUs 0)) (us (s.fget rf_prtFaultTimeout_timeoutUs 0)) = true
      ∧ (s.part 0).inval = some (0x40000000, 30) ∧ (∀ q ∈ s.requests, q.p ≠ 0) ∧ (s.part 0).adds = [] ∧ s.meetsSave 0 0x40000000 (2 ^ 30) = false)
    ∧ mod.fbit rf_prtStatus_invalBusy 0 = false ∧ 0 % 2 ^ 48 = 0 ∧ 65536 % 2 ^ 17 ≠ 0
    ∧ (mod.fset rf_prtStatus_invalBusy 0 0 1).fbit rf_prtStatus_invalBusy 0 = true := by decide +kernel

/-- The partition in a pre-emption state, armed. -/
def pre (st : Nat) : State := (mod.setPre 0 st).fset rf_prtCtl_armed 0 0 1

theorem witness_PreemptionCommands :
    (pre psNone).preState 0 = psNone ∧ (pre psNone).fbit rf_prtCtl_armed 0 = true ∧ (pre psNone).draining 0 = false
    ∧ (((pre psNone).setStr 0 1 ssDraining).withDrains [(.stream 0 1, 0)]).draining 0 = true ∧ mod.fbit rf_prtCtl_armed 0 = false
    ∧ ((pre psStopping).part 0).preemptAsked = false ∧ (pre psStopping).preState 0 = psStopping ∧ (pre psStopping).stopped 0 = true
    ∧ (pre psSaving).preState 0 = psSaving ∧ (pre psSaved).preState 0 = psSaved ∧ (pre psRestoring).preState 0 = psRestoring := by
  decide +kernel

/-! ### Memory stacks and the taproot -/

/-- Every stack trained and ready, none throttled; a stack's further state. -/
def stacked (x : StackX) (throttled : Nat) : State :=
  (((mod.fset rf_hbmStackStatus_trained 11 0 1).fset rf_hbmStackStatus_ready 11 0 1).fset rf_hbmStackStatus_throttled 11 0
    throttled).setStackX 11 x

/-- The last stack with its bounds on either side; the last line of the stacks; a repair under way. -/
theorem witness_HbmMaintenance :
    (let s := stacked .reset 0
     let temp : BitVec 8 := 104
     let u := (s.noteTemp 27 temp.toNat).fset rf_hbmStackStatus_tempC 11 0 temp.toNat
     s.awake (domStack 11) = true ∧ s.fbit rf_hbmStackStatus_trained 11 = true
      ∧ (u.fset rf_hbmStackStatus_tempRaised 11 0 1).fbit rf_hbmStackStatus_tempRaised 11 = true
      ∧ u.fbit rf_hbmStackStatus_throttled 11 = false ∧ (u.fset rf_hbmRefreshCtl_tempLimitC 11 0 105).fget rf_hbmRefreshCtl_tempLimitC 11 = 105)
    ∧ (let s := (stacked { StackX.reset with coolSince := some (10 ^ 18 - ms 100), freeSince := some (10 ^ 18 - ms 100) } 1).fset
        rf_hbmStackStatus_tempRaised 11 0 1
      (s.stackX 11).coolSince = some (10 ^ 18 - ms 100) ∧ s.fbit rf_hbmStackStatus_tempRaised 11 = true
        ∧ (s.stackX 11).freeSince = some (10 ^ 18 - ms 100) ∧ s.fbit rf_hbmStackStatus_throttled 11 = true
        ∧ s.since (10 ^ 18 - ms 100) (ms 100) = true ∧ s.since (10 ^ 18 - ms 100 + 1) (ms 100) = false
        ∧ s.fbit rf_hbmStackStatus_ready 11 = true)
    ∧ (let s := (stacked .reset 0).fset rf_hbmGlbCtl_scrubEnable 0 0 1
      let line := (0xC000000000 - 128) / 128
      s.fbit rf_hbmGlbCtl_scrubEnable = true ∧ (s.hbmPlace (128 * line)).stack = 11 ∧ 128 * line < hbmTop
        ∧ s.since s.hbm.scrubStart (hours s.hbm.scrubHours) = true)
    ∧ (mod.withHbm { mod.hbm with repairing := some 5 }).hbm.repairing = some 5 := by decide +kernel

theorem witness_HbmRegulator :
    (let r : HbmReq := ⟨some 15, false, true, 0xC000000000 - 128⟩
     let s := stacked { StackX.reset with minBucket := [(15, 256)] } 0
     s.since s.hbm.refillTick 64 = true ∧ s.fbit rf_hbmStackStatus_ready 11 = true ∧ s.fbit rf_hbmStackStatus_throttled 11 = false
      ∧ r.pa < hbmTop ∧ (s.hbmPlace r.pa).stack = 11 ∧ (s.hbmPlace r.pa).pc < 64
      ∧ reqCost r ≤ smGet 0 (s.stackX 11).minBucket (s.hbmClass r))
    ∧ (let s := stacked { StackX.reset with skip := [(63, true)] } 1
      s.fbit rf_hbmStackStatus_ready 11 = true ∧ s.fbit rf_hbmStackStatus_throttled 11 = true
        ∧ smGet false (s.stackX 11).skip 63 = true) := by decide +kernel

def flash (f : FlashX) : State := mod.setFlash f

/-- One sector of the last die's last block. -/
def oneSector (x : FBlock) : FlashX :=
  { FlashX.reset with place := [(7, some ⟨532479, 0, 0⟩)], blocks := [(532479, x)] }

theorem witness_TaprootMaintenance :
    (flash { FlashX.reset with lost := [127] }).flash.lost.contains 127 = true
    ∧ (let s := flash { FlashX.reset with lost := [0], rebuilding := [0] }
      s.flash.lost.contains 127 = false ∧ (∀ x ∈ s.flash.rebuilding, dieSet x ≠ dieSet 127)
        ∧ s.flash.rebuilding.contains 0 = true)
    ∧ (let s := flash (oneSector ⟨5, 10, 50000, 1, false⟩)
      s.since s.flash.aged (ms 1000) = true ∧ s.since s.flash.accrued (ms 1000) = true
        ∧ s.fbit rf_tapAllowance_waiting = false
        ∧ 50000 ≤ (s.flash.block 532479).reads ∧ s.flash.valid 532479 ≠ []
        ∧ ∀ e ∈ s.flash.blocks, e.2.age + ageFactor 40 < s.refreshAge)
    ∧ (let s := ((flash (oneSector ⟨0, 0, 0, 3, false⟩)).fset rf_tapStatus_scanPending 0 0 1).fset rf_tapStatus_ready 0 0 1
      s.fbit rf_tapStatus_scanPending = true ∧ s.fbit rf_tapStatus_ready = true ∧ s.flash.scanned = []
        ∧ s.flash.written.contains 532479 = true ∧ s.flash.valid 532479 = [7] ∧ (s.setFlash .reset).flash.written = [])
    ∧ (let s := flash { oneSector ⟨99, 0, 0, 3, false⟩ with blocks := [(9, ⟨300, 0, 0, 3, false⟩), (532479, ⟨99, 0, 0, 3, false⟩)] }
      s.flash.leastWorn s.flash.written = some 532479
        ∧ (s.flash.block 532479).pe + 200 < s.flash.blocks.foldl (fun a (_, x) => max a x.pe) 0)
    ∧ (flash { FlashX.reset with accrued := 10 ^ 18 - ms 1000 + 1 }).since
        (flash { FlashX.reset with accrued := 10 ^ 18 - ms 1000 + 1 }).flash.accrued (ms 1000) = false := by decide +kernel

/-! ### Power, clocks and domains -/

def died (x : DieX) : State := mod.setDie 3 x

theorem witness_OperatingPoints :
    (1000 ≤ bits (1000#64).toNat 15 0 ∧ mod.prof 8 2 < bits (1000#64).toNat 15 0)
    ∧ (let s := mod.withTru { mod.tru with profile := [0, 0, 0, 0, 0, 0, 0, 0, 0xE8, 3, 0, 0, 0x58, 2, 0xB0, 4] }
      bits (1000#64).toNat 15 0 ≤ s.prof 8 2 ∧ s.prof 12 2 ≤ 600 ∧ 1200 ≤ s.prof 14 2
        ∧ bits (600#64 ||| 1200#64 <<< 16).toNat 15 0 = 600 ∧ bits (600#64 ||| 1200#64 <<< 16).toNat 31 16 = 1200)
    ∧ (3000 % 50 = 0 ∧ 1001 % 50 ≠ 0)
    ∧ (let s := died { DieX.reset with cmd := some 800, sent := 10 ^ 18 - us 200 }
      (s.die 3).cmd = some 800 ∧ s.since (s.die 3).sent (us 200) = true ∧ s.fget (avsRetries 3) < 2
        ∧ (s.fset (avsRetries 3) 0 0 2).fget (avsRetries 3) = 2)
    ∧ ((died { DieX.reset with cmd := some 800, sent := 10 ^ 18 - us 200, back := true }).die 3).back = true
    ∧ (let s := (died { DieX.reset with silent := some 65535 })
      (s.die 3).silent = some 65535 ∧ 65535 ≤ (65535#16).toNat)
    ∧ (let s := (died { DieX.reset with goalF := 3000, goalV := 0 }).fset rf_clkDieStatus_freqMhz 3 0 2900
      s.since (s.die 3).step 100 = true ∧ s.freq 3 + 50 < (s.die 3).goalF ∧ (s.die 3).cmd = none ∧ (s.die 3).silent = none
        ∧ s.vout 3 = (s.die 3).goalV)
    ∧ (let s := (died { DieX.reset with goalF := 1000 }).fset rf_clkDieStatus_freqMhz 3 0 1051
      (s.die 3).goalF + 50 < s.freq 3)
    ∧ (let s := (died { DieX.reset with goalF := 1000 }).fset rf_clkDieStatus_freqMhz 3 0 1000
      (s.die 3).goalF = s.freq 3) := by decide +kernel

theorem witness_PowerAndHeat :
    (let s := mod.fset rf_pwrLimit_capW 0 0 65534
     65534 ≤ s.fget rf_pwrLimit_capW ∧ s.fget rf_pwrLimit_capW < 65535
      ∧ (((s.fset rf_pwrModuleStatus_capActive 0 0 1).fset rf_pwrModuleStatus_inputW 0 0 65535).fset rf_pwrModuleStatus_inputDv 0
        0 0).fbit rf_pwrModuleStatus_capActive = true)
    ∧ (let s := (((mod.withPwr { mod.pwr with
        below := some (10 ^ 18 - ms 10), dies := [(0, { DieX.reset with capLimit := 900 })] }).fset
        rf_pwrModuleStatus_capActive 0 0 1).fset rf_pwrDieTarget_targetMhz 0 0 3000).fset rf_ageDieMargin_maxMhz 0 0 3000
      s.pwr.below = some (10 ^ 18 - ms 10) ∧ s.fbit rf_pwrModuleStatus_capActive = true ∧ s.since (10 ^ 18 - ms 10) (ms 10) = true
        ∧ s.since (10 ^ 18 - ms 10 + 1) (ms 10) = false
        ∧ (let u := (List.range 4).foldl (fun (v : State) d =>
            (v.setDie d { v.die d with capLimit := min 3000 ((v.die d).capLimit + 50) }).limitSteps
              (b2n ((v.die d).capLimit < 3000))) s
          let v := u.withPwr { u.pwr with below := some u.tick }
          ∃ d ∈ List.range 4, (v.die d).capLimit < min (min (v.fget rf_pwrDieTarget_targetMhz d)
            (v.fget rf_ageDieMargin_maxMhz d)) (v.die d).thermLimit))
    ∧ (let s := mod.withTru { mod.tru with profile := List.replicate 22 0 ++ [95] }
      (94#8).toNat < s.prof 22 1 ∧ s.prof 22 1 ≤ (95#8).toNat ∧ (s.die 3).thermLimit = 3000
        ∧ (s.setDie 3 { s.die 3 with thermLimit := 2999 }).die 3 = { DieX.reset with thermLimit := 2999 })
    ∧ (let s := died { DieX.reset with cool := some (10 ^ 18 - ms 100), thermLimit := 2999 }
      (s.die 3).cool = some (10 ^ 18 - ms 100) ∧ (s.die 3).thermLimit < 3000
        ∧ s.since (10 ^ 18 - ms 100) (ms 100) = true) := by decide +kernel

/-- The domains at the ends of the table's rows. -/
theorem witness_DomainRequests :
    (domainTable 127 0 = false ∧ domainTable 113 1 = false ∧ domainTable 95 1 = false ∧ domainTable 111 2 = false)
    ∧ (domainTable 83 3 = true ∧ domainTable 84 2 = true ∧ domainTable 112 2 = true ∧ domainTable 96 3 = true)
    ∧ (mod.domPhase 63 = phStable ∧ mod.domState 63 = 0 ∧ mod.mayEnter 63 1 false = true ∧ mod.mayEnter 63 3 false = true)
    ∧ (let s := mod.fset rf_pwrDomainStatus_state 63 0 3
      s.domPhase 63 = phStable ∧ 0 < s.domState 63 ∧ ∀ u, uncoreOf 63 = some u → s.domState u = 0) := by
  refine ⟨by decide, by decide, by decide +kernel, ?_⟩
  refine ⟨by decide +kernel, by decide +kernel, fun u h => ?_⟩
  obtain rfl : u = 83 := by simpa [uncoreOf] using h.symm
  decide +kernel

theorem witness_ModuleStates : mod.fget rf_pwrModuleState_requested = 0 ∧ mod.allDisabled = true
    ∧ (mod.setStr 0 0 ssRunning).allDisabled = false ∧ (∀ p < 16, mod.preState p = psNone)
    ∧ (mod.fset rf_pwrModuleState_requested 0 0 3).fget rf_pwrModuleState_requested = 3 := by decide +kernel

/-- The last cluster domain in a phase, with a wake event that its abort bit lets count. -/
def phased (ph : Nat) (wake : Bool) : State :=
  ((mod.setPhase 79 ph).setDom 79 { DomX.reset with wake, drainTick := 10 ^ 18 - us 1000 }).fset rf_pwrDomainCtl_abortEnable 79 0 1

theorem witness_DomainPhases : (∀ ph ∈ [phStopping, phDraining, phSaving, phIsolating, phExiting], (phased ph false).domPhase 79 = ph
      ∧ (phased ph true).domPhase 79 = ph)
    ∧ (phased phStopping true).aborts 79 = true ∧ (phased phStopping false).aborts 79 = false
    ∧ (phased phDraining true).domDrained 79 = true ∧ (phased phDraining false).tested 79 = false
    ∧ (let s := (phased phDraining false).fset rf_pwrDomainCtl_entryTimeoutUs 79 0 1000
      s.since (s.dom 79).drainTick (us (s.fget rf_pwrDomainCtl_entryTimeoutUs 79)) = true)
    ∧ (let s := ((phased phStable true).fset rf_pwrDomainStatus_state 79 0 2)
      s.domPhase 79 = phStable ∧ s.domState 79 ≠ 0 ∧ (s.dom 79).wake = true)
    ∧ (let s := ((phased phExiting true).fset rf_pwrDomainStatus_state 79 0 2)
      s.domState 79 ≠ 3 ∧ (s.dom 79).heldSince = none) := by decide +kernel

/-- A free queue, a full one, a queued test whose unit is quiet, and a running one at its time. -/
theorem witness_MonitorsAndTests : mod.sapwood = true ∧ mod.serves = true
    ∧ mod.since mod.age.planTick (hours (mod.fget rf_ageCtl_planPeriodH)) = true
    ∧ (mod.fset rf_fabPortCtl_enable 15 0 0).drainedFor 0x20 15 = true ∧ mod.drainedFor 0x21 127 = true
    ∧ (mod.withFlights [flightOf 0 0 4 (dsc 0x44 0 []) .done]).drainedFor 0x21 127 = false
    ∧ mod.age.queue.length < 64
    ∧ (let t : TestReq := ⟨0x12, 15, false, 0, 10 ^ 18 - ms 100, [], []⟩
      64 ≤ (mod.withAge { mod.age with queue := List.replicate 64 t }).age.queue.length
      ∧ (mod.withAge { mod.age with queue := [t] }).age.queue.find? (mod.withAge { mod.age with queue := [t] }).testStarts = some t)
    ∧ (let t : TestReq := ⟨0x04, 0, false, 0, 0, [], []⟩
      let s := mod.withAge { mod.age with running := [t] }
      s.age.running.find? (fun t => t.code = (4#8).toNat ∧ t.target = (0#16).toNat) = some t
        ∧ s.since t.tick (s.testTicks 4) = true ∧ testBackground 4 = true) := by decide +kernel

/-! ### Pins, boot and trust -/

theorem witness_PowerAndReset : mod.pins.pwrEn = true ∧ mod.pins.pwrGood = true ∧ mod.pins.input = true ∧ mod.pins.trip = false
    ∧ (let s := mod.withPins { mod.pins with pwrEn := false, pwrGood := false }
      s.pins.pwrEn = false ∧ s.pins.input = true ∧ s.pins.trip = false ∧ s.pins.pwrGood = false)
    ∧ (let s := mod.withPins { mod.pins with pwrEn := false, trip := true }
      s.pins.pwrEn = false ∧ s.pins.trip = true)
    ∧ 115 ≤ (115#8).toNat ∧ (104#8).toNat < 105 := by decide +kernel

theorem witness_BootCommands : State.reset.pins.pwrGood = true ∧ State.reset.pins.inReset = true ∧ mod.heartwood = true
    ∧ ((0x5A16 : BitVec 16) ≠ 0x5A17#16 ∧ mod.tru.asked = false) ∧ mod.tru.starting = false
    ∧ (mod.withTru { mod.tru with starting := true }).tru.starting = true ∧ mod.sapwood = true ∧ mod.sapwoodRuns = true
    ∧ (let s := mod.withTru { mod.tru with restarts := [10 ^ 18 - 1, 10 ^ 18 - 2], kicked := 10 ^ 18 - ms 500 }
      s.sapwoodRuns = true ∧ mod.recentRestarts.length < 2 ∧ 2 ≤ s.recentRestarts.length
        ∧ s.since s.tru.kicked (ms 500) = true ∧ mod.since (10 ^ 18 - ms 500 + 1) (ms 500) = false)
    ∧ (mod.fset rf_glbStatus_sapwoodRestarting 0 0 1).fbit rf_glbStatus_sapwoodRestarting = true := by decide +kernel

theorem witness_MailboxCommands : mod.channelOpen 0 = true ∧ mod.channelOpen 1 = true ∧ (65#16).toNat > 64 ∧ (64#16).toNat ≤ 64
    ∧ (List.replicate 40 (0#8)).length ≤ 40 ∧ mbCode 0 0x10 = false ∧ mbCode 1 0x04 = false := by decide +kernel

/-- A module with a directory: heartwood A runs, its slot B awaits a confirmation; the fuse stands at 3 under an image of 5. -/
def imaged : State :=
  ((mod.withTru { mod.tru with
    dirA := some ⟨4, 0, some 1, 2, 0, none, 0⟩, fuseHw := 3, nvm := [(slotBase 1 0 + 8, 5)] }).fset
      rf_truBootStatus_heartwoodSlot 0 0 1).fset (pendingBit 1) 0 0 1

theorem witness_ImageCommands : imaged.channelOpen 1 = true ∧ 4096 % 4096 = 0
    ∧ (let d : Dir := ⟨4, 0, some 1, 2, 0, none, 0⟩
      imaged.dir = some d ∧ imaged.fbit (pendingBit 1) = true ∧ (d.slots 1).2.1 = some (imaged.fget (slotBit 1))
        ∧ imaged.fbit (pendingBit 2) = false)
    ∧ (∃ a, imaged.activeSvn 1 = some a ∧ imaged.fuseOf 1 < a ∧ imaged.fuseOf 1 = 3)
    ∧ imaged.activeSvn 3 = some 0 ∧ (List.replicate 1536 (0#8)).length = 1536
    ∧ imaged.tru.chainNew.length + 4096 ≤ 0x100000 := by
  refine ⟨by decide +kernel, by decide, by decide +kernel, ⟨_, rfl, by decide +kernel, by decide +kernel⟩, by decide +kernel,
    by decide +kernel, by decide +kernel⟩

theorem witness_DebugAndOwnership : mod.channelOpen 1 = true ∧ mod.fget rf_glbProfile_debugPolicy ≠ 1
    ∧ (let s := mod.fset rf_glbProfile_debugPolicy 0 0 1
      s.channelOpen 1 = true ∧ s.fget rf_glbProfile_debugPolicy = 1 ∧ s.tru.nonce = none)
    ∧ mod.tru.owners = [] ∧ (List.replicate 64 (0#8)).length = 64
    ∧ 4 ≤ (mod.withTru { mod.tru with owners := List.replicate 4 [] }).tru.owners.length
    ∧ (let s := mod.withTru { mod.tru with nonce := some ([], 10 ^ 18 - nonceTicks) }
      s.tru.nonce = some ([], 10 ^ 18 - nonceTicks) ∧ s.since (10 ^ 18 - nonceTicks) nonceTicks = true
        ∧ s.since (10 ^ 18 - nonceTicks + 1) nonceTicks = false)
    ∧ (let s := mod.fset rf_glbStatus_romRecovery 0 0 1
      s.powered = true ∧ s.fbit rf_glbStatus_romRecovery = true) ∧ mod.fbit rf_glbStatus_romRecovery = false := by decide +kernel

/-- A connection at each stage, and a session on its key's last generation but none. -/
theorem witness_Attestation :
    (let s := mod.setConn (.admin 3) ⟨true, true, true, some (65535, true, 7)⟩
     let x := s.conn (.admin 3)
     s.spdmOpen (.admin 3) = true ∧ x.version = true ∧ x.capable = true ∧ x.agreed = true ∧ x.live 65535 = some 7
      ∧ x.live 65534 = none ∧ (s.certChain 0).isSome = true)
    ∧ (let s := mod.setConn .sideband ⟨true, false, false, some (0, false, 0)⟩
      (s.conn .sideband).session = some (0, false, 0) ∧ (s.conn .sideband).agreed = false)
    ∧ (mod.conn .sideband).version = false ∧ 5 < (6#8).toNat
    ∧ (mod.fset rf_glbStatus_inert 0 0 1).spdmOpen (.admin 0) = false := by decide +kernel

theorem witness_SidebandAndTestPort : mod.pins.pwrGood = true ∧ mod.pins.address = none
    ∧ (mod.withPins { mod.pins with address := some 9 }).pins.address ≠ none ∧ (0xFE#8 ≠ 0#8 ∧ 0xFE#8 ≠ 0xFF#8)
    ∧ mod.pins.inReset = false ∧ mod.heartwood = true ∧ mod.scopeOpen 2 = false
    ∧ (mod.withTru { mod.tru with scope := 4 }).scopeOpen 2 = true
    ∧ (mod.fset rf_glbProfile_debugPolicy 0 0 2).scopeOpen 2 = true := by decide +kernel

/-! ### Register access, events and engines -/

/-- Offsets of a register that all may write and of one that the host may not, and a message that is taken. -/
theorem witness_RegisterAccess : (0x3FFFFFF : BitVec 26).toNat % 8 ≠ 0
    ∧ (let k : RegKey := ⟨.evtHostCtl, 0, 0⟩
      let o := regOffset k
      o % 8 = 0 ∧ inBlock o = true ∧ channelAt o = none ∧ keyAt o = some k ∧ mayWrite .host k = true ∧ k.reg ≠ .evtMqPtr
        ∧ regDomain k = none)
    ∧ (let k : RegKey := ⟨.grvRole, 0, 0⟩
      let o := regOffset k
      o % 8 = 0 ∧ inBlock o = true ∧ channelAt o = none ∧ keyAt o = some k ∧ mayWrite .host k = false)
    ∧ (let s := mod.fset rf_glbAdminCtl_sidebandRegs 0 0 1
      s.takesRegs .sideband (List.replicate 16 0) false = true
        ∧ (mod.fset rf_glbAdminCtl_sidebandRegs 0 0 0).takesRegs .sideband [] true = false) := by decide +kernel

theorem witness_EventCommands : (if mod.fbit rf_evtHostCtl_sapwoodOwnsMq then Agent.sapwood else Agent.host) = .sapwood
    ∧ (let s := mod.fset rf_evtMqPtr_tail 0 0 4096
      between 13 (s.fget rf_evtMqPtr_head) (s.fget rf_evtMqPtr_tail) (bits (4096#64).toNat 12 0) = true
        ∧ between 13 (s.fget rf_evtMqPtr_head) (s.fget rf_evtMqPtr_tail) (bits (4097#64).toNat 12 0) = false)
    ∧ mod.evt.toPush.take 64 = [] ∧ (mod.fset rf_evtArchRead_busy 0 0 1).fbit rf_evtArchRead_busy = true := by decide +kernel

/-- A Cholesky request on core 0 and what its cluster's units meet. -/
theorem witness_EnginesBetweenCommands :
    (let s := mod.fset rf_corLatStatus_solverWaiting 0 0 1
     (s.fset rf_corLatStatus_holder 0 0 latNone).fbit rf_corLatStatus_solverWaiting 0 = true
      ∧ (s.fset rf_corLatStatus_holder 0 0 latNone).fget rf_corLatStatus_holder 0 = latNone
      ∧ (s.fset rf_corLatStatus_holder 0 0 latSolver).fget rf_corLatStatus_holder 0 ≠ latNone)
    ∧ (let t : TapSlot := ⟨7, false, 0, 0, 128, 4, 0, 0, 2, 0, 0, 0x1000, 0x2000, 0, 5, 1, [⟨1, 0, 0, 128⟩, ⟨2, 0, 1, 128⟩, ⟨3, 0, 2, 128⟩, ⟨4, 0, 3, 128⟩], none⟩
      let s := mod.setTap 0 15 t
      s.partOfCluster 0 = some 0 ∧ s.tap 0 15 = some t ∧ t.ready = some 0 ∧ s.emaReads t t.epoch = false
        ∧ s.awake (domCluster 0) = true ∧ s.gramSlot 0 = none ∧ s.admits 0 = true
        ∧ (s.gramStart 0 15 t (t.inHalf 0)).gramSlot 0 = some 15)
    ∧ (let fl := { flightOf 0 0 4 (dsc 0x80 0 []) .solver with aux := [0, 0, 0] }
      let s := mod.withFlights [fl]
      s.partOfCluster 0 = some 0 ∧ s.admits 0 = true ∧ s.slvRunning 0 = none ∧ earliest (s.slvQueued 0) = some fl ∧ s.awake (domCluster 0) = true)
    ∧ (let fl := { flightOf 0 0 4 (dsc 0x80 0 []) .awaiting with aux := [10 ^ 18, 2, 0] }
      let s := mod.withFlights [fl]
      s.slvTimed 0 = some fl ∧ fl.late s = true ∧ s.domState (domCluster 0) = 0 ∧ { fl with aux := [10 ^ 18 + 1, 2, 0] }.late s = false)
    ∧ (mod.testHeld (domCluster 0) = false) := by decide +kernel

/-! ### Well-formed commands -/

def okRoce : Roce := message rcSend
def okPeer : Peer := ⟨1, false, 1, [], 0, none, false⟩
def trains : List Train := List.replicate 12 ⟨true, 0, 0⟩
def survey : Survey := ⟨[], [], [], [], []⟩
def plan : Plan := ⟨[], [], [], [], []⟩

/-- Each shape of the checks, at the ends of its ranges. -/
theorem test_wf_accepts : ([
    .accumulate { stepFrame 1 with cls := 3, hop := 255, op := 255, reqId := 2 ^ 32 - 1, detourGen := 15, set := 2, dst := ⟨15, 15, 15, 15⟩ },
    .roceSend { okRoce with qpn := 2 ^ 24 - 1, psn := 2 ^ 24 - 1, opcode := 255 } { conf none with prio := some 7 } none,
    .channelSchedule 11 63 [⟨none, false, false, 2 ^ 48 - 1⟩], .join mg 3 16 (List.replicate 16 768) false false,
    .admission mg 65535 4095 4095 true true, .faultMap mg [4095] [(4095, 15)] 15 63 [(4095, 255)], .lost mg [4095] 0 (some 0),
    .activate mg peer 0 0 [(2 ^ 48 - 1, [0])] [(2 ^ 26 - 8, 0)], .reconstruct mg 0 [(9, peer)], .spareFinalise 0 [2 ^ 48 - 1],
    .reshard mg 0 (List.replicate 64 0) false false, .resume mg 0 (-128), .resume mg 0 127, .mirror mg (jobIn 0) [okPeer],
    .configImage mg { image with parity := List.range 10 }, .flow 0 peer (List.replicate 60 0), .tapScrub 532479 [(2 ^ 33 - 1, 9)] true,
    .retentionAgeTick (List.replicate 128 (-40)), .domainReady 84 ⟨false, 0, 32⟩, .coldBoot 3 63 trains survey plan,
    .registerMessage .sideband (List.replicate 16 0) false 0 1 [⟨2 ^ 32 - 1, 255, true, 2 ^ 23 - 1, 0⟩],
    .testPortInstruction (.scoped 2 (2 ^ 32 - 1)), .ledgerAppend 0 5 0 (List.replicate 8128 0)] : List Instr).all Instr.wf = true := by
  decide +kernel

/-- An address, a frame or what goes with it that is out of range, in every command that carries one. -/
theorem test_wf_frame : ([{ stepFrame 1 with cls := 4 }, { stepFrame 1 with set := 3 }, { stepFrame 1 with detourGen := 16 },
      { stepFrame 1 with dst := ⟨16, 0, 0, 0⟩ }, { stepFrame 1 with dst := ⟨0, 16, 0, 0⟩ }, { stepFrame 1 with src := ⟨0, 0, 16, 0⟩ },
      { stepFrame 1 with src := ⟨0, 0, 0, 16⟩ }, { stepFrame 1 with hop := 256 }, { stepFrame 1 with op := 256 },
      { stepFrame 1 with reqId := 2 ^ 32 }, { stepFrame 1 with ops := [] },
      { stepFrame 1 with payload := List.replicate 4097 0 }] : List Frame).all (fun f =>
    ([.accumulate f, .stepReady f, .verdict f, .sweepDone f, .commit f, .parityApplied f, .settled f, .wodricWrite f none,
      .wodricRead f none, .ringCommit f, .exchCount f none, .exchGrant f, .exchFinished f, .exchReturned f, .permutePart f,
      .response f none, .routedFrame 0 0 .good false true f .plain] : List Instr).all fun i => !i.wf) = true := by decide +kernel

theorem test_wf_extra : ([.ring 65536 0, .ring 0 (2 ^ 32), .counts [] 0, .counts (List.replicate 24 0) (2 ^ 32), .tile [(2 ^ 48, 1)] none,
      .tile [] (some (2 ^ 24)), .scale (2 ^ 32)] : List Extra).all (fun x => let f := stepFrame 1
    ([.wodricWrite f (some x), .wodricRead f (some x), .exchCount f (some x), .response f (some x),
      .routedFrame 0 0 .good false true f (.extra x)] : List Instr).all fun i => !i.wf) = true := by decide +kernel

theorem test_wf_roce : (([{ okRoce with port := 4 }, { okRoce with qpn := 2 ^ 24 }, { okRoce with opcode := 256 },
      { okRoce with psn := 2 ^ 24 }, { okRoce with va := 2 ^ 64 }, { okRoce with rkey := 2 ^ 32 }, { okRoce with len := 2 ^ 32 },
      { okRoce with a := 2 ^ 64 }, { okRoce with b := 2 ^ 64 }] : List Roce).all fun r =>
    ([.roceSend r (conf none) none, .rdmaWrite r (conf none), .rdmaRead r (conf none), .compareAndSwap r (conf none),
      .fetchAndAdd r (conf none), .accumulateWrite r (conf none), .roceAcknowledge r (conf none)] : List Instr).all fun i => !i.wf)
    ∧ (([{ conf none with mtu := 0 }, { conf none with prio := some 8 }, { conf none with txPsn := 2 ^ 24 },
      { conf none with rxPsn := 2 ^ 24 }] : List QpConf).all fun c =>
    ([.roceSend okRoce c none, .rdmaWrite okRoce c, .rdmaRead okRoce c, .compareAndSwap okRoce c, .fetchAndAdd okRoce c,
      .accumulateWrite okRoce c, .roceAcknowledge okRoce c, .roceRetryTimeout 0 c] : List Instr).all fun i => !i.wf) := by
  decide +kernel

/-- A payload beyond 2 GiB, a map beyond 4,096 entries, and a job of more members. -/
theorem test_wf_lengths : (∀ n, 2 ^ 31 < n → { okRoce with payload := List.replicate n 0 }.wf = false)
    ∧ (∀ n, 32768 < n → (Instr.reshard mg 0 (List.replicate n 0) false false).wf = false)
    ∧ (∀ n, 4096 < n → { jobIn 0 with members := List.replicate n (peer, image) }.wf = false) := by
  have long (n k : Nat) {α : Type} (x : α) (h : k < n) : decide ((List.replicate n x).length ≤ k) = false :=
    decide_eq_false (by rw [List.length_replicate]; omega)
  refine ⟨fun n h => Bool.and_eq_false_iff.2 (.inr (long n _ _ h)), fun n h => Bool.and_eq_false_iff.2 (.inr (long n _ _ h)),
    fun n h => ?_⟩
  simp [MgrJob.wf, Nat.not_le.2 h]

theorem test_wf_message : ([{ mg with job := 65536 }, { mg with src := ⟨16, 0, 0, 0⟩ }, { mg with dst := ⟨16, 0, 0, 0⟩ },
      { mg with reqId := 2 ^ 32 }] : List Mg).all (fun g =>
    ([.join g 0 1 (List.replicate 16 0) false false, .admission g 0 0 0 false false, .pulse g 0 false false, .linkReport g 0 0 0,
      .faultMap g [] [] 0 0 [], .lost g [] 0 none, .rollbackDone g 0, .activate g peer 0 0 [] [], .activated g 0, .reconstruct g 0 [],
      .reconstructDone g 0, .reshard g 0 [] false false, .reshardDone g 0, .resume g 0 0, .mirror g (jobIn 0) [], .takeover g 0,
      .configImage g image, .encode g 0, .routedFrame 0 0 .good false true (stepFrame 1) (.grove g (.takeover 0))] : List Instr).all
        fun i => !i.wf) = true := by decide +kernel

theorem test_wf_grove : ([
    .join mg 4 1 (List.replicate 16 0) false false, .join mg 0 2 (List.replicate 16 0) false false, .join mg 0 1 [] false false,
    .join mg 0 1 (List.replicate 16 769) false false, .admission mg 65536 0 0 false false, .admission mg 0 4096 0 false false,
    .admission mg 0 0 4096 false false, .faultMap mg [4096] [] 0 0 [], .faultMap mg [] [(4096, 0)] 0 0 [],
    .faultMap mg [] [(0, 16)] 0 0 [], .faultMap mg [] [] 0 0 [(4096, 0)], .faultMap mg [] [] 0 0 [(0, 256)], .lost mg [4096] 0 none,
    .lost mg [] (2 ^ 64) none, .lost mg [] 0 (some (2 ^ 64)), .activate mg ⟨16, 0, 0, 0⟩ 0 0 [] [], .activate mg peer (2 ^ 64) 0 [] [],
    .activate mg peer 0 0 [(2 ^ 48, [0])] [], .activate mg peer 0 0 [] [(2 ^ 26, 0)], .activate mg peer 0 0 [] [(4, 0)],
    .reconstruct mg (2 ^ 64) [], .reconstruct mg 0 [(10, peer)], .reconstruct mg 0 [(0, ⟨16, 0, 0, 0⟩)], .spareFinalise 0 [2 ^ 48],
    .reshard mg (2 ^ 64) [] false false, .reshard mg 0 [0] false false,
    .resume mg (2 ^ 64) 0, .resume mg 0 128, .resume mg 0 (-129), .encode mg (2 ^ 64),
    .configImage mg { image with rank := 4096 }, .configImage mg { image with group := 4096 },
    .configImage mg { image with position := 4096 }, .configImage mg { image with parity := [1] },
    .configImage mg { image with parity := List.replicate 10 4096 },
    .mirror mg { jobIn 0 with job := 65536 } [], .mirror mg { jobIn 0 with epoch := 2 ^ 64 } [],
    .mirror mg { jobIn 0 with members := [(⟨16, 0, 0, 0⟩, image)] } [],
    .mirror mg { jobIn 0 with members := [(peer, { image with rank := 4096 })] } [],
    .mirror mg (jobIn 0) [{ okPeer with m := 4096 }], .mirror mg (jobIn 0) [{ okPeer with units := [769] }]] : List Instr).all
      (fun i => !i.wf) = true := by decide +kernel

theorem test_wf_start : (([{ plan with v := List.replicate 5 [] }, { plan with v := [List.replicate 42 0] },
      { plan with refresh := List.replicate 13 0 }, { plan with refresh := [3] }, { plan with repairs := [12 * 64 * 64 * 16384] },
      { plan with offsets := List.replicate 129 0 }, { plan with serdes := List.replicate 65 0 }] : List Plan).all fun x =>
    ([.planSubmit 0 x, .coldBoot 0 0 trains survey x, .warmRestart 0 trains survey x] : List Instr).all fun i => !i.wf)
    ∧ (([{ survey with crit := List.replicate 5 [] }, { survey with crit := [List.replicate 42 0] },
      { survey with sram := List.replicate 5 0 }] : List Survey).all fun x =>
    ([.coldBoot 0 0 trains x plan, .warmRestart 0 trains x plan] : List Instr).all fun i => !i.wf)
    ∧ (([[], trains.drop 1, trains.drop 1 ++ [⟨true, 0, 33⟩]] : List (List Train)).all fun x =>
    ([.coldBoot 0 0 x survey plan, .warmRestart 0 x survey plan] : List Instr).all fun i => !i.wf) := by decide +kernel

theorem test_wf_other : ([.domainReady 84 ⟨true, 0, 33⟩, .channelSchedule 0 0 [⟨none, false, false, 2 ^ 48⟩],
    .dmaTapRead 0 0 0 [(2 ^ 33, 0)], .dmaTapWrite 0 0 0 [(2 ^ 33, 0)], .tapScrub 532480 [] false, .tapScrub 0 [(2 ^ 33, 0)] false,
    .readDisturbRewrite 532480, .retentionAgeTick [], .flow 0 ⟨16, 0, 0, 0⟩ (List.replicate 60 0), .flow 0 peer [],
    .ledgerAppend 0 0 0 (List.replicate 8129 0), .imageWrite 0 1 0 (List.replicate 8129 0) true,
    .profileWrite 0 0 (List.replicate 8129 0) true, .identityWrite 0 (List.replicate 8129 0) true true,
    .debugUnlock 0 (List.replicate 8129 0), .ownerClaim 0 (List.replicate 8129 0) [],
    .registerMessage .sideband [] false 0 0 [], .registerMessage .sideband (List.replicate 16 0) false 0 1 [⟨2 ^ 32, 0, false, 0, 0⟩],
    .registerMessage .sideband (List.replicate 16 0) false 0 1 [⟨0, 256, false, 0, 0⟩],
    .registerMessage .sideband (List.replicate 16 0) false 0 1 [⟨0, 0, false, 2 ^ 23, 0⟩],
    .testPortInstruction (.scoped 0 (2 ^ 32))] : List Instr).all (fun i => !i.wf) = true := by decide +kernel

/-! ### Single steps and operations, from the spec's worked examples and tables -/

/-- R43: 400 lies midway between 384 and 416 and goes to the even mantissa; 480 saturates to 448 and raises OF. -/
theorem test_e4m3_rounds : (roundTo .tensor cE4M3 .rne (dec32 0x43C80000)).1 = decElem cE4M3 0x7C
    ∧ encElem cE4M3 (roundTo .tensor cE4M3 .rne (dec32 0x43F00000)).1 = 0x7E
    ∧ bit (roundTo .tensor cE4M3 .rne (dec32 0x43F00000)).2 1 = true := by decide +kernel

/-- R15: the largest values of the narrow formats, in FP32. -/
theorem test_largest : enc32 (decElem cE4M3 0x7E) = 0x43E00000 ∧ enc32 (decElem cE5M2 0x7B) = 0x47600000
    ∧ enc32 (decElem cMXE3M2 0x1F) = 0x41E00000 ∧ enc32 (decElem cMXE2M3 0x1F) = 0x40F00000
    ∧ enc32 (decElem cMXFP4 0x7) = 0x40C00000 ∧ enc32 (decElem cMXINT8 0x80) = 0xC0000000 := by decide +kernel

/-- R256: 0x0002 times 0x8000 reduces to x^12 + x^3 + x + 1; R439: 0x8805 is the inverse of α. -/
theorem test_gf : gf 0x0002 0x8000 = 0x100B ∧ gf 2 0x8805 = 1 := by decide

/-- R123's example: the wait on a token that wraps is met after the third signal. -/
theorem test_token_wraps : [0xFFFFFFFE, 0xFFFFFFFF, 0, 1].map (waitOk · 1) = [false, false, false, true] := by decide

/-- R121, R125: a SYN.SIGNAL that completes adds its value to its token, and one to its header's. -/
theorem test_signal : (let s := after (.descriptorComplete 0 0 4) (((mod.setStr 0 0 ssRunning).tokAdd 0 10 0xFFFFFFFF).withFlights
      [flightOf 0 0 4 (dsc 0xA1 0 (noTokens ++ [(6, 2, 10), (16, 2, 7), (20, 4, 3)])) .done])
    s.tokVal 0 10 = 0 ∧ s.tokVal 0 7 = 3) := by decide +kernel

/-- R404: a port that trains comes UP. -/
theorem test_link_trained : (after (.linkTrained 0) (port 0 lsTraining 0)).link 0 = lsUp := by decide +kernel

/-- R498: a cap below 1,000 W changes nothing. -/
theorem test_cap_low : after (.pwrLimitWrite 999) mod = mod.settle := by decide +kernel

/-- R488: the taproot's domain has no D1, and the request raises cmd_error. -/
theorem test_domain_refused : (after (.domainRequestD1 112) mod).fbit rf_pwrDomainStatus_cmdError 112 = true := by decide +kernel

/-- R570: the target takes one dynamic address. -/
theorem test_entdaa : (after (.entdaa 9) mod).pins.address = some 9 ∧ (after (.entdaa 8) (after (.entdaa 9) mod)).pins.address = some 9 := by
  decide +kernel

/-- R573: BYPASS shifts out one zero bit. -/
theorem test_bypass : (after (.testPortInstruction .bypass) mod).out = [.testOut 0 1] := by decide +kernel

/-- R543: a nonce lasts 60 s. -/
theorem test_nonce : (after .nonceExpire (mod.withTru { mod.tru with nonce := some ([], 10 ^ 18 - 59999999999) })).tru.nonce.isSome = true
    ∧ (after .nonceExpire (mod.withTru { mod.tru with nonce := some ([], 10 ^ 18 - 60000000000) })).tru.nonce = none := by decide +kernel

/-- R377: a refill stops at the burst; the system class has 96 bytes per nanosecond and 64 KiB. -/
theorem test_refill : (let s := after .regulatorRefill (mod.setStackX 11 { StackX.reset with minBucket := [(sysClass, 59392)] })
    smGet 0 (s.stackX 11).minBucket sysClass = 65536 ∧ smGet 0 (s.stackX 10).minBucket sysClass = 6144) := by decide +kernel

end Sys2Proof.Tests
end

section
/-! PROOFS. The commands that issue descriptors: each is one use of `State.issueDesc`, so one lemma settles them all. -/
namespace Sys2Proof.Machine

/-- A command that issues its descriptor, brings the unit's registers up to date and settles, does what the contract says
(R5, R117, R118): the three cases are those of `State.issueDesc_ready`. -/
theorem DescriptorCommand.of_issueDesc {c : Fin 64 → Fin 3 → BitVec 32 → Instr} {kind : List Byte → Bool}
    {accepts : Nat → Nat → Nat → State → List Byte → Bool} {legal : Nat → Nat → State → List Byte → Bool}
    {run : Eng Unit} {after : Nat → Nat → State → State}
    (h : ∀ (core : Fin 64) (stream : Fin 3) (n : BitVec 32) (s : State) (p : Nat), s.partOf core = some p →
      exec (c core stream n) s
        = done (after core p (s.issueDesc core stream n.toNat kind (accepts core stream p) (legal core p) run))) :
    DescriptorCommand c kind accepts legal run after := by
  intro core stream n s p f
  refine ⟨fun hi => ?_, fun hr => ⟨fun illegal => ?_, fun header isLegal check stale => ?_⟩⟩
  · rw [h core stream n s p hi.part, State.issueDesc_issues hi]; rfl
  · have cond : (hdrIllegal f.bytes stream || !legal core p (s.taken core stream f) f.bytes) = true := by
      rcases illegal with e | e <;> simp [e]
    rw [h core stream n s p hr.part, State.issueDesc_ready hr, if_pos cond]; rfl
  · have legalOk : ¬ (hdrIllegal f.bytes stream || !legal core p (s.taken core stream f) f.bytes) = true := by
      simp [header, isLegal]
    have voided : (hEpochCheck f.bytes && hEpoch f.bytes ≠ s.epoch p % 65536) = true := by simp [check, stale]
    rw [h core stream n s p hr.part, State.issueDesc_ready hr, if_neg legalOk, if_pos voided]; rfl

/-! ### Commands that look up the partition of the core first -/

theorem State.issueTap_eq {s : State} {core p : Nat} (part : s.partOf core = some p) (stream n : Nat)
    (kind : List Byte → Bool) (run : Eng Unit) :
    s.issueTap core stream n kind run = s.issueDesc core stream n kind tapAccepts (tapLegal p) run := by
  simp only [State.issueTap, part]

theorem State.issueCol_eq {s : State} {core p : Nat} (part : s.partOf core = some p) (stream n : Nat)
    (kind : List Byte → Bool) (legal : State → List Byte → Bool) (run : Eng Unit) :
    s.issueCol core stream n kind legal run = (s.issueDesc core stream n kind always legal run).syncCol p := by
  simp only [State.issueCol, part]

theorem State.issueClaim_eq {s : State} {core p : Nat} (part : s.partOf core = some p) (stream n op : Nat)
    (may legal : State → List Byte → Bool) (run : Eng Unit) :
    s.issueClaim core stream n op may legal run = (s.issueDesc core stream n (isOp op) may legal run).syncSweep p := by
  simp only [State.issueClaim, part]

/-- Whether the engine accepts matters in the state at issue alone. -/
theorem State.issueDesc_accepts_congr {s : State} {accepts accepts' : State → List Byte → Bool}
    (h : ∀ d, accepts s d = accepts' s d) (core stream n : Nat) (kind : List Byte → Bool)
    (legal : State → List Byte → Bool) (run : Eng Unit) :
    s.issueDesc core stream n kind accepts legal run = s.issueDesc core stream n kind accepts' legal run := by
  unfold State.issueDesc; rw [funext h]

theorem State.issueAsm_eq {s : State} {core : Nat} {accepts accepts' : State → List Byte → Bool}
    (h : ∀ d, (s.asmFree core && accepts s d) = accepts' s d) (stream n op : Nat)
    (legal : State → List Byte → Bool) (run : Eng Unit) :
    s.issueAsm core stream n op accepts legal run = (s.issueDesc core stream n (isOp op) accepts' legal run).syncAsm core :=
  congrArg (State.syncAsm · core) (State.issueDesc_accepts_congr h ..)

/-! ### The families -/

/-- Settles O11: each MAT command issues its descriptor and `syncLat` follows. -/
theorem latticeCommandsIssue : Obligations.LatticeCommandsIssue :=
  ⟨.of_issueDesc fun _ _ _ _ _ _ => rfl, .of_issueDesc fun _ _ _ _ _ _ => rfl, .of_issueDesc fun _ _ _ _ _ _ => rfl,
    .of_issueDesc fun _ _ _ _ _ _ => rfl, .of_issueDesc fun _ _ _ _ _ _ => rfl⟩

/-- Settles O12: each VEC command issues its descriptor and `syncVec` follows. -/
theorem vectorCommandsIssue : Obligations.VectorCommandsIssue :=
  ⟨.of_issueDesc fun _ _ _ _ _ _ => rfl, .of_issueDesc fun _ _ _ _ _ _ => rfl, .of_issueDesc fun _ _ _ _ _ _ => rfl,
    .of_issueDesc fun _ _ _ _ _ _ => rfl, .of_issueDesc fun _ _ _ _ _ _ => rfl, .of_issueDesc fun _ _ _ _ _ _ => rfl,
    .of_issueDesc fun _ _ _ _ _ _ => rfl⟩

/-- Settles O13: the taproot commands look up the partition of the core first. -/
theorem dmaCommandsIssue : Obligations.DmaCommandsIssue :=
  ⟨.of_issueDesc fun _ _ _ _ _ _ => rfl, .of_issueDesc fun _ _ _ _ _ _ => rfl, .of_issueDesc fun _ _ _ _ _ _ => rfl,
    .of_issueDesc fun _ _ _ _ _ _ => rfl,
    fun found => .of_issueDesc fun _ stream n _ _ part =>
      congrArg done (State.issueTap_eq part stream n.toNat (isOp 0x44) (tapReadRun found)),
    fun found => .of_issueDesc fun _ stream n _ _ part =>
      congrArg done (State.issueTap_eq part stream n.toNat isTapWrite (tapStoreRun found)),
    .of_issueDesc fun _ stream n _ _ part =>
      congrArg done (State.issueTap_eq part stream n.toNat isTapTrim (tapStoreRun []))⟩

/-- Settles O14: RED.BUCKET_OPEN and the collectives look up the partition of the core first. -/
theorem collectiveCommandsIssue : Obligations.CollectiveCommandsIssue :=
  ⟨.of_issueDesc fun _ _ _ _ _ _ => rfl,
    .of_issueDesc fun core stream n s p part => by
      show execRedBucketOpen core stream n s = _
      simp only [execRedBucketOpen, part]; rfl,
    .of_issueDesc fun _ _ _ _ _ _ => rfl,
    .of_issueDesc fun _ stream n _ _ part => congrArg done (State.issueCol_eq part stream n.toNat ..),
    .of_issueDesc fun core stream n s p part => by
      show execColPermute core stream n s = _
      simp only [execColPermute, part, State.issueCol_eq part]; rfl,
    .of_issueDesc fun _ stream n _ _ part => congrArg done (State.issueCol_eq part stream n.toNat ..),
    .of_issueDesc fun _ stream n _ _ part => congrArg done (State.issueCol_eq part stream n.toNat ..),
    .of_issueDesc fun _ stream n _ _ part => congrArg done (State.issueCol_eq part stream n.toNat ..)⟩

/-- Settles O15: CRV.EMA looks up the partition of the core for its epoch's state. -/
theorem curvatureCommandsIssue : Obligations.CurvatureCommandsIssue :=
  have free (s : State) (core : Nat) (d : List Byte) : (s.asmFree core && always s d) = s.asmFree core := Bool.and_true _
  ⟨.of_issueDesc fun _ _ _ _ _ _ => rfl, .of_issueDesc fun _ _ _ _ _ _ => rfl, .of_issueDesc fun _ _ _ _ _ _ => rfl,
    .of_issueDesc fun core stream n s p part =>
      congrArg done (State.issueAsm_eq (fun d => by simp only [part]) stream n.toNat 0x72 emaLegal emaRun),
    .of_issueDesc fun core stream n s _ _ =>
      congrArg done (State.issueAsm_eq (free s core) stream n.toNat 0x73 dampLegal dampRun),
    .of_issueDesc fun core stream n s _ _ =>
      congrArg done (State.issueAsm_eq (free s core) stream n.toNat 0x74 normalLegal normalRun),
    .of_issueDesc fun core stream n s _ _ =>
      congrArg done (State.issueAsm_eq (free s core) stream n.toNat 0x75 stencilLegal stencilRun)⟩

/-- Settles O16: the commands that claim chunks look up the partition of the core first. -/
theorem solverAndUpdateCommandsIssue : Obligations.SolverAndUpdateCommandsIssue :=
  ⟨.of_issueDesc fun _ _ _ _ _ _ => rfl, .of_issueDesc fun _ _ _ _ _ _ => rfl, .of_issueDesc fun _ _ _ _ _ _ => rfl,
    .of_issueDesc fun _ _ _ _ _ _ => rfl, .of_issueDesc fun _ _ _ _ _ _ => rfl, .of_issueDesc fun _ _ _ _ _ _ => rfl,
    .of_issueDesc fun _ _ _ _ _ _ => rfl, .of_issueDesc fun _ _ _ _ _ _ => rfl, .of_issueDesc fun _ _ _ _ _ _ => rfl,
    .of_issueDesc fun _ stream n _ _ part => congrArg done (State.issueClaim_eq part stream n.toNat 0x91 ..),
    .of_issueDesc fun _ _ _ _ _ _ => rfl,
    .of_issueDesc fun _ stream n _ _ part => congrArg done (State.issueClaim_eq part stream n.toNat 0x93 ..)⟩

/-! ### SYN and CTL descriptors -/

/-- The waits of SYN.WAIT read token registers alone. -/
theorem State.synWaits_congr {s t : State} (h : t.regs = s.regs) (core : Nat) (d : List Byte) :
    t.synWaits core d = s.synWaits core d := by
  unfold State.synWaits State.tokWait; simp only [State.tokVal_congr h]

/-- An engine that waits until a condition holds. -/
def awaitUnless (c : Run → Bool) : Eng Unit := do
  let r ← get
  if c r then return () else Eng.stop .await

theorem synWaitRun_eq : synWaitRun = awaitUnless fun r => r.s.synWaits r.fl.core r.fl.bytes := rfl

/-- Such an engine leaves the state alone: its descriptor stands done where the condition holds, and otherwise awaiting. -/
theorem runEng_awaitUnless (c : Run → Bool) (s : State) (fl : Flight) : runEng (awaitUnless c) s fl
    = { s, fl := { fl with phase := if c { s, fl := { fl with phase := .done } } then .done else .awaiting } } := by
  have run (r : Run) : (awaitUnless c).run r = (if c r then return () else Eng.stop .await : Eng Unit).run r := rfl
  unfold runEng
  rw [run]
  cases c { s, fl := { fl with phase := .done } } <;> rfl

/-- An engine without work leaves its descriptor as one that stands with status DONE. -/
theorem State.ran_nothing (s : State) (p core stream : Nat) (f : Fetched) :
    s.ran p core stream f nothing = s.placed p core stream f stDone := rfl

/-- Settles O17: a SYN or CTL descriptor has no work, and SYN.WAIT only waits. -/
theorem synAndCtlCommandsIssue : Obligations.SynAndCtlCommandsIssue := by
  refine ⟨.of_issueDesc fun _ _ _ _ _ _ => rfl, .of_issueDesc fun _ _ _ _ _ _ => rfl, .of_issueDesc fun _ _ _ _ _ _ => rfl,
    .of_issueDesc fun _ _ _ _ _ _ => rfl, .of_issueDesc fun _ _ _ _ _ _ => rfl, .of_issueDesc fun _ _ _ _ _ _ => rfl,
    fun s p core stream f => ⟨s.ran_nothing p core stream f, fun waits => ?_, fun waits => ?_⟩⟩
  all_goals
    have taken : (s.taken core stream f).synWaits (s.starts p core stream f).core (s.starts p core stream f).bytes
        = s.synWaits core f.bytes := State.synWaits_congr (s.regs_taken core stream f) core f.bytes
    unfold State.ran
    rw [synWaitRun_eq, runEng_awaitUnless]
    simp only [taken, waits]
  · rfl
  · rw [← s.flights_taken core stream f]; rfl

end Sys2Proof.Machine
end

section
/-! PROOFS. The frame of a descriptor that is placed in flight with a status, and the state after reset. -/
namespace Sys2Proof.Machine

/-! ### Placed descriptors -/

/-- Streams have keys of their own in the fetch windows. -/
theorem strKey_inj {c j core stream : Nat} (hj : j < 3) (hs : stream < 3) (h : strKey c j = strKey core stream) :
    c = core ∧ j = stream := by
  unfold strKey at h; omega

/-- Choosing the DMA engine draws at most a free value. -/
theorem State.windows_pickEngine (s : State) (f : Fetched) : (s.pickEngine f).2.windows = s.windows := by
  unfold State.pickEngine State.draw; dsimp only; split <;> rfl

theorem State.window_placed (s : State) (p core stream : Nat) (f : Fetched) (st c j : Nat) :
    (s.placed p core stream f st).window c j = smGet [] (smSet [] s.windows (strKey core stream)
      (windowAfter (s.strIssue core stream) (s.window core stream) f)) (strKey c j) := by
  rw [s.placed_eq, State.window_fset, ← s.windows_taken]; rfl

/-- Settles O18: a placed descriptor is taken, enters the flights, and moves the stream's issue counter. -/
theorem placedDescriptorFrame : Obligations.PlacedDescriptorFrame := by
  intro s p core stream f st
  have rest := s.taken_rest core stream f
  refine ⟨?_, rfl, ?_, fun c j other hj hs => ?_, ?_, fun r i j hr => ?_, fun a => ?_, ?_⟩
  · rw [s.placed_eq, ← s.flights_taken core stream f]; rfl
  · rw [s.window_placed, smGet_smSet_same]
  · rw [s.window_placed, smGet_smSet_ne _ _ _ fun e => other (strKey_inj hj hs e)]; rfl
  · rw [s.placed_eq]
    refine (State.fget_fset_same _ rf_corStreamHead_issue core stream _ (by decide) (by decide)).trans ?_
    unfold State.window; rw [s.windows_pickEngine]; rfl
  · rw [s.placed_eq, State.reg_fset_other _ _ _ _ _ _ _ _ hr]
    unfold State.reg; rw [State.regs_withFlights, s.regs_taken]
  · exact State.byte_congr (by rw [s.placed_eq, State.mem_fset, State.mem_withFlights, s.mem_taken]) a
  · rw [s.placed_eq, rest]; rfl

/-! ### Reset -/

/-- A field of a register after reset is what its table's Reset column says (R6), in every element. -/
theorem State.fget_reset (f : RF) (i j : Nat) : State.reset.fget f i j = bits (regReset f.reg).toNat f.hi f.lo := rfl

/-- Settles O3: no queue holds anything, and each field reads its table's Reset column. -/
theorem resetState : Obligations.ResetState := by
  have none : State.reset.holding = [] := by decide
  have alert : State.reset.AlertShown := ⟨by decide, by decide, by decide, by simp [none]⟩
  refine ⟨rfl, rfl, rfl, rfl, alert, rfl, fun _ => rfl, ?_, ?_, ?_, ?_, ?_, ?_⟩
  all_goals simp only [State.strState, State.fget_reset]
  · exact fun _ _ => ⟨by decide, rfl, by decide, by decide⟩
  all_goals decide

end Sys2Proof.Machine
end

section
/-! PROOFS. Writes of registers: what writing a register's fields by their access codes does (R4, R6), and which accesses of the
control window come to that (R548 to R551). -/
namespace Sys2Proof.Machine

/-! ### The register tables -/

/-- Two fields of a register share no bit. -/
abbrev Field.Apart (f g : Field) : Prop := f.hi < g.lo ∨ g.hi < f.lo

/-- The fields of every register table lie within its 64 bits. -/
theorem regFields_within (r : RegName) : ∀ f ∈ regFields r, f.lo ≤ f.hi ∧ f.hi < 64 := by
  cases r <;> decide

/-- The fields of every register table share no bit. -/
theorem regFields_apart (r : RegName) : (regFields r).Pairwise Field.Apart := by
  cases r <;> decide

/-! ### One field -/

theorem bit_eq_testBit (x b : Nat) : bit x b = x.testBit b := by
  rw [testBit_eq_bits, bits, show b + 1 - b = 1 by omega, Nat.pow_one]; rfl

/-- A field of a register's table, in one element of the register. -/
def Field.rf (k : RegKey) (f : Field) : RF := ⟨k.reg, f.hi, f.lo⟩

/-- The value that a field takes from a write of `w` (R4, R6); reserved encodings are told by `judged`. -/
def Field.written (k : RegKey) (w judged : Nat) (f : Field) (old : Nat) : Nat :=
  let v := bits w f.hi f.lo
  match f.acc with
  | .rw => if fieldOk k f.lo v judged then v else old
  | .w1c => old &&& (v ^^^ (2 ^ (f.hi - f.lo + 1) - 1))
  | .w1s => old ||| v
  | _ => old

section written
variable {k : RegKey} {w judged old : Nat} {f : Field}

/-- What a field takes fits it. -/
theorem Field.written_lt (hold : old < 2 ^ (f.hi + 1 - f.lo)) :
    f.written k w judged old < 2 ^ (f.hi + 1 - f.lo) := by
  have hv := bits_lt w f.hi f.lo
  unfold Field.written
  cases f.acc with
  | rw => dsimp only; split <;> assumption
  | w1c => exact Nat.lt_of_le_of_lt Nat.and_le_left hold
  | w1s => exact Nat.or_lt_two_pow hold hv
  | ro | wo | rc => exact hold

theorem Field.written_rw (h : f.acc = .rw) :
    f.written k w judged old = if fieldOk k f.lo (bits w f.hi f.lo) judged then bits w f.hi f.lo else old := by
  simp only [Field.written, h]

/-- A one written to a W1C bit clears it. -/
theorem Field.bit_written_w1c (h : f.acc = .w1c) (hf : f.lo ≤ f.hi) (hold : old < 2 ^ (f.hi + 1 - f.lo)) (b : Nat) :
    bit (f.written k w judged old) b = (bit old b && !bit (bits w f.hi f.lo) b) := by
  simp only [Field.written, h, bit_eq_testBit, Nat.testBit_and, Nat.testBit_xor, Nat.testBit_two_pow_sub_one]
  by_cases hb : b < f.hi - f.lo + 1
  · simp [hb]
  · have : old.testBit b = false :=
      Nat.testBit_lt_two_pow (Nat.lt_of_lt_of_le hold (Nat.pow_le_pow_right (by decide) (by omega)))
    simp [this]

/-- A one written to a W1S bit sets it. -/
theorem Field.bit_written_w1s (h : f.acc = .w1s) (b : Nat) :
    bit (f.written k w judged old) b = (bit old b || bit (bits w f.hi f.lo) b) := by
  simp only [Field.written, h, bit_eq_testBit, Nat.testBit_or]

theorem Field.written_other (h : f.acc ≠ .rw) (h' : f.acc ≠ .w1c) (h'' : f.acc ≠ .w1s) :
    f.written k w judged old = old := by
  unfold Field.written; cases e : f.acc <;> simp_all

end written

/-- The step of a register write for one field. -/
def State.writeField (k : RegKey) (w judged : Nat) (s : State) (f : Field) : State :=
  let new := f.written k w judged (s.fget (f.rf k) k.i k.j)
  match f.acc with
  | .rw => if fieldOk k f.lo (bits w f.hi f.lo) judged then s.fset (f.rf k) k.i k.j new else s
  | .w1c | .w1s => s.fset (f.rf k) k.i k.j new
  | _ => s

/-- A write of a register's fields takes them one by one. -/
theorem State.writeFields_eq (s : State) (k : RegKey) (w : Nat) :
    s.writeFields k w = (regFields k.reg).foldl (State.writeField k w (s.judged k w)) s := by
  refine congrArg (fun step => (regFields k.reg).foldl step s) (funext fun t => funext fun f => ?_)
  unfold State.writeField Field.written Field.rf
  cases f.acc with
  | rw => by_cases ok : fieldOk k f.lo (bits w f.hi f.lo) (s.judged k w) = true <;> simp [ok]
  | w1c | w1s | ro | wo | rc => rfl

/-- One field takes its value, or the state stays and the field's value is the old one. -/
theorem State.writeField_cases (k : RegKey) (w judged : Nat) (s : State) (f : Field) :
    s.writeField k w judged f
        = s.fset (f.rf k) k.i k.j (f.written k w judged (s.fget (f.rf k) k.i k.j))
    ∨ s.writeField k w judged f = s
      ∧ f.written k w judged (s.fget (f.rf k) k.i k.j) = s.fget (f.rf k) k.i k.j := by
  unfold State.writeField
  cases h : f.acc with
  | rw =>
    dsimp only
    split
    · exact .inl rfl
    · rename_i reserved
      exact .inr ⟨rfl, by rw [Field.written_rw h, if_neg reserved]⟩
  | w1c | w1s => exact .inl rfl
  | ro | wo | rc =>
    exact .inr ⟨rfl, Field.written_other (by simp [h]) (by simp [h]) (by simp [h])⟩

/-- The field takes its value. -/
theorem State.fget_writeField_same (k : RegKey) (w judged : Nat) (s : State) (f : Field) (hf : f.lo ≤ f.hi ∧ f.hi < 64) :
    (s.writeField k w judged f).fget (f.rf k) k.i k.j = f.written k w judged (s.fget (f.rf k) k.i k.j) := by
  rcases s.writeField_cases k w judged f with e | ⟨e, old⟩
  · rw [e]
    refine (State.fget_fset_same _ (f.rf k) k.i k.j _ (Nat.le_succ_of_le hf.1) hf.2).trans ?_
    exact Nat.mod_eq_of_lt (Field.written_lt (s.fget_lt (f.rf k) k.i k.j))
  · rw [e, old]

/-- A field apart from it keeps its value. -/
theorem State.fget_writeField_apart (k : RegKey) (w judged : Nat) (s : State) (f g : Field) (hf : f.lo ≤ f.hi ∧ f.hi < 64)
    (h : f.Apart g) : (s.writeField k w judged f).fget (g.rf k) k.i k.j = s.fget (g.rf k) k.i k.j := by
  rcases s.writeField_cases k w judged f with e | ⟨e, -⟩
  · rw [e]
    exact s.fget_fset_apart (f.rf k) (g.rf k) k.i k.j _ rfl (Nat.le_succ_of_le hf.1) hf.2 h
  · rw [e]

/-- A bit outside it keeps its value. -/
theorem State.bit_writeField_outside (k : RegKey) (w judged : Nat) (s : State) (f : Field) (hf : f.lo ≤ f.hi) (b : Nat)
    (h : b < f.lo ∨ f.hi < b) :
    ((s.writeField k w judged f).reg k.reg k.i k.j).getLsbD b = (s.reg k.reg k.i k.j).getLsbD b := by
  rcases s.writeField_cases k w judged f with e | ⟨e, -⟩
  · rw [e]
    exact s.bit_fset_apart (f.rf k) k.i k.j _ b (Nat.le_succ_of_le hf) h
  · rw [e]

/-- Every other register keeps its value. -/
theorem State.reg_writeField_other (k : RegKey) (w judged : Nat) (s : State) (f : Field) {r : RegName} {i j : Nat}
    (h : regKey r i j ≠ regKey k.reg k.i k.j) : (s.writeField k w judged f).reg r i j = s.reg r i j := by
  rcases s.writeField_cases k w judged f with e | ⟨e, -⟩
  · rw [e]
    exact aGet_aSet_ne' _ _ _ _ _ h
  · rw [e]

/-- Beside registers, nothing changes. -/
theorem State.writeField_rest (k : RegKey) (w judged : Nat) (s : State) (f : Field) :
    s.writeField k w judged f = { s with regs := (s.writeField k w judged f).regs } := by
  rcases s.writeField_cases k w judged f with e | ⟨e, -⟩
  · rw [e]; rfl
  · rw [e]

/-! ### All fields of a register -/

/-- What each step of a fold keeps, the fold keeps. -/
theorem foldl_keeps {α β γ : Type} (view : β → γ) (step : β → α → β) (xs : List α)
    (h : ∀ y, ∀ x ∈ xs, view (step y x) = view y) (y : β) : view (xs.foldl step y) = view y := by
  induction xs generalizing y with
  | nil => rfl
  | cons x xs ih =>
    exact (ih (fun y z hz => h y z (List.mem_cons_of_mem _ hz)) _).trans (h y x (List.mem_cons_self ..))

/-- Each of some fields that share no bit takes its value from what it held. -/
theorem State.fget_foldl_writeField (k : RegKey) (w judged : Nat) (fs : List Field)
    (within : ∀ f ∈ fs, f.lo ≤ f.hi ∧ f.hi < 64)
    (apart : fs.Pairwise Field.Apart) (s : State) {f : Field} (hf : f ∈ fs) :
    (fs.foldl (State.writeField k w judged) s).fget (f.rf k) k.i k.j = f.written k w judged (s.fget (f.rf k) k.i k.j) := by
  induction fs generalizing s with
  | nil => cases hf
  | cons g gs ih =>
    have withinGs : ∀ f ∈ gs, f.lo ≤ f.hi ∧ f.hi < 64 := fun f h => within f (List.mem_cons_of_mem _ h)
    have withinG := within g (List.mem_cons_self ..)
    obtain ⟨gApart, gsApart⟩ := List.pairwise_cons.mp apart
    rcases List.mem_cons.mp hf with rfl | hf
    · refine (foldl_keeps (fun t : State => t.fget (f.rf k) k.i k.j) _ gs (fun t g hg => ?_) _).trans
        (s.fget_writeField_same k w judged f withinG)
      exact t.fget_writeField_apart k w judged g f (withinGs g hg) ((gApart g hg).symm)
    · exact (ih withinGs gsApart _ hf).trans
        (congrArg (f.written k w judged) (s.fget_writeField_apart k w judged g f withinG (gApart f hf)))

section writeFields
variable (s : State) (k : RegKey) (w : Nat)

/-- Every field of the register takes its value by its access code. -/
theorem State.fget_writeFields {f : Field} (hf : f ∈ regFields k.reg) : (s.writeFields k w).fget (f.rf k) k.i k.j
    = f.written k w (s.judged k w) (s.fget (f.rf k) k.i k.j) := by
  rw [s.writeFields_eq]
  exact State.fget_foldl_writeField k w _ _ (regFields_within k.reg) (regFields_apart k.reg) s hf

/-- Bits outside the register's fields keep their values. -/
theorem State.bit_writeFields_outside {b : Nat} (h : ∀ f ∈ regFields k.reg, b < f.lo ∨ f.hi < b) :
    ((s.writeFields k w).reg k.reg k.i k.j).getLsbD b = (s.reg k.reg k.i k.j).getLsbD b := by
  rw [s.writeFields_eq]
  exact foldl_keeps (fun t : State => (t.reg k.reg k.i k.j).getLsbD b) _ _
    (fun t f hf => t.bit_writeField_outside k w _ f (regFields_within k.reg f hf).1 b (h f hf)) s

/-- Every other register keeps its value. -/
theorem State.reg_writeFields_other {r : RegName} {i j : Nat} (h : regKey r i j ≠ regKey k.reg k.i k.j) :
    (s.writeFields k w).reg r i j = s.reg r i j := by
  rw [s.writeFields_eq]
  exact foldl_keeps (fun t : State => t.reg r i j) _ _ (fun t f _ => t.reg_writeField_other k w _ f h) s

/-- Beside registers, a write of fields changes nothing. -/
theorem State.writeFields_rest : s.writeFields k w = { s with regs := (s.writeFields k w).regs } := by
  have keeps : (s.writeFields k w).withRegs [] = s.withRegs [] := by
    rw [s.writeFields_eq]
    refine foldl_keeps (fun t : State => t.withRegs []) _ _ (fun t f _ => ?_) s
    rw [t.writeField_rest k w _ f]; rfl
  exact congrArg (fun t => t.withRegs (s.writeFields k w).regs) keeps

end writeFields

/-! ### Accesses of the control window -/

/-- A write at the offset of a register that belongs to no mailbox channel is a write of that register. -/
theorem writeAt_register {a : Agent} {off v : Nat} {s : State} {k : RegKey} (block : inBlock off = true)
    (channel : channelAt off = none) (key : keyAt off = some k) : writeAt a off v s = writeReg a k v s := by
  simp only [writeAt, block, not_true_eq_false, if_false, channel, key]

/-- An aligned write of a register. -/
theorem exec_registerWrite {a : Agent} {o : BitVec 26} {v : Word} {s : State} {k : RegKey} (aligned : o.toNat % 8 = 0)
    (block : inBlock o.toNat = true) (channel : channelAt o.toNat = none) (key : keyAt o.toNat = some k) :
    exec (.registerWrite a o v) s = done (writeReg a k v.toNat s).2 := by
  show execRegisterWrite a o v s = _
  rw [execRegisterWrite, if_pos aligned, writeAt_register block channel key]

/-- A register outside the power domains takes an allowed write at once. -/
theorem writeReg_allowed {a : Agent} {k : RegKey} (may : mayWrite a k = true) (queue : k.reg ≠ .evtMqPtr)
    (domain : regDomain k = none) (v : Nat) (s : State) : writeReg a k v s = (rsOk, applyReg a k v s) := by
  simp only [writeReg, may, not_true_eq_false, if_false, queue, domain]

theorem writeReg_denied {a : Agent} {k : RegKey} (may : mayWrite a k = false) (v : Nat) (s : State) :
    writeReg a k v s = s.denied a (regOffset k) := by
  simp [writeReg, may]

/-- A register whose write does nothing else takes its fields where it may be written. -/
theorem applyReg_fields {k : RegKey} (h : k.reg ∉ actingRegs) (a : Agent) (v : Nat) (s : State) :
    applyReg a k v s = if s.writable k then s.writeFields k v else s := by
  unfold applyReg
  split <;> simp_all [actingRegs]

/-- Settles O5: the fields by what each takes, and a plain write as the write of its fields. -/
theorem fieldWrites : Obligations.FieldWrites := by
  intro s k w
  refine ⟨fun f hf => ?_, fun b => s.bit_writeFields_outside k w, fun r i j => s.reg_writeFields_other k w,
    s.writeFields_rest k w, fun a o aligned block channel key may domain plain writable hw => ?_⟩
  · have new : (s.writeFields k w).fget ⟨k.reg, f.hi, f.lo⟩ k.i k.j = _ := s.fget_writeFields k w hf
    have old := s.fget_lt (f.rf k) k.i k.j
    simp only [new]
    exact ⟨Field.written_rw, fun h => Field.bit_written_w1c h (regFields_within k.reg f hf).1 old, Field.bit_written_w1s,
      Field.written_other⟩
  · have queue : k.reg ≠ .evtMqPtr := fun e => plain (by rw [e]; decide)
    rw [exec_registerWrite aligned block channel key, writeReg_allowed may queue domain, applyReg_fields plain, if_pos writable,
      BitVec.toNat_ofNat, Nat.mod_eq_of_lt hw]
    rfl

/-! ### Reads that clear, and register messages -/

/-- A queue's pointers lie in no power domain: a read of them clears their lost count at once. -/
theorem readReg_queue {k : RegKey} (domain : regDomain k = none) (s : State) :
    readReg k s = (rsOk, s.regValue k, s.readClear k) := by
  simp only [readReg, domain]

/-- Settles O56, by what a write at an offset comes to. -/
theorem registerAccess : Obligations.RegisterAccess := by
  intro s
  refine ⟨fun a o v unaligned => ?_, fun a o v k aligned block channel key may queue domain => ?_,
    fun a o v k aligned block channel key may => ?_, ?_, fun p => ?_, fun via src sec id n ops => ⟨?_, ?_, ?_⟩⟩
  · show execRegisterWrite a o v s = _
    rw [execRegisterWrite, if_neg unaligned]; rfl
  · rw [exec_registerWrite aligned block channel key, writeReg_allowed may queue domain]; rfl
  · rw [exec_registerWrite aligned block channel key, writeReg_denied may]; rfl
  · show execReadClear none s = _
    rw [execReadClear, readReg_queue rfl]; rfl
  · show execReadClear (some p) s = _
    rw [execReadClear, readReg_queue rfl]; rfl
  · intro takes one most length
    have wellFormed : ¬ (n = 0 ∨ 64 < n.toNat ∨ ops.length ≠ n.toNat) := by
      rintro (rfl | h | h)
      · exact absurd one (by decide)
      · omega
      · exact h length
    show execRegisterMessage via src sec id n ops s = _
    rw [execRegisterMessage, if_neg (fun h => h takes), if_neg wellFormed]; rfl
  · intro takes malformed
    have zero : n = 0 ↔ n.toNat = 0 := BitVec.toNat_eq
    rw [← zero] at malformed
    show execRegisterMessage via src sec id n ops s = _
    rw [execRegisterMessage, if_neg (fun h => h takes), if_pos malformed]; rfl
  · intro ignored
    show execRegisterMessage via src sec id n ops s = _
    rw [execRegisterMessage, if_pos (by simp [ignored])]; rfl

end Sys2Proof.Machine
end

section
/-! PROOFS. Frames of the commands that send nothing: each command's effect is a chain of updates of the registers and parts that
its frame names, and each update keeps the frame. -/
namespace Sys2Proof.Machine

/-! ### Updates that keep a frame

Where the frame is a concrete one, the side conditions (the register or the part is one of those named) are evaluated. -/

/-- What a frame says of every part of a state but its registers. -/
def framed (parts : State → State → State) (s u : State) : State :=
  { parts s u with regs := u.regs, pins := { s.pins with ibis := u.pins.ibis } }

section updates
variable {l : List RegName} {parts : State → State → State} {s u : State}

theorem Keeps.start (hp : PartsOnly parts := by exact ⟨fun _ => rfl, fun _ _ _ => rfl⟩) : Keeps l parts s s := .refl hp

theorem Keeps.field {f : RF} {i j x : Nat} (h : Keeps l parts s u)
    (hp : PartsOnly parts := by exact ⟨fun _ => rfl, fun _ _ _ => rfl⟩)
    (m : f.reg ∈ l := by exact of_decide_eq_true rfl) (a : f.reg ∉ alertRegs := by exact of_decide_eq_true rfl) :
    Keeps l parts s (u.fset f i j x) := h.fset hp f i j x m a

theorem Keeps.counted {r : RegName} {i j n : Nat} (h : Keeps l parts s u)
    (hp : PartsOnly parts := by exact ⟨fun _ => rfl, fun _ _ _ => rfl⟩)
    (m : r ∈ l := by decide) (a : r ∉ alertRegs := by decide) : Keeps l parts s (u.count r i j n) := h.count hp r i j n m a

theorem Keeps.withPwr {x : PwrX} (h : Keeps l parts s u)
    (he : ∀ u x, (framed parts s u).withPwr x = framed parts s (u.withPwr x) := by exact fun _ _ => rfl) :
    Keeps l parts s (u.withPwr x) := h.part (·.withPwr x) rfl (he u x)

theorem Keeps.withAge {x : AgeX} (h : Keeps l parts s u)
    (he : ∀ u x, (framed parts s u).withAge x = framed parts s (u.withAge x) := by exact fun _ _ => rfl) :
    Keeps l parts s (u.withAge x) := h.part (·.withAge x) rfl (he u x)

theorem Keeps.withHbm {x : HbmX} (h : Keeps l parts s u)
    (he : ∀ u x, (framed parts s u).withHbm x = framed parts s (u.withHbm x) := by exact fun _ _ => rfl) :
    Keeps l parts s (u.withHbm x) := h.part (·.withHbm x) rfl (he u x)

theorem Keeps.withEvt {x : EvtX} (h : Keeps l parts s u)
    (he : ∀ u x, (framed parts s u).withEvt x = framed parts s (u.withEvt x) := by exact fun _ _ => rfl) :
    Keeps l parts s (u.withEvt x) := h.part (·.withEvt x) rfl (he u x)

theorem Keeps.withFab {x : FabX} (h : Keeps l parts s u)
    (he : ∀ u x, (framed parts s u).withFab x = framed parts s (u.withFab x) := by exact fun _ _ => rfl) :
    Keeps l parts s (u.withFab x) := h.part (·.withFab x) rfl (he u x)

theorem Keeps.withTru {x : TruX} (h : Keeps l parts s u)
    (he : ∀ u x, (framed parts s u).withTru x = framed parts s (u.withTru x) := by exact fun _ _ => rfl) :
    Keeps l parts s (u.withTru x) := h.part (·.withTru x) rfl (he u x)

theorem Keeps.withParts {x : SMap Part} (h : Keeps l parts s u)
    (he : ∀ u x, (framed parts s u).withParts x = framed parts s (u.withParts x) := by exact fun _ _ => rfl) :
    Keeps l parts s (u.withParts x) := h.part (·.withParts x) rfl (he u x)

theorem Keeps.withWindows {x : SMap (List Fetched)} (h : Keeps l parts s u)
    (he : ∀ u x, (framed parts s u).withWindows x = framed parts s (u.withWindows x) := by exact fun _ _ => rfl) :
    Keeps l parts s (u.withWindows x) := h.part (·.withWindows x) rfl (he u x)

theorem Keeps.withFree {x : Nat} (h : Keeps l parts s u)
    (he : ∀ u x, (framed parts s u).withFree x = framed parts s (u.withFree x) := by exact fun _ _ => rfl) :
    Keeps l parts s (u.withFree x) := h.part (·.withFree x) rfl (he u x)

theorem Keeps.withLedger {x : List LedgerEntry} (h : Keeps l parts s u)
    (he : ∀ u x, (framed parts s u).withLedger x = framed parts s (u.withLedger x) := by exact fun _ _ => rfl) :
    Keeps l parts s (u.withLedger x) := h.part (·.withLedger x) rfl (he u x)

theorem Keeps.withLedgerSeq {x : Nat} (h : Keeps l parts s u)
    (he : ∀ u x, (framed parts s u).withLedgerSeq x = framed parts s (u.withLedgerSeq x) := by exact fun _ _ => rfl) :
    Keeps l parts s (u.withLedgerSeq x) := h.part (·.withLedgerSeq x) rfl (he u x)

theorem Keeps.event {code : Nat} {x : EvInfo} (h : Keeps l parts s u)
    (hp : PartsOnly parts := by exact ⟨fun _ => rfl, fun _ _ _ => rfl⟩)
    (he : ∀ u x, Keeps l parts s u → Keeps l parts s (u.withEvt x) := by exact fun _ _ h => h.withEvt)
    (ptr : .evtMqPtr ∈ l := by decide) (cnt : .evtCount ∈ l := by decide) : Keeps l parts s (u.raiseMod code x) :=
  h.raiseMod hp he ptr cnt code x

/-- The frame of a command, from its effect before it settles. -/
theorem Within.of_effect {c : Instr} (h : ∀ s, ∃ u, exec c s = done u ∧ Keeps l parts s u)
    (hp : ∀ s u r x, parts s { u with regs := r, pins := x } = parts s u := by exact fun _ _ _ _ => rfl) : Within c l parts :=
  .of_keeps (fun s u => by rw [u.settle_rest]; exact hp ..) h

end updates

/-! ### Power (R496 to R500) -/

theorem within_pwrLimitWrite (v : Word) : Within (.pwrLimitWrite v) [.pwrLimit] fun s _ => s :=
  .of_effect fun s => ⟨_, rfl, .ite (.field .start) .start⟩

theorem within_avsAck (d : Fin 4) : Within (.avsAck d) [.pwrAvsStatus] fun s t => { s with pwr := t.pwr } := by
  refine .of_effect fun s => ⟨_, rfl, ?_⟩
  split
  · exact .field <| .field <| .field <| .field <| .withPwr .start
  · exact .start

theorem within_avsVoutRead (d : Fin 4) (mv : BitVec 16) :
    Within (.avsVoutRead d mv) [.clkDieStatus] fun s t => { s with pwr := t.pwr } := by
  refine .of_effect fun s => ⟨_, rfl, ?_⟩
  split
  · exact .ite (.field <| .withPwr .start) .start
  · exact .start

/-! ### Ageing (R509 to R513) -/

theorem within_monitorRead (d : Fin 4) (c m : BitVec 16) :
    Within (.monitorRead d c m) [.ageDieMargin] fun s t => { s with age := t.age } :=
  .of_effect fun s => ⟨_, rfl, .field <| .field <| .withAge .start⟩

theorem within_serdesMarginRead (l : Fin 64) (h w : BitVec 16) (c u : BitVec 32) :
    Within (.serdesMarginRead l h w c u) [.fabPortCount] fun s t => { s with age := t.age } :=
  .of_effect fun s => ⟨_, rfl, .counted <| .counted <| .withAge .start⟩

theorem State.startPlanner_keeps (s : State) :
    Keeps [.ageStatus] (fun s t => { s with age := t.age }) s s.startPlanner :=
  .ite (.withAge <| .field .start) .start

theorem within_planPeriod : Within .planPeriod [.ageStatus] fun s t => { s with age := t.age } :=
  .of_effect fun s => ⟨_, rfl, .ite s.startPlanner_keeps .start⟩

theorem within_replan : Within .replan [.ageStatus] fun s t => { s with age := t.age } :=
  .of_effect fun s => ⟨_, rfl, s.startPlanner_keeps⟩

/-! ### Memory stacks (R370 to R387) -/

section stackUpdates
variable {l : List RegName} {parts : State → State → State} {s u : State}

/-- A new rate in force sets every eff_min of the stack and may raise 0x3005 (R381). -/
theorem Keeps.rescale (hp : PartsOnly parts) (he : ∀ u x, Keeps l parts s u → Keeps l parts s (u.withEvt x))
    (ptr : .evtMqPtr ∈ l) (cnt : .evtCount ∈ l) (rate : .hbmRegRate ∈ l) (status : .hbmStackStatus ∈ l)
    (h : Keeps l parts s u) (st : Nat) (changed : Bool) : Keeps l parts s (u.rescale st changed) := by
  have scaled (v : State) (x : Nat → State → Nat) (b : Nat) (k : Keeps l parts s v) : Keeps l parts s
      (((List.range 16).foldl (fun v p => v.fset rf_hbmRegRate_effMin st p (x p v)) v).fset
        rf_hbmStackStatus_rescaled st 0 b) :=
    .field (hp := hp) (m := status) <| .foldl _ (fun _ _ k => k.field (hp := hp) (m := rate)) _ _ k
  exact .ite (.event (scaled u _ _ h) hp he ptr cnt) (scaled u _ _ h)

/-- A new effective multiplier may raise 0x3004, and rescales the rates (R374, R381). -/
theorem Keeps.effRefresh (hp : PartsOnly parts) (he : ∀ u x, Keeps l parts s u → Keeps l parts s (u.withEvt x))
    (ptr : .evtMqPtr ∈ l) (cnt : .evtCount ∈ l) (rate : .hbmRegRate ∈ l) (status : .hbmStackStatus ∈ l)
    (h : Keeps l parts s u) (st : Nat) : Keeps l parts s (u.effRefresh st) := by
  have eff (x : Nat) : Keeps l parts s (u.fset rf_hbmStackStatus_effRefresh st 0 x) := h.field (hp := hp) (m := status)
  unfold State.effRefresh
  refine .ite h (.rescale hp he ptr cnt rate status ?_ st true)
  exact .ite (.event (eff _) hp he ptr cnt) (eff _)

end stackUpdates

theorem within_hbmTempLowerHold (st : Fin 12) :
    Within (.hbmTempLowerHold st) (eventRegs ++ [.hbmRegRate, .hbmStackStatus]) fun s t => { s with evt := t.evt } := by
  refine .of_effect fun s => ⟨_, rfl, ?_⟩
  split
  · refine .ite (.effRefresh ⟨fun _ => rfl, fun _ _ _ => rfl⟩ (fun _ _ h => h.withEvt) ?_ ?_ ?_ ?_ (.field .start) st) .start
    all_goals decide
  · exact .start

theorem within_hbmThrottleEnd (st : Fin 12) : Within (.hbmThrottleEnd st)
    (eventRegs ++ [.hbmCount, .hbmRegRate, .hbmStackStatus]) fun s t => { s with evt := t.evt, hbm := t.hbm } := by
  refine .of_effect fun s => ⟨_, rfl, ?_⟩
  split
  · refine .ite (.rescale ⟨fun _ => rfl, fun _ _ _ => rfl⟩ (fun _ _ h => h.withEvt) ?_ ?_ ?_ ?_
      (.field <| .counted <| .withHbm .start) st true) .start
    all_goals decide
  · exact .start

theorem within_hbmRefresh (st : Fin 12) : Within (.hbmRefresh st) [] fun s t => { s with hbm := t.hbm } :=
  .of_effect fun s => ⟨_, rfl, .ite (.withHbm .start) .start⟩

theorem within_regulatorRefill : Within .regulatorRefill [] fun s t => { s with hbm := t.hbm } :=
  .of_effect fun s => ⟨_, rfl,
    .ite (.withHbm <| .foldl _ (fun _ _ h => h.withHbm) _ _ .start) .start⟩

theorem within_channelSchedule (st : Fin 12) (pc : Fin 64) (rs : List HbmReq) :
    Within (.channelSchedule st pc rs) [] fun s t => { s with hbm := t.hbm } := by
  refine .of_effect fun s => ⟨_, rfl, .ite .start (.ite (.withHbm .start) ?_)⟩
  dsimp only
  split
  · split
    · exact .withHbm .start
    · exact .start
  · split
    · split
      · exact .withHbm .start
      · exact .start
    · exact .start

theorem within_scrubPeriodBoundary : Within .scrubPeriodBoundary [] fun s t => { s with hbm := t.hbm } :=
  .of_effect fun s => ⟨_, rfl, .ite (.withHbm .start) .start⟩

theorem within_hardRepair (v : Word) : Within (.hardRepair v) [.hbmRepairStatus] fun s t => { s with hbm := t.hbm } :=
  .of_effect fun s => ⟨_, rfl,
    .ite .start <| .ite (.field .start) <| .ite (.field .start) <| .ite (.field .start) <| .withHbm <| .field <| .field .start⟩

/-- Free words advance the draws alone. -/
theorem State.drawWords_eq (s : State) (n : Nat) : (s.drawWords n).2 = s.withFree (s.drawWords n).2.free := by
  induction n generalizing s with
  | zero => rfl
  | succ n ih => exact ih (s.withFree (s.free + 1))

theorem State.ledgerPut_eq (s : State) (type unit : Nat) (body : List Byte) :
    ∃ ledger seq, s.ledgerPut type unit body = (s.withLedger ledger).withLedgerSeq seq := ⟨_, _, rfl⟩

/-- An entry of the ageing ledger, and the checkpoint that may go before it, change the ledger and the draws alone (R510). -/
theorem State.ledgerAdd_eq (s : State) (type unit : Nat) (body : List Byte) :
    ∃ free ledger seq, s.ledgerAdd type unit body = ((s.withFree free).withLedger ledger).withLedgerSeq seq := by
  unfold State.ledgerAdd
  split
  · obtain ⟨ledger, seq, checkpoint⟩ := (s.drawBytes 40).2.ledgerPut_eq 8 0 (s.drawBytes 40).1
    obtain ⟨ledger', seq', entry⟩ := (((s.drawBytes 40).2.withLedger ledger).withLedgerSeq seq).ledgerPut_eq type unit body
    refine ⟨(s.drawBytes 40).2.free, ledger', seq', ?_⟩
    dsimp only
    rw [checkpoint, entry]
    have draws : (s.drawBytes 40).2 = s.withFree (s.drawBytes 40).2.free := s.drawWords_eq (ceilDiv 40 8)
    rw [draws]; rfl
  · obtain ⟨ledger, seq, entry⟩ := s.ledgerPut_eq type unit body
    exact ⟨s.free, ledger, seq, entry⟩

theorem within_hardRepairDone (ok : Bool) : Within (.hardRepairDone ok) (eventRegs ++ [.hbmRepairStatus])
    fun s t => { s with evt := t.evt, free := t.free, hbm := t.hbm, ledger := t.ledger, ledgerSeq := t.ledgerSeq } := by
  refine .of_effect fun s => ⟨_, rfl, ?_⟩
  dsimp only
  split
  · refine .ite (.event <| .field ?_) (.field <| .field <| .withHbm .start)
    obtain ⟨free, ledger, seq, e⟩ := State.ledgerAdd_eq _ 3 _ _
    rw [e]
    exact .withLedgerSeq <| .withLedger <| .withFree <| .withHbm <| .field <| .withHbm .start
  · exact .start

/-! ### Events and the archive (R557 to R561) -/

theorem within_archRead (f : BitVec 32) : Within (.archRead f) [.evtArchRead] fun s t => { s with evt := t.evt } :=
  .of_effect fun s => ⟨_, rfl, .withEvt <| .field .start⟩

theorem within_archReadDone : Within .archReadDone [.evtArchRead] fun s t => { s with evt := t.evt } :=
  .of_effect fun s => ⟨_, rfl, .ite (.withEvt <| .field .start) .start⟩

/-- The kernel must not meet the ring's size as a number, which it would count down from, so the function is opened before it is
applied and the size is a variable from then on. -/
theorem State.archiveAll_keeps (s : State) :
    Keeps [.evtArchStatus] (fun s t => { s with evt := t.evt }) s s.archiveAll := by
  generalize hf : State.archiveAll = f
  delta State.archiveAll at hf
  obtain ⟨size, hsize⟩ : ∃ n, n = archiveSize := ⟨_, rfl⟩
  rw [← hsize] at hf
  subst hf
  dsimp only
  split
  · exact .field <| .field <| .withEvt .start
  · exact .withEvt .start

theorem within_archiveFlush : Within .archiveFlush [.evtArchStatus] fun s t => { s with evt := t.evt } :=
  .of_effect fun s => ⟨_, rfl, s.archiveAll_keeps⟩

/-- A write of the module queue's head moves it, is turned away with 0xB004, or does nothing (R557). -/
theorem mqHead_cases (a : Agent) (v : Nat) (s : State) : (mqHead a v s).2 = s
    ∨ (mqHead a v s).2 = s.boundViolation (regOffset ⟨.evtMqPtr, 0, 0⟩)
    ∨ (mqHead a v s).2 = s.fset rf_evtMqPtr_head 0 0 (bits v 12 0) := by
  unfold mqHead
  generalize (if s.fbit rf_evtHostCtl_sapwoodOwnsMq then Agent.sapwood else Agent.host) = owner
  dsimp only
  split
  · cases a
    case sapwood => exact .inr (.inl rfl)
    all_goals exact .inl rfl
  · split
    · exact .inr (.inr rfl)
    · exact .inl rfl

theorem within_mqHeadWrite (a : Agent) (v : Word) : Within (.mqHeadWrite a v) eventRegs fun s t => { s with evt := t.evt } := by
  refine .of_effect fun s => ⟨_, rfl, ?_⟩
  obtain e | e | e := mqHead_cases a v.toNat s <;> rw [e]
  · exact .start
  · exact .event .start
  · exact .field .start

theorem within_pqBaseWrite (p : Fin 16) (v : Word) : Within (.pqBaseWrite p v) [.evtPqBase, .evtPqPtr] fun s _ => s :=
  .of_effect fun s => ⟨_, rfl, .field <| .field <| .ite (.field <| .field .start) (.field .start)⟩

/-! ### Links, shaping and congestion (R396, R414, R418, R419, R422) -/

theorem within_trainingTimeout (n : Fin 16) :
    Within (.trainingTimeout n) [.fabPortStatus] fun s t => { s with fab := t.fab } :=
  .of_effect fun s => ⟨_, rfl, .ite (.withFab <| .field .start) .start⟩

theorem within_fabCoordWrite (v : Word) : Within (.fabCoordWrite v) [] fun s t => { s with fab := t.fab } :=
  .of_effect fun s => ⟨_, rfl, .withFab .start⟩

theorem within_shaperRefill (p : Fin 16) : Within (.shaperRefill p) [] fun s t => { s with fab := t.fab } :=
  .of_effect fun s => ⟨_, rfl, .ite (.withFab .start) .start⟩

/-- The end of a pause clears it and counts its microseconds. -/
theorem State.unpause_eq (s : State) (n prio : Nat) :
    s.unpause n prio = s ∨ ∃ x m, s.unpause n prio = (s.setPort n x).count .fabPortCount n 10 m := by
  unfold State.unpause
  dsimp only
  split
  · exact .inr ⟨_, _, rfl⟩
  · exact .inl rfl

theorem within_pfcPause (n : Fin 4) (prio : Fin 8) (pause : Bool) :
    Within (.pfcPause n prio pause) [.fabPortCount] fun s t => { s with fab := t.fab } := by
  refine .of_effect fun s => ⟨_, rfl, .ite (.ite (.withFab .start) ?_) .start⟩
  obtain e | ⟨x, m, e⟩ := s.unpause_eq n prio <;> rw [e]
  · exact .start
  · exact .counted <| .withFab .start

theorem within_pfcWatchdog (n : Fin 4) (prio : Fin 8) : Within (.pfcWatchdog n prio) (eventRegs ++ [.fabPortCount])
    fun s t => { s with evt := t.evt, fab := t.fab } := by
  refine .of_effect fun s => ⟨_, rfl, ?_⟩
  dsimp only
  split
  · refine .ite (.event <| .counted <| .withFab ?_) .start
    obtain e | ⟨x, m, e⟩ := s.unpause_eq n prio <;> rw [e]
    · exact .start
    · exact .counted <| .withFab .start
  · exact .start

theorem within_pfcWatchdogClear (n : Fin 4) (prio : Fin 8) :
    Within (.pfcWatchdogClear n prio) [] fun s t => { s with fab := t.fab } :=
  .of_effect fun s => ⟨_, rfl, .ite (.withFab .start) .start⟩

theorem within_cnp (n : BitVec 24) : Within (.cnp n) [] fun s t => { s with fab := t.fab } := by
  refine .of_effect fun s => ⟨_, rfl, ?_⟩
  split
  · exact .ite (.withFab .start) .start
  · exact .start

theorem within_cnpRateIncrease (n : BitVec 24) : Within (.cnpRateIncrease n) [] fun s t => { s with fab := t.fab } := by
  refine .of_effect fun s => ⟨_, rfl, ?_⟩
  split
  · exact .ite (.withFab .start) .start
  · exact .start

/-! ### Partitions (R348, R358, R359) -/

theorem within_saveBaseWrite (p : Fin 16) (v : Word) : Within (.saveBaseWrite p v) [.prtCtl, .prtSaveBase] fun s _ => s :=
  .of_effect fun s => ⟨_, rfl, .field <| .field .start⟩

theorem within_xltInval (p : Fin 16) (v : Word) : Within (.xltInval p v) [.prtStatus] fun s t => { s with parts := t.parts } :=
  .of_effect fun s => ⟨_, rfl, .ite (.field .start) (.field <| .withParts .start)⟩

theorem within_preemptResume (p : Fin 16) :
    Within (.preemptResume p) [.grvRedStatus, .prtStatus, .slvUnitStatus] fun s _ => s :=
  .of_effect fun s => ⟨_, rfl,
    .ite (.foldl _ (fun _ _ h => h.field) _ _ (.field <| .field .start)) (.field .start)⟩

/-! ### Roles (R427, R455) -/

theorem State.mgrMode_keeps (mode : Nat) (s : State) :
    Keeps [.grvManager, .grvMgrCtl, .grvRole] (fun s _ => s) s (mgrMode mode s) := by
  have moded : Keeps [.grvManager, .grvMgrCtl, .grvRole] (fun s _ => s) s
      ((s.fset rf_grvMgrCtl_mode 0 0 mode).fset rf_grvRole_managerMode 0 0 mode) := .field <| .field .start
  exact .ite (.ite (.field <| .field moded) moded) .start

theorem within_managerModeActive : Within .managerModeActive [.grvManager, .grvMgrCtl, .grvRole] fun s _ => s :=
  .of_effect fun s => ⟨_, rfl, s.mgrMode_keeps 1⟩

theorem within_managerModeStandby : Within .managerModeStandby [.grvManager, .grvMgrCtl, .grvRole] fun s _ => s :=
  .of_effect fun s => ⟨_, rfl, s.mgrMode_keeps 2⟩

/-! ### Trust (R528, R538, R543) -/

theorem within_nonceExpire : Within .nonceExpire [] fun s t => { s with tru := t.tru } := by
  refine .of_effect fun s => ⟨_, rfl, ?_⟩
  split
  · exact .ite (.withTru .start) .start
  · exact .start

theorem within_watchdogKick : Within .watchdogKick [] fun s t => { s with tru := t.tru } :=
  .of_effect fun s => ⟨_, rfl, .ite (.withTru .start) .start⟩

theorem within_recoveryImageWrite (image : List Byte) :
    Within (.recoveryImageWrite image) eventRegs fun s t => { s with evt := t.evt, tru := t.tru } := by
  refine .of_effect fun s => ⟨_, rfl, .ite ?_ .start⟩
  split
  · exact .withTru <| .withTru .start
  · exact .event .start

/-! ### Streams (R113) -/

theorem within_deferLimitExpire (core : Fin 64) (stream : Fin 3) (n : BitVec 32) :
    Within (.deferLimitExpire core stream n) [] fun s t => { s with windows := t.windows } :=
  .of_effect fun s => ⟨_, rfl, .withWindows .start⟩

/-- Settles O59: each command's frame. -/
theorem quietCommandFrames : Obligations.QuietCommandFrames :=
  ⟨within_pwrLimitWrite, within_avsAck, within_avsVoutRead, within_monitorRead, within_serdesMarginRead, within_planPeriod,
    within_replan, within_hbmTempLowerHold, within_hbmThrottleEnd, within_hbmRefresh, within_regulatorRefill,
    within_channelSchedule, within_scrubPeriodBoundary, within_hardRepair, within_hardRepairDone, within_archRead,
    within_archReadDone, within_archiveFlush, within_mqHeadWrite, within_pqBaseWrite, within_trainingTimeout,
    within_fabCoordWrite, within_shaperRefill, within_pfcPause, within_pfcWatchdog, within_pfcWatchdogClear, within_cnp,
    within_cnpRateIncrease, within_saveBaseWrite, within_xltInval, within_preemptResume, within_managerModeActive,
    within_managerModeStandby, within_nonceExpire, within_watchdogKick, within_recoveryImageWrite, within_deferLimitExpire⟩

end Sys2Proof.Machine
end

section
/-! PROOFS. Number formats: what a scale byte is (R19), and what an MX element reads as under it: the exact product at every
scale from 2^−126 up, and under 2^−127 a zero where the product underflows (R31, R34). -/
namespace Sys2Proof.Machine

/-! ### Block scales (R19) -/

@[simp] theorem decScale_ff : decScale 0xFF = none := rfl

theorem decScale_of_le {e : Nat} (h : e ≤ 0xFE) : decScale e = some ((e : Int) - 127) :=
  if_neg (by omega)

/-! ### The lattice's operands -/

@[simp] theorem operandVal_none (v : FV) : operandVal (v, none) = .nan := rfl

@[simp] theorem operandVal_some (v : FV) (k : Int) : operandVal (v, some k) = v.scale2 k := rfl

/-! ### MX elements (R19, R31, R34) -/

theorem decMX_of_none {e : Nat} (fmt x : Nat) (h : decScale e = none) : decMX fmt e x = .nan := by
  simp only [decMX, h]

/-- A finite product with the scale becomes a zero of its sign where both it and the scale are below 2^−126. -/
theorem decMX_of_fin {fmt e x m : Nat} {k q : Int} {n : Bool} (hk : decScale e = some k)
    (hv : (decElem fmt x).scale2 k = .fin n m q) :
    decMX fmt e x = if k < -126 ∧ m ≠ 0 ∧ fvLog2 m q < -126 then .fin n 0 0 else .fin n m q := by
  simp only [decMX, hk, hv]

theorem decMX_of_scale_ge {fmt e x : Nat} {k : Int} (hk : decScale e = some k) (hge : -126 ≤ k) :
    decMX fmt e x = (decElem fmt x).scale2 k := by
  cases hv : (decElem fmt x).scale2 k with
  | nan => simp only [decMX, hk, hv]
  | inf n => simp only [decMX, hk, hv]
  | fin n m q => rw [decMX_of_fin hk hv, if_neg fun h => absurd h.1 (by omega)]

/-- Settles O7: the scale's value first, then the elements read under it, by the byte: not 0xFF, 0, and 0xFF. -/
theorem scaleBytes : Obligations.ScaleBytes := by
  refine ⟨fun _ => decScale_of_le, fun fmt e x he => ⟨?_, fun h1 => ?_⟩, fun fmt x n m k hv => ?_,
    fun fmt x => ⟨decMX_of_none fmt x decScale_ff, ?_⟩⟩
  · rw [decScale_of_le he, operandVal_some]
  · exact decMX_of_scale_ge (decScale_of_le he) (by omega)
  · have below : ((0 : Nat) : Int) - 127 < -126 := by decide
    rw [decMX_of_fin (decScale_of_le (Nat.zero_le _)) hv]
    simp only [below, true_and]
  · rw [decScale_ff, operandVal_none]

end Sys2Proof.Machine
end

section
/-! PROOFS. The matrix lattice: which rows and lanes of an operand a MAT.MMA feeds (R60). -/
namespace Sys2Proof.Machine

/-- A fed row is an operand row i at lattice row base + i, where the mask has its bit. -/
theorem mem_fed {mask base n r i : Nat} : (r, i) ∈ fed mask base n ↔ i < n ∧ bit mask r = true ∧ r = base + i := by
  simp only [fed, List.mem_map, List.mem_filter, List.mem_range, Prod.mk.injEq]
  constructor
  · rintro ⟨i, ⟨below, fedBit⟩, rfl, rfl⟩
    exact ⟨below, fedBit, rfl⟩
  · rintro ⟨below, fedBit, rfl⟩
    exact ⟨i, ⟨below, fedBit⟩, rfl, rfl⟩

theorem fed_rows_increase (mask base n : Nat) : ((fed mask base n).map (·.1)).Pairwise (· < ·) := by
  have operandRows : ((List.range n).filter fun i => bit mask (base + i)).Pairwise (· < ·) := List.pairwise_lt_range.filter _
  rw [fed, List.map_map, List.pairwise_map]
  exact operandRows.imp fun less => Nat.add_lt_add_left less base

/-- Settles O8: a lattice row in range is base plus its operand row, and adding base keeps the order of the operand's rows. -/
theorem fedCells : Obligations.FedCells := by
  refine fun mask base n => ⟨fun r i => mem_fed.trans ⟨?_, ?_⟩, fed_rows_increase mask base n⟩
  · rintro ⟨below, fedBit, rfl⟩
    exact ⟨by omega, by omega, fedBit, by omega⟩
  · rintro ⟨lower, upper, fedBit, rfl⟩
    exact ⟨by omega, fedBit, by omega⟩

end Sys2Proof.Machine
end

section
/-! PROOFS. What the engines do between commands: the lattice's grant to the solver (R59, R184), the Gram unit's batches (R150 to
R160), and the solver's selection, deadline and disable (R183 to R187), each command by the cases of its guard. -/
namespace Sys2Proof.Machine

/-! ### The lattice's grant -/

theorem execLatticeSolverGrant_takes {s : State} {core : Fin 64} (waits : s.fbit rf_corLatStatus_solverWaiting core = true)
    (free : s.fget rf_corLatStatus_holder core = latNone) :
    execLatticeSolverGrant core s = done (s.solverTakes core) :=
  congrArg done (if_pos ⟨waits, free⟩)

theorem execLatticeSolverGrant_held {s : State} {core : Fin 64} (held : s.fget rf_corLatStatus_holder core ≠ latNone) :
    execLatticeSolverGrant core s = done s :=
  congrArg done (if_neg fun ⟨_, free⟩ => held free)

/-! ### The Gram unit -/

section gram
variable {s : State} {c slot : Fin 16} {p : Nat} {t : TapSlot}

/-- A batch of the slot in progress goes to its end, whatever becomes of its partition (R168). -/
theorem execGramBatch_inProgress (part : s.partOfCluster c = some p) (tap : s.tap c slot = some t)
    (busy : s.gramSlot c = some slot.val) : execGramBatch c slot s = done (s.gramToEnd c) := by
  simp only [execGramBatch, part, tap]
  rw [if_pos busy]

theorem execGramBatch_starts {h : Nat} (part : s.partOfCluster c = some p) (tap : s.tap c slot = some t)
    (idle : s.gramSlot c = none) (ready : t.ready = some h) (unread : s.emaReads t t.epoch = false)
    (awake : s.awake (domCluster c) = true) (admits : s.admits p = true) :
    execGramBatch c slot s = done (s.gramStart c slot t (t.inHalf h)) := by
  have mayStart : ¬ (s.emaReads t t.epoch = true ∨ ¬ s.awake (domCluster c) = true ∨ ¬ s.admits p = true) := by
    simp [unread, awake, admits]
  simp only [execGramBatch, part, tap, idle, ready]
  rw [if_neg nofun, if_neg mayStart]

end gram

/-! ### The solver -/

section solver
variable {s : State} {c : Fin 16} {p : Nat} {fl : Flight}

/-- The free unit runs the descriptor of earliest deadline (R183). -/
theorem execSolverSelect_starts (part : s.partOfCluster c = some p) (idle : s.slvRunning c = none)
    (first : earliest (s.slvQueued c) = some fl) (admits : s.admits p = true) (awake : s.awake (domCluster c) = true) :
    execSolverSelect c s
      = done ((s.resumeWith { fl with aux := fl.aux.set sxStage 1 } slvRun).syncSlv c) := by
  simp only [execSolverSelect, part, idle, first]
  rw [if_pos ⟨admits, awake⟩]

/-- A descriptor past its deadline leaves its wait, its fault and its requests, and ends DEADLINE (R185, R346). -/
theorem execSolverDeadline_ends (part : s.partOfCluster c = some p) (timed : s.slvTimed c = some fl)
    (late : fl.late s = true) (admits : s.admits p = true) (inD0 : s.domState (domCluster c) = 0) :
    execSolverDeadline c s
      = done (((((s.waitEnds fl).leaveFault p fl).dropRequests fl).resumeWith fl slvLate).syncSlv c) := by
  simp only [execSolverDeadline, part, timed]
  rw [if_pos ⟨late, admits, inD0⟩]

theorem execSolverDeadline_inTime (part : s.partOfCluster c = some p) (timed : s.slvTimed c = some fl)
    (inTime : fl.late s = false) : execSolverDeadline c s = done s := by
  have notLate : ¬ fl.late s = true := Bool.eq_false_iff.mp inTime
  simp only [execSolverDeadline, part, timed]
  rw [if_neg fun ⟨late, _⟩ => notLate late]

theorem execSolverDisable_awake (noTest : s.testHeld (domCluster c) = false) (awake : s.awake (domCluster c) = true) :
    execSolverDisable c s = done (solverDisable c s) := by
  have free : ¬ s.testHeld (domCluster c) = true := Bool.eq_false_iff.mp noTest
  exact congrArg done ((if_neg free).trans (if_pos awake))

end solver

/-- Settles O58: each command by the cases of its guard; room in the tap queue has none. -/
theorem enginesBetweenCommands : Obligations.EnginesBetweenCommands := fun _ =>
  ⟨fun _ => rfl,
    fun _ => execLatticeSolverGrant_takes,
    fun _ => execLatticeSolverGrant_held,
    fun _ _ _ _ _ part tap => ⟨execGramBatch_inProgress part tap, execGramBatch_starts part tap⟩,
    fun _ _ _ part admits =>
      ⟨fun idle first => execSolverSelect_starts part idle first admits,
        fun timed late => execSolverDeadline_ends part timed late admits,
        execSolverDeadline_inTime part⟩,
    fun _ => execSolverDisable_awake⟩

end Sys2Proof.Machine
end

section
/-! PROOFS. Streams: how their registers read after each update, and frames that name single register elements. -/
namespace Sys2Proof.Machine

/-! ### Frames that name register elements

As `Keeps`, for `OnlyElems`: every update of a named element keeps the frame, and so does settling. -/

section elements
variable {l : List RegKey} {s u : State}

theorem OnlyElems.refl : OnlyElems l s s := ⟨fun _ _ _ _ _ => rfl, rfl⟩

theorem OnlyElems.setReg {r : RegName} {i j : Nat} {w : Word} (h : OnlyElems l s u) (m : regKey r i j ∈ l) :
    OnlyElems l s (u.setReg r i j w) := by
  refine ⟨fun r' i' j' other quiet => ?_, congrArg (·.withRegs (u.setReg r i j w).regs) h.2⟩
  have ne : regKey r' i' j' ≠ regKey r i j := fun e => other (e ▸ m)
  exact (aGet_aSet_ne' _ _ _ _ _ ne).trans (h.1 r' i' j' other quiet)

theorem OnlyElems.fset {f : RF} {i j x : Nat} (h : OnlyElems l s u) (m : regKey f.reg i j ∈ l) :
    OnlyElems l s (u.fset f i j x) := h.setReg m

theorem OnlyElems.settle (h : OnlyElems l s u) : OnlyElems l s u.settle := by
  refine ⟨fun r i j other quiet => (u.settle_reg r i j quiet).trans (h.1 r i j other quiet), ?_⟩
  exact u.settle_rest.trans
    (congrArg (fun w : State => { w with regs := u.settle.regs, pins := { w.pins with ibis := u.settle.pins.ibis } }) h.2)

theorem OnlyElems.withDrains (h : OnlyElems l s u) (d : List (Func × Nat)) :
    OnlyElems l (s.withDrains d) (u.withDrains d) := ⟨h.1, congrArg (·.withDrains d) h.2⟩

theorem OnlyElems.setWindow (h : OnlyElems l s u) (core stream : Nat) (w : List Fetched) :
    OnlyElems l (s.setWindow core stream w) (u.setWindow core stream w) :=
  ⟨h.1, congrArg (·.setWindow core stream w) h.2⟩

end elements

/-! ### The stream registers -/

section streams
variable (s : State) (core stream : Nat)

@[simp] theorem State.strState_settle : s.settle.strState core stream = s.strState core stream :=
  s.fget_settle _ _ _ (by decide)

@[simp] theorem State.strIssue_settle : s.settle.strIssue core stream = s.strIssue core stream :=
  s.fget_settle _ _ _ (by decide)

@[simp] theorem State.strRetire_settle : s.settle.strRetire core stream = s.strRetire core stream :=
  s.fget_settle _ _ _ (by decide)

@[simp] theorem State.strTail_settle : s.settle.strTail core stream = s.strTail core stream :=
  s.fget_settle _ _ _ (by decide)

theorem State.fbit_settle (f : RF) (i j : Nat) (h : f.reg ∉ alertRegs) : s.settle.fbit f i j = s.fbit f i j := by
  unfold State.fbit
  rw [s.fget_settle f i j h]

@[simp] theorem State.drains_settle : s.settle.drains = s.drains := by rw [s.settle_rest]

@[simp] theorem State.window_settle : s.settle.window core stream = s.window core stream := by
  unfold State.window
  rw [s.settle_rest]

@[simp] theorem State.flights_settle : s.settle.flights = s.flights := by rw [s.settle_rest]

/-- A field that shares no bit with a stream's state. -/
abbrev RF.NotState (g : RF) : Prop := g.reg = .corStreamCtl → g.hi < rf_corStreamCtl_state.lo ∨ rf_corStreamCtl_state.hi < g.lo

theorem State.fget_setStr {g : RF} (h : g.NotState) (st : Nat) :
    (s.setStr core stream st).fget g core stream = s.fget g core stream := by
  by_cases ctl : g.reg = .corStreamCtl
  · exact s.fget_fset_apart rf_corStreamCtl_state g core stream st ctl (by decide) (by decide) (h ctl).symm
  · exact s.fget_fset_other rf_corStreamCtl_state g core stream core stream st ctl

theorem State.strState_setStr (st : Nat) : (s.setStr core stream st).strState core stream = st % 16 :=
  s.fget_fset_same _ _ _ _ (by decide) (by decide)

/-- Writing a field that is no part of a stream's state leaves that state. -/
theorem State.strState_fset {f : RF} (h : f.NotState) (hf : f.lo ≤ f.hi + 1) (hh : f.hi < 64) (x : Nat) :
    (s.fset f core stream x).strState core stream = s.strState core stream := by
  by_cases ctl : f.reg = .corStreamCtl
  · exact s.fget_fset_apart f rf_corStreamCtl_state core stream x ctl.symm hf hh (h ctl)
  · exact s.fget_fset_other f rf_corStreamCtl_state core stream core stream x (Ne.symm ctl)

theorem State.inFlight_congr {t : State} (h : t.flights = s.flights) : t.inFlight core stream = s.inFlight core stream := by
  unfold State.inFlight
  rw [h]

/-! ### What wakes a stream (R130) -/

/-- What setting the state keeps, a wake-up keeps. -/
theorem State.wakeStream_keeps {P : State → Prop} (same : P s) (woken : P (s.setStr core stream ssRunning)) :
    P (s.wakeStream core stream) := by
  unfold State.wakeStream
  split <;> assumption

theorem State.fget_wakeStream {g : RF} (h : g.NotState) :
    (s.wakeStream core stream).fget g core stream = s.fget g core stream :=
  s.wakeStream_keeps core stream (P := fun u => u.fget g core stream = s.fget g core stream) rfl
    (s.fget_setStr core stream h ssRunning)

/-- Posted descriptors wake an idle stream. -/
theorem State.strState_wakeStream : (s.wakeStream core stream).strState core stream
    = if s.strState core stream = ssIdle ∧ s.strTail core stream ≠ s.strIssue core stream then ssRunning
      else s.strState core stream := by
  unfold State.wakeStream
  split
  · exact s.strState_setStr core stream ssRunning
  · rfl

/-! ### What ends a descriptor's time in its stream (R110, R130) -/

/-- What moving retire and setting the state keep, the end of a completion keeps. -/
theorem State.afterComplete_keeps {P : State → Prop} (same : P s)
    (retire : ∀ u x, P u → P (u.fset rf_corStreamHead_retire core stream x))
    (state : ∀ u st, P u → P (u.setStr core stream st)) : P (s.afterComplete core stream) := by
  have retired := retire s (oldest (s.strRetire core stream) ((s.inFlight core stream).map (·.n)) (s.strIssue core stream)) same
  unfold State.afterComplete
  dsimp only
  split
  · exact state _ _ retired
  · split
    · exact state _ _ retired
    · exact retired

/-- A field of a stream that is neither its state nor its retire counter. -/
theorem State.fget_afterComplete {g : RF} (h : g.NotState)
    (notRetire : g.reg = .corStreamHead → g.hi < rf_corStreamHead_retire.lo) :
    (s.afterComplete core stream).fget g core stream = s.fget g core stream := by
  refine s.afterComplete_keeps core stream (P := fun u => u.fget g core stream = s.fget g core stream) rfl
    (fun u x same => Eq.trans ?_ same) (fun u st same => (u.fget_setStr core stream h st).trans same)
  by_cases head : g.reg = .corStreamHead
  · exact u.fget_fset_apart rf_corStreamHead_retire g core stream x head (by decide) (by decide) (.inr (notRetire head))
  · exact u.fget_fset_other rf_corStreamHead_retire g core stream core stream x head

/-- A drained stream becomes DISABLED, a finished one IDLE. -/
theorem State.strState_afterComplete : (s.afterComplete core stream).strState core stream
    = if s.strState core stream = ssDraining ∧ s.inFlight core stream = [] then ssDisabled
      else if s.strState core stream = ssRunning ∧ s.strIssue core stream = s.strTail core stream ∧ s.inFlight core stream = []
        then ssIdle
      else s.strState core stream := by
  have state (x : Nat) : (s.fset rf_corStreamHead_retire core stream x).strState core stream = s.strState core stream :=
    s.strState_fset core stream (by decide) (by decide) (by decide) x
  have tail (x : Nat) : (s.fset rf_corStreamHead_retire core stream x).strTail core stream = s.strTail core stream :=
    s.fget_fset_other _ _ _ _ _ _ _ (by decide)
  unfold State.afterComplete
  simp only [List.isEmpty_map, List.isEmpty_iff, state, tail]
  split
  · exact State.strState_setStr _ _ _ _
  · split
    · exact State.strState_setStr _ _ _ _
    · exact state _

end streams

end Sys2Proof.Machine
end

section
/-! PROOFS. Waits on tokens: the signed comparison, and what it holds back (R120). -/
namespace Sys2Proof.Machine

/-- The wrapping difference of the model is that of 32-bit words. -/
theorem subMod_eq_toNat_sub (a b : Nat) : subMod 32 a b = (BitVec.ofNat 32 a - BitVec.ofNat 32 b).toNat := by
  simp only [subMod, BitVec.toNat_sub, BitVec.toNat_ofNat]
  omega

/-- A wait holds where the difference, as a signed word, is zero or positive (R120). -/
theorem waitOk_iff (x v : Nat) : waitOk x v = true ↔ 0 ≤ (BitVec.ofNat 32 x - BitVec.ofNat 32 v).toInt := by
  rw [waitOk, subMod_eq_toNat_sub, decide_eq_true_iff, BitVec.toInt_eq_toNat_cond]
  generalize BitVec.ofNat 32 x - BitVec.ofNat 32 v = d
  have := d.isLt
  split <;> omega

theorem State.tokWait_token {x : Nat} (h : x ≠ 0xFFFF) (s : State) (core v : Nat) :
    s.tokWait core x v = waitOk (s.tokVal core x) v := by
  rw [State.tokWait, decide_eq_false h, Bool.false_or]

/-- A descriptor with a legal header does not issue before its wait is satisfied (R112). -/
theorem State.mayIssue_waits {s : State} {core stream : Nat} {f : Fetched} (header : hdrIllegal f.bytes stream = false)
    (waits : s.tokWait core (hWaitToken f.bytes) (hWaitValue f.bytes) = false) (engine : Nat) :
    s.mayIssue core stream engine f = false := by
  have notReady : s.ready core stream f = false := by
    simp only [State.ready, header, waits, Bool.or_self, Bool.and_false, Bool.false_and]
  rw [State.mayIssue, notReady, Bool.false_and]

/-- Settles O20: the wait is a function of its token's value, and readiness asks for it. -/
theorem tokenWait : Obligations.TokenWait := by
  intro core x v s token _
  refine ⟨?_, ?_, fun t same => ?_⟩
  · rw [State.tokWait_token token]
    exact waitOk_iff _ _
  · rintro stream engine f rfl rfl header waits
    exact State.mayIssue_waits header waits engine
  · rw [State.tokWait_token token, State.tokWait_token token, same]

end Sys2Proof.Machine
end

section
/-! PROOFS. Writes of the stream registers with the core awake (R111, R122, R130). -/
namespace Sys2Proof.Machine

theorem State.regAccess_awake {s : State} {d : Nat} (awake : s.awake d = true) (a : Agent) (k : RegKey) (v : Word)
    (f : State → State) : s.regAccess d a k v f = f s := if_pos awake

/-! ### The doorbell (R111) -/

section doorbell
variable {s : State} {core stream v : Nat}

/-- The tail posted lies between the current tail and the ring's size beyond retire. -/
abbrev State.posts (s : State) (core stream tail : Nat) : Prop :=
  subMod 32 (s.strTail core stream) (s.strRetire core stream) ≤ subMod 32 tail (s.strRetire core stream)
    ∧ subMod 32 tail (s.strRetire core stream) ≤ s.ringSize core stream

theorem doorbell_noStream (h : bits v 33 32 = 3) : doorbell core v s = s := if_pos h

theorem doorbell_posts (named : bits v 33 32 = stream) (known : stream < 3) (valid : s.posts core stream (bits v 31 0)) :
    doorbell core v s = (s.fset rf_corStreamTail_tail core stream (bits v 31 0)).wakeStream core stream := by
  subst named
  exact (if_neg (by omega)).trans (if_pos valid)

theorem doorbell_refused (named : bits v 33 32 = stream) (known : stream < 3)
    (invalid : ¬ s.posts core stream (bits v 31 0)) :
    doorbell core v s = s.fset rf_corStreamCtl_doorbellError core stream 1 := by
  subst named
  exact (if_neg (by omega)).trans (if_neg invalid)

/-- A valid doorbell posts its tail, which wakes the stream. -/
theorem posted_effect (s : State) (core stream : Nat) {tail : Nat} (width : tail < 2 ^ 32) :
    let u := (s.fset rf_corStreamTail_tail core stream tail).wakeStream core stream
    u.strTail core stream = tail
      ∧ u.fbit rf_corStreamCtl_doorbellError core stream = s.fbit rf_corStreamCtl_doorbellError core stream
      ∧ u.strState core stream = (if s.strState core stream = ssIdle ∧ tail ≠ s.strIssue core stream then ssRunning
          else s.strState core stream)
      ∧ OnlyElems [⟨.corStreamTail, core, stream⟩, ⟨.corStreamCtl, core, stream⟩] s u := by
  have tailKept : (s.fset rf_corStreamTail_tail core stream tail).strTail core stream = tail :=
    (s.fget_fset_same rf_corStreamTail_tail core stream tail (by decide) (by decide)).trans (Nat.mod_eq_of_lt width)
  have issueKept : (s.fset rf_corStreamTail_tail core stream tail).strIssue core stream = s.strIssue core stream :=
    s.fget_fset_other _ _ _ _ _ _ _ (by decide)
  have posted : OnlyElems [⟨.corStreamTail, core, stream⟩, ⟨.corStreamCtl, core, stream⟩] s
      (s.fset rf_corStreamTail_tail core stream tail) := OnlyElems.refl.fset (.head _)
  refine ⟨(State.fget_wakeStream _ _ _ (by decide)).trans tailKept, ?_, ?_, ?_⟩
  · unfold State.fbit
    rw [State.fget_wakeStream _ _ _ (by decide), s.fget_fset_other _ _ _ _ _ _ _ (by decide)]
  · rw [State.strState_wakeStream, tailKept, issueKept, s.strState_fset core stream (by decide) (by decide) (by decide)]
  · exact State.wakeStream_keeps _ _ _ posted (posted.fset (.tail _ (.head _)))

/-- A doorbell out of range leaves the tail and the state, and sets doorbell_error. -/
theorem refused_effect (s : State) (core stream : Nat) :
    let u := s.fset rf_corStreamCtl_doorbellError core stream 1
    u.strTail core stream = s.strTail core stream
      ∧ u.fbit rf_corStreamCtl_doorbellError core stream = true
      ∧ u.strState core stream = s.strState core stream
      ∧ OnlyElems [⟨.corStreamTail, core, stream⟩, ⟨.corStreamCtl, core, stream⟩] s u := by
  refine ⟨s.fget_fset_other _ _ _ _ _ _ _ (by decide), ?_, s.strState_fset core stream (by decide) (by decide) (by decide) 1,
    OnlyElems.refl.fset (.tail _ (.head _))⟩
  unfold State.fbit
  rw [s.fget_fset_same _ _ _ _ (by decide) (by decide)]
  rfl

end doorbell

/-! ### Enable, base, restart and tokens (R122, R130) -/

section writes
variable {s : State} {core : Fin 64} {stream : Fin 3}

/-- A disabled stream of a core that no self-test has found dead is enabled: idle, until descriptors are posted (R522). -/
theorem streamEnable_eq (disabled : s.strState core stream = ssDisabled) (alive : ∀ f ∈ s.age.dead, f ≠ .core core) :
    streamEnable core stream s
      = ((s.fset rf_corStreamCtl_enable core stream 1).setStr core stream ssIdle).wakeStream core stream := by
  have state : (s.fset rf_corStreamCtl_enable core stream 1).strState core stream = ssDisabled :=
    (s.strState_fset core stream (by decide) (by decide) (by decide) 1).trans disabled
  unfold streamEnable
  refine (if_neg fun dead => ?_).trans (if_pos state)
  obtain ⟨f, mem, isCore⟩ := List.any_eq_true.mp dead
  cases f with
  | core k => exact alive _ mem (congrArg Func.core (Fin.ext (of_decide_eq_true isCore)))
  | stream | solver | port | partition => exact Bool.noConfusion isCore

/-- The stream is idle where its ring is empty, and else runs. -/
theorem streamEnable_effect (disabled : s.strState core stream = ssDisabled) (alive : ∀ f ∈ s.age.dead, f ≠ .core core) :
    let u := streamEnable core stream s
    u.strState core stream = (if s.strTail core stream = s.strIssue core stream then ssIdle else ssRunning)
      ∧ u.fget rf_corStreamCtl_enable core stream = 1
      ∧ OnlyElems [⟨.corStreamCtl, core, stream⟩] s u := by
  have kept {g : RF} (notCtl : g.reg ≠ .corStreamCtl) :
      ((s.fset rf_corStreamCtl_enable core stream 1).setStr core stream ssIdle).fget g core stream = s.fget g core stream :=
    (State.fget_fset_other _ _ _ _ _ _ _ _ notCtl).trans (s.fget_fset_other _ _ _ _ _ _ _ notCtl)
  have tail : ((s.fset rf_corStreamCtl_enable core stream 1).setStr core stream ssIdle).strTail core stream
      = s.strTail core stream := kept (by decide)
  have issue : ((s.fset rf_corStreamCtl_enable core stream 1).setStr core stream ssIdle).strIssue core stream
      = s.strIssue core stream := kept (by decide)
  have idle : OnlyElems [⟨.corStreamCtl, core, stream⟩] s
      ((s.fset rf_corStreamCtl_enable core stream 1).setStr core stream ssIdle) :=
    OnlyElems.fset (OnlyElems.refl.fset (.head _)) (.head _)
  rw [streamEnable_eq disabled alive]
  refine ⟨?_, ?_, State.wakeStream_keeps _ _ _ idle (idle.fset (.head _))⟩
  · rw [State.strState_wakeStream, State.strState_setStr, tail, issue]
    by_cases same : s.strTail core stream = s.strIssue core stream <;> simp [same, ssIdle]
  · rw [State.fget_wakeStream _ _ _ (by decide), State.fget_setStr _ _ _ (by decide),
      s.fget_fset_same _ _ _ _ (by decide) (by decide)]
    rfl

/-- The state with the ring's size as a base write leaves it: reserved encodings change nothing (R4). -/
def State.resized (s : State) (core stream lg : Nat) : State :=
  if 4 ≤ lg ∧ lg ≤ 16 then s.fset rf_corStreamBase_log2Size core stream lg else s

theorem State.strState_resized (s : State) (core stream lg : Nat) :
    (s.resized core stream lg).strState core stream = s.strState core stream := by
  unfold State.resized
  split
  · exact s.strState_fset core stream (by decide) (by decide) (by decide) lg
  · rfl

theorem State.log2Size_resized (s : State) (core stream lg : Nat) :
    (s.resized core stream lg).fget rf_corStreamBase_log2Size core stream
      = if 4 ≤ lg ∧ lg ≤ 16 then lg else s.fget rf_corStreamBase_log2Size core stream := by
  unfold State.resized
  split
  · next allowed =>
    have fits : lg < 2 ^ 5 := by omega
    exact (s.fget_fset_same _ _ _ _ (by decide) (by decide)).trans (Nat.mod_eq_of_lt fits)
  · rfl

/-- The base of a disabled stream's ring is written, and its counters and fetch window start anew. -/
theorem streamBase_disabled (disabled : s.strState core stream = ssDisabled) (v : Nat) : streamBase core stream v s
    = (((((s.resized core stream (bits v 4 0)).fset rf_corStreamBase_ringBase core stream (bits v 47 12)).setWindow core stream
        []).setReg .corStreamHead core stream 0).setReg .corStreamTail core stream 0) :=
  if_pos ((s.strState_resized core stream _).trans disabled)

/-- The counters read zero, the ring's fields what was written. -/
theorem streamBase_effect (disabled : s.strState core stream = ssDisabled) (v : Nat) :
    let u := streamBase core stream v s
    u.strIssue core stream = 0 ∧ u.strRetire core stream = 0 ∧ u.strTail core stream = 0
      ∧ u.fget rf_corStreamBase_ringBase core stream = bits v 47 12
      ∧ u.fget rf_corStreamBase_log2Size core stream
          = (if 4 ≤ bits v 4 0 ∧ bits v 4 0 ≤ 16 then bits v 4 0 else s.fget rf_corStreamBase_log2Size core stream)
      ∧ OnlyElems [⟨.corStreamBase, core, stream⟩, ⟨.corStreamHead, core, stream⟩, ⟨.corStreamTail, core, stream⟩]
          (s.setWindow core stream []) u := by
  intro u
  have eq : u = _ := streamBase_disabled disabled v
  have head : u.reg .corStreamHead core stream = 0 := by
    rw [eq, State.reg_setReg_other _ _ _ _ _ _ _ _ (by decide), State.reg_setReg_same]
  have tail : u.reg .corStreamTail core stream = 0 := by rw [eq, State.reg_setReg_same]
  have base (g : RF) (h : g.reg = .corStreamBase) : u.fget g core stream
      = ((s.resized core stream (bits v 4 0)).fset rf_corStreamBase_ringBase core stream (bits v 47 12)).fget g core stream := by
    rw [eq, State.fget_setReg_other _ _ _ _ _ _ _ _ (by rw [h]; decide),
      State.fget_setReg_other _ _ _ _ _ _ _ _ (by rw [h]; decide), State.fget_setWindow]
  have sized : OnlyElems [⟨.corStreamBase, core, stream⟩, ⟨.corStreamHead, core, stream⟩, ⟨.corStreamTail, core, stream⟩] s
      (s.resized core stream (bits v 4 0)) := by
    unfold State.resized
    split
    · exact OnlyElems.refl.fset (.head _)
    · exact .refl
  refine ⟨?_, ?_, ?_, ?_, ?_, ?_⟩
  · exact congrArg (fun w : Word => bits w.toNat 31 0) head
  · exact congrArg (fun w : Word => bits w.toNat 63 32) head
  · exact congrArg (fun w : Word => bits w.toNat 31 0) tail
  · rw [base _ rfl]
    exact (State.fget_fset_same _ _ _ _ _ (by decide) (by decide)).trans (Nat.mod_eq_of_lt (bits_lt v 47 12))
  · refine (base _ rfl).trans (Eq.trans ?_ (s.log2Size_resized core stream (bits v 4 0)))
    exact State.fget_fset_apart _ rf_corStreamBase_ringBase _ _ _ _ rfl (by decide) (by decide) (by decide)
  · rw [eq]
    exact (((sized.fset (.head _)).setWindow core stream []).setReg (.tail _ (.head _))).setReg (.tail _ (.tail _ (.head _)))

/-- Issue goes on where it stopped, or the stream is idle where nothing is left (R130). -/
theorem streamRestart_effect (stopped : s.strState core stream = ssStopped ∨ s.strState core stream = ssHalted) :
    let u := streamRestart core stream s
    u.strState core stream
        = (if s.strIssue core stream = s.strTail core stream ∧ s.inFlight core stream = [] then ssIdle else ssRunning)
      ∧ u.strIssue core stream = s.strIssue core stream
      ∧ OnlyElems [⟨.corStreamCtl, core, stream⟩, ⟨.corStreamHead, core, stream⟩] s u := by
  have eq : streamRestart core stream s = (s.setStr core stream ssRunning).afterComplete core stream := if_pos stopped
  have tail : (s.setStr core stream ssRunning).strTail core stream = s.strTail core stream := s.fget_setStr _ _ (by decide) _
  have issue : (s.setStr core stream ssRunning).strIssue core stream = s.strIssue core stream := s.fget_setStr _ _ (by decide) _
  have flights : (s.setStr core stream ssRunning).inFlight core stream = s.inFlight core stream :=
    s.inFlight_congr core stream (State.flights_fset ..)
  rw [eq]
  refine ⟨?_, (State.fget_afterComplete _ _ _ (by decide) (by decide)).trans issue, ?_⟩
  · rw [State.strState_afterComplete, State.strState_setStr, tail, issue, flights]
    simp [ssRunning, ssDraining]
  · exact State.afterComplete_keeps _ _ _ (P := OnlyElems _ s) (OnlyElems.refl.fset (.head _))
      (fun _ _ h => h.fset (.tail _ (.head _))) (fun _ _ h => h.fset (.head _))

theorem tokenWrite_effect (s : State) (core : Fin 64) (i : Fin 256) (v : Nat) :
    let u := tokenWrite core false i v s
    u.fget rf_corToken_value core i = bits v 31 0 ∧ OnlyElems [⟨.corToken, core, i⟩] s u :=
  ⟨(s.fget_fset_same rf_corToken_value core i _ (by decide) (by decide)).trans (Nat.mod_eq_of_lt (bits_lt v 31 0)),
    OnlyElems.refl.fset (.head _)⟩

end writes

/-- Settles O21: with the core awake each command is its register write, which settles. -/
theorem streamRegisterWrites : Obligations.StreamRegisterWrites := by
  intro core stream s awake
  refine ⟨fun v named => ?_, fun v noStream => ?_, fun disabled alive => ?_, fun disabled v => ?_, fun stopped => ?_, fun i v => ?_⟩
  · have run : exec (.doorbell core v) s = done (doorbell core v.toNat s) :=
      congrArg done (State.regAccess_awake awake ..)
    by_cases valid : s.posts core stream (bits v.toNat 31 0)
    · rw [doorbell_posts named stream.isLt valid] at run
      obtain ⟨tail, error, state, frame⟩ := posted_effect s core stream (bits_lt v.toNat 31 0)
      simp only [valid, true_and, if_true]
      exact ⟨_, run, (State.strTail_settle ..).trans tail, (State.fbit_settle _ _ _ _ (by decide)).trans error,
        (State.strState_settle ..).trans state, frame.settle⟩
    · rw [doorbell_refused named stream.isLt valid] at run
      obtain ⟨tail, error, state, frame⟩ := refused_effect s core stream
      simp only [valid, false_and, if_false]
      exact ⟨_, run, (State.strTail_settle ..).trans tail, (State.fbit_settle _ _ _ _ (by decide)).trans error,
        (State.strState_settle ..).trans state, frame.settle⟩
  · exact congrArg done ((State.regAccess_awake awake ..).trans (doorbell_noStream noStream))
  · obtain ⟨state, enabled, frame⟩ := streamEnable_effect disabled alive
    exact ⟨_, congrArg done (State.regAccess_awake awake ..), (State.strState_settle ..).trans state,
      (State.fget_settle _ _ _ _ (by decide)).trans enabled, frame.settle⟩
  · obtain ⟨issue, retire, tail, base, size, frame⟩ := streamBase_effect disabled v.toNat
    exact ⟨_, congrArg done (State.regAccess_awake awake ..), (State.strIssue_settle ..).trans issue,
      (State.strRetire_settle ..).trans retire, (State.strTail_settle ..).trans tail,
      (State.fget_settle _ _ _ _ (by decide)).trans base, (State.fget_settle _ _ _ _ (by decide)).trans size, frame.settle⟩
  · obtain ⟨state, issue, frame⟩ := streamRestart_effect stopped
    exact ⟨_, congrArg done (State.regAccess_awake awake ..), (State.strState_settle ..).trans state,
      (State.strIssue_settle ..).trans issue, frame.settle⟩
  · obtain ⟨value, frame⟩ := tokenWrite_effect s core i v.toNat
    exact ⟨_, congrArg done (State.regAccess_awake awake ..), (State.fget_settle _ _ _ _ (by decide)).trans value, frame.settle⟩

end Sys2Proof.Machine
end

section
/-! PROOFS. A disabled stream's drain, the end of a deferral, and fetching ahead (R111, R113, R130, R131). -/
namespace Sys2Proof.Machine

section drain
variable {s : State} {core : Fin 64} {stream : Fin 3} {p : Nat}

/-! ### Disable -/

/-- The states that a disable takes a stream out of (R130). -/
abbrev State.Open (s : State) (core stream : Nat) : Prop :=
  s.strState core stream = ssIdle ∨ s.strState core stream = ssRunning ∨ s.strState core stream = ssHalted
    ∨ s.strState core stream = ssStopped

/-- A disable of an awake core's stream acts at once: no test runs on an awake core (R492, R521). -/
theorem execStreamDisable_awake (awake : s.awake (domCore core) = true) :
    execStreamDisable core stream s = done (streamDisable core stream s) := by
  have noTest : ¬ s.testHeld (domCore core) = true := by
    simp only [State.awake, Bool.and_eq_true, Bool.not_eq_true'] at awake
    simp [awake.2]
  exact congrArg done ((if_neg noTest).trans (if_pos awake))

/-- Writing COR_STREAM_CTL moves no core to another partition. -/
theorem State.partOf_fset_ctl (s : State) (f : RF) (ctl : f.reg = .corStreamCtl) (i j x c : Nat) :
    (s.fset f i j x).partOf c = s.partOf c := by
  unfold State.partOf State.partOfCluster
  simp only [s.fget_fset_other f rf_prtFenceClusters_clusters _ _ _ _ _ (by rw [ctl]; decide)]

/-- The state in which a disabled stream's drain begins. -/
def State.drainBegun (s : State) (core : Fin 64) (stream : Fin 3) : State :=
  ((s.fset rf_corStreamCtl_enable core stream 0).setStr core stream ssDraining).startDrain (.stream core stream)

theorem State.flights_drainBegun (s : State) (core : Fin 64) (stream : Fin 3) :
    (s.drainBegun core stream).flights = s.flights := by
  unfold State.drainBegun State.startDrain State.setStr
  simp only [State.flights_withDrains, State.flights_fset]

theorem State.strState_drainBegun (s : State) (core : Fin 64) (stream : Fin 3) :
    (s.drainBegun core stream).strState core stream = ssDraining := by
  unfold State.drainBegun State.startDrain
  exact (State.fget_withDrains ..).trans (State.strState_setStr ..)

theorem State.enable_drainBegun (s : State) (core : Fin 64) (stream : Fin 3) :
    (s.drainBegun core stream).fget rf_corStreamCtl_enable core stream = 0 := by
  unfold State.drainBegun State.startDrain
  rw [State.fget_withDrains, State.fget_setStr _ _ _ (by decide), s.fget_fset_same _ _ _ _ (by decide) (by decide)]
  rfl

theorem State.drains_drainBegun (s : State) (core : Fin 64) (stream : Fin 3) : (s.drainBegun core stream).drains
    = s.drains.filter (·.1 ≠ .stream core stream) ++ [(.stream core stream, s.tick)] := by
  unfold State.drainBegun State.startDrain State.setStr
  simp only [State.drains_withDrains, State.drains_fset, State.tick_fset]

theorem State.drainBegun_onlyElems (s : State) (core : Fin 64) (stream : Fin 3) :
    OnlyElems [⟨.corStreamCtl, core, stream⟩, ⟨.corStreamHead, core, stream⟩]
      (s.withDrains (s.drainBegun core stream).drains) (s.drainBegun core stream) := by
  have written : OnlyElems [⟨.corStreamCtl, core, stream⟩, ⟨.corStreamHead, core, stream⟩] s
      ((s.fset rf_corStreamCtl_enable core stream 0).setStr core stream ssDraining) :=
    OnlyElems.fset (OnlyElems.refl.fset (.head _)) (.head _)
  unfold State.drainBegun State.startDrain
  rw [State.drains_withDrains]
  exact written.withDrains _

/-- In a partition that admits work the disable does not wait (R133). -/
theorem streamDisable_eq (part : s.partOf core = some p) (admits : s.admits p = true) (isOpen : s.Open core stream) :
    streamDisable core stream s = (s.drainBegun core stream).afterComplete core stream := by
  have part' : (s.fset rf_corStreamCtl_enable core stream 0).partOf core = some p :=
    (s.partOf_fset_ctl _ rfl ..).trans part
  have admits' : (s.fset rf_corStreamCtl_enable core stream 0).admits p = true := by
    unfold State.admits at admits ⊢
    rwa [s.fget_fset_other _ _ _ _ _ _ _ (by decide)]
  have state : (s.fset rf_corStreamCtl_enable core stream 0).strState core stream = s.strState core stream :=
    s.strState_fset core stream (by decide) (by decide) (by decide) 0
  unfold streamDisable
  simp only [part', admits', if_true]
  exact if_pos (by rw [state]; exact isOpen)

theorem State.drains_afterComplete (s : State) (core stream : Nat) : (s.afterComplete core stream).drains = s.drains :=
  s.afterComplete_keeps core stream (P := fun u => u.drains = s.drains) rfl
    (fun _ _ same => (State.drains_fset ..).trans same) (fun _ _ same => (State.drains_fset ..).trans same)

/-- The drain of a stream with nothing in flight ends as it begins (R130, R131). -/
theorem streamDisable_effect (part : s.partOf core = some p) (admits : s.admits p = true) (isOpen : s.Open core stream) :
    let u := streamDisable core stream s
    u.strState core stream = (if s.inFlight core stream = [] then ssDisabled else ssDraining)
      ∧ u.fget rf_corStreamCtl_enable core stream = 0
      ∧ (Func.stream core stream, s.tick) ∈ u.drains
      ∧ OnlyElems [⟨.corStreamCtl, core, stream⟩, ⟨.corStreamHead, core, stream⟩] (s.withDrains u.drains) u := by
  have flights : (s.drainBegun core stream).inFlight core stream = s.inFlight core stream :=
    s.inFlight_congr core stream (s.flights_drainBegun core stream)
  rw [streamDisable_eq part admits isOpen]
  refine ⟨?_, ?_, ?_, ?_⟩
  · rw [State.strState_afterComplete, s.strState_drainBegun, flights]
    simp [ssRunning, ssDraining]
  · rw [State.fget_afterComplete _ _ _ (by decide) (by decide), s.enable_drainBegun]
  · rw [State.drains_afterComplete, State.drains_drainBegun]
    exact List.mem_append_right _ (.head _)
  · rw [State.drains_afterComplete]
    refine State.afterComplete_keeps _ _ _ (P := OnlyElems _ _) ?_ (fun _ _ h => h.fset (.tail _ (.head _)))
      (fun _ _ h => h.fset (.head _))
    exact s.drainBegun_onlyElems core stream

/-! ### The drain timeout -/

/-- A drain that has lasted for its limit, in partitions that admit work, is cut (R131, R133). -/
theorem execDrainTimeout_cuts {f : Func} {t : Nat} (timed : s.drains.find? (fun d => d.1 = f) = some (f, t))
    (runs : ∀ q < 16, s.ownsFunc q f = true → s.admits q = true) (passed : s.since t (s.drainLimit f) = true) :
    execDrainTimeout f s = done (s.cutFunc f) := by
  have allRun : ((List.range 16).all fun q => !s.ownsFunc q f || s.admits q) = true := by
    refine List.all_eq_true.mpr fun q mem => ?_
    cases owns : s.ownsFunc q f with
    | false => rfl
    | true => exact runs q (List.mem_range.mp mem) owns
  simp only [execDrainTimeout, timed]
  exact congrArg done (if_pos (by rw [allRun, passed]; rfl))

/-! ### Fetching ahead (R111) -/

theorem execDescriptorFetch_admitted (part : s.partOf core = some p) (admits : s.admits p = true)
    (awake : s.awake (domCore core) = true) :
    execDescriptorFetch core stream s = done (s.fetchAhead p core stream 8) := by
  simp only [execDescriptorFetch, part]
  exact congrArg done (if_pos ⟨admits, awake⟩)

/-- Nothing is fetched beyond the tail. -/
theorem State.fetchAhead_atTail {core stream : Nat} (h : s.fetchNext core stream = s.strTail core stream) (p k : Nat) :
    s.fetchAhead p core stream k = s := by
  cases k with
  | zero => rfl
  | succ k => exact if_neg fun fetches => fetches.2.1 h

end drain

/-- Settles O22: each command with the core awake and its partition admitting work. -/
theorem streamDrainAndFetch : Obligations.StreamDrainAndFetch := by
  intro core stream s p awake part admits
  refine ⟨fun isOpen => ?_, fun t timed passed runs => ?_, fun n => ?_, ?_, fun atTail => State.fetchAhead_atTail atTail p 8⟩
  · obtain ⟨state, disabled, timed, frame⟩ := streamDisable_effect part admits isOpen
    exact ⟨_, execStreamDisable_awake awake, (State.strState_settle ..).trans state,
      (State.fget_settle _ _ _ _ (by decide)).trans disabled, by rw [State.drains_settle]; exact timed,
      by rw [State.drains_settle]; exact frame.settle⟩
  · exact execDrainTimeout_cuts timed runs passed
  · refine ⟨_, rfl, ?_⟩
    rw [State.window_settle]
    exact smGet_smSet_same ..
  · exact execDescriptorFetch_admitted part admits awake

end Sys2Proof.Machine
end

section
/-! PROOFS. Completion of SYN and CTL descriptors (R121, R125, R130): no engine has anything to say, so that what is left of a
completion is its signals, its flight's end and its stream's state. -/
namespace Sys2Proof.Machine

/-! ### Signals -/

/-- A field counts a token: what is added under an identifier reaches it where the identifier names the token. -/
def CountsToken (core : Nat) (k : Tok) (f : RF) (i j : Nat) : Prop :=
  ∀ s : State, ∀ x n, (s.tokAdd core x n).fget f i j = (s.fget f i j + if tokOf core x = some k then n else 0) % 2 ^ 32

/-- What a SYN or CTL descriptor and its header add to tokens and markers. -/
def State.signals (s : State) (p core : Nat) (d : List Byte) : State :=
  (s.tokAdd core (hSignalToken d) 1).synAdds p core d

/-- The identifier 0xFFFF names no counter (R119). -/
theorem State.tokAdd_none (s : State) (core n : Nat) : s.tokAdd core 0xFFFF n = s := rfl

theorem State.ite_tokAdd (s : State) (core x n : Nat) :
    (if x = 0xFFFF then s else s.tokAdd core x n) = s.tokAdd core x n := by
  split
  · next unused => rw [unused, State.tokAdd_none]
  · rfl

/-- A cluster token that an identifier names is one of the core's own cluster. -/
theorem tokOf_cluster {core x k t : Nat} (h : tokOf core x = some (.cluster k t)) : k = core := by
  unfold tokOf at h
  split at h
  · cases h
  · split at h
    · cases h
    · split at h
      · cases h; rfl
      · split at h <;> cases h

theorem countsToken_core (core k i : Nat) : CountsToken core (.core k i) rf_corToken_value k i := by
  intro s x n
  have fits := Nat.mod_eq_of_lt (s.fget_lt rf_corToken_value k i)
  unfold State.tokAdd
  split
  · next k' t named =>
    rw [named]
    by_cases same : k' = k ∧ t = i
    · obtain ⟨rfl, rfl⟩ := same
      rw [if_pos rfl]
      exact State.fget_fset_same _ _ _ _ _ (by decide) (by decide)
    · rw [if_neg fun e => same (by simpa using e), Nat.add_zero]
      refine (State.fget_fset_elem _ _ _ _ _ _ _ _ rfl fun e => same ?_).trans fits.symm
      simpa [regKey, rf_corToken_value, eq_comm] using e
  · next k' t named =>
    rw [named, if_neg nofun, Nat.add_zero]
    exact (State.fget_fset_other _ _ _ _ _ _ _ _ (by decide)).trans fits.symm
  · next notCore _ =>
    rw [if_neg (notCore k i), Nat.add_zero]
    exact fits.symm

theorem countsToken_cluster (core i : Nat) : CountsToken core (.cluster core i) rf_corClusterToken_value core i := by
  intro s x n
  have fits := Nat.mod_eq_of_lt (s.fget_lt rf_corClusterToken_value core i)
  unfold State.tokAdd
  split
  · next k' t named =>
    rw [named, if_neg nofun, Nat.add_zero]
    exact (State.fget_fset_other _ _ _ _ _ _ _ _ (by decide)).trans fits.symm
  · next k' t named =>
    obtain rfl := tokOf_cluster named
    rw [named]
    by_cases same : t = i
    · subst same
      rw [if_pos rfl]
      exact State.fget_fset_same _ _ _ _ _ (by decide) (by decide)
    · rw [if_neg fun e => same (by simpa using e), Nat.add_zero]
      refine (State.fget_fset_elem _ _ _ _ _ _ _ _ rfl fun e => same ?_).trans fits.symm
      simpa [regKey, rf_corClusterToken_value, eq_comm] using e
  · next _ notCluster =>
    rw [if_neg (notCluster core i), Nat.add_zero]
    exact fits.symm

section counted
variable {core : Nat} {k : Tok} {f : RF} {i j : Nat}

theorem CountsToken.mod_eq (h : CountsToken core k f i j) (s : State) : s.fget f i j % 2 ^ 32 = s.fget f i j := by
  have nothingAdded := h s 0xFFFF 0
  rwa [State.tokAdd_none, ite_self, Nat.add_zero, eq_comm] at nothingAdded

/-- Several additions, one after another, add their sum. -/
theorem CountsToken.fget_foldl (h : CountsToken core k f i j) {α : Type} (x n : α → Nat) (as : List α) (s : State) :
    (as.foldl (fun s a => s.tokAdd core (x a) (n a)) s).fget f i j
      = (s.fget f i j + (as.map fun a => if tokOf core (x a) = some k then n a else 0).sum) % 2 ^ 32 := by
  induction as generalizing s with
  | nil => exact (h.mod_eq s).symm
  | cons a as ih => rw [List.foldl_cons, ih, h, Nat.mod_add_mod, List.map_cons, List.sum_cons, Nat.add_assoc]

/-- A descriptor's signal and additions reach each counter by what the spec sums up for it (R121, R125). -/
theorem CountsToken.fget_signals (h : CountsToken core k f i j) (notMarker : f.reg ≠ .prtStepMarker) (s : State) (p : Nat)
    (d : List Byte) : (s.signals p core d).fget f i j = (s.fget f i j + tokenAdds core d k) % 2 ^ 32 := by
  unfold State.signals State.synAdds tokenAdds
  simp only [State.ite_tokAdd]
  by_cases signal : hOpcode d = 0xA1
  · rw [if_pos signal, if_pos signal, h.fget_foldl, h, Nat.mod_add_mod, Nat.add_assoc]
  · rw [if_neg signal, if_neg signal, Nat.add_zero, ← h]
    split
    · exact State.fget_fset_other _ _ _ _ _ _ _ _ notMarker
    · rfl

end counted

/-! ### Completion without an engine -/

/-- The opcodes of SYN and CTL descriptors. -/
abbrev syncOps : List Nat := [0xA0, 0xA1, 0xA2, 0xA3, 0xF0, 0xF1]

/-- No engine, event class or DMA engine stands behind a SYN or CTL opcode (R116, R562). -/
theorem syncOps_noEngine : ∀ op ∈ syncOps, engineOf op = .none ∧ eventClass op = 0 ∧ ¬ (0x63 ≤ op ∧ op ≤ 0x66)
    ∧ ¬ (0x80 ≤ op ∧ op ≤ 0x85) ∧ ¬ (0x01 ≤ op ∧ op ≤ 0x04) ∧ op ≠ 0x91 ∧ op ≠ 0x93 ∧ op ≠ 0x41 ∧ op ≠ 0x42 := by decide

section completion
variable {s : State} {fl : Flight}

theorem State.slvDone_sync (sync : hOpcode fl.bytes ∈ syncOps) (st : Nat) : s.slvDone fl st = (s, fl) := by
  obtain ⟨-, -, -, notSlv, -⟩ := syncOps_noEngine _ sync
  exact if_neg fun slv => notSlv (by simpa [isSlv] using slv.1)

theorem State.gatherDone_sync (sync : hOpcode fl.bytes ∈ syncOps) : s.gatherDone fl = s := by
  obtain ⟨-, -, notCol, -⟩ := syncOps_noEngine _ sync
  exact if_neg fun gather => notCol (by omega)

theorem State.updDone_sync (sync : hOpcode fl.bytes ∈ syncOps) : s.updDone fl = s := by
  obtain ⟨-, -, -, -, -, notSweep, notRollback, -⟩ := syncOps_noEngine _ sync
  exact if_neg fun upd => upd.1.elim notSweep notRollback

theorem State.orFlags_sync (sync : hOpcode fl.bytes ∈ syncOps) (core flags : Nat) :
    s.orFlags core (hOpcode fl.bytes) flags = s := by
  obtain ⟨engine, -⟩ := syncOps_noEngine _ sync
  simp only [State.orFlags, engine]

theorem State.completionEvent_sync (sync : hOpcode fl.bytes ∈ syncOps) (p : Nat) : s.completionEvent p fl = (s, fl) := by
  obtain ⟨-, noClass, -⟩ := syncOps_noEngine _ sync
  exact if_neg fun event => event.2 noClass

theorem State.latDone_sync (sync : hOpcode fl.bytes ∈ syncOps) (st : Nat) : s.latDone fl st = s := by
  obtain ⟨-, -, -, -, notMat, -⟩ := syncOps_noEngine _ sync
  exact if_neg fun mat => notMat (by simpa [isMat] using mat)

theorem State.syncEngines_sync (sync : hOpcode fl.bytes ∈ syncOps) (core : Nat) :
    s.syncEngines core (hOpcode fl.bytes) = s := by
  obtain ⟨engine, -, notCol, -⟩ := syncOps_noEngine _ sync
  simp only [State.syncEngines, engine, if_neg notCol]

/-- The work of a descriptor noted (R518), and no request of it left. -/
def State.noted (s : State) (fl : Flight) : State :=
  ((s.touch (domCore fl.core)).touch (engineDomain fl.core (engineOf (hOpcode fl.bytes)))).dropRequests fl

/-- The descriptor is in flight no more. -/
def State.landed (s : State) (fl : Flight) : State :=
  s.withFlights (s.flights.filter fun f => ¬ (f.core = fl.core ∧ f.stream = fl.stream ∧ f.n = fl.n))

/-- CTL.HALT halts a running stream (R130). -/
def State.halted (s : State) (fl : Flight) : State :=
  if hOpcode fl.bytes = 0xF1 ∧ s.strState fl.core fl.stream = ssRunning then s.setStr fl.core fl.stream ssHalted else s

/-- What ends a descriptor's time in flight: its flight goes, a halt takes effect, and its stream follows. -/
def State.closed (s : State) (fl : Flight) : State := ((s.landed fl).halted fl).afterComplete fl.core fl.stream

/-- A SYN or CTL descriptor that completes DONE, without flags and a record: its signals, and its flight's end. -/
theorem State.complete_sync (sync : hOpcode fl.bytes ∈ syncOps) (status : fl.status = stDone) (flags : fl.flags = 0)
    (record : hRecord fl.bytes = false) :
    s.complete fl = ((s.noted fl).signals (s.partOfFlight fl) fl.core fl.bytes).closed fl := by
  have final : fl.final = stDone := by simp [Flight.final, Flight.allFlags, flags, status]
  have signals : stSignals stDone = true := rfl
  have runsOn : stStops stDone = false := rfl
  unfold State.complete
  simp only [final, State.slvDone_sync sync, State.gatherDone_sync sync, State.updDone_sync sync, State.orFlags_sync sync,
    State.completionEvent_sync sync, State.latDone_sync sync, State.syncEngines_sync sync, flags, record, signals, runsOn,
    State.ite_tokAdd, Nat.zero_and, ne_eq, not_true, if_false, false_and, or_false, if_true, true_and, Bool.false_eq_true]
  rfl

/-- A flight that stands done with no access left to make completes, until its partition is being saved (R348). -/
theorem descriptorComplete_done {core stream n : Nat} (found : s.flight core stream n = some fl)
    (admitted : s.preState (s.partOfFlight fl) ≤ psStopping) (phase : fl.phase = .done) (notDue : fl.due = false) :
    descriptorComplete core stream n s = s.complete fl := by
  simp only [descriptorComplete, found, phase, notDue, if_neg (Nat.not_lt.mpr admitted), Bool.false_eq_true, false_and,
    and_false, if_false, if_true]

theorem Flight.due_sync (sync : hOpcode fl.bytes ∈ syncOps) (scales : fl.scales = []) : fl.due = false := by
  obtain ⟨-, -, -, -, -, -, -, notGather, notScatter⟩ := syncOps_noEngine _ sync
  simp [Flight.due, Flight.countDue, notGather, notScatter, scales]

theorem State.flight_names {core stream n : Nat} (found : s.flight core stream n = some fl) :
    fl.core = core ∧ fl.stream = stream ∧ fl.n = n := of_decide_eq_true (List.find?_some found :)

/-! ### What each step of a completion leaves -/

theorem State.fget_noted (f : RF) (i j : Nat) : (s.noted fl).fget f i j = s.fget f i j :=
  State.fget_congr (by simp only [State.noted, State.dropRequests, State.regs_withRequests, State.regs_touch]) f i j

/-- Only token counters take a signal. -/
theorem State.fget_tokAdd_other {f : RF} (notCore : f.reg ≠ .corToken) (notCluster : f.reg ≠ .corClusterToken)
    (core x n i j : Nat) : (s.tokAdd core x n).fget f i j = s.fget f i j := by
  unfold State.tokAdd
  split
  · exact s.fget_fset_other _ _ _ _ _ _ _ notCore
  · exact s.fget_fset_other _ _ _ _ _ _ _ notCluster
  · rfl

/-- SYN.STEP advances its marker (R123, R125). -/
theorem State.marker_signals {d : List Byte} (step : hOpcode d = 0xA3) (p core : Nat) :
    (s.signals p core d).fget rf_prtStepMarker_value p (fld d 16 1)
      = (s.fget rf_prtStepMarker_value p (fld d 16 1) + fld d 20 4) % 2 ^ 32 := by
  unfold State.signals State.synAdds
  rw [step, if_neg (by decide), if_pos rfl]
  refine (State.fget_fset_same _ _ _ _ _ (by decide) (by decide)).trans ?_
  rw [State.fget_tokAdd_other (by decide) (by decide)]
  rfl

/-- CTL.HALT adds to no token but its header's. -/
theorem State.strState_signals {d : List Byte} (halt : hOpcode d = 0xF1) (p core k stream : Nat) :
    (s.signals p core d).strState k stream = s.strState k stream := by
  unfold State.signals State.synAdds
  rw [halt, if_neg (by decide), if_neg (by decide)]
  exact State.fget_tokAdd_other (by decide) (by decide) ..

theorem State.fget_closed {f : RF} (ctl : f.reg ≠ .corStreamCtl) (head : f.reg ≠ .corStreamHead) (i j : Nat) :
    (s.closed fl).fget f i j = s.fget f i j := by
  have landed : (s.landed fl).fget f i j = s.fget f i j := s.fget_withFlights ..
  refine State.afterComplete_keeps _ _ _ (P := fun u => u.fget f i j = s.fget f i j) ?_
    (fun u _ same => (u.fget_fset_other _ _ _ _ _ _ _ head).trans same)
    (fun u _ same => (u.fget_fset_other _ _ _ _ _ _ _ ctl).trans same)
  unfold State.halted
  split
  · exact (State.fget_fset_other _ _ _ _ _ _ _ _ ctl).trans landed
  · exact landed

theorem State.flights_closed : (s.closed fl).flights
    = s.flights.filter fun f => ¬ (f.core = fl.core ∧ f.stream = fl.stream ∧ f.n = fl.n) := by
  have landed : (s.landed fl).flights = _ := s.flights_withFlights ..
  refine State.afterComplete_keeps _ _ _ (P := fun u => u.flights = _) ?_ (fun _ _ same => (State.flights_fset ..).trans same)
    (fun _ _ same => (State.flights_fset ..).trans same)
  unfold State.halted
  split
  · exact (State.flights_fset ..).trans landed
  · exact landed

theorem State.flight_closed : (s.closed fl).flight fl.core fl.stream fl.n = none := by
  rw [State.flight, State.flights_closed, List.find?_eq_none]
  intro f mem
  have other := of_decide_eq_true (List.mem_filter.mp mem).2
  exact fun same => other (of_decide_eq_true same)

theorem State.strState_closed (halt : hOpcode fl.bytes = 0xF1) (running : s.strState fl.core fl.stream = ssRunning) :
    (s.closed fl).strState fl.core fl.stream = ssHalted := by
  have landed : (s.landed fl).strState fl.core fl.stream = ssRunning := (s.fget_withFlights ..).trans running
  have halted : (s.landed fl).halted fl = (s.landed fl).setStr fl.core fl.stream ssHalted := if_pos ⟨halt, landed⟩
  rw [State.closed, halted, State.strState_afterComplete, State.strState_setStr]
  simp [ssHalted, ssDraining, ssRunning]

end completion

/-! ### The frame -/

/-- The registers that the completion of a SYN or CTL descriptor moves. -/
abbrev syncRegs : List RegName := [.corToken, .corClusterToken, .prtStepMarker, .corStreamHead, .corStreamCtl]

/-- The parts of the state that it moves: the noted work, the requests and the flights. -/
abbrev syncParts (s t : State) : State := { s with age := t.age, requests := t.requests, flights := t.flights }

section frame
variable {s u : State} {fl : Flight}

theorem Keeps.noted (h : Keeps syncRegs syncParts s u) : Keeps syncRegs syncParts s (u.noted fl) :=
  (h.withAge.withAge).part (·.withRequests _) rfl rfl

theorem Keeps.tokAdd (h : Keeps syncRegs syncParts s u) (core x n : Nat) : Keeps syncRegs syncParts s (u.tokAdd core x n) := by
  unfold State.tokAdd
  split
  · exact h.field
  · exact h.field
  · exact h

theorem Keeps.signals (h : Keeps syncRegs syncParts s u) (p core : Nat) (d : List Byte) :
    Keeps syncRegs syncParts s (u.signals p core d) := by
  unfold State.signals State.synAdds
  simp only [State.ite_tokAdd]
  split
  · exact .foldl _ (fun _ _ k => k.tokAdd ..) _ _ (h.tokAdd ..)
  · split
    · exact (h.tokAdd ..).field
    · exact h.tokAdd ..

theorem Keeps.closed (h : Keeps syncRegs syncParts s u) : Keeps syncRegs syncParts s (u.closed fl) := by
  have landed : Keeps syncRegs syncParts s (u.landed fl) := h.part (·.withFlights _) rfl rfl
  exact State.afterComplete_keeps _ _ _ (P := Keeps syncRegs syncParts s) (.ite landed.field landed) (fun _ _ k => k.field)
    (fun _ _ k => k.field)

theorem Keeps.sameMemory (h : Keeps syncRegs syncParts s u) : SameMemory s u.settle := by
  have settled : u.settle.mem = u.mem := by rw [u.settle_rest]
  have kept : u.mem = s.mem := by rw [h.rest]
  exact State.byte_congr (settled.trans kept)

end frame

/-- Settles O19: a completion without an engine is its signals and its flight's end, and each of them leaves what it does not name. -/
theorem synAndCtlComplete : Obligations.SynAndCtlComplete := by
  intro core stream n s fl found phase status flags _ scales record sync admitted
  obtain ⟨coreEq, streamEq, numberEq⟩ := State.flight_names found
  have run : exec (.descriptorComplete core stream n) s
      = done (((s.noted fl).signals (s.partOfFlight fl) fl.core fl.bytes).closed fl) :=
    congrArg done ((descriptorComplete_done found admitted phase (Flight.due_sync sync scales)).trans
      (State.complete_sync sync status flags record))
  have frame : Keeps syncRegs syncParts s (((s.noted fl).signals (s.partOfFlight fl) fl.core fl.bytes).closed fl) :=
    ((Keeps.noted .start).signals ..).closed
  have counted {k : Tok} {f : RF} {i j : Nat} (counts : CountsToken fl.core k f i j) (quiet : f.reg ∉ alertRegs)
      (ctl : f.reg ≠ .corStreamCtl) (head : f.reg ≠ .corStreamHead) (marker : f.reg ≠ .prtStepMarker) :
      ((((s.noted fl).signals (s.partOfFlight fl) fl.core fl.bytes).closed fl).settle).fget f i j
        = (s.fget f i j + tokenAdds fl.core fl.bytes k) % 2 ^ 32 := by
    rw [State.fget_settle _ _ _ _ quiet, State.fget_closed ctl head, counts.fget_signals marker, State.fget_noted]
  rw [← coreEq, ← streamEq, ← numberEq]
  refine ⟨_, run, ?_, fun a => ?_, fun k i => ?_, fun i => ?_, fun step => ?_, fun halt running => ?_, fun r i j other quiet => ?_⟩
  · rw [State.flight, State.flights_settle]
    exact State.flight_closed
  · exact frame.sameMemory a
  · exact counted (countsToken_core fl.core k i) (by decide) (by decide) (by decide) (by decide)
  · exact counted (countsToken_cluster fl.core i) (by decide) (by decide) (by decide) (by decide)
  · rw [State.fget_settle _ _ _ _ (by decide), State.fget_closed (by decide) (by decide), State.marker_signals step,
      State.fget_noted]
  · rw [State.strState_settle]
    exact State.strState_closed halt ((State.strState_signals halt ..).trans ((State.fget_noted ..).trans running))
  · exact (State.settle_reg _ r i j quiet).trans (frame.regs r i j other quiet)

end Sys2Proof.Machine
end

section
/-! PROOFS. Loss-scale steering: what a verdict chooses (R228), and the epoch from which a written exponent is in force (R227). -/
namespace Sys2Proof.Machine

/-! ### What a verdict chooses (R228) -/

section verdicts
variable {clean growth : Nat} (ovf : Bool) (x lo hi : Int)

theorem lossNext_skip_overflowed :
    lossNext 1 true x clean growth lo hi = (if lo ≤ x - 1 then x - 1 else x, 0) := rfl

theorem lossNext_skip_other : lossNext 1 false x clean growth lo hi = (x, clean) := rfl

theorem lossNext_repeat : lossNext 2 ovf x clean growth lo hi = (x, clean) := rfl

theorem lossNext_commit_counts (young : clean + 1 < growth) : lossNext 0 false x clean growth lo hi = (x, clean + 1) :=
  if_neg (Nat.not_le_of_lt young)

theorem lossNext_commit_grows (due : growth ≤ clean + 1) :
    lossNext 0 false x clean growth lo hi = (if x + 1 ≤ hi then x + 1 else x, 0) := if_pos due

/-- Whatever the verdict, the exponent keeps within its limits. -/
theorem lossNext_within (verdict : Nat) {x lo hi : Int} (low : lo ≤ x) (high : x ≤ hi) :
    lo ≤ (lossNext verdict ovf x clean growth lo hi).1 ∧ (lossNext verdict ovf x clean growth lo hi).1 ≤ hi := by
  have lowered : lo ≤ (if lo ≤ x - 1 then x - 1 else x) ∧ (if lo ≤ x - 1 then x - 1 else x) ≤ hi := by omega
  have raised : lo ≤ (if x + 1 ≤ hi then x + 1 else x) ∧ (if x + 1 ≤ hi then x + 1 else x) ≤ hi := by omega
  unfold lossNext
  split
  · exact lowered
  · split
    · split
      · exact raised
      · exact ⟨low, high⟩
    · exact ⟨low, high⟩

end verdicts

/-! ### The exponent in force (R227, R146) -/

/-- A signed number of eight bits reads back from its two's complement. -/
theorem sext_enc8 {x : Int} (low : -128 ≤ x) (high : x < 128) : sext 8 (enc8 x % 2 ^ 8) = x := by
  unfold sext enc8
  split <;> omega

section inForce
variable (s : State) (p e : Nat) (new : Int)

/-- The exponent in force is the first one kept for the epoch, and the register's where none is kept. -/
theorem State.lossExp_eq :
    s.lossExp p e
      = (((s.part p).lossScale.find? (·.1 = e)).map (·.2)).getD (sext 8 (s.fget rf_strLossScale_lsExp p)) := by
  unfold State.lossExp
  cases (s.part p).lossScale.find? (·.1 = e) <;> rfl

/-- The exponents kept for a partition, with that of epoch `e` among them. -/
def State.scalesWith : List (Nat × Int) :=
  if (s.part p).lossScale.any (·.1 = e) then (s.part p).lossScale else (e, s.lossExp p e) :: (s.part p).lossScale

/-- What `scalesWith` keeps for epoch `e` is the exponent in force in it. -/
theorem State.find?_scalesWith : ((s.scalesWith p e).find? (·.1 = e)).map (·.2) = some (s.lossExp p e) := by
  unfold State.scalesWith
  split
  · next kept =>
    obtain ⟨y, found⟩ := Option.isSome_iff_exists.mp (List.find?_isSome.mpr (List.any_eq_true.mp kept))
    rw [State.lossExp_eq, found]
    rfl
  · rw [List.find?_cons_of_pos (by simp)]
    rfl

/-- The state in which `new` is chosen for the epoch after `e`: what `State.setLossScale` answers before it raises an event. -/
def State.lossChosen : State :=
  (s.fset rf_strLossScale_lsExp p 0 (enc8 new)).setPart p { s.part p with lossScale := (e + 1, new) :: s.scalesWith p e }

/-- Writing the exponent chooses it for the next epoch, and raises 0x7003 where it changes (R228). -/
theorem State.setLossScale_eq :
    let old := sext 8 (s.fget rf_strLossScale_lsExp p)
    s.setLossScale p e new = if new = old then s.lossChosen p e new
      else (s.lossChosen p e new).raise 0x7003 p ⟨8, p, 0, 0, enc8 old + 256 * enc8 new⟩ := rfl

variable {new} in
theorem State.lsExp_lossChosen (low : -128 ≤ new) (high : new < 128) :
    sext 8 ((s.lossChosen p e new).fget rf_strLossScale_lsExp p) = new := by
  have written : (s.lossChosen p e new).fget rf_strLossScale_lsExp p = enc8 new % 2 ^ 8 :=
    s.fget_fset_same rf_strLossScale_lsExp p 0 _ (by decide) (by decide)
  rw [written, sext_enc8 low high]

theorem State.lossScale_lossChosen : ((s.lossChosen p e new).part p).lossScale = (e + 1, new) :: s.scalesWith p e := by
  rw [State.lossChosen, State.part_setPart_same]

/-- What is chosen is in force in the next epoch. -/
theorem State.lossExp_lossChosen_next : (s.lossChosen p e new).lossExp p (e + 1) = new := by
  rw [State.lossExp_eq, State.lossScale_lossChosen, List.find?_cons_of_pos (by simp)]
  rfl

/-- The epoch under way keeps its own exponent. -/
theorem State.lossExp_lossChosen_current : (s.lossChosen p e new).lossExp p e = s.lossExp p e := by
  rw [State.lossExp_eq, State.lossScale_lossChosen, List.find?_cons_of_neg (by simp), State.find?_scalesWith]
  rfl

/-- Nothing but STR_LOSS_SCALE[p] and the partition's own part changes. -/
theorem State.onlyElems_lossChosen :
    OnlyElems [⟨.strLossScale, p, 0⟩] (s.withParts (s.lossChosen p e new).parts) (s.lossChosen p e new) :=
  OnlyElems.refl.fset (f := rf_strLossScale_lsExp) (.head _)

end inForce

/-- Settles O10: each verdict by its equation of `lossNext`; a written exponent by the state `State.lossChosen`, whose kept
exponents begin with the next epoch's and still hold the current one's. -/
theorem lossScaleSteering : Obligations.LossScaleSteering := by
  refine ⟨fun verdict ovf x clean growth lo hi => ⟨lossNext_within ovf verdict, ?_, ?_, ?_, ?_, ?_⟩, fun s p e new low high => ?_⟩
  · rintro rfl rfl
    have lowered := lossNext_skip_overflowed (clean := clean) (growth := growth) x lo hi
    exact ⟨congrArg Prod.snd lowered, congrArg Prod.fst lowered⟩
  · rintro rfl rfl
    exact lossNext_skip_other x lo hi
  · rintro rfl
    exact lossNext_repeat ovf x lo hi
  · rintro rfl rfl young
    exact lossNext_commit_counts x lo hi young
  · rintro rfl rfl due
    have grown := lossNext_commit_grows x lo hi due
    exact ⟨congrArg Prod.snd grown, congrArg Prod.fst grown⟩
  · exact ⟨s.lossChosen p e new, s.setLossScale_eq p e new, s.lsExp_lossChosen p e low high, s.lossExp_lossChosen_next p e new,
      s.lossExp_lossChosen_current p e new, s.onlyElems_lossChosen p e new⟩

end Sys2Proof.Machine
end

section
/-! PROOFS. The GF mode of buckets (R256): a product is linear in both factors, and a linear function that commutes with doubling
is multiplication by its value at 1, whence products commute; and what the GF adder makes of a line. -/
namespace Sys2Proof.Machine

/-! ### Doubling -/

/-- Multiplication by x modulo 0x1100B. -/
def gfDouble (a : Nat) : Nat := if 65536 ≤ 2 * a then (2 * a % 65536) ^^^ 0x100B else 2 * a

/-- What the modulus adds to the shifted symbol. -/
def gfCarry (a : Nat) : Nat := if a.testBit 15 then 0x100B else 0

theorem gfDouble_lt {a : Nat} : gfDouble a < 65536 := by
  unfold gfDouble
  split
  · exact Nat.xor_lt_two_pow (n := 16) (Nat.mod_lt _ (by decide)) (by decide)
  · omega

theorem gfDouble_eq {a : Nat} (ha : a < 65536) : gfDouble a = (2 * a % 65536) ^^^ gfCarry a := by
  have top : a.testBit 15 = decide (65536 ≤ 2 * a) := by
    rw [Nat.testBit_eq_decide_div_mod_eq, decide_eq_decide]; omega
  unfold gfDouble gfCarry
  rw [top]
  by_cases h : 65536 ≤ 2 * a
  · simp [h]
  · rw [if_neg h, if_neg (by simpa using h), Nat.xor_zero, Nat.mod_eq_of_lt (by omega)]

theorem gfCarry_xor (a b : Nat) : gfCarry (a ^^^ b) = gfCarry a ^^^ gfCarry b := by
  unfold gfCarry
  rw [Nat.testBit_xor]
  cases a.testBit 15 <;> cases b.testBit 15 <;> rfl

theorem double_xor (a b : Nat) : 2 * (a ^^^ b) = 2 * a ^^^ 2 * b := by
  simpa [Nat.shiftLeft_eq, Nat.mul_comm] using @Nat.shiftLeft_xor_distrib 1 a b

/-- Sums of sums, by place. -/
theorem xor_swap (a b c d : Nat) : (a ^^^ b) ^^^ (c ^^^ d) = (a ^^^ c) ^^^ (b ^^^ d) := by ac_rfl

theorem gfDouble_xor {a b : Nat} (ha : a < 65536) (hb : b < 65536) : gfDouble (a ^^^ b) = gfDouble a ^^^ gfDouble b := by
  have hab : a ^^^ b < 2 ^ 16 := Nat.xor_lt_two_pow ha hb
  have shifted : 2 * (a ^^^ b) % 65536 = 2 * a % 65536 ^^^ 2 * b % 65536 := by
    rw [double_xor]; exact Nat.xor_mod_two_pow (n := 16)
  rw [gfDouble_eq ha, gfDouble_eq hb, gfDouble_eq hab, gfCarry_xor, shifted]
  exact xor_swap ..

/-! ### The product -/

/-- The summand of a product that bit 0 of the second factor gives. -/
def gfTerm (a b : Nat) : Nat := if b % 2 = 1 then a else 0

theorem gfTerm_lt {a : Nat} (ha : a < 65536) (b : Nat) : gfTerm a b < 65536 := by unfold gfTerm; split <;> omega

theorem gfTerm_xor (a b c : Nat) : gfTerm a (b ^^^ c) = gfTerm a b ^^^ gfTerm a c := by
  simp only [gfTerm, Nat.xor_mod_two_eq_one]
  by_cases hb : b % 2 = 1 <;> by_cases hc : c % 2 = 1 <;> simp [hb, hc]

theorem gfMul_succ (k a b : Nat) : gfMul (k + 1) a b = gfMul k (gfDouble a) (b / 2) ^^^ gfTerm a b := by
  rw [gfMul, gfTerm]
  by_cases odd : b % 2 = 1
  · rw [if_pos odd, if_pos odd]; rfl
  · rw [if_neg odd, if_neg odd, Nat.xor_zero]; rfl

theorem gfMul_lt (k : Nat) {a : Nat} (ha : a < 65536) (b : Nat) : gfMul k a b < 65536 := by
  induction k generalizing a b with
  | zero => exact Nat.zero_lt_succ _
  | succ k ih =>
    rw [gfMul_succ]
    exact Nat.xor_lt_two_pow (n := 16) (ih gfDouble_lt _) (gfTerm_lt ha b)

/-- The product is additive in its second factor. -/
theorem gfMul_xor (k a b c : Nat) : gfMul k a (b ^^^ c) = gfMul k a b ^^^ gfMul k a c := by
  induction k generalizing a b c with
  | zero => exact (Nat.xor_self 0).symm
  | succ k ih =>
    rw [gfMul_succ, gfMul_succ, gfMul_succ, Nat.xor_div_two, ih, gfTerm_xor]
    exact xor_swap ..

/-- A power of x times a symbol is the symbol shifted, while it stays within 16 bits. -/
theorem gfMul_shift (k j b : Nat) (hk : j + k ≤ 16) (hb : b < 2 ^ k) : gfMul k (1 <<< j) b = b <<< j := by
  induction k generalizing j b with
  | zero => rw [show b = 0 by omega, Nat.zero_shiftLeft]; rfl
  | succ k ih =>
    have shifted : gfMul k (gfDouble (1 <<< j)) (b / 2) = (b / 2) <<< (j + 1) := by
      cases k with
      | zero => rw [show b / 2 = 0 by omega, Nat.zero_shiftLeft]; rfl
      | succ k =>
        have doubled : 1 <<< (j + 1) = 2 * 1 <<< j := by rw [Nat.shiftLeft_eq, Nat.shiftLeft_eq, Nat.pow_succ]; omega
        have small : 1 <<< (j + 1) < 65536 := by
          rw [Nat.one_shiftLeft]; exact Nat.pow_lt_pow_right (n := 16) (by decide) (by omega)
        rw [← ih (j + 1) (b / 2) (by omega) (by omega), gfDouble, if_neg (by omega), doubled]
    have split : (b / 2) <<< (j + 1) = (2 * (b / 2)) <<< j := by
      rw [Nat.shiftLeft_eq, Nat.shiftLeft_eq, Nat.pow_succ', Nat.mul_comm 2 (b / 2), Nat.mul_assoc]
    have term : gfTerm (1 <<< j) b = (b % 2) <<< j := by
      unfold gfTerm
      rcases Nat.mod_two_eq_zero_or_one b with even | odd
      · rw [if_neg (by omega), even, Nat.zero_shiftLeft]
      · rw [if_pos odd, odd]
    have whole : 2 * (b / 2) ^^^ b % 2 = b := by
      have half : (2 * (b / 2) ^^^ b % 2) / 2 = b / 2 := by
        rw [Nat.xor_div_two, show 2 * (b / 2) / 2 = b / 2 by omega, show b % 2 / 2 = 0 by omega, Nat.xor_zero]
      have parity := @Nat.xor_mod_two_eq_one (2 * (b / 2)) (b % 2)
      omega
    rw [gfMul_succ, shifted, split, term, ← Nat.shiftLeft_xor_distrib, whole]

theorem gf_lt {c : Nat} (hc : c < 65536) (d : Nat) : gf c d < 65536 := gfMul_lt 16 hc d

theorem gf_one_left {c : Nat} (hc : c < 65536) : gf 1 c = c := gfMul_shift 16 0 c (by decide) hc

/-- An additive function of symbols that commutes with doubling. -/
structure GfLinear (F : Nat → Nat) : Prop where
  zero : F 0 = 0
  xor : ∀ a < 65536, ∀ b < 65536, F (a ^^^ b) = F a ^^^ F b
  double : ∀ a < 65536, F (gfDouble a) = gfDouble (F a)

/-- Such a function passes into a product's first factor. -/
theorem GfLinear.gfMul {F : Nat → Nat} (hF : GfLinear F) (k : Nat) {a : Nat} (ha : a < 65536) (b : Nat) :
    F (gfMul k a b) = Machine.gfMul k (F a) b := by
  induction k generalizing a b with
  | zero => exact hF.zero
  | succ k ih =>
    have term : F (gfTerm a b) = gfTerm (F a) b := by
      unfold gfTerm
      split
      · rfl
      · exact hF.zero
    rw [gfMul_succ, gfMul_succ, hF.xor _ (gfMul_lt k gfDouble_lt _) _ (gfTerm_lt ha b), ih gfDouble_lt, hF.double a ha, term]

/-- It is multiplication by its value at 1. -/
theorem GfLinear.eq_gf {F : Nat → Nat} (hF : GfLinear F) {c : Nat} (hc : c < 65536) : F c = gf (F 1) c := by
  have product := hF.gfMul 16 (a := 1) (by decide) c
  rwa [show Machine.gfMul 16 1 c = c from gf_one_left hc] at product

theorem gfLinear_double : GfLinear gfDouble := ⟨rfl, fun _ ha _ hb => gfDouble_xor ha hb, fun _ _ => rfl⟩

theorem gf_double_left {c : Nat} (hc : c < 65536) (d : Nat) : gf (gfDouble c) d = gfDouble (gf c d) :=
  (gfLinear_double.gfMul 16 hc d).symm

theorem gfMul_zero_left (k b : Nat) : gfMul k 0 b = 0 := by
  induction k generalizing b with
  | zero => rfl
  | succ k ih => rw [gfMul_succ, show gfDouble 0 = 0 from rfl, ih, gfTerm, ite_self, Nat.xor_self]

/-- The product is additive in its first factor. -/
theorem gfMul_xor_left (k : Nat) {a b : Nat} (ha : a < 65536) (hb : b < 65536) (c : Nat) :
    gfMul k (a ^^^ b) c = gfMul k a c ^^^ gfMul k b c := by
  induction k generalizing a b c with
  | zero => exact (Nat.xor_self 0).symm
  | succ k ih =>
    have term : gfTerm (a ^^^ b) c = gfTerm a c ^^^ gfTerm b c := by unfold gfTerm; split <;> simp
    rw [gfMul_succ, gfMul_succ, gfMul_succ, gfDouble_xor ha hb, ih gfDouble_lt gfDouble_lt, term]
    exact xor_swap ..

/-- Multiplication by a symbol on the right is linear. -/
theorem gfLinear_gf (d : Nat) : GfLinear (gf · d) :=
  ⟨gfMul_zero_left 16 d, fun _ ha _ hb => gfMul_xor_left 16 ha hb d, fun _ ha => gf_double_left ha d⟩

theorem gf_comm {c d : Nat} (hc : c < 65536) (hd : d < 65536) : gf c d = gf d c := by
  have product := (gfLinear_gf d).eq_gf hc
  rwa [gf_one_left hd] at product

theorem gf_double_right {c d : Nat} (hc : c < 65536) (hd : d < 65536) : gf c (gfDouble d) = gfDouble (gf c d) := by
  rw [gf_comm hc gfDouble_lt, gf_double_left hd, gf_comm hd hc]

/-! ### Bytes of a line -/

theorem slice_append_drop (xs ys : List Byte) (off n : Nat) : slice (xs ++ ys) (xs.length + off) n = slice ys off n := by
  unfold slice
  rw [List.drop_append, List.drop_eq_nil_of_le (by omega), Nat.add_sub_cancel_left, List.nil_append]

theorem slice_append_take (xs ys : List Byte) : slice (xs ++ ys) 0 xs.length = xs := by
  unfold slice
  simp

theorem slice_length (bs : List Byte) (off n : Nat) : (slice bs off n).length = n := by
  have short := List.length_take_le n (bs.drop off)
  unfold slice
  rw [List.length_append, List.length_replicate]
  omega

theorem leNat_lt (bs : List Byte) : leNat bs < 256 ^ bs.length := by
  induction bs with
  | nil => decide
  | cons b bs ih =>
    have byte := b.isLt
    rw [leNat, List.length_cons, Nat.pow_succ]
    omega

/-- A field of two bytes is a symbol. -/
theorem fld_two_lt (bs : List Byte) (off : Nat) : fld bs off 2 < 65536 := by
  have bounded := leNat_lt (slice bs off 2)
  rwa [slice_length] at bounded

theorem length_flatMap_leBytes (n : Nat) (xs : List Nat) : (xs.flatMap (leBytes n)).length = xs.length * n := by
  induction xs with
  | nil => exact (Nat.zero_mul n).symm
  | cons x xs ih => rw [List.flatMap_cons, List.length_append, ih, leBytes_length, List.length_cons, Nat.succ_mul, Nat.add_comm]

/-- A symbol of packed symbols. -/
theorem fld_flatMap_leBytes (xs : List Nat) (i : Nat) (hi : i < xs.length) :
    fld (xs.flatMap (leBytes 2)) (2 * i) 2 = xs[i] % 65536 := by
  induction xs generalizing i with
  | nil => exact absurd hi (Nat.not_lt_zero _)
  | cons x xs ih =>
    rw [List.flatMap_cons]
    cases i with
    | zero =>
      have first := slice_append_take (leBytes 2 x) (xs.flatMap (leBytes 2))
      rw [leBytes_length] at first
      exact (congrArg leNat first).trans (leNat_leBytes 2 x)
    | succ i =>
      have rest := slice_append_drop (leBytes 2 x) (xs.flatMap (leBytes 2)) (2 * i) 2
      rw [leBytes_length, show 2 + 2 * i = 2 * (i + 1) by omega] at rest
      exact (congrArg leNat rest).trans (ih i (by simpa using hi))

/-- The GF adder's line: no poison, and each symbol with its product added (R256). -/
theorem addLine_gf {l : LineAdd} (hg : l.gf = true) (hf : l.fmt = 0xD) (old : List Byte) :
    addLine l old = (((List.range 64).map fun i =>
      fld old (2 * i) 2 ^^^ gf l.coef (fld l.data (2 * i) 2)).flatMap (leBytes 2), 0) := by
  unfold addLine
  rw [if_pos hg, hf]
  rfl

theorem symbol_addLine {l : LineAdd} (hg : l.gf = true) (hf : l.fmt = 0xD) (hc : l.coef < 65536) (old : List Byte) {i : Nat}
    (hi : i < 64) : fld (addLine l old).1 (2 * i) 2 = fld old (2 * i) 2 ^^^ gf l.coef (fld l.data (2 * i) 2) := by
  rw [addLine_gf hg hf, fld_flatMap_leBytes _ _ (by simpa using hi), List.getElem_map, List.getElem_range]
  exact Nat.mod_eq_of_lt (Nat.xor_lt_two_pow (n := 16) (fld_two_lt old _) (gf_lt hc _))

/-! ### Formats -/

theorem openLegal_gf {s : State} {p : Nat} {d : List Byte} (legal : openLegal p s d = true) (hg : opnGf d = true) :
    opnFmt d = 0xD := by
  simp only [openLegal, hg, if_true, Bool.and_eq_true, decide_eq_true_eq] at legal
  obtain ⟨⟨⟨⟨⟨_, format⟩, _⟩, _⟩, _⟩, _⟩ := legal
  exact format

theorem contribLegal_gf {s : State} {d : List Byte} (legal : contribLegal s d = true) (hg : conGf d = true) :
    conFmt d = 0xD ∧ (conSrc d).fmt = 0xD := by
  simp only [contribLegal, hg, if_true, Bool.and_eq_true, decide_eq_true_eq] at legal
  obtain ⟨⟨⟨⟨⟨⟨⟨⟨_, source, bucket⟩, _⟩, _⟩, _⟩, _⟩, _⟩, _⟩, _⟩ := legal
  exact ⟨bucket, source⟩

theorem AccReq.wellFormed_gf {r : AccReq} {fmt : Nat} (ok : r.wellFormed fmt = true) (hg : r.gf = true) : r.dfmt = 0xD := by
  simp only [AccReq.wellFormed, hg, if_true, Bool.and_eq_true, decide_eq_true_eq] at ok
  obtain ⟨⟨⟨⟨format, _⟩, _⟩, _⟩, _⟩ := ok
  exact format

/-- Doubling as the statement writes it. -/
theorem gfDouble_of_lt {a : Nat} (ha : a < 65536) :
    (if a < 32768 then 2 * a else (2 * a - 65536) ^^^ 0x100B) = gfDouble a := by
  unfold gfDouble
  by_cases low : a < 32768
  · rw [if_pos low, if_neg (by omega)]
  · rw [if_neg low, if_pos (by omega), show 2 * a % 65536 = 2 * a - 65536 by omega]

/-- Settles O9: the field laws from the linearity of products, the formats from what a legal descriptor or request is, and the
line from the GF adder's equation. -/
theorem galoisField : Obligations.GaloisField := by
  refine ⟨fun c d e hc hd _ => ⟨gfMul_xor 16 c d e, gfMul_xor_left 16 hc hd e⟩,
    fun c hc => ⟨(gf_comm hc (by decide)).trans (gf_one_left hc), gf_one_left hc, ?_⟩,
    fun c d hc hd => ⟨gf_lt hc d, ?_, gf_comm hc hd⟩, by decide,
    fun s p d => ⟨openLegal_gf, contribLegal_gf⟩, fun r fmt => AccReq.wellFormed_gf,
    fun l old hg hf hc => ⟨by rw [addLine_gf hg hf], ?_, fun i hi => symbol_addLine hg hf hc old hi⟩⟩
  · exact (gf_comm hc (by decide)).trans (gfMul_zero_left 16 c)
  · dsimp only
    rw [gfDouble_of_lt hd, gfDouble_of_lt (gf_lt hc d)]
    exact gf_double_right hc hd
  · rw [addLine_gf hg hf]
    rw [length_flatMap_leBytes, List.length_map, List.length_range]

end Sys2Proof.Machine
end

section
/-! PROOFS. Requests and management messages that are answered, or sent again (R264, R265, R275, R298, R405). -/
namespace Sys2Proof.Machine

section resent
variable {s u : State} {l : List RegKey} {id : BitVec 32} {q : Request}

theorem OnlyElems.withOut (h : OnlyElems l s u) (x : List Msg) : OnlyElems l (s.withOut x) (u.withOut x) :=
  ⟨h.1, congrArg (·.withOut x) h.2⟩

theorem OnlyElems.withRequests (h : OnlyElems l s u) (x : List Request) :
    OnlyElems l (s.withRequests x) (u.withRequests x) := ⟨h.1, congrArg (·.withRequests x) h.2⟩

theorem OnlyElems.count {r : RegName} {i j n : Nat} (h : OnlyElems l s u) (m : regKey r i j ∈ l) :
    OnlyElems l s (u.count r i j n) := by
  unfold State.count
  split
  · exact h
  · exact h.setReg m

/-- The requests once one of them has been sent again. -/
def State.resentRequests (s : State) (q : Request) : List Request :=
  s.requests.map fun r => if r.id = q.id then { r with sent := s.tick, waitFrom := none, resends := r.resends + 1 } else r

theorem State.resend_eq {m : Msg} (message : q.msg = some m) :
    s.resend q = (s.send m).withRequests (s.resentRequests q) := by
  rw [State.resend, message]; rfl

/-- The state once a retry is counted: one of an accumulate request is (R293). -/
def State.retried (s : State) (q : Request) : State :=
  s.count .grvRedCount q.p 5 (if q.aux.headD 0 = 1 ∨ q.aux.headD 0 = 2 then 1 else 0)

theorem State.retried_eq :
    (if q.aux.headD 0 = 1 ∨ q.aux.headD 0 = 2 then s.count .grvRedCount q.p 5 else s) = s.retried q := by
  unfold State.retried
  split <;> rfl

theorem State.reg_retried : (s.retried q).reg .grvRedCount q.p 5 = s.reg .grvRedCount q.p 5
    + (if q.aux.headD 0 = 1 ∨ q.aux.headD 0 = 2 then 1 else 0) := by
  rw [State.retried, State.reg_count_same]
  split <;> rfl

theorem State.onlyElems_retried : OnlyElems [⟨.grvRedCount, q.p, 5⟩] s (s.retried q) := .count .refl (.head _)

/-- A request unanswered for the response timeout is sent again (R265). -/
theorem exec_responseTimeout (found : s.requests.find? (fun r => r.id = id.toNat) = some q) (frame : isFrame q.msg = true)
    (waits : q.waitFrom = none) (due : q.sent + us (s.fget rf_grvRedCtl_responseTimeoutUs q.p) ≤ s.tick) :
    exec (.responseTimeout id) s = done ((s.retried q).resend q) := by
  have sent : isFrame q.msg ∧ q.waitFrom.isNone ∧ s.since q.sent (us (s.fget rf_grvRedCtl_responseTimeoutUs q.p)) :=
    ⟨frame, by rw [waits]; rfl, decide_eq_true due⟩
  change execResponseTimeout id s = _
  simp only [execResponseTimeout, found]
  rw [if_pos sent, State.retried_eq]

end resent

theorem State.flight_dropRequest (s : State) (id core stream n : Nat) :
    (s.dropRequest id).flight core stream n = s.flight core stream n := rfl

/-- An acknowledgement for which no broadcast waits ends the message's resending. -/
theorem State.acked_unheld {s : State} {id : Nat} (free : ∀ h ∈ s.grove.held, h.mirror ≠ id) :
    s.acked id = s.withMgmt (s.mgmt.filter fun m => m.id ≠ id) := by
  have unheld : s.grove.held.find? (fun h => h.mirror = id) = none :=
    List.find?_eq_none.mpr fun h mem => by simpa using free h mem
  unfold State.acked
  dsimp only [State.withMgmt]
  rw [unheld]

/-- Settles O23: each command under its conditions, a timeout by what counting the retry leaves. -/
theorem requestsAreResent : Obligations.RequestsAreResent := by
  refine fun s => ⟨?_, ?_, ?_, ?_, ?_, ?_, ?_⟩
  · intro f x q serves op cls here found message part
    refine congrArg done ((if_pos ⟨serves, op, cls, here⟩).trans ?_)
    rw [found]
    exact if_pos ⟨message, part⟩
  · intro f x serves op cls here unknown asked
    refine congrArg done ((if_pos ⟨serves, op, cls, here⟩).trans ?_)
    rw [unknown]
    exact if_pos asked
  · intro id q m found message frame waits due
    have sends := exec_responseTimeout found (message ▸ frame) waits due
    rw [State.resend_eq message] at sends
    have retried := s.onlyElems_retried (q := q)
    have rest : (s.retried q).out = s.out ∧ (s.retried q).resentRequests q = s.resentRequests q := by
      rw [retried.2]; exact ⟨rfl, rfl⟩
    refine ⟨_, sends, ?_, ?_, ?_, ?_⟩
    · rw [State.settle_rest]; exact congrArg (· ++ [m]) rest.1
    · rw [State.settle_rest]; exact rest.2
    · rw [State.settle_reg _ _ _ _ (by decide), State.reg_withRequests, State.reg_send]; exact State.reg_retried
    · exact ((retried.withOut _).withRequests _).settle
  · intro id q m w found message waits due
    refine congrArg done ?_
    rw [found]
    dsimp only
    rw [waits]
    dsimp only
    rw [if_neg (Nat.not_lt.mpr due), if_pos (by rw [message]; rfl), State.resend_eq message]
    rfl
  · intro id q fl w found message waits due kind flight phase
    refine congrArg done ?_
    rw [found]
    dsimp only
    rw [waits]
    dsimp only
    rw [if_neg (Nat.not_lt.mpr due), if_neg (by rw [message]; decide), if_neg kind, State.flight_dropRequest, flight]
    exact if_pos phase
  · intro id m found due
    refine congrArg done ?_
    rw [found]
    exact if_pos (decide_eq_true due)
  · intro id free
    exact congrArg done (State.acked_unheld free)

end Sys2Proof.Machine
end

section
/-! PROOFS. The bucket unit's answers to accumulate requests, and the additions of accepted lines (R254, R263, R267). -/
namespace Sys2Proof.Machine

/-- An accumulate request that reaches its target is answered as the bucket unit says (R263). -/
theorem exec_accumulate {f : Frame} {s : State} {r : (Nat × Nat) × State} (serves : s.serves = true) (op : f.op = 0x03)
    (here : sameModule f.dst (s.here 0) = true) (asked : s.bktAsk f.dst.part f.src (accReq f.ops f.payload) = r) :
    exec (.accumulate f) s = .next (r.2.respond f r.1.1 r.1.2).settle := by
  have reached : exec (.accumulate f) s = done (let r := s.bktAsk f.dst.part f.src (accReq f.ops f.payload)
      r.2.respond f r.1.1 r.1.2) := congrArg done (if_pos ⟨serves, op, here⟩)
  rw [reached, asked, done]

theorem State.bktAsk_stopped {s : State} {p : Nat} (runs : s.admits p = false) (src : Addr) (r : AccReq) :
    s.bktAsk p src r = ((anNotOpen, 0), s) := by
  simp only [State.bktAsk, runs, Bool.not_false, if_true]

theorem State.bktAsk_peer {s u : State} {p : Nat} {src : Addr} (runs : s.admits p = true) (peer : s.isPeer p src = (true, u))
    (r : AccReq) : s.bktAsk p src r = u.bktHandle p r (u.arrivalPort src) := by
  simp only [State.bktAsk, runs, peer, Bool.not_true, if_neg Bool.false_ne_true]

theorem State.bktAsk_stranger {s u : State} {p : Nat} {src : Addr} (runs : s.admits p = true) (peer : s.isPeer p src = (false, u))
    (r : AccReq) : s.bktAsk p src r = ((anRejected, u.bktMarkOf p r), u) := by
  simp only [State.bktAsk, runs, peer, Bool.not_true, if_neg Bool.false_ne_true]

/-- Settles O24: a request by what the bucket unit is asked and answers, a line by its place among those that wait. -/
theorem bucketCommands : Obligations.BucketCommands := by
  refine fun s => ⟨?_, ?_, ?_, ?_⟩
  · intro f u serves op here runs peer
    exact exec_accumulate serves op here (State.bktAsk_peer runs peer _)
  · intro f u serves op here runs peer
    exact exec_accumulate serves op here (State.bktAsk_stranger runs peer _)
  · intro f serves op here runs
    exact exec_accumulate serves op here (State.bktAsk_stopped runs _ _)
  · intro p bucket contributor line l next
    refine congrArg done ?_
    rw [next]

end Sys2Proof.Machine
end

section
/-! PROOFS. The optimizer step (R275, R276, R279 to R282): copies of its messages, and first ones at the manager and at a worker. -/
namespace Sys2Proof.Machine

/-! ### Copies -/

/-- Settles O26: a known message is only acknowledged, whoever would act on a first one. -/
theorem repeatedStepMessage : Obligations.RepeatedStepMessage := by
  intro f s again
  have copied {type : Nat} (h : again type) (act : State → State) :
      done (s.mgReceive type (mgEpoch f) f act) = .next (s.respond f anAccepted 0).settle :=
    congrArg done (mgReceive_copy h.1 h.2 act)
  have ordered {type : Nat} (manager : s.fromManager f.src = true) (h : again type) (act : State → State) :
      done (s.mgOrder type f act) = .next (s.respond f anAccepted 0).settle :=
    congrArg done (mgOrder_copy manager h.1 h.2 act)
  exact ⟨fun h => copied h _, fun h => copied h _, fun h => copied h _,
    fun manager => ⟨fun h => ordered manager h _, fun h => ordered manager h _, fun h => ordered manager h _⟩⟩

/-! ### At the manager -/

/-- The first step message of its kind for a job that the manager keeps is acted on for that job. -/
theorem mgReceive_onJob {type : Nat} {f : Frame} {s : State} {j : MgrJob} (fresh : NewStep type f s)
    (manages : Manages (s.readStep type f) (mgJob f) j) (act : State → MgrJob → State) :
    s.mgReceive type (mgEpoch f) f (fun s => s.onJob (mgJob f) act) = act (s.readStep type f) j := by
  rw [mgReceive_new fresh, onJob_managed manages]

/-- Settles O29: each first message is acted on for its job, and the branch taken is the one that the state of the job names. -/
theorem stepAtManager : Obligations.StepAtManager := by
  refine fun f s j => ⟨?_, ?_, ?_, ?_⟩
  · intro fresh manages collecting epoch worker k u
    have acts : exec (.stepReady f) s = done (if k.allReady then u.decideNow k false else u) :=
      congrArg done ((mgReceive_onJob fresh manages _).trans (if_pos ⟨collecting, epoch, worker⟩))
    exact ⟨fun all => by rw [acts, if_pos all, done], fun missing => by rw [acts, if_neg (by rw [missing]; decide), done]⟩
  · intro job manages collecting due free
    exact congrArg done ((onJob_managed manages _).trans (if_pos ⟨collecting, due, free⟩))
  · intro fresh manages sweeping epoch worker u k v
    have acts : exec (.sweepDone f) s = done (if k.workers.all fun a => k.swept.contains a then
        match v.mgrJob k.job with
        | some l => if l.holders.isEmpty then v.settleJob l else v
        | none => v
      else u.setJob k) :=
      congrArg done ((mgReceive_onJob fresh manages _).trans (if_pos ⟨sweeping, epoch, worker⟩))
    refine ⟨fun missing => by rw [acts, if_neg (by rw [missing]; decide), done], fun all l kept => ?_⟩
    rw [acts, if_pos all, kept, done]
  · intro fresh manages other settling epoch holder
    exact congrArg done (((mgReceive_onJob fresh manages _).trans (if_neg fun h => Bool.false_ne_true (other.symm.trans h.1))).trans
      (if_pos ⟨settling, epoch, holder⟩))

/-! ### At a worker -/

theorem State.part_readStep (s : State) (type : Nat) (f : Frame) (p : Nat) : (s.readStep type f).part p = s.part p := rfl

theorem State.admits_readStep (s : State) (type : Nat) (f : Frame) (p : Nat) : (s.readStep type f).admits p = s.admits p := rfl

/-- Settles O27: each first message is acted on in the state that has read it, whose partitions are as they were. -/
theorem stepAtWorker : Obligations.StepAtWorker := by
  refine fun s => ⟨?_, fun f manager => ⟨?_, ?_, fun r known => ⟨?_, ?_⟩⟩⟩
  · intro p job complete
    change execStepReadySend p job s = _
    unfold execStepReadySend
    -- what the body says plays no part, and the kernel need not compute it
    generalize State.stepReadyBody = body
    exact congrArg done (if_pos complete)
  · intro fresh runs
    exact congrArg done ((mgOrder_new manager fresh _).trans (if_pos (by rw [State.admits_readStep, runs])))
  · intro fresh stopped
    exact congrArg done ((mgOrder_new manager fresh _).trans (if_neg (by rw [State.admits_readStep, stopped]; decide)))
  · intro fresh commits first
    change execCommit f s = _
    simp only [execCommit, mgOrder_new manager fresh, State.part_readStep, known]
    exact congrArg done (if_pos ⟨commits, by rw [first]; rfl⟩)
  · intro fresh committed first
    change execSettled f s = _
    simp only [execSettled, mgOrder_new manager fresh, State.part_readStep, known]
    -- nor does the parity record
    generalize State.parRecord = record
    exact congrArg done (if_pos ⟨committed, by rw [first]; rfl⟩)

end Sys2Proof.Machine
end

section
/-! PROOFS. Frames of the commands that send messages: as for those that send nothing, each effect is a chain of updates of what
the frame names. -/
namespace Sys2Proof.Machine

/-! ### Updates that keep a frame -/

section sendUpdates
variable {l : List RegName} {parts : State → State → State} {s u : State}

theorem Keeps.withOut {x : List Msg} (h : Keeps l parts s u)
    (he : ∀ u x, (framed parts s u).withOut x = framed parts s (u.withOut x) := by exact fun _ _ => rfl) :
    Keeps l parts s (u.withOut x) := h.part (·.withOut x) rfl (he u x)

theorem Keeps.sent {m : Msg} (h : Keeps l parts s u)
    (he : ∀ u x, (framed parts s u).withOut x = framed parts s (u.withOut x) := by exact fun _ _ => rfl) :
    Keeps l parts s (u.send m) := h.withOut he

theorem Keeps.withRequests {x : List Request} (h : Keeps l parts s u)
    (he : ∀ u x, (framed parts s u).withRequests x = framed parts s (u.withRequests x) := by exact fun _ _ => rfl) :
    Keeps l parts s (u.withRequests x) := h.part (·.withRequests x) rfl (he u x)

theorem Keeps.withMgmt {x : List MgmtMsg} (h : Keeps l parts s u)
    (he : ∀ u x, (framed parts s u).withMgmt x = framed parts s (u.withMgmt x) := by exact fun _ _ => rfl) :
    Keeps l parts s (u.withMgmt x) := h.part (·.withMgmt x) rfl (he u x)

theorem Keeps.withSeen {x : List (Nat × Nat × Nat × Addr)} (h : Keeps l parts s u)
    (he : ∀ u x, (framed parts s u).withSeen x = framed parts s (u.withSeen x) := by exact fun _ _ => rfl) :
    Keeps l parts s (u.withSeen x) := h.part (·.withSeen x) rfl (he u x)

theorem Keeps.withGrove {x : GroveX} (h : Keeps l parts s u)
    (he : ∀ u x, (framed parts s u).withGrove x = framed parts s (u.withGrove x) := by exact fun _ _ => rfl) :
    Keeps l parts s (u.withGrove x) := h.part (·.withGrove x) rfl (he u x)

/-- A choice between two results, each with its state. -/
theorem Keeps.iteSnd {α : Type} {c : Prop} [Decidable c] {a b : α × State} (h : Keeps l parts s a.2)
    (k : Keeps l parts s b.2) : Keeps l parts s (if c then a else b).2 := by split <;> assumption

/-- A result with its state. -/
theorem Keeps.result {α : Type} {a : α} (h : Keeps l parts s u) : Keeps l parts s (a, u).2 := h

end sendUpdates

/-! ### The mailbox (R544) -/

/-- What a request at the mailbox may change beside registers. -/
abbrev mailed (s t : State) : State := { s with tru := t.tru, out := t.out }

/-- As `mailed`, with an event. -/
abbrev mailedEvent (s t : State) : State := { s with tru := t.tru, out := t.out, evt := t.evt }

section mailbox
variable {l : List RegName} {parts : State → State → State} {s : State} {ch req : Nat}

/-- A request keeps what its effect keeps: its answer moves TRU_CH_STATUS, the response buffer and what is sent. -/
theorem Keeps.mailbox {f : State → Nat × List Byte × State} (h : Keeps l parts s (f s).2.2)
    (hp : PartsOnly parts := by exact ⟨fun _ => rfl, fun _ _ _ => rfl⟩) (status : .truChStatus ∈ l := by decide)
    (htru : ∀ u x, (framed parts s u).withTru x = framed parts s (u.withTru x) := by exact fun _ _ => rfl)
    (hout : ∀ u x, (framed parts s u).withOut x = framed parts s (u.withOut x) := by exact fun _ _ => rfl) :
    Keeps l parts s (s.mailbox ch req f) :=
  .ite (.sent (he := hout) <| .field (hp := hp) (m := status) <| .field (hp := hp) (m := status) <|
    .field (hp := hp) (m := status) <| h.withTru htru) (.start hp)

theorem Keeps.mailboxOf {f : State → Nat × State} (h : Keeps l parts s (f s).2)
    (hp : PartsOnly parts := by exact ⟨fun _ => rfl, fun _ _ _ => rfl⟩) (status : .truChStatus ∈ l := by decide)
    (htru : ∀ u x, (framed parts s u).withTru x = framed parts s (u.withTru x) := by exact fun _ _ => rfl)
    (hout : ∀ u x, (framed parts s u).withOut x = framed parts s (u.withOut x) := by exact fun _ _ => rfl) :
    Keeps l parts s (s.mailboxOf ch req f) :=
  .mailbox (f := fun s => ((f s).1, [], (f s).2)) h hp status htru hout

end mailbox

theorem within_ledgerRead (ch : Fin 2) (req first : BitVec 64) (n : BitVec 16) :
    Within (.ledgerRead ch req first n) [.truChStatus] mailed := by
  refine .of_effect fun s => ⟨_, rfl, .mailbox ?_⟩
  split <;> exact .start

theorem within_ledgerAppend (req : BitVec 64) (type unit : BitVec 8) (body : List Byte) :
    Within (.ledgerAppend req type unit body) [.truChStatus]
      fun s t => { mailed s t with free := t.free, ledger := t.ledger, ledgerSeq := t.ledgerSeq } := by
  refine .of_effect fun s => ⟨_, rfl, .mailboxOf ?_⟩
  dsimp only
  refine .iteSnd .start (.iteSnd ?_ .start)
  obtain ⟨free, ledger, seq, e⟩ := s.ledgerAdd_eq type.toNat unit.toNat body
  rw [e]
  exact .withLedgerSeq <| .withLedger <| .withFree .start

theorem within_imageWrite (req : BitVec 64) (k : BitVec 8) (o : BitVec 32) (b : List Byte) (nvm : Bool) :
    Within (.imageWrite req k o b nvm) [.truChStatus] mailed := by
  refine .of_effect fun s => ⟨_, rfl, .mailboxOf ?_⟩
  dsimp only
  refine .iteSnd .start ?_
  split
  · exact .iteSnd (.result <| .withTru .start) .start
  · exact .start

theorem within_imageActivate (req : BitVec 64) (k : BitVec 8) (nvm : Bool) :
    Within (.imageActivate req k nvm) (eventRegs ++ [.truChStatus]) mailedEvent := by
  refine .of_effect fun s => ⟨_, rfl, .mailboxOf ?_⟩
  dsimp only
  refine .iteSnd .start ?_
  split
  · split
    · exact .iteSnd (.result <| .withTru .start) .start
    · exact .result (.event .start)
  · exact .start

theorem pendingBit_reg (k : Nat) : (pendingBit k).reg = .truBootStatus := by unfold pendingBit; split <;> rfl

theorem within_imageConfirm (req : BitVec 64) (k : BitVec 8) (nvm : Bool) :
    Within (.imageConfirm req k nvm) [.truChStatus, .truBootStatus] mailed := by
  refine .of_effect fun s => ⟨_, rfl, .mailboxOf ?_⟩
  dsimp only
  refine .iteSnd .start ?_
  split
  · refine .iteSnd (.iteSnd (.result <| .field (m := ?_) (a := ?_) <| .withTru .start) .start) .start
    all_goals rw [pendingBit_reg]; decide
  · exact .start

theorem within_versionCommit (req : BitVec 64) (k : BitVec 8) (v : BitVec 32) :
    Within (.versionCommit req k v) (eventRegs ++ [.truChStatus, .truBootStatus]) mailedEvent := by
  refine .of_effect fun s => ⟨_, rfl, .mailboxOf ?_⟩
  dsimp only
  refine .iteSnd .start ?_
  have burnt (kind x : Nat) : Keeps (eventRegs ++ [.truChStatus, .truBootStatus]) mailedEvent s (s.setFuse kind x) :=
    .ite (.withTru <| .field .start) <| .ite (.withTru <| .field .start) (.withTru <| .field .start)
  split
  · exact .iteSnd .start (.iteSnd .start (.result <| .event (burnt _ _)))
  · exact .start

theorem within_profileWrite (req : BitVec 64) (n : Fin 4) (im : List Byte) (nvm : Bool) :
    Within (.profileWrite req n im nvm) (eventRegs ++ [.truChStatus]) mailedEvent := by
  refine .of_effect fun s => ⟨_, rfl, .mailboxOf ?_⟩
  refine .iteSnd .start ?_
  split
  · exact .iteSnd (.result <| .withTru .start) .start
  · exact .result <| .event .start

theorem within_identityWrite (req : BitVec 64) (b : List Byte) (last nvm : Bool) :
    Within (.identityWrite req b last nvm) [.truChStatus] mailed := by
  refine .of_effect fun s => ⟨_, rfl, .mailboxOf ?_⟩
  dsimp only
  exact .iteSnd .start <| .iteSnd .start <| .iteSnd (.result <| .withTru .start) <|
    .iteSnd (.result <| .withTru <| .withTru .start) (.result <| .withTru .start)

theorem within_debugChallenge (req : BitVec 64) :
    Within (.debugChallenge req) [.truChStatus] fun s t => { mailed s t with free := t.free } := by
  refine .of_effect fun s => ⟨_, rfl, .mailbox (.withTru ?_)⟩
  have draws : (s.drawBytes 32).2 = s.withFree (s.drawBytes 32).2.free := s.drawWords_eq (ceilDiv 32 8)
  rw [draws]
  exact .withFree .start

theorem within_debugUnlock (req : BitVec 64) (tok : List Byte) :
    Within (.debugUnlock req tok) (eventRegs ++ [.truChStatus, .truBootStatus]) mailedEvent := by
  refine .of_effect fun s => ⟨_, rfl, .mailboxOf ?_⟩
  dsimp only
  exact .iteSnd .start <| .iteSnd (.result <| .event <| .field <| .withTru .start) .start

theorem within_ownerClaim (req : BitVec 64) (d a : List Byte) :
    Within (.ownerClaim req d a) (eventRegs ++ [.truChStatus, .truBootStatus]) mailedEvent := by
  refine .of_effect fun s => ⟨_, rfl, .mailboxOf ?_⟩
  dsimp only
  exact .iteSnd .start <| .iteSnd .start <| .iteSnd (.result <| .event <| .field <| .field <| .withTru .start) .start

theorem within_badRequest (ch : Fin 2) (req : BitVec 64) (c : BitVec 8) (n : BitVec 14) :
    Within (.badRequest ch req c n) [.truChStatus] mailed :=
  .of_effect fun s => ⟨_, rfl, .ite (.mailboxOf .start) .start⟩

/-! ### Attestation (R541) -/

/-- An answer on a path moves its connection and what is sent. -/
theorem Keeps.spdm {s u : State} (h : Keeps [] mailed s u) (v : Via) (ok : Bool) (r : SpdmResp) (x : SpdmX) :
    Keeps [] mailed s (u.spdm v ok r x) :=
  .ite (.ite (.sent <| .withTru h) (.sent h)) h

/-- A request whose effect is one answer. -/
theorem Within.of_spdm {c : Instr} {v : Via} {ok : State → Bool} {r : State → SpdmResp} {x : State → SpdmX}
    (h : ∀ s, exec c s = done (s.spdm v (ok s) (r s) (x s))) : Within c [] mailed :=
  .of_effect fun s => ⟨_, h s, .spdm .start ..⟩

theorem within_getVersion (v : Via) : Within (.getVersion v) [] mailed := .of_spdm fun _ => rfl
theorem within_getCapabilities (v : Via) : Within (.getCapabilities v) [] mailed := .of_spdm fun _ => rfl
theorem within_getDigests (v : Via) : Within (.getDigests v) [] mailed := .of_spdm fun _ => rfl
theorem within_negotiateAlgorithms (v : Via) (ok : Bool) : Within (.negotiateAlgorithms v ok) [] mailed := .of_spdm fun _ => rfl
theorem within_challenge (v : Via) (slot : BitVec 4) : Within (.challenge v slot) [] mailed := .of_spdm fun _ => rfl
theorem within_getMeasurements (v : Via) (i : BitVec 8) : Within (.getMeasurements v i) [] mailed := .of_spdm fun _ => rfl
theorem within_finish (v : Via) (k : BitVec 16) (ok : Bool) : Within (.finish v k ok) [] mailed := .of_spdm fun _ => rfl
theorem within_heartbeat (v : Via) (k : BitVec 16) : Within (.heartbeat v k) [] mailed := .of_spdm fun _ => rfl
theorem within_endSession (v : Via) (k : BitVec 16) : Within (.endSession v k) [] mailed := .of_spdm fun _ => rfl

theorem within_getCertificate (v : Via) (slot : BitVec 4) (o l : BitVec 16) : Within (.getCertificate v slot o l) [] mailed := by
  refine .of_effect fun s => ⟨_, rfl, ?_⟩
  split <;> exact .spdm .start ..

theorem within_keyExchange (v : Via) (slot : BitVec 4) : Within (.keyExchange v slot) [] mailed :=
  .of_effect fun s => ⟨_, rfl, .spdm (.ite (.withTru .start) .start) ..⟩

theorem within_keyUpdate (v : Via) (k : BitVec 16) : Within (.keyUpdate v k) [] mailed := by
  refine .of_effect fun s => ⟨_, rfl, ?_⟩
  split <;> exact .spdm .start ..

/-! ### The sideband and the test port (R571, R573) -/

theorem within_pldmMonitoring (i : Fin 24) (m : BitVec 16) :
    Within (.pldmMonitoring i m) [] fun s t => { s with out := t.out } :=
  .of_effect fun s => ⟨_, rfl, .ite .start <| .ite (.sent .start) <| .ite (.sent .start) .start⟩

theorem within_pldmFruData : Within .pldmFruData [] fun s t => { s with out := t.out } :=
  .of_effect fun s => ⟨_, rfl, .ite (.sent .start) .start⟩

theorem within_testPortInstruction (op : TapInstr) :
    Within (.testPortInstruction op) [] fun s t => { s with out := t.out, free := t.free } := by
  refine .of_effect fun s => ⟨_, rfl, .ite .start ?_⟩
  rcases op with _ | _ | ⟨scope, _⟩
  · exact .sent .start
  · exact .sent .start
  · exact .ite (.sent <| .withFree .start) (.sent .start)

/-! ### Events (R560) -/

theorem within_eventPush : Within .eventPush [] fun s t => { s with out := t.out, evt := t.evt } :=
  .of_effect fun s => ⟨_, rfl, .ite .start (.withOut <| .withEvt .start)⟩

/-! ### Links (R398, R400, R402) -/

theorem within_flowFrameSend (n : Fin 16) : Within (.flowFrameSend n) [] fun s t => { s with out := t.out, fab := t.fab } :=
  .of_effect fun s => ⟨_, rfl, .ite (.withFab <| .sent .start) .start⟩

theorem within_linkRetryTimeout (n : Fin 16) :
    Within (.linkRetryTimeout n) [.fabPortCount] fun s t => { s with out := t.out, fab := t.fab } :=
  .of_effect fun s => ⟨_, rfl,
    .ite (.foldl _ (fun _ _ h => .counted <| .counted <| .counted <| .sent h) _ _ <| .withFab .start) .start⟩

/-- What a received frame may change beside registers. -/
abbrev routed (s t : State) : State := { s with out := t.out, fab := t.fab, evt := t.evt }

section routing
variable {s u : State}

theorem Keeps.freeCells (h : Keeps (eventRegs ++ [.fabPortCount]) routed s u) (q : QFrame) :
    Keeps (eventRegs ++ [.fabPortCount]) routed s (u.freeCells q) := by
  unfold State.freeCells
  split
  · exact .withFab h
  · exact h

theorem Keeps.discard (h : Keeps (eventRegs ++ [.fabPortCount]) routed s u) (n : Nat) :
    Keeps (eventRegs ++ [.fabPortCount]) routed s (u.discard n) :=
  .ite (.event <| .withFab <| .counted h) (.withFab <| .counted h)

theorem Keeps.noteDetour (h : Keeps (eventRegs ++ [.fabPortCount]) routed s u) (n : Nat) :
    Keeps (eventRegs ++ [.fabPortCount]) routed s (u.noteDetour n) :=
  .ite h (.event <| .withFab h)

theorem Keeps.route (h : Keeps (eventRegs ++ [.fabPortCount]) routed s u) (q : QFrame) :
    Keeps (eventRegs ++ [.fabPortCount]) routed s (u.route q) := by
  unfold State.route
  split
  · exact .freeCells (.withFab h) q
  · exact .freeCells (.ite (h.discard _) (.counted h)) q
  · exact .withFab <| .ite (h.noteDetour _) h

theorem Keeps.badFcs (h : Keeps (eventRegs ++ [.fabPortCount]) routed s u) (n : Nat) :
    Keeps (eventRegs ++ [.fabPortCount]) routed s (u.badFcs n) :=
  .ite (.event <| .withFab <| .counted h) (.withFab <| .counted h)

theorem Keeps.stomp (h : Keeps (eventRegs ++ [.fabPortCount]) routed s u) (n : Nat) (f : Frame) (c : Cargo) :
    Keeps (eventRegs ++ [.fabPortCount]) routed s (u.stomp n f c) := by
  unfold State.stomp
  split
  · exact .ite (.counted <| .counted <| .sent h) h
  · exact h

end routing

theorem within_routedFrame (n : Fin 16) (seq : BitVec 16) (fcs : Fcs) (sh h : Bool) (f : Frame) (c : Cargo) :
    Within (.routedFrame n seq fcs sh h f c) (eventRegs ++ [.fabPortCount]) routed := by
  refine .of_effect fun s => ⟨_, rfl, .ite ?_ .start⟩
  have heard (x : PortX) : Keeps (eventRegs ++ [.fabPortCount]) routed s
      (((s.count .fabPortCount n 1).count .fabPortCount n 3 (frameBytes f)).setPort n x) :=
    .withFab <| .counted <| .counted .start
  cases fcs
  case stomped => exact .counted (heard _)
  case bad =>
    have bad (x : PortX) := (heard x).badFcs n.val
    exact .ite (bad _) <| .ite (.stomp (.withFab (bad _)) ..) (.withFab (bad _))
  case good =>
    exact .ite (.counted (heard _)) <| .ite (heard _) <| .ite (.withFab (heard _)) <|
      .ite (.route (.withFab (heard _)) _) (.freeCells (.counted <| .withFab (heard _)) _)

/-! ### Messages that are sent again (R265, R275) -/

theorem within_stepMessageResend (id : BitVec 32) :
    Within (.stepMessageResend id) [] fun s t => { s with out := t.out, mgmt := t.mgmt } := by
  refine .of_effect fun s => ⟨_, rfl, ?_⟩
  split
  · exact .ite (.withMgmt <| .sent .start) .start
  · exact .start

theorem within_responseTimeout (id : BitVec 32) :
    Within (.responseTimeout id) [.grvRedCount] fun s t => { s with out := t.out, requests := t.requests } := by
  refine .of_effect fun s => ⟨_, rfl, ?_⟩
  split
  · refine .ite ?_ .start
    dsimp only
    unfold State.resend
    split
    · exact .withRequests <| .sent <| .ite (.counted .start) .start
    · exact .ite (.counted .start) .start
  · exact .start

/-! ### The grove (R430, R434, R444, R453) -/

section grove
variable {l : List RegName} {parts : State → State → State} {s : State} {type epoch : Nat} {g : Mg} {act : State → State}

/-- A grove message changes what acting on it changes, what is sent, and which messages are known. -/
theorem Keeps.grvReceive (h : ∀ u, Keeps l parts s u → Keeps l parts s (act u))
    (hp : PartsOnly parts := by exact ⟨fun _ => rfl, fun _ _ _ => rfl⟩)
    (hout : ∀ u x, (framed parts s u).withOut x = framed parts s (u.withOut x) := by exact fun _ _ => rfl)
    (hseen : ∀ u x, (framed parts s u).withSeen x = framed parts s (u.withSeen x) := by exact fun _ _ => rfl) :
    Keeps l parts s (s.grvReceive type epoch g act) :=
  have acknowledged : Keeps l parts s (s.ackMg g) := .sent (.start hp) hout
  .ite (.ite acknowledged (h _ (acknowledged.withSeen hseen))) (.start hp)

theorem Keeps.grvOrder (h : ∀ u, Keeps l parts s u → Keeps l parts s (act u))
    (hp : PartsOnly parts := by exact ⟨fun _ => rfl, fun _ _ _ => rfl⟩)
    (hout : ∀ u x, (framed parts s u).withOut x = framed parts s (u.withOut x) := by exact fun _ _ => rfl)
    (hseen : ∀ u x, (framed parts s u).withSeen x = framed parts s (u.withSeen x) := by exact fun _ _ => rfl) :
    Keeps l parts s (s.grvOrder type epoch g act) :=
  .ite (.grvReceive h hp hout hseen) (.start hp)

end grove

theorem within_pulseSend : Within .pulseSend [.grvCount] fun s t => { s with out := t.out, grove := t.grove } :=
  .of_effect fun s => ⟨_, rfl, .ite (.foldl _ (fun _ _ h => .counted (.sent h)) _ _ (.withGrove .start)) .start⟩

theorem within_mirror (g : Mg) (j : MgrJob) (ps : List Peer) :
    Within (.mirror g j ps) [.grvRecovery] fun s t => { s with out := t.out, grove := t.grove, seen := t.seen } := by
  refine .of_effect fun s => ⟨_, rfl, .grvOrder fun u h => .ite (.foldl _ (fun v q k => ?_) _ _ ?_) h⟩
  · split <;> exact .withGrove k
  · exact .ite (.field <| .field <| .field <| .field <| .withGrove h) <|
      .ite (.field <| .withGrove h) <| .ite (.field <| .withGrove h) (.withGrove h)

theorem within_admission (g : Mg) (n m st : Nat) (v sp : Bool) :
    Within (.admission g n m st v sp) [.grvManager, .grvRole] fun s t => { s with out := t.out, seen := t.seen } :=
  .of_effect fun s => ⟨_, rfl, .ite .start <| .grvReceive fun _ h => .field <| .field <| .field <| .field <| .field <|
    .field <| .field <| .field h⟩

theorem within_takeover (g : Mg) (n : BitVec 16) : Within (.takeover g n) (eventRegs ++ [.grvManager, .grvRole])
    fun s t => { s with out := t.out, seen := t.seen, evt := t.evt, mgmt := t.mgmt } := by
  refine .of_effect fun s => ⟨_, rfl, .ite (.ite (.sent .start) .start) (.grvReceive fun u h => ?_)⟩
  exact .foldl _ (fun _ _ k => .sent k) _ _ <| .withMgmt <| .event <| .field <| .field <| .field <| .field <|
    .ite (.field <| .field h) (.field h)

/-! ### Operating points (R496 to R500) -/

/-- What a change of operating points may change beside registers. -/
abbrev pointed (s t : State) : State := { s with pwr := t.pwr, out := t.out, evt := t.evt }

/-- The registers that it may change. -/
abbrev pointRegs : List RegName := eventRegs ++ [.clkDieStatus, .pwrAvsStatus, .pwrCount, .pwrModuleStatus]

section points
variable {l : List RegName} {parts : State → State → State} {s u : State}

/-- A command to a regulator (R496). -/
theorem Keeps.avsCommand (h : Keeps l parts s u) (d v : Nat) (back : Bool)
    (hp : PartsOnly parts := by exact ⟨fun _ => rfl, fun _ _ _ => rfl⟩) (avs : .pwrAvsStatus ∈ l := by decide)
    (hpwr : ∀ u x, (framed parts s u).withPwr x = framed parts s (u.withPwr x) := by exact fun _ _ => rfl)
    (hout : ∀ u x, (framed parts s u).withOut x = framed parts s (u.withOut x) := by exact fun _ _ => rfl) :
    Keeps l parts s (u.avsCommand d v back) :=
  .withOut (he := hout) <| .field (hp := hp) (m := avs) <| .field (hp := hp) (m := avs) <| .withPwr (he := hpwr) h

/-- A frame that allows the change of operating points. -/
structure PointFrame (l : List RegName) (parts : State → State → State) : Prop where
  only : PartsOnly parts
  pwr : ∀ s u x, (framed parts s u).withPwr x = framed parts s (u.withPwr x)
  out : ∀ s u x, (framed parts s u).withOut x = framed parts s (u.withOut x)
  evt : ∀ s u x, (framed parts s u).withEvt x = framed parts s (u.withEvt x)
  regs : ∀ r ∈ pointRegs, r ∈ l

theorem Keeps.pointField (hf : PointFrame l parts) {f : RF} {i j x : Nat} (h : Keeps l parts s u)
    (m : f.reg ∈ pointRegs := by exact of_decide_eq_true rfl) (a : f.reg ∉ alertRegs := by exact of_decide_eq_true rfl) :
    Keeps l parts s (u.fset f i j x) := h.field hf.only (hf.regs _ m) a

theorem Keeps.pointEvent (hf : PointFrame l parts) {code : Nat} {x : EvInfo} (h : Keeps l parts s u) :
    Keeps l parts s (u.raiseMod code x) :=
  h.event hf.only (fun _ _ k => k.withEvt (hf.evt s)) (hf.regs _ (by decide)) (hf.regs _ (by decide))

theorem Keeps.pointEventIf (hf : PointFrame l parts) {c : Prop} [Decidable c] {code : Nat} {x : EvInfo} (h : Keeps l parts s u) :
    Keeps l parts s (if c then u.raiseMod code x else u) := .ite (h.pointEvent hf) h

theorem Keeps.setDie (hf : PointFrame l parts) {d : Nat} {x : DieX} (h : Keeps l parts s u) : Keeps l parts s (u.setDie d x) :=
  h.withPwr (hf.pwr s)

theorem Keeps.commandIf (hf : PointFrame l parts) {c : Prop} [Decidable c] {d v : Nat} {back : Bool} (h : Keeps l parts s u) :
    Keeps l parts s (if c then u.avsCommand d v back else u) :=
  .ite (h.avsCommand d v back hf.only (hf.regs _ (by decide)) (hf.pwr s) (hf.out s)) h

/-- A die moves to the point that its limits give (R496, R499). -/
theorem Keeps.retarget (hf : PointFrame l parts) (h : Keeps l parts s u) (d : Nat) : Keeps l parts s (u.retarget d) := by
  unfold State.retarget
  generalize u.pointOf d = point
  obtain ⟨f, v, lowered, outside⟩ := point
  exact .pointField hf <| .pointField hf <| .pointEventIf hf <| .pointEventIf hf <| .setDie hf <| .ite h <|
    .commandIf hf <| .pointField hf <| .pointField hf <| .setDie hf h

theorem Keeps.retargetAll (hf : PointFrame l parts) (h : Keeps l parts s u) : Keeps l parts s u.retargetAll :=
  .foldl _ (fun _ d k => k.retarget hf d) _ _ h

theorem Keeps.limitSteps (hf : PointFrame l parts) {n : Nat} (h : Keeps l parts s u) : Keeps l parts s (u.limitSteps n) :=
  h.counted hf.only (hf.regs _ (by decide))

end points

theorem within_frequencyStep (d : Fin 4) : Within (.frequencyStep d) [.clkDieStatus, .pwrAvsStatus]
    fun s t => { s with out := t.out, pwr := t.pwr } := by
  refine .of_effect fun s => ⟨_, rfl, .ite .start <| .ite ?_ <| .ite ?_ .start⟩
  all_goals
    exact .ite (.ite (.avsCommand (.field <| .withPwr <| .field .start) ..) (.field <| .withPwr <| .field .start))
      (.withPwr <| .field .start)

theorem within_avsTimeout (d : Fin 4) : Within (.avsTimeout d) (eventRegs ++ [.clkDieStatus, .pwrAvsStatus]) pointed := by
  refine .of_effect fun s => ⟨_, rfl, ?_⟩
  split
  · refine .ite .start <| .ite (.withOut <| .field <| .withPwr .start) <| .event <| .field <| .ite (.field <| .withPwr .start) <|
      .ite (.withPwr <| .field <| .withPwr .start) (.avsCommand (.field <| .withPwr <| .field <| .withPwr .start) ..)
  · exact .start

/-- The frame of a command that changes operating points, and registers of its own. -/
theorem pointFrame_pointed (own : List RegName) : PointFrame (pointRegs ++ own) pointed :=
  ⟨⟨fun _ => rfl, fun _ _ _ => rfl⟩, fun _ _ _ => rfl, fun _ _ _ => rfl, fun _ _ _ => rfl,
    fun _ m => List.mem_append_left _ m⟩

theorem within_pwrVwindowWrite (v : Word) : Within (.pwrVwindowWrite v) (pointRegs ++ [.pwrVwindow]) pointed :=
  .of_effect fun s => ⟨_, rfl, .ite (.retargetAll (pointFrame_pointed _) <| .field <| .field .start) .start⟩

theorem within_dieTargetWrite (d : Fin 4) (v : Word) : Within (.dieTargetWrite d v) (pointRegs ++ [.pwrDieTarget]) pointed :=
  .of_effect fun s => ⟨_, rfl, .ite (.retarget (pointFrame_pointed _) (.field .start) _) .start⟩

/-- The frame of a command that changes operating points. -/
theorem pointFrame : PointFrame pointRegs pointed := pointFrame_pointed []

theorem within_powerCapTick (w dv : BitVec 16) : Within (.powerCapTick w dv) pointRegs pointed :=
  .of_effect fun s => ⟨_, rfl, .ite (.retargetAll pointFrame <| .pointEventIf pointFrame <| .field <| .withPwr <|
    .foldl _ (fun _ _ h => .limitSteps pointFrame <| .withPwr h) _ _ <| .field <| .field .start)
    (.withPwr <| .field <| .field .start)⟩

theorem within_powerCapRaise : Within .powerCapRaise pointRegs pointed := by
  refine .of_effect fun s => ⟨_, rfl, ?_⟩
  split
  · refine .ite (.retargetAll pointFrame <| .ite (.event <| .field <| .foldl _ (fun _ _ h => .withPwr h) _ _ ?_) ?_) .start
    all_goals exact .withPwr <| .foldl _ (fun _ _ h => .limitSteps pointFrame <| .withPwr h) _ _ .start
  · exact .start

theorem pointFrame_aged : PointFrame (pointRegs ++ [.ageDieMargin]) fun s t => { pointed s t with age := t.age } :=
  ⟨⟨fun _ => rfl, fun _ _ _ => rfl⟩, fun _ _ _ => rfl, fun _ _ _ => rfl, fun _ _ _ => rfl,
    fun _ m => List.mem_append_left _ m⟩

theorem within_thermalThrottleTick (d : Fin 4) (temp : BitVec 8) : Within (.thermalThrottleTick d temp)
    (pointRegs ++ [.ageDieMargin]) fun s t => { pointed s t with age := t.age } := by
  refine .of_effect fun s => ⟨_, rfl, ?_⟩
  have noted : Keeps (pointRegs ++ [.ageDieMargin]) (fun s t => { pointed s t with age := t.age }) s
      (s.noteTemp d temp.toNat) := by
    unfold State.noteTemp
    split
    · exact .ite (.withAge .start) <| .ite (.withAge .start) .start
    · exact .withAge .start
  exact .ite (.retarget pointFrame_aged
      (.pointEventIf pointFrame_aged <| .limitSteps pointFrame_aged <| .withPwr <| .field noted) _) (.withPwr <| .field noted)

theorem within_thermalRelease (d : Fin 4) : Within (.thermalRelease d) pointRegs pointed := by
  refine .of_effect fun s => ⟨_, rfl, ?_⟩
  split
  · exact .ite (.event <| .retarget pointFrame (.limitSteps pointFrame <| .withPwr .start) _) .start
  · exact .start

/-- Settles O60: each command's frame. -/
theorem sendingCommandFrames : Obligations.SendingCommandFrames :=
  ⟨within_ledgerRead, within_ledgerAppend, within_imageWrite, within_imageActivate, within_imageConfirm, within_versionCommit,
    within_profileWrite, within_identityWrite, within_debugChallenge, within_debugUnlock, within_ownerClaim, within_badRequest,
    fun v => ⟨within_getVersion v, within_getCapabilities v, within_getDigests v, fun ok slot o l i k =>
      ⟨within_negotiateAlgorithms v ok, within_getCertificate v slot o l, within_challenge v slot, within_getMeasurements v i,
        within_keyExchange v slot, within_finish v k ok, within_heartbeat v k, within_keyUpdate v k, within_endSession v k⟩⟩,
    within_pldmMonitoring, within_pldmFruData, within_testPortInstruction, within_eventPush, within_flowFrameSend,
    within_linkRetryTimeout, within_routedFrame, within_stepMessageResend, within_pulseSend, within_mirror, within_admission,
    within_takeover, within_responseTimeout, within_frequencyStep, within_avsTimeout, within_pwrVwindowWrite,
    within_dieTargetWrite, within_powerCapTick, within_powerCapRaise, within_thermalThrottleTick, within_thermalRelease⟩

end Sys2Proof.Machine
end

section
/-! PROOFS. Frames at their target: accesses, the commits of a ring, and the frames of exchanges and permutations (R300 to R302,
R313, R319, R403, R405). -/
namespace Sys2Proof.Machine

/-- A request frame that reaches its target is acted on in the state that has read the job map. -/
theorem State.target_eq {op : Nat} {f : Frame} {s u : State} (h : Targets op f s u) (act : State → State) :
    s.target f op act = act u := by
  rw [State.target, if_pos ⟨h.serves, h.here⟩, if_neg (by rw [h.runs]; decide), h.peer]

theorem State.served_ok {α : Type} (f : Frame) (a : α) (s : State) (ok : α → State → State) :
    State.served f (.ok a, s) ok = ok a s := rfl

/-! ### Accesses and rings -/

theorem subMod_self (n a : Nat) : subMod n a a = 0 := by
  rw [subMod, Nat.add_sub_cancel_left, Nat.mod_self]

/-- A request of a channel from the rank that the channel names, with the number that it expects next, is let through
(R313). -/
theorem State.ringCheck_next {f : Frame} {ch : Nat} {e : List Byte} {u v w : State} (channel : ch ≤ 63)
    (entry : u.serve (u.frameReq f false) (fun q => readLocal q (u.channelAddr f.dst.part ch) 16) = (.ok e, v))
    (rank : v.isRank f.dst.part (chSender e) f.src = (true, w)) (valid : chValid e = true)
    (act : List Byte → State → State) : u.ringCheck f ch (chExpected e) act = act e w := by
  rw [State.ringCheck, if_neg (Nat.not_lt.mpr channel), entry, State.served_ok, rank]
  simp only [valid, subMod_self]
  rfl

/-! ### Exchanges -/

/-- A frame of an exchange at a member is acted on and accepted once the exchange is ready for it (R298). -/
theorem State.exchTarget_eq {sub m : Nat} {f : Frame} {s u : State} {ex : Exch} (h : Exchanges sub f s u ex m)
    (ready : Exch → Bool) (act : Exch → Nat → State → State) : s.exchTarget f sub ready act =
      if ready ex then (act ex m u).respond f anAccepted 0 else u.respond f anNotReady 0 := by
  rw [State.exchTarget, if_pos h.sub, State.target_eq h.toTargets]
  dsimp only
  rw [if_neg h.epoch, h.exchange]
  dsimp only
  rw [h.member]

/-! ### The commands -/

/-- Settles O25: each frame is acted on in the state that has read the job map, and the checks that its command makes there are
those that the statement names. -/
theorem targetCommands : Obligations.TargetCommands := by
  refine fun f x s u => ⟨?_, ?_, ?_, ?_, fun ex m => ⟨fun h => congrArg done (State.exchTarget_eq h _ _),
    fun h => congrArg done (State.exchTarget_eq h _ _), fun h => congrArg done (State.exchTarget_eq h _ _), ?_, ?_⟩, ?_⟩
  · intro reaches plain
    refine congrArg done ((State.target_eq reaches _).trans ?_)
    split
    · exact absurd rfl (plain _ _)
    · rfl
  · intro reaches plain low high
    refine congrArg done ((State.target_eq reaches _).trans ((if_neg (by omega)).trans ?_))
    split
    · exact absurd rfl (plain _ _)
    · rfl
  · intro reaches length
    exact congrArg done ((State.target_eq reaches _).trans (if_pos length))
  · intro e v w reaches channel entry rank valid expected core mine token
    refine congrArg done ((State.target_eq reaches _).trans ?_)
    dsimp only
    rw [expected, State.ringCheck_next channel entry rank valid]
    exact if_pos (by simp [core, mine, token])
  · intro h sending
    exact congrArg done ((State.exchTarget_eq h _ _).trans (if_neg (by rw [sending]; decide)))
  · intro h combining
    exact congrArg done ((State.exchTarget_eq h _ _).trans (if_pos combining))
  · intro pm fl i os is v reaches kind part flight place plan aligned inside length journal first round before
    refine congrArg done ((if_neg fun h => h kind).trans ((State.target_eq reaches _).trans ?_))
    have found : moveOf f pm = some i := place
    simp only [part, flight, found, plan]
    rw [if_neg (by simp [aligned, inside, length]), journal, State.served_ok]
    exact (if_neg fun h => h first).trans (if_neg (by simp [round, before]))

end Sys2Proof.Machine
end

section
/-! PROOFS. Resolution of faults that wait, and invalidation (R342 to R344, R359, R360). -/
namespace Sys2Proof.Machine

/-! ### Waiting faults (R344) -/

section waiting
variable {s : State} {p id : Nat} {f : XFault}

theorem faultRetry_waiting (waits : s.waitingFault p id = some f) :
    faultRetry p id s = (s.waiters f).foldl (fun v fl => v.resume fl) ((s.dropFault p f.id).count .prtCount p 2) := by
  rw [faultRetry, waits]

theorem faultRetry_gone (gone : s.waitingFault p id = none) : faultRetry p id s = s := by
  rw [faultRetry, gone]

theorem faultFail_waiting (waits : s.waitingFault p id = some f) : faultFail p id s = s.failFault p f 0x2001 := by
  rw [faultFail, waits]

theorem faultFail_gone (gone : s.waitingFault p id = none) : faultFail p id s = s := by
  rw [faultFail, gone]

end waiting

section timeout
variable {s : State} {p : Fin 16} {id : BitVec 16} {f : XFault}

/-- A fault that sapwood has left for the partition's timeout fails as the timeout's event says; a younger one stays. -/
theorem execFaultTimeout_waiting (waits : s.waitingFault p id.toNat = some f) :
    execFaultTimeout p id s
      = done (if s.since f.tick (us (s.fget rf_prtFaultTimeout_timeoutUs p)) then s.failFault p f 0x2006 else s) := by
  rw [execFaultTimeout, waits]

theorem execFaultTimeout_gone (gone : s.waitingFault p id.toNat = none) : execFaultTimeout p id s = done s := by
  rw [execFaultTimeout, gone]

end timeout

/-! ### Invalidation (R342, R359) -/

section invalidation
variable {s : State} {p v : Nat}

/-- A range is refused while an invalidation runs, by its size, or by its alignment. -/
theorem xltInval_refused (bad : s.fbit rf_prtStatus_invalBusy p = true ∨ bits v 53 48 < 16 ∨ 48 < bits v 53 48
      ∨ bits v 47 16 * 65536 % 2 ^ bits v 53 48 ≠ 0) :
    xltInval p v s = s.fset rf_prtStatus_invalError p 0 1 := if_pos bad

theorem xltInval_begins (idle : s.fbit rf_prtStatus_invalBusy p = false) (least : 16 ≤ bits v 53 48)
    (most : bits v 53 48 ≤ 48) (aligned : bits v 47 16 * 65536 % 2 ^ bits v 53 48 = 0) :
    xltInval p v s = (s.setPart p { s.part p with inval := some (bits v 47 16 * 65536, bits v 53 48) }).fset
      rf_prtStatus_invalBusy p 0 1 := by
  refine if_neg ?_
  rintro (busy | short | long | skew)
  · exact Bool.eq_false_iff.mp idle busy
  · exact Nat.not_lt.mpr least short
  · exact Nat.not_lt.mpr most long
  · exact skew aligned

/-- With no request of the partition open, no line to be added, and the save area elsewhere, an invalidation has nothing to
wait for. -/
theorem execInvalidationDone_clear {p : Fin 16} {va lg : Nat} (range : (s.part p).inval = some (va, lg))
    (quiet : ∀ q ∈ s.requests, q.p ≠ p.val) (added : (s.part p).adds = []) (apart : s.meetsSave p va (2 ^ lg) = false) :
    execInvalidationDone p s = done ((s.setPart p { s.part p with
      inval := none, xcache := (s.part p).xcache.filter fun e => !rangesMeet va (2 ^ lg) e.base (2 ^ e.log2) }).fset
        rf_prtStatus_invalBusy p 0 0) := by
  have noneOpen : (s.requests.any fun q => q.p = p.val && q.msg.isSome && q.aux.headD 0 = 0
      && rangesMeet va (2 ^ lg) (q.aux.getD 4 0) (q.aux.getD 5 0)) = false :=
    List.any_eq_false.mpr fun q mem => by simp [quiet q mem]
  simp only [execInvalidationDone, range, noneOpen, added, apart]
  rfl

end invalidation

/-- Settles O38: each command by whether the fault waits, or by what the range and the partition are. -/
theorem translationCommands : Obligations.TranslationCommands := by
  refine fun p s => ⟨fun id x waits => ⟨?_, ?_, ?_, ?_⟩, fun id gone => ⟨?_, ?_, ?_⟩, fun v => ⟨?_, ?_⟩, ?_⟩
  · exact congrArg done (faultRetry_waiting waits)
  · exact congrArg done (faultFail_waiting waits)
  · exact fun late => (execFaultTimeout_waiting waits).trans (congrArg done (if_pos late))
  · exact fun early => (execFaultTimeout_waiting waits).trans (congrArg done (if_neg (Bool.eq_false_iff.mp early)))
  · exact congrArg done (faultRetry_gone gone)
  · exact congrArg done (faultFail_gone gone)
  · exact execFaultTimeout_gone gone
  · exact fun bad => congrArg done (xltInval_refused bad)
  · exact fun idle least most aligned => congrArg done (xltInval_begins idle least most aligned)
  · exact fun _ _ => execInvalidationDone_clear

end Sys2Proof.Machine
end

section
/-! PROOFS. Pre-emption: the states that a partition passes through, and its save area (R347 to R352, R354, R355, R359). -/
namespace Sys2Proof.Machine

/-! ### Request, resume and release (R348) -/

section actions
variable {s : State} {p : Nat}

theorem preemptRequest_stops (idle : s.preState p = psNone) (armed : s.fbit rf_prtCtl_armed p = true)
    (settled : s.draining p = false) : preemptRequest p s =
      let u := ((s.setPre p psStopping).wakePart p).endTapWaits p
      u.setPart p { u.part p with preemptAsked := false } := by
  rw [preemptRequest, if_neg (not_not_intro idle), if_neg (not_not_intro armed), if_neg (Bool.eq_false_iff.mp settled)]

theorem preemptRequest_waits (idle : s.preState p = psNone) (armed : s.fbit rf_prtCtl_armed p = true)
    (drains : s.draining p = true) : preemptRequest p s = s.setPart p { s.part p with preemptAsked := true } := by
  rw [preemptRequest, if_neg (not_not_intro idle), if_neg (not_not_intro armed), if_pos drains]

theorem preemptRequest_unarmed (idle : s.preState p = psNone) (unarmed : s.fbit rf_prtCtl_armed p = false) :
    preemptRequest p s = (s.preError p).saveFault p := by
  rw [preemptRequest, if_neg (not_not_intro idle), if_pos (Bool.eq_false_iff.mp unarmed)]

theorem preemptRequest_refused (busy : s.preState p ≠ psNone) : preemptRequest p s = s.preError p := if_pos busy

theorem preemptResume_saved (saved : s.preState p = psSaved) : preemptResume p s = s.setPre p psRestoring := if_pos saved

theorem preemptResume_refused (other : s.preState p ≠ psSaved) : preemptResume p s = s.preError p := if_neg other

theorem preemptRelease_refused (other : s.preState p ≠ psSaved) : preemptRelease p s = s.preError p := if_pos other

/-- The count of waiting requesters stands beside the fault queue's pointers, in another register. -/
theorem State.faultqTail_syncFaults (s : State) (p : Nat) :
    (s.syncFaults p).fget rf_prtFaultqPtr_tail p = s.fget rf_prtFaultqPtr_tail p :=
  State.fget_fset_other _ _ _ _ _ _ _ _ (by decide)

/-- Release: the descriptors end, the streams are disabled, and the fault queue is emptied up to its tail. -/
theorem preemptRelease_saved (saved : s.preState p = psSaved) : preemptRelease p s =
    let u := (s.flights.filter fun fl => s.partOf fl.core = some p).foldl
      (fun (v : State) fl => (v.endFlight fl stPreempted).syncEngines fl.core (hOpcode fl.bytes)) s
    let v := (u.streamsOf p).foldl (fun (v : State) (k, st) => v.setStr k st ssDisabled) u
    let w := (v.setPart p { v.part p with faults := [], savedStreams := [], savedHeader := [], saved := none }).syncFaults p
    (((w.fset rf_prtFaultqPtr_head p 0 (w.fget rf_prtFaultqPtr_tail p)).setPre p psNone).applyDeferred p).applyVerdicts p := by
  rw [preemptRelease, if_neg (not_not_intro saved)]
  dsimp only
  rw [State.faultqTail_syncFaults]

end actions

/-! ### From STOPPING to RESTORING (R348, R351, R352) -/

section phases
variable {s : State} {p : Fin 16}

theorem execPreemptStopped_stops (taken : (s.part p).preemptAsked = false) (stopping : s.preState p = psStopping)
    (stopped : s.stopped p = true) : execPreemptStopped p s =
      let u := (s.clustersOf p).foldl State.slvPark s
      done ((u.setPre p psSaving).setPart p { u.part p with xcache := [] }) := by
  have noRequest : ¬ ((s.part p).preemptAsked && !s.draining p) = true := by simp [taken]
  rw [execPreemptStopped, if_neg noRequest, if_pos ⟨stopping, stopped⟩]

/-- What a save leaves of the partition: streams that are not DISABLED are SAVED, and the items of the save are taken. -/
def State.savedAs (s : State) (p : Nat) (h : Option (List Byte)) : State :=
  let sts := (s.streamsOf p).filterMap fun (k, st) =>
    if s.strState k st = ssDisabled then none else some (k, st, s.strState k st)
  let v := sts.foldl (fun (v : State) (k, st, _) => v.setStr k st ssSaved) s
  v.setPart p { v.part p with savedStreams := sts, savedHeader := h.getD [], saved := some (v.toSave p) }

theorem execSaveDone_saves {h : Option (List Byte)} {u : State} (saving : s.preState p = psSaving)
    (image : s.own (saveImage p (s.saveVa p) (s.saveBytes p / 4096)) = (h, u)) : execSaveDone p s =
      done (((((u.savedAs p h).setPre p psSaved).syncCol p).count .prtCount p 3).raise 0x2004 p
        ⟨8, p, 0, 0, s.saveVa p⟩) := by
  rw [execSaveDone, if_pos saving]
  dsimp only
  rw [image]
  rfl

/-- What a restore whose header passes leaves of the partition: the streams' states and the items of the save are back, and what
came meanwhile takes effect. -/
def State.restored (s : State) (p : Nat) : State :=
  let v := (s.part p).savedStreams.foldl (fun (v : State) (k, st, x) => v.setStr k st x) s
  let y := match (v.part p).saved with
    | some x => v.putBack p x
    | none => v
  let w := y.setPart p { y.part p with savedStreams := [], savedHeader := [], saved := none }
  let r := ((w.loseStores p).setPre p psNone).restartDrains p
  let t := (r.streamsOf p).foldl (fun (v : State) (k, st) => v.wakeStream k st) r
  ((t.syncCol p).applyDeferred p).applyVerdicts p

section restore
variable {h : List Byte} {u : State} (restoring : s.preState p = psRestoring)
  (image : s.own (restoreImage p (s.saveVa p) (s.saveBytes p / 4096)) = (some h, u))
include restoring image

theorem execRestoreDone_passes (same : h = (u.part p).savedHeader) :
    execRestoreDone p s = done ((u.restored p).raise 0x2007 p ⟨8, p, 0, 0, s.saveVa p⟩) := by
  rw [execRestoreDone, if_pos restoring]
  dsimp only
  rw [image]
  dsimp only
  rw [if_pos same]
  rfl

theorem execRestoreDone_fails (other : h ≠ (u.part p).savedHeader) :
    execRestoreDone p s = done ((u.setPre p psSaved).saveFault p) := by
  rw [execRestoreDone, if_pos restoring]
  dsimp only
  rw [image]
  dsimp only
  rw [if_neg other]

end restore

end phases

/-! ### The save area (R354) -/

/-- The addresses of the pages that arming walks. -/
def State.savePages (s : State) (p : Nat) : List Nat :=
  (List.range (ceilDiv (s.saveBytes p) 65536)).map fun i => s.saveVa p + 65536 * i

theorem armPreempt_walked {s u : State} {p : Nat} (walked : s.armWalk p (s.savePages p) = (true, u)) :
    armPreempt p s = (u.fset rf_prtCtl_armed p 0 1).fset rf_prtCtl_armError p 0 0 := by
  unfold State.savePages at walked
  rw [armPreempt, walked]

theorem armPreempt_failed {s u : State} {p : Nat} (failed : s.armWalk p (s.savePages p) = (false, u)) :
    armPreempt p s = ((u.fset rf_prtCtl_armed p 0 0).fset rf_prtCtl_armError p 0 1).saveFault p := by
  unfold State.savePages at failed
  rw [armPreempt, failed]

/-- Settles O39: each command by the state of the partition that it needs. -/
theorem preemptionCommands : Obligations.PreemptionCommands := by
  refine fun p s => ⟨?_, ?_, ?_, ?_, ?_, ?_, ?_, fun other => ⟨?_, ?_⟩, fun h u restoring image => ⟨?_, ?_⟩, ?_, ?_,
    fun u => ⟨?_, ?_⟩⟩
  · exact fun idle armed settled => congrArg done (preemptRequest_stops idle armed settled)
  · exact fun idle armed drains => congrArg done (preemptRequest_waits idle armed drains)
  · exact fun idle unarmed => congrArg done (preemptRequest_unarmed idle unarmed)
  · exact fun busy => congrArg done (preemptRequest_refused busy)
  · exact execPreemptStopped_stops
  · exact fun _ _ => execSaveDone_saves
  · exact fun saved => congrArg done (preemptResume_saved saved)
  · exact congrArg done (preemptResume_refused other)
  · exact congrArg done (preemptRelease_refused other)
  · exact execRestoreDone_passes restoring image
  · exact execRestoreDone_fails restoring image
  · exact fun saved => congrArg done (preemptRelease_saved saved)
  · exact fun _ => rfl
  · exact fun walked => congrArg done (armPreempt_walked walked)
  · exact fun failed => congrArg done (armPreempt_failed failed)

end Sys2Proof.Machine
end

section
/-! PROOFS. Physical memory: what a write through the line code leaves to be read, and what clearing a range leaves (R369, R370). -/
namespace Sys2Proof.Machine

theorem State.bytes_congr {s t : State} (h : t.mem = s.mem) (pa n : Nat) : t.bytes pa n = s.bytes pa n := by
  induction n generalizing pa with
  | zero => rfl
  | succ n ih => rw [State.bytes, State.bytes, State.byte_congr h, ih]

/-- Bytes of a write that is not turned away are read back. -/
theorem State.paWrite_written {s : State} {pa : Nat} {bs : List Byte} (written : (s.paWrite pa bs).1 = true) :
    (s.paWrite pa bs).2.bytes pa bs.length = bs := by
  have mem := s.paWrite_mem pa bs
  rw [if_pos written] at mem
  exact (State.bytes_congr mem pa _).trans (s.bytes_setBytes_same pa bs)

theorem State.paWrite_turnedAway {s : State} {pa : Nat} {bs : List Byte} (turnedAway : (s.paWrite pa bs).1 = false) :
    SameMemory s (s.paWrite pa bs).2 := by
  have mem := s.paWrite_mem pa bs
  rw [if_neg (Bool.eq_false_iff.mp turnedAway)] at mem
  exact State.byte_congr mem

/-- A read that meets no uncorrectable line delivers the bytes of memory. -/
theorem State.paRead_delivers {s : State} {pa n : Nat} {xs : List Byte} (delivered : (s.paRead pa n).1 = some xs) :
    xs = s.bytes pa n := by
  unfold State.paRead at delivered
  dsimp only at delivered
  split at delivered
  · cases delivered
  · rw [← Option.some.inj delivered]
    exact State.bytes_congr (s.mem_readLines 0 _) pa n

/-- Leaving out keys leaves the default at them and every other value. -/
theorem smGet_filter_keys {α : Type} (d : α) (keep : Nat → Bool) (m : SMap α) (x : Nat) :
    smGet d (m.filter fun e => keep e.1) x = if keep x then smGet d m x else d := by
  unfold smGet
  induction m with
  | nil => exact (ite_self d).symm
  | cons e m ih =>
    obtain ⟨k, v⟩ := e
    by_cases kept : keep k = true
    · rw [List.filter_cons, if_pos kept, aGet, aGet, ih]
      by_cases here : k = x
      · subst here; rw [if_pos rfl, if_pos rfl, if_pos kept]
      · rw [if_neg here, if_neg here]
    · rw [List.filter_cons, if_neg kept, ih, aGet]
      by_cases here : k = x
      · subst here; rw [if_neg kept, if_neg kept]
      · rw [if_neg here]

theorem State.byte_clearRange (s : State) (base size a : Nat) :
    (s.clearRange base size).byte a = if base ≤ a ∧ a < base + size then 0 else s.byte a := by
  refine (smGet_filter_keys 0 (fun a => a < base || base + size ≤ a) s.mem a).trans ?_
  by_cases cleared : base ≤ a ∧ a < base + size
  · rw [if_pos cleared, if_neg (by simpa using cleared)]
  · rw [if_neg cleared, if_pos (by simp only [Bool.or_eq_true, decide_eq_true_eq]; omega)]
    rfl

/-- Settles O4: a write is that of its bytes, or none; a read moves no byte; clearing filters by address. -/
theorem memoryOperations : Obligations.MemoryOperations := by
  refine fun s pa bs => ⟨s.paWrite_wf pa bs, s.paWrite_other pa bs, State.paWrite_written, State.paWrite_turnedAway,
    fun n => ⟨State.byte_congr (s.mem_paRead pa n), fun xs => State.paRead_delivers⟩, fun size canonical => ⟨?_, ?_⟩⟩
  · exact s.clearRange_wf pa size canonical
  · exact s.byte_clearRange pa size

end Sys2Proof.Machine
end

section
/-! PROOFS. Memory stacks: rates, temperature, refresh, scrub and hard repair (R371 to R374, R384, R387, R389). -/
namespace Sys2Proof.Machine

/-! ### Refresh and temperature (R373, R374) -/

/-- A reading of a stack's sensor, noted and shown in its register. -/
def State.tempShown (s : State) (st t : Nat) : State := (s.noteTemp (16 + st) t).fset rf_hbmStackStatus_tempC st 0 t

/-- A reading shown, and the ticks since which the stack has been cool enough to leave 2× refresh and the throttle. -/
def State.sensed (s : State) (st t : Nat) : State :=
  let u := s.tempShown st t
  u.setStackX st { u.stackX st with
    coolSince := if t ≤ u.fget rf_hbmRefreshCtl_tempLowerC st then some ((u.stackX st).coolSince.getD u.tick) else none,
    freeSince := if t + 5 ≤ u.fget rf_hbmRefreshCtl_tempLimitC st then some ((u.stackX st).freeSince.getD u.tick) else none }

section sensor
variable {s : State} {stack : Fin 12} {temp : BitVec 8}
  (trained : s.fbit rf_hbmStackStatus_trained stack = true) (awake : s.awake (domStack stack) = true)
  (kept : (s.sensed stack temp.toNat).fbit rf_hbmStackStatus_tempRaised stack = true
    ∨ temp.toNat < (s.sensed stack temp.toNat).fget rf_hbmRefreshCtl_tempRaiseC stack)
  (unthrottled : (s.sensed stack temp.toNat).fbit rf_hbmStackStatus_throttled stack = false)
include trained awake kept unthrottled

/-- A reading that raises no multiplier, of a stack that is not throttled: only the limit still counts. -/
theorem execHbmSensorRead_kept : execHbmSensorRead stack temp s =
    let v := s.sensed stack temp.toNat
    done (if (s.tempShown stack temp.toNat).fget rf_hbmRefreshCtl_tempLimitC stack ≤ temp.toNat then
        let w := v.fset rf_hbmStackStatus_throttled stack 0 1
        ((w.setStackX stack { w.stackX stack with throttleTick := w.tick }).raiseMod 0x3007 ⟨4, stack, 0, 0, 0⟩).rescale stack true
      else v) := by
  have noRaise : ¬ ((s.sensed stack temp.toNat).fget rf_hbmRefreshCtl_tempRaiseC stack ≤ temp.toNat
      ∧ ¬ (s.sensed stack temp.toNat).fbit rf_hbmStackStatus_tempRaised stack = true) :=
    fun raise => kept.elim raise.2 (Nat.not_lt.mpr raise.1)
  unfold State.sensed State.tempShown at noRaise unthrottled ⊢
  rw [execHbmSensorRead, if_pos ⟨trained, awake⟩]
  dsimp only at noRaise unthrottled ⊢
  rw [if_neg noRaise, if_neg (Bool.eq_false_iff.mp unthrottled)]

end sensor

theorem execHbmTempLowerHold_ends {s : State} {stack : Fin 12} {t : Nat} (cool : (s.stackX stack).coolSince = some t)
    (raised : s.fbit rf_hbmStackStatus_tempRaised stack = true) (held : s.since t (ms 100) = true) :
    execHbmTempLowerHold stack s = done ((s.fset rf_hbmStackStatus_tempRaised stack 0 0).effRefresh stack) := by
  rw [execHbmTempLowerHold, cool]
  dsimp only
  rw [if_pos ⟨raised, held⟩]

theorem execHbmThrottleEnd_ends {s : State} {stack : Fin 12} {t : Nat} (free : (s.stackX stack).freeSince = some t)
    (throttled : s.fbit rf_hbmStackStatus_throttled stack = true) (held : s.since t (ms 100) = true) :
    execHbmThrottleEnd stack s
      = done (((s.countThrottle stack).fset rf_hbmStackStatus_throttled stack 0 0).rescale stack true) := by
  rw [execHbmThrottleEnd, free]
  dsimp only
  rw [if_pos ⟨throttled, held⟩]

/-! ### Hard repair (R384, R387) -/

@[simp] theorem State.hbm_settle (s : State) : s.settle.hbm = s.hbm := by rw [s.settle_rest]

@[simp] theorem State.stackX_settle (s : State) (st : Nat) : s.settle.stackX st = s.stackX st := by
  unfold State.stackX; rw [s.hbm_settle]

theorem State.raiseMod_keeps (s : State) (code : Nat) (x : EvInfo) :
    Keeps eventRegs (fun s t => { s with evt := t.evt }) s (s.raiseMod code x) := .event .start

@[simp] theorem State.hbm_raiseMod (s : State) (code : Nat) (x : EvInfo) : (s.raiseMod code x).hbm = s.hbm := by
  rw [(s.raiseMod_keeps code x).rest]

/-- Registers that neither a record nor the alert moves read through the end of a command that raises an event. -/
theorem State.fget_raiseMod_settle (s : State) (code : Nat) (x : EvInfo) (f : RF) (i j : Nat) (noEvent : f.reg ∉ eventRegs)
    (noAlert : f.reg ∉ alertRegs) : (s.raiseMod code x).settle.fget f i j = s.fget f i j := by
  rw [State.fget_settle _ _ _ _ noAlert]
  unfold State.fget
  rw [(s.raiseMod_keeps code x).regs _ _ _ noEvent noAlert]

@[simp] theorem State.hbm_ledgerAdd (s : State) (type unit : Nat) (body : List Byte) :
    (s.ledgerAdd type unit body).hbm = s.hbm := by
  obtain ⟨free, ledger, seq, e⟩ := s.ledgerAdd_eq type unit body
  rw [e]; rfl

@[simp] theorem State.fget_ledgerAdd (s : State) (type unit : Nat) (body : List Byte) (f : RF) (i j : Nat) :
    (s.ledgerAdd type unit body).fget f i j = s.fget f i j := by
  obtain ⟨free, ledger, seq, e⟩ := s.ledgerAdd_eq type unit body
  rw [e]; rfl

/-- A row that a stack has repaired for good: no candidate any longer, nor under a soft repair (R384). -/
def State.repaired (s : State) (row : Nat) : State :=
  s.withHbm { s.hbm with
    cand := s.hbm.cand.filter (· ≠ row), soft := s.hbm.soft.filter (· ≠ row), hard := s.hbm.hard ++ [row] }

section repair
variable {s : State} {row : Nat} (repairing : s.hbm.repairing = some row)
include repairing

theorem execHardRepairDone_fails : execHardRepairDone false s =
    done (((s.withHbm { s.hbm with repairing := none }).fset rf_hbmRepairStatus_busy 0 0 0).fset
      rf_hbmRepairStatus_result 0 0 6) := by
  rw [execHardRepairDone, repairing]; rfl

theorem execHardRepairDone_takes : ∃ body x, execHardRepairDone true s =
    done ((((((s.withHbm { s.hbm with repairing := none }).fset rf_hbmRepairStatus_busy 0 0 0).repaired row).ledgerAdd 3
      (bankOfRow row / 4096) body).fset rf_hbmRepairStatus_result 0 0 2).raiseMod 0x3009 x) := by
  rw [execHardRepairDone, repairing]
  dsimp only
  rw [if_pos rfl]
  exact ⟨_, _, rfl⟩

/-- A row that the stack took is repaired for good alone, and the register shows the repair done. -/
theorem execHardRepairDone_done : ∃ t, execHardRepairDone true s = .next t ∧ t.fget rf_hbmRepairStatus_result = 2
    ∧ t.fbit rf_hbmRepairStatus_busy = false ∧ row ∈ t.hbm.hard ∧ row ∉ t.hbm.cand ∧ row ∉ t.hbm.soft := by
  obtain ⟨body, x, taken⟩ := execHardRepairDone_takes repairing
  refine ⟨_, taken, ?_, ?_, ?_, ?_, ?_⟩
  · rw [State.fget_raiseMod_settle _ _ _ _ _ _ (by decide) (by decide)]
    exact State.fget_fset_same _ _ _ _ _ (by decide) (by decide)
  · have apart (u : State) : (u.fset rf_hbmRepairStatus_result 0 0 2).fget rf_hbmRepairStatus_busy
        = u.fget rf_hbmRepairStatus_busy := State.fget_fset_apart _ _ _ _ _ _ rfl (by decide) (by decide) (.inr (by decide))
    have idle (u : State) : (u.fset rf_hbmRepairStatus_busy 0 0 0).fget rf_hbmRepairStatus_busy = 0 :=
      State.fget_fset_same _ _ _ _ _ (by decide) (by decide)
    unfold State.fbit
    rw [State.fget_raiseMod_settle _ _ _ _ _ _ (by decide) (by decide), apart, State.fget_ledgerAdd, State.repaired,
      State.fget_withHbm, idle]
    rfl
  all_goals simp [State.repaired]

end repair

/-- Settles O40: each command under what makes it act; a hard repair's end moves its row between the lists of repairs. -/
theorem hbmMaintenance : Obligations.HbmMaintenance := by
  refine fun s => ⟨?_, ?_, ?_, ?_, ?_, ?_, ?_, fun _ => rfl, ?_⟩
  · exact fun stack p v awake => congrArg done (State.regAccess_awake awake ..)
  · intro stack temp trained awake u limit v kept unthrottled
    have reading := execHbmSensorRead_kept trained awake kept unthrottled
    exact ⟨fun below => reading.trans (congrArg done (if_neg (Nat.not_le.mpr below))),
      fun reached => reading.trans (congrArg done (if_pos reached))⟩
  · exact fun _ _ => execHbmTempLowerHold_ends
  · exact fun _ _ => execHbmThrottleEnd_ends
  · exact fun stack ready => congrArg done (if_pos ready)
  · intro line bad st enabled inside ready awake
    exact congrArg done (if_pos ⟨enabled, inside, ready, awake⟩)
  · exact fun ended => congrArg done (if_pos ended)
  · exact fun row repairing => ⟨execHardRepairDone_fails repairing, execHardRepairDone_done repairing⟩

end Sys2Proof.Machine
end

section
/-! PROOFS. The regulator of a stack: a refill fills each bucket of each stack once, and the round-robin over minimums finds the one
class that has an access waiting (R376 to R378). -/
namespace Sys2Proof.Machine

/-! ### Refill (R377) -/

/-- A map in which each of the first keys is set from its own value. -/
theorem smGet_foldl_range {α : Type} [DecidableEq α] (d : α) (g : Nat → α → α) (m : SMap α) (n k : Nat) :
    smGet d ((List.range n).foldl (fun m c => smSet d m c (g c (smGet d m c))) m) k
      = if k < n then g k (smGet d m k) else smGet d m k := by
  induction n with
  | zero => rfl
  | succ n ih =>
    rw [List.range_succ, List.foldl_append, List.foldl_cons, List.foldl_nil]
    rcases Nat.lt_trichotomy k n with below | rfl | above
    · rw [smGet_smSet_ne _ _ _ (Nat.ne_of_lt below), ih, if_pos below, if_pos (Nat.lt_succ_of_lt below)]
    · rw [smGet_smSet_same, ih, if_neg (Nat.lt_irrefl k), if_pos (Nat.lt_succ_self k)]
    · rw [smGet_smSet_ne _ _ _ (Nat.ne_of_gt above), ih, if_neg (by omega), if_neg (by omega)]

/-- The buckets of a stack after a refill at a rate for each class. -/
def State.filled (s : State) (st : Nat) (rate : Nat → Nat) (m : SMap Nat) : SMap Nat :=
  (List.range 17).foldl (fun m c => smSet 0 m c (min (s.hbmBurst st c) (smGet 0 m c + 64 * rate c))) m

/-- A stack after a refill. -/
def State.refilled (s : State) (st : Nat) : StackX :=
  { s.stackX st with
    minBucket := s.filled st (s.hbmMin st) (s.stackX st).minBucket
    capBucket := s.filled st (s.hbmCap st) (s.stackX st).capBucket }

theorem State.smGet_filled (s : State) (st : Nat) (rate : Nat → Nat) (m : SMap Nat) (c : Fin 17) :
    smGet 0 (s.filled st rate m) c = min (s.hbmBurst st c) (smGet 0 m c + 64 * rate c) :=
  (smGet_foldl_range 0 (fun c x => min (s.hbmBurst st c) (x + 64 * rate c)) m 17 c).trans (if_pos c.isLt)

theorem State.minBucket_refilled (s : State) (st : Nat) (c : Fin 17) : smGet 0 (s.refilled st).minBucket c
    = min (s.hbmBurst st c) (smGet 0 (s.stackX st).minBucket c + 64 * s.hbmMin st c) := by
  rw [State.refilled, State.smGet_filled]

theorem State.capBucket_refilled (s : State) (st : Nat) (c : Fin 17) : smGet 0 (s.refilled st).capBucket c
    = min (s.hbmBurst st c) (smGet 0 (s.stackX st).capBucket c + 64 * s.hbmCap st c) := by
  rw [State.refilled, State.smGet_filled]

/-- What a stack is refilled to follows from the registers and the stack itself. -/
theorem State.refilled_congr {s t : State} {st : Nat} (regs : t.regs = s.regs) (stack : t.stackX st = s.stackX st) :
    t.refilled st = s.refilled st := by
  have field (f : RF) (i j : Nat) : t.fget f i j = s.fget f i j := State.fget_congr regs f i j
  have burst : t.hbmBurst st = s.hbmBurst st := by funext c; unfold State.hbmBurst; rw [field]
  have least : t.hbmMin st = s.hbmMin st := by funext c; unfold State.hbmMin; rw [field]
  have most : t.hbmCap st = s.hbmCap st := by funext c; unfold State.hbmCap; rw [field]
  unfold State.refilled State.filled
  rw [stack, burst, least, most]

/-- The first stacks refilled, one after the other. -/
def State.refill (s : State) (n : Nat) : State := (List.range n).foldl (fun s st => s.setStackX st (s.refilled st)) s

theorem State.refill_succ (s : State) (n : Nat) :
    s.refill (n + 1) = (s.refill n).setStackX n ((s.refill n).refilled n) := by
  unfold State.refill
  rw [List.range_succ, List.foldl_append, List.foldl_cons, List.foldl_nil]

theorem State.regs_refill (s : State) (n : Nat) : (s.refill n).regs = s.regs := by
  induction n with
  | zero => rfl
  | succ n ih => rw [s.refill_succ, State.regs_setStackX, ih]

theorem State.tick_refill (s : State) (n : Nat) : (s.refill n).tick = s.tick := by
  induction n with
  | zero => rfl
  | succ n ih => rw [s.refill_succ, State.tick_setStackX, ih]

/-- Each stack is refilled from its own state: those before it have left its registers and itself as they were. -/
theorem State.stackX_refill (s : State) (n k : Nat) :
    (s.refill n).stackX k = if k < n then s.refilled k else s.stackX k := by
  induction n with
  | zero => rfl
  | succ n ih =>
    rw [s.refill_succ]
    rcases Nat.lt_trichotomy k n with below | rfl | above
    · rw [State.stackX_setStackX_ne _ _ (Nat.ne_of_lt below), ih, if_pos below, if_pos (Nat.lt_succ_of_lt below)]
    · rw [if_neg (Nat.lt_irrefl k)] at ih
      rw [State.stackX_setStackX_same, State.refilled_congr (s.regs_refill k) ih, if_pos (Nat.lt_succ_self k)]
    · rw [State.stackX_setStackX_ne _ _ (Nat.ne_of_gt above), ih, if_neg (by omega), if_neg (by omega)]

theorem execRegulatorRefill_refills {s : State} (due : s.since s.hbm.refillTick 64 = true) : execRegulatorRefill s =
    done ((s.refill 12).withHbm { (s.refill 12).hbm with refillTick := (s.refill 12).tick }) := by
  unfold execRegulatorRefill State.refill State.refilled State.filled
  rw [if_pos due]

/-- The tick of the last refill is no part of a stack. -/
theorem State.stackX_withRefillTick (s : State) (t k : Nat) :
    (s.withHbm { s.hbm with refillTick := t }).stackX k = s.stackX k := rfl

/-! ### Scheduling (R378) -/

/-- The round-robin goes over every class, so it finds the only one that passes. -/
theorem nextClass_only {c : Nat} {ok : Nat → Bool} (after : Nat) (class17 : c < 17) (passes : ok c = true)
    (only : ∀ d, d ≠ c → ok d = false) : nextClass after ok = some c := by
  unfold nextClass
  have found : (((List.range 17).map fun i => (after + 1 + i) % 17).find? ok).isSome = true := by
    have turn : (after + 1 + (c + 16 * (after + 1)) % 17) % 17 = c := by omega
    exact List.find?_isSome.mpr ⟨c, List.mem_map.mpr ⟨_, List.mem_range.mpr (Nat.mod_lt _ (by decide)), turn⟩, passes⟩
  obtain ⟨d, h⟩ := Option.isSome_iff_exists.mp found
  have hit : ok d = true := List.find?_some h
  have same : d = c := Decidable.byContradiction fun other => Bool.eq_false_iff.mp (only d other) hit
  rw [h, same]

theorem State.hbmClass_lt (s : State) (r : HbmReq) : s.hbmClass r < 17 := by
  unfold State.hbmClass
  split
  · decide
  · dsimp only
    split
    · decide
    · omega

/-- The stack after an access of a class is served from its minimum (R378). -/
def StackX.serveMin (x : StackX) (pc c row : Nat) (r : HbmReq) : StackX :=
  { x with
    lastMin := smSet 0 x.lastMin pc c
    minBucket := smSet 0 x.minBucket c (smGet 0 x.minBucket c - reqCost r)
    capBucket := smSet 0 x.capBucket c (smGet 0 x.capBucket c - reqCost r)
    lastRow := smSet none x.lastRow pc (some row)
    skip := smSet false x.skip pc true
    served := x.served ++ [(pc, c, r.pa)] }

section slot
variable {s : State} {stack : Fin 12} {pc : Fin 64} (ready : s.fbit rf_hbmStackStatus_ready stack = true)
include ready

theorem execChannelSchedule_serves {r : HbmReq} (unthrottled : s.fbit rf_hbmStackStatus_throttled stack = false)
    (inside : r.pa < hbmTop) (here : (s.hbmPlace r.pa).stack = stack.val) (channel : (s.hbmPlace r.pa).pc = pc.val)
    (covers : reqCost r ≤ smGet 0 (s.stackX stack).minBucket (s.hbmClass r)) : execChannelSchedule stack pc [r] s =
      done (s.setStackX stack ((s.stackX stack).serveMin pc (s.hbmClass r) (rowNo (s.hbmPlace r.pa)) r)) := by
  unfold execChannelSchedule
  extract_lets st x reqs row head cost covered serve
  have waiting : reqs = [r] := List.filter_cons_of_pos (by simp [inside, here, channel, st])
  have own : head (s.hbmClass r) = some r := by
    simp only [head, waiting, List.filter_cons_of_pos, decide_true, List.filter_nil]
    split
    · rename_i r' h; exact congrArg some (List.mem_singleton.mp (List.mem_of_find?_eq_some h))
    · rfl
  have other (c : Nat) (h : c ≠ s.hbmClass r) : head c = none := by
    simp [head, waiting, Ne.symm h]
  have turn : nextClass (smGet 0 x.lastMin pc.val) (covered x.minBucket) = some (s.hbmClass r) := by
    refine nextClass_only _ (s.hbmClass_lt r) ?_ fun c h => ?_
    · simp only [covered, cost, own, Option.map_some]; exact decide_eq_true covers
    · simp only [covered, cost, other c h, Option.map_none]
  rw [if_neg (not_not_intro ready), if_neg fun h => Bool.eq_false_iff.mp unthrottled h.1, turn]
  simp only [serve, own]
  rfl

/-- A throttled stack leaves every other slot empty (R374). -/
theorem execChannelSchedule_skips (waiting : List HbmReq) (throttled : s.fbit rf_hbmStackStatus_throttled stack = true)
    (skips : smGet false (s.stackX stack).skip pc.val = true) : execChannelSchedule stack pc waiting s =
      done (s.setStackX stack { s.stackX stack with skip := smSet false (s.stackX stack).skip pc.val false }) := by
  unfold execChannelSchedule
  dsimp only
  rw [if_neg (not_not_intro ready), if_pos ⟨throttled, skips⟩]

end slot

/-- Settles O41: a refill class by class and stack by stack; the one class whose minimum covers its access has the turn. -/
theorem hbmRegulator : Obligations.HbmRegulator := by
  refine fun s => ⟨fun due => ⟨_, execRegulatorRefill_refills due, ?_, fun stack c => ?_⟩, ?_, ?_⟩
  · rw [State.hbm_settle, State.hbm_withHbm, State.tick_refill]
  · rw [State.stackX_settle, State.stackX_withRefillTick, State.stackX_refill, if_pos stack.isLt]
    exact ⟨s.minBucket_refilled .., s.capBucket_refilled ..⟩
  · exact fun _ _ _ ready unthrottled inside here channel covers =>
      execChannelSchedule_serves ready unthrottled inside here channel covers
  · exact fun _ _ rs ready => execChannelSchedule_skips ready rs

end Sys2Proof.Machine
end

section
/-! PROOFS. Links and their frames (R395 to R403): each command under the state of the link that it needs, and a received frame by its
place in the sequence. -/
namespace Sys2Proof.Machine

/-- Settles O33: each command by the link's state and the time that it asks for. -/
theorem linkStates : Obligations.LinkStates := by
  refine fun port s => ⟨rfl, fun high => ⟨?_, ?_, ?_⟩, ?_, fun fabric linked => ⟨?_, ?_, ?_, ?_, ?_⟩, ?_, ?_,
    fun awake => ⟨?_, ?_⟩⟩
  · exact fun training fabric => congrArg done (if_pos ⟨training, fabric⟩)
  · exact fun _ host => congrArg done (if_neg fun h => Bool.eq_false_iff.mp host h.2)
  · exact fun relaning early healthy => congrArg done (if_pos ⟨relaning, Bool.eq_false_iff.mp early, healthy⟩)
  · exact fun training late => congrArg done (if_pos ⟨training, late⟩)
  · exact fun silent => congrArg done (if_pos ⟨fabric, linked, silent⟩)
  · exact fun heard => congrArg done (if_neg fun h => Bool.eq_false_iff.mp heard h.2.2)
  · exact fun spent => congrArg done (if_pos ⟨fabric, linked, spent⟩)
  · exact fun left => congrArg done (if_neg fun h => Nat.not_lt.mpr h.2.2 left)
  · exact fun _ failed => congrArg done (if_pos ⟨fabric, linked, failed⟩)
  · exact fun relaning late => congrArg done (if_pos ⟨relaning, late⟩)
  · exact fun down late => congrArg done (if_pos ⟨down, late⟩)
  · exact congrArg done (State.regAccess_awake awake ..)
  · exact congrArg (fun u => done (portDisable port u)) (if_pos awake)

/-- Settles O34: a frame by its FCS, its header and how far it lies from the number expected; a flow frame that asks for no resending
and tells of no lane only brings its own fields. -/
theorem framesOfALink : Obligations.FramesOfALink := by
  refine fun port s fabric => ⟨?_, ?_, ?_, ?_⟩
  · intro seq shared f c alive a u d
    have headed : ¬ ¬ true = true := not_not_intro rfl
    refine ⟨?_, ?_, ?_, ?_, ?_, ?_⟩
    · exact fun header => congrArg done (if_pos ⟨fabric, alive⟩)
    · exact fun next known => congrArg done ((if_pos ⟨fabric, alive⟩).trans ((if_neg headed).trans
        ((if_neg (Int.not_lt.mpr (Int.le_of_eq next.symm))).trans ((if_neg (Int.not_lt.mpr (Int.le_of_eq next))).trans
          (if_pos known)))))
    · exact fun below => congrArg done ((if_pos ⟨fabric, alive⟩).trans ((if_neg headed).trans (if_pos below)))
    · exact fun beyond => congrArg done ((if_pos ⟨fabric, alive⟩).trans ((if_neg headed).trans
        ((if_neg (Int.not_lt.mpr (Int.le_of_lt beyond))).trans (if_pos beyond))))
    · exact congrArg done ((if_pos ⟨fabric, alive⟩).trans (if_pos Bool.false_ne_true))
    · exact fun below header => congrArg done ((if_pos ⟨fabric, alive⟩).trans (if_pos below))
  · exact fun linked => congrArg done (if_pos ⟨fabric, linked⟩)
  · intro src b linked length taken trained u x keep moved
    have noResend (v : State) : (if fldBit b 2 4 = true ∧ v.alive port = true then v.resendAll port else v) = v :=
      if_neg fun h => Bool.eq_false_iff.mp taken h.1
    refine congrArg done ((if_pos ⟨fabric, linked, length⟩).trans (congrArg (State.portDrained · port) ?_))
    exact (if_neg (Bool.eq_false_iff.mp trained)).trans (noResend _)
  · intro alive unacked late
    have held : (!(s.port port).retry.isEmpty) = true := by simpa using unacked
    exact congrArg done (if_pos ⟨fabric, alive, held, late⟩)

end Sys2Proof.Machine
end

section
/-! PROOFS. Coordinates, shaping and the fault map (R406, R410, R414, R422, R429). -/
namespace Sys2Proof.Machine

/-- Registers that neither a record nor the alert moves keep their fields when an event is raised. -/
theorem State.fget_raiseMod (s : State) (code : Nat) (x : EvInfo) (f : RF) (i j : Nat) (noEvent : f.reg ∉ eventRegs)
    (noAlert : f.reg ∉ alertRegs) : (s.raiseMod code x).fget f i j = s.fget f i j := by
  unfold State.fget
  rw [(s.raiseMod_keeps code x).regs _ _ _ noEvent noAlert]

/-- Coordinates written with their valid bit clear leave the module without valid ones. -/
theorem State.fbit_takeCoord {s : State} {v : Nat} (invalid : v / 2 ^ 24 % 2 = 0) :
    (s.takeCoord v).fbit rf_fabCoord_valid = false := by
  have clear : bits v 24 24 = 0 := by rw [bits, Nat.shiftRight_eq_div_pow]; exact invalid
  unfold State.takeCoord State.fbit
  dsimp only
  rw [State.fget_fset_same _ _ _ _ _ (by decide) (by decide), clear]
  rfl

theorem execCoordTakeEffect_invalid {s : State} {v : Word} (written : s.fab.coordNext = some v)
    (empty : s.channelsEmpty = true) (invalid : v.toNat / 2 ^ 24 % 2 = 0) : execCoordTakeEffect s =
      done ((s.withFab { s.fab with coordNext := none }).takeCoord v.toNat) := by
  unfold execCoordTakeEffect
  rw [written]
  exact congrArg done ((if_pos empty).trans (if_neg (Bool.eq_false_iff.mp (State.fbit_takeCoord invalid))))

theorem execCoordTakeEffect_waits {s : State} (waits : s.fab.coordNext = none ∨ s.channelsEmpty = false) :
    execCoordTakeEffect s = done s := by
  unfold execCoordTakeEffect
  obtain unwritten | busy := waits
  · rw [unwritten]
  · split
    · exact congrArg done (if_neg (Bool.eq_false_iff.mp busy))
    · rfl

/-- A fold none of whose steps moves. -/
theorem foldl_still {α β : Type} {step : β → α → β} (xs : List α) (still : ∀ y x, step y x = y) (y : β) :
    xs.foldl step y = y := foldl_keeps id step xs (fun y x _ => still y x) y

/-- Two folds whose steps agree on the list's elements. -/
theorem foldl_agree {α β : Type} {f g : β → α → β} (xs : List α) (agree : ∀ y, ∀ x ∈ xs, f y x = g y x) (y : β) :
    xs.foldl f y = xs.foldl g y := by
  induction xs generalizing y with
  | nil => rfl
  | cons x xs ih =>
    rw [List.foldl_cons, List.foldl_cons, agree y x (List.mem_cons_self ..), ih fun y z hz => agree y z (List.mem_cons_of_mem _ hz)]

/-- Settles O35: coordinates that are not valid end where they are taken; of a fault map that names no module, every entry of the tables
is installed and no port is disabled. -/
theorem coordinatesAndRoutes : Obligations.CoordinatesAndRoutes := by
  refine fun s => ⟨fun v => ?_, fun _ => execCoordTakeEffect_invalid, execCoordTakeEffect_waits, ?_, ?_, ?_⟩
  · exact congrArg (fun w => done (s.withFab { s.fab with coordNext := some w })) (BitVec.ofNat_toNat ..)
  · intro port kx ky kz x y z serves fabric alive role v
    have reached : s.serves = true ∧ isFabric port = true ∧ s.alive port = true ∧ s.fget rf_glbProfile_role ≠ 2 :=
      ⟨serves, fabric, alive, role⟩
    refine ⟨?_, ?_, ?_⟩
    · intro invalid free
      have untaken : ¬ s.fab.coordNext.isSome = true := by rw [free]; decide
      exact congrArg done ((if_pos reached).trans ((if_neg (Bool.eq_false_iff.mp invalid)).trans (if_neg untaken)))
    · exact fun valid same => congrArg done ((if_pos reached).trans ((if_pos valid).trans (if_pos same)))
    · intro valid other member u
      have still : (u.withGrove { u.grove with conflict := true }).fget rf_grvRole_groveState = 3 := by
        rw [State.fget_withGrove]
        exact (s.fget_raiseMod _ _ _ _ _ (by decide) (by decide)).trans member
      exact congrArg done ((if_pos reached).trans ((if_pos valid).trans ((if_neg other).trans (if_pos still))))
  · exact fun p due => congrArg done (if_pos due)
  · intro g links gen up tables manager fresh within
    have notLost (m : Nat) : ¬ ([] : List Nat).contains m = true := by simp
    refine congrArg done ((grvOrder_new manager fresh _).trans ((if_neg (notLost _)).trans
      ((foldl_still _ (fun _ _ => if_neg fun h => notLost _ h.2.2) _).trans ?_)))
    exact congrArg (fun v => State.fset (State.fset (State.fset v rf_fabRouteCtl_upMask 0 0 up.toNat)
      rf_fabRouteCtl_detourGen 0 0 gen) rf_fabRouteCtl_detourEnable 0 0 1)
      (foldl_agree tables (fun _ e mem => if_pos (within e mem)) _)

end Sys2Proof.Machine
end

section
/-! PROOFS. Messages at a host port (R415 to R417): the next message of a queue pair is acted on in the state that has taken it. -/
namespace Sys2Proof.Machine

/-! ### As responder -/

/-- No operation of R415's table is one of those that are well formed and not supported. -/
theorem rcUnsupported_of_supported {op : Nat} (supported : rcSupported op = true) : rcUnsupported op = false := by
  have each : ∀ op ∈ [rcSend, rcSendImm, rcWrite, rcWriteImm, rcRead, rcReadResponse, rcAck, rcAtomicAck, rcCompareSwap,
    rcFetchAdd, rcCnp, rcAccumulate, rcAccumulateAck], rcUnsupported op = false := by decide
  exact each op (List.contains_iff_mem.mp supported)

theorem State.hostArrives_next {s : State} {r : Roce} {c : QpConf} {ops : List Nat} (delivers : Delivers ops r c s)
    (supported : ∀ op ∈ ops, rcSupported op = true) (act dup : State → QpX → State) :
    s.hostArrives r c ops act dup = act (s.delivered r c).1 (s.delivered r c).2 := by
  obtain ⟨serves, ⟨port, up⟩, op, pair, works, next⟩ := delivers
  have known : rcSupported r.opcode = true := supported _ (List.contains_iff_mem.mp op)
  have taken : ¬ (¬ qpnOk r = true ∨ ¬ (rcSupported r.opcode = true ∨ rcUnsupported r.opcode = true)) :=
    fun h => h.elim (fun odd => odd pair) fun odd => odd (.inl known)
  unfold State.delivered at works
  unfold State.hostArrives State.delivered
  dsimp only at works next ⊢
  rw [if_pos ⟨serves, port, up, .inl op⟩, if_neg taken, if_neg (Bool.eq_false_iff.mp works), next, if_neg (by decide),
    if_neg (by decide), if_neg (Bool.eq_false_iff.mp (rcUnsupported_of_supported known))]

/-! ### As requester -/

/-- A timer that has run out acts by the retries that the queue pair has left. -/
theorem execRoceRetryTimeout_due {s : State} {n : BitVec 24} {c : QpConf} {q : QpX} {e : Roce × Nat × Nat}
    {es : List (Roce × Nat × Nat)} (pair : smGet none s.fab.qps n.toNat = some q) (sent : q.sent = e :: es)
    (works : q.err = false) (due : s.since e.2.2 (us c.timeoutUs) = true) : execRoceRetryTimeout n c s =
      done (if c.retry ≤ q.retries then s.qpError n.toNat { q with conf := c }
        else s.hostResend n.toNat { q with conf := c, retries := q.retries + 1 }) := by
  have expires : (!q.err) = true ∧ s.since e.2.2 (us c.timeoutUs) = true := ⟨by rw [works]; rfl, due⟩
  unfold execRoceRetryTimeout
  dsimp only
  rw [pair]
  dsimp only
  rw [sent]
  exact congrArg done (if_pos expires)

/-- Settles O36: each operation is served in the state that its message has been delivered to; an acknowledgement and the timer by what
the queue pair has sent. -/
theorem roceMessages : Obligations.RoceMessages := by
  intro r c s
  have served {ops : List Nat} (delivers : Delivers ops r c s) (supported : ∀ op ∈ ops, rcSupported op = true)
      (act dup : State → QpX → State) :
      done (s.hostArrives r c ops act dup) = done (act (s.delivered r c).1 (s.delivered r c).2) :=
    congrArg done (State.hostArrives_next delivers supported act dup)
  refine ⟨?_, ?_, fun delivers => ⟨?_, ?_⟩, ?_, ?_, ?_, ?_, ?_, fun n q e es pair sent works due => ⟨?_, ?_⟩⟩
  · intro delivers admin buffer
    refine (served delivers (by decide) _ _).trans ?_
    rw [admin, done]
  · intro delivers pair
    obtain ⟨p, owner⟩ := Option.isSome_iff_exists.mp pair
    refine (served delivers (by decide) _ _).trans ?_
    rw [owner, done]
  · exact fun short => (served delivers (by decide) _ _).trans (congrArg done (if_pos short))
  · exact fun whole => (served delivers (by decide) _ _).trans (congrArg done (if_neg (not_not_intro whole)))
  · exact fun delivers => served delivers (by decide) _ _
  · exact fun delivers => served delivers (by decide) _ _
  · exact fun delivers => served delivers (by decide) _ _
  · exact fun delivers => served delivers (by decide) _ _
  · intro serves port up pair op positive a b works
    have noRead : ¬ r.opcode = rcReadResponse := by rw [op]; decide
    exact congrArg done ((if_pos ⟨serves, port, up, pair⟩).trans ((if_neg (Bool.eq_false_iff.mp works)).trans
      ((if_neg noRead).trans ((if_pos op).trans (if_pos positive)))))
  · exact fun left => (execRoceRetryTimeout_due pair sent works due).trans (congrArg done (if_neg (Nat.not_le.mpr left)))
  · exact fun spent => (execRoceRetryTimeout_due pair sent works due).trans (congrArg done (if_pos spent))

end Sys2Proof.Machine
end

section
/-! PROOFS. Congestion at a host port (R418, R419): pauses and their watchdog, and the rate of a queue pair. -/
namespace Sys2Proof.Machine

/-! ### Rates (R419) -/

section rate
variable {s : State} {n : BitVec 24} {x : QpX} (pair : smGet none s.fab.qps n.toNat = some x)
include pair

theorem execCnp_off (off : s.fbit rf_fabHostCtl_ecnEnable = false) : execCnp n s = done s := by
  unfold execCnp
  rw [pair]
  exact congrArg done (if_neg (Bool.eq_false_iff.mp off))

/-- A CNP at least 50 µs after the last cut, or the first one, halves the rate. -/
theorem execCnp_cuts (on : s.fbit rf_fabHostCtl_ecnEnable = true) (due : ∀ t, x.cut = some t → s.since t (us 50) = true) :
    execCnp n s = done (s.setQp n.toNat { x with rate := max gbit (x.rate / 2), cut := some s.tick, changed := s.tick }) := by
  unfold execCnp
  rw [pair]
  refine congrArg done ((if_pos on).trans ?_)
  cases cut : x.cut with
  | none => rfl
  | some t => simp only [due t cut, if_true]

/-- An earlier one only keeps the rate from rising. -/
theorem execCnp_early {t : Nat} (on : s.fbit rf_fabHostCtl_ecnEnable = true) (cut : x.cut = some t)
    (early : s.since t (us 50) = false) : execCnp n s = done (s.setQp n.toNat { x with changed := s.tick }) := by
  unfold execCnp
  rw [pair]
  refine congrArg done ((if_pos on).trans ?_)
  simp only [cut, early, if_neg Bool.false_ne_true]

theorem execCnpRateIncrease_eq : execCnpRateIncrease n s = done (if s.since x.changed (us 55) then
    s.setQp n.toNat { x with rate := min portRate (x.rate + gbit), changed := s.tick } else s) := by
  unfold execCnpRateIncrease
  rw [pair]

end rate

/-! ### PFC (R418) -/

theorem execPfcWatchdog_waits {s : State} {port : Fin 4} {prio : Fin 8} {t : Nat}
    (paused : smGet none (s.port port).paused prio = some t)
    (waits : s.fget rf_fabHostCtl_pfcWatchdogMs = 0 ∨ s.since t (ms (s.fget rf_fabHostCtl_pfcWatchdogMs)) = false) :
    execPfcWatchdog port prio s = done s := by
  unfold execPfcWatchdog
  dsimp only
  rw [paused]
  refine congrArg done (if_neg fun ⟨on, due⟩ => ?_)
  exact waits.elim on fun early => Bool.eq_false_iff.mp early due

/-- Settles O37: a pause by whether it is ignored, the watchdog by its limit, a CNP by the time of the last cut. -/
theorem congestionControl : Obligations.CongestionControl := by
  refine fun s => ⟨fun port prio up enabled => ⟨?_, ?_, ?_⟩, fun _ _ _ => execPfcWatchdog_waits, ?_, ?_,
    fun n x pair => ⟨execCnp_cuts pair, fun _ => execCnp_early pair, execCnp_off pair, ?_, ?_⟩⟩
  · exact fun heeded => congrArg done ((if_pos ⟨up, enabled⟩).trans
      (congrArg (s.setPort port) (if_neg (Bool.eq_false_iff.mp heeded))))
  · exact fun ignored => congrArg done ((if_pos ⟨up, enabled⟩).trans (congrArg (s.setPort port) (if_pos ignored)))
  · exact congrArg done (if_pos ⟨up, enabled⟩)
  · intro port prio t paused on due
    refine congrArg done ?_
    rw [paused]
    exact if_pos ⟨on, due⟩
  · exact fun port prio ignored quiet => congrArg done (if_pos ⟨ignored, quiet⟩)
  · exact fun quiet => (execCnpRateIncrease_eq pair).trans (congrArg done (if_pos quiet))
  · exact fun early => (execCnpRateIncrease_eq pair).trans (congrArg done (if_neg (Bool.eq_false_iff.mp early)))

end Sys2Proof.Machine
end

section
/-! PROOFS. Recovery of a lost member (R438, R440, R444 to R451): at a worker and a spare an order of the manager is obeyed in the
state that has read it; at the manager a report is taken in the state of the job that waits for it. -/
namespace Sys2Proof.Machine

/-! ### At a worker and at a spare -/

/-- The first LOST of a recovery epoch that does not lie behind the partition's is obeyed and, where no rollback is asked for,
answered at once (R445). -/
theorem execLost_withoutRollback {g : Mg} {s l : State} {r : Nat} (modules : List Nat) (manager : s.fromManager g.src = true)
    (fresh : NewGrove mtLost r g s) (runs : s.admits g.dst.part = true) (ahead : s.epoch g.dst.part ≤ r)
    (moved : s.lostEpoch g.dst.part r none = l) : execLost g modules r none s = done (((l.ackMg g).grvSend g.dst.part mtRollbackDone
      g.job r l.manager (.rollbackDone r)).withSeen (l.seen ++ [(mtLost, g.job, r, g.src)])) := by
  have reached : ¬ ((!s.fromManager g.src) = true ∨ (!s.grvArrives g) = true ∨ (!s.admits g.dst.part) = true) := by
    simp [manager, fresh.arrives, runs]
  have unknown : ¬ s.seen.contains (mtLost, g.job, r, g.src) = true := by simpa using fresh.fresh
  unfold execLost
  dsimp only
  rw [if_neg reached, if_neg unknown, if_neg (Nat.not_lt.mpr ahead), moved]
  rfl

/-- Once every piece of a spare's column is rebuilt and no gather is in flight, the spare writes what parity does not cover and
reports (R449). -/
theorem execSpareFinalise_reports {q : Fin 16} {factors : List Nat} {b : Rebuild} {r : ParRec} {s u v : State} {x : Unit}
    (rebuild : (s.par q).rebuild = some b) (record : s.parRecord q = (some r, u))
    (finished : r.quarter * max 1 b.lost.length ≤ b.finished.length) (spare : b.positions.contains r.position = true)
    (idle : u.opPending q (u.epoch q) [0x63] = false)
    (written : u.ownE (finaliseAll (accountReq q) (u.layerTable q) factors) = (.ok x, v)) :
    let w := v.setPar q { v.par q with rebuild := none }
    execSpareFinalise q factors s = done ((w.grvSend q mtReconstructDone (v.part q).job b.r w.manager
      (.reconstructDone b.r)).raise 0xC003 q ⟨8, q, 0, addrModule (w.here q) + ((v.part q).job <<< 16), b.r⟩) := by
  have ready : r.quarter * max 1 b.lost.length ≤ b.finished.length ∧ b.positions.contains r.position = true
      ∧ (!u.opPending q (u.epoch q) [0x63]) = true := ⟨finished, spare, by rw [idle]; rfl⟩
  unfold execSpareFinalise
  rw [rebuild, record]
  dsimp only
  rw [if_pos ready, written]

/-- Settles O28: an order of the manager is obeyed in the state that has read it, whose epochs and roles are as they were. -/
theorem recoveryAtWorker : Obligations.RecoveryAtWorker := by
  refine fun g s manager => ⟨?_, ?_, ?_, ?_, ?_, ?_, ?_, fun _ _ => ⟨rfl, rfl⟩⟩
  · exact fun modules r fresh runs ahead => execLost_withoutRollback modules manager fresh runs ahead rfl
  · exact fun lost r q writes regs fresh spare => congrArg done ((grvOrder_new manager fresh _).trans (if_pos spare))
  · intro r lost fresh same
    change execReconstruct g r lost s = _
    unfold execReconstruct
    -- how far the rebuild may go plays no part, and no piece of it need be computed
    generalize rebuildFuel = fuel
    exact congrArg done ((grvOrder_new manager fresh _).trans (if_pos same))
  · exact fun epoch lsExp fresh ahead => congrArg done ((grvOrder_new manager fresh _).trans (if_pos ahead))
  · exact fun epoch map plan encode fresh ahead => congrArg done ((grvOrder_new manager fresh _).trans (if_pos ahead))
  · exact fun epoch fresh => congrArg done (grvOrder_new manager fresh _)
  · intro q factors b r u v x rebuild record finished spare idle written w
    change execSpareFinalise q factors s = done _
    exact execSpareFinalise_reports rebuild record finished spare idle written

/-! ### At the manager -/

section report
variable {type r st : Nat} {g : Mg} {s : State} {j : MgrJob} (fresh : NewGrove type r g s)
  (manages : Manages (s.readGrove type r g) g.job j)
include fresh manages

/-- The first report of a job's epoch is acted on in the state that waits for it. -/
theorem State.onRecovery_acts (waits : j.state = st) (epoch : r = j.epoch) (act : State → MgrJob → State) :
    s.onRecovery type r g st act = act (s.readGrove type r g) j := by
  rw [State.onRecovery, grvReceive_new fresh, onJob_managed manages, if_pos ⟨waits, epoch⟩]

/-- In any other state it is only acknowledged. -/
theorem State.onRecovery_ignores (other : j.state ≠ st) (act : State → MgrJob → State) :
    s.onRecovery type r g st act = s.readGrove type r g := by
  rw [State.onRecovery, grvReceive_new fresh, onJob_managed manages, if_neg fun h => other h.1]

end report

/-- Settles O30: a report by the state of its job, and a phase's end by whether every report is in. -/
theorem recoveryAtManager : Obligations.RecoveryAtManager := by
  intro g r s j epoch u k new
  have acts {type st : Nat} (h : new type st) (act : State → MgrJob → State) :
      s.onRecovery type r.toNat g st act = act (u type) j := State.onRecovery_acts h.1 h.2.1 h.2.2 epoch act
  have ignores {type st st' : Nat} (h : new type st) (other : st ≠ st') (act : State → MgrJob → State) :
      done (s.onRecovery type r.toNat g st' act) = .next (u type).settle :=
    congrArg done (State.onRecovery_ignores h.1 h.2.1 (h.2.2 ▸ other) act)
  refine ⟨?_, ?_, fun h => ⟨?_, ?_⟩, fun h => ⟨?_, ?_⟩, fun st => ⟨?_, ?_, ?_, ?_⟩⟩
  · exact fun h survivor => congrArg done ((acts h _).trans (if_pos survivor))
  · exact fun h spare => congrArg done ((acts h _).trans (if_pos spare))
  · exact fun all => congrArg done ((acts h _).trans (if_pos all))
  · exact fun missing => congrArg done ((acts h _).trans (if_neg (Bool.eq_false_iff.mp missing)))
  · exact fun all => congrArg done ((acts h _).trans (if_pos all))
  · exact fun missing => congrArg done ((acts h _).trans (if_neg (Bool.eq_false_iff.mp missing)))
  · exact fun h other => ignores h other _
  · exact fun h other => ignores h other _
  · exact fun h other => ignores h other _
  · exact fun h other => ignores h other _

end Sys2Proof.Machine
end

section
/-! PROOFS. Roles and liveness (R427, R434, R435, R453): a mode is taken once, a pulse goes to the known manager and is noted at it, and
a silent module is lost. -/
namespace Sys2Proof.Machine

/-! ### Modes (R427) -/

theorem mgrMode_taken {s : State} {mode : Nat} (role : s.fget rf_grvRole_role = 1) (unset : s.fget rf_grvMgrCtl_mode = 0)
    (outside : s.fget rf_grvRole_groveState ≠ 3) :
    let v := (s.fset rf_grvMgrCtl_mode 0 0 mode).fset rf_grvRole_managerMode 0 0 mode
    mgrMode mode s = if mode = 1 then
      (v.fset rf_grvManager_manager 0 0 (addrModule v.me)).fset rf_grvManager_managerValid 0 0 1 else v :=
  if_pos ⟨role, unset, outside⟩

theorem mgrMode_refused {s : State} (refused : s.fget rf_grvRole_role ≠ 1 ∨ s.fget rf_grvMgrCtl_mode ≠ 0
    ∨ s.fget rf_grvRole_groveState = 3) (mode : Nat) : mgrMode mode s = s := by
  refine if_neg fun ⟨role, unset, outside⟩ => ?_
  obtain other | set | inside := refused
  · exact other role
  · exact set unset
  · exact outside inside

/-! ### Pulses (R434, R435, R453) -/

/-- A pulse that is due goes to the manager alone where no standby is known (R434). -/
theorem execPulseSend_toManager {s : State} {t : Nat} (serves : s.serves = true) (pulsed : s.grove.pulsed = some t)
    (due : s.since t (ms (s.fget rf_grvLiveness_pulseMs)) = true) (member : s.fget rf_grvRole_groveState = 3)
    (known : s.fbit rf_grvManager_managerValid = true) (alone : s.fbit rf_grvManager_standbyValid = false)
    (other : s.fget rf_grvManager_manager ≠ addrModule s.me) : execPulseSend s =
      done (((s.withGrove { s.grove with pulsed := some s.tick }).grvOnce 0 (moduleAddr (s.fget rf_grvManager_manager) 0)
        (.pulse (s.fget rf_grvRole_term) (s.fbit rf_glbStatus_sapwoodRestarting) (s.fbit rf_glbStatus_sapwoodFailed)
          s.linkStates ((List.range 16).map s.epoch))).count .grvCount 0 0) := by
  have sends (m : Nat) (away : m ≠ addrModule s.me) : List.filter (fun n => decide (n ≠ addrModule s.me)) ([m] ++ []) = [m] :=
    List.filter_cons_of_pos (decide_eq_true away)
  unfold execPulseSend
  dsimp only
  rw [pulsed, if_pos ⟨serves, due, .inl member⟩, if_pos known, if_neg (Bool.eq_false_iff.mp alone)]
  exact congrArg (fun dest : List Nat => done (dest.foldl _ _)) (sends _ other)

theorem State.peer_count (s : State) (r : RegName) (i j n m : Nat) : (s.count r i j n).peer m = s.peer m := by
  unfold State.count
  split <;> rfl

theorem State.tick_count (s : State) (r : RegName) (i j n : Nat) : (s.count r i j n).tick = s.tick := by
  unfold State.count
  split <;> rfl

/-- Counting a pulse leaves the module's term. -/
theorem State.term_pulseCounted (s : State) : (s.count .grvCount 1 0).fget rf_grvRole_term = s.fget rf_grvRole_term :=
  s.fget_count_other _ _ _ _ _ _ _ (by decide)

/-- A pulse of a module that is not lost is noted at the active manager (R435). -/
theorem execPulse_heard {g : Mg} {term : BitVec 16} {s : State} {q : Peer} (restarting : Bool) (arrives : s.grvArrives g = true)
    (active : s.fget rf_grvRole_managerMode = 1) (current : term.toNat ≤ s.fget rf_grvRole_term)
    (known : s.peer (addrModule g.src) = some q) (lives : q.lost = false) : execPulse g term restarting false s =
      done ((s.count .grvCount 1 0).setPeer { q with
        last := s.tick, restarting := if restarting then some (q.restarting.getD s.tick) else none }) := by
  have notHigher : ¬ (s.fget rf_grvRole_managerMode = 1 ∧ (s.count .grvCount 1 0).fget rf_grvRole_term < term.toNat) := by
    rw [State.term_pulseCounted]
    exact fun h => Nat.not_lt.mpr current h.2
  unfold execPulse
  dsimp only
  rw [if_pos ⟨arrives, .inl active⟩, if_neg notHigher, State.peer_count, known]
  dsimp only
  rw [if_neg Bool.false_ne_true, if_neg (Bool.eq_false_iff.mp lives), State.tick_count]

/-- A pulse of a higher term deposes the active manager (R453). -/
theorem execPulse_deposes {g : Mg} {term : BitVec 16} {s : State} (restarting failed : Bool) (arrives : s.grvArrives g = true)
    (active : s.fget rf_grvRole_managerMode = 1) (higher : s.fget rf_grvRole_term < term.toNat) :
    execPulse g term restarting failed s = done (((s.count .grvCount 1 0).fset rf_grvRole_managerMode 0 0 3).fset
      rf_grvRole_term 0 0 term.toNat) := by
  rw [← State.term_pulseCounted] at higher
  exact congrArg done ((if_pos ⟨arrives, .inl active⟩).trans (if_pos ⟨active, higher⟩))

/-! ### Losses (R435) -/

section silent
variable {s : State} {m : BitVec 12} {q : Peer} (known : s.peer m.toNat = some q) (lives : q.lost = false)
include known lives

theorem execLossTimeout_eq : execLossTimeout m s =
    done (if s.since q.last (ms (s.fget rf_grvLiveness_lossMs)) then s.lose q.m else s) := by
  unfold execLossTimeout
  rw [known]
  simp only [lives, Bool.not_false, true_and]

theorem execSapwoodGraceTimeout_eq {t : Nat} (restarts : q.restarting = some t) : execSapwoodGraceTimeout m s =
    done (if t + ms (s.fget rf_grvLiveness_sapwoodGraceMs) < s.tick then s.lose q.m else s) := by
  unfold execSapwoodGraceTimeout
  rw [known]
  simp only [restarts, lives, Bool.not_false, true_and]

end silent

/-- Settles O31: a mode by whether one may be taken, a pulse by its term, and a silent module on both sides of its limits. -/
theorem rolesAndLiveness : Obligations.RolesAndLiveness := by
  refine fun s => ⟨fun role unset outside => ⟨?_, ?_⟩, fun refused => ⟨?_, ?_⟩, ?_, ?_, ?_, fun m q known lives =>
    ⟨?_, ?_, ?_, ?_⟩⟩
  · exact congrArg done ((mgrMode_taken role unset outside).trans (if_pos rfl))
  · exact congrArg done ((mgrMode_taken role unset outside).trans (if_neg (by decide)))
  · exact congrArg done (mgrMode_refused refused 1)
  · exact congrArg done (mgrMode_refused refused 2)
  · exact fun t => execPulseSend_toManager
  · exact fun g term restarting q => execPulse_heard restarting
  · exact fun g term restarting failed => execPulse_deposes restarting failed
  · exact fun silent => (execLossTimeout_eq known lives).trans (congrArg done (if_pos silent))
  · exact fun early => (execLossTimeout_eq known lives).trans (congrArg done (if_neg (Bool.eq_false_iff.mp early)))
  · exact fun t restarts late => (execSapwoodGraceTimeout_eq known lives restarts).trans (congrArg done (if_pos late))
  · exact fun t restarts early =>
      (execSapwoodGraceTimeout_eq known lives restarts).trans (congrArg done (if_neg (Nat.not_lt.mpr early)))

end Sys2Proof.Machine
end

section
/-! PROOFS. Grove messages (R427 to R430, R432, R434, R435, R443, R444, R453): each is acted on in the state that has read it. -/
namespace Sys2Proof.Machine

/-! ### Joining and images at the manager (R427, R430, R432) -/

/-- A worker-profile module that is not lost is admitted as no spare. -/
theorem execJoin_worker {g : Mg} {s : State} (layout : Nat) (units : List Nat) (fresh : NewGrove mtJoin g.reqId g s)
    (manager : (s.readGrove mtJoin g.reqId g).isManager = true)
    (lives : ∀ q, (s.readGrove mtJoin g.reqId g).peer (addrModule g.src) = some q → q.lost = false) :
    let u := (s.readGrove mtJoin g.reqId g).setPeer ⟨addrModule g.src, false, layout, units, s.tick, none, false⟩
    execJoin g 0 layout units false false s = done (u.grvSend 0 mtAdmit 0 0 g.src
      (.admission (u.fget rf_grvRole_term) (u.fget rf_grvManager_manager) (u.fget rf_grvManager_standby)
        (u.fbit rf_grvManager_standbyValid) false)) := by
  have admitted : ¬ ((!(s.readGrove mtJoin g.reqId g).isManager) = true ∨ false = true ∨ 2 ≤ 0) := by simp [manager]
  refine congrArg done ((grvReceive_new fresh _).trans ((if_neg admitted).trans ?_))
  cases known : (s.readGrove mtJoin g.reqId g).peer (addrModule g.src) with
  | none => simp only [known]; rfl
  | some q => simp only [known, lives q known]; rfl

/-- An image that names no parity group is stored, and nothing is encoded or, without a standby, mirrored. -/
theorem execConfigImage_stores {g : Mg} {s : State} {img : Image} {j : MgrJob} (fresh : NewGrove mtConfigImage g.reqId g s)
    (manages : Manages (s.readGrove mtConfigImage g.reqId g) g.job j)
    (alone : (s.readGrove mtConfigImage g.reqId g).fbit rf_grvManager_standbyValid = false) (bare : img.parity = []) :
    execConfigImage g img s = done ((s.readGrove mtConfigImage g.reqId g).setJob
      { j with members := j.members.filter (·.1 ≠ g.src) ++ [(g.src, img)] }) := by
  have noMirror (k : MgrJob) : ¬ ((s.readGrove mtConfigImage g.reqId g).setJob k).fbit rf_grvManager_standbyValid = true := by
    rw [State.fbit_setJob, alone]; decide
  unfold execConfigImage
  rw [grvReceive_new fresh]
  simp only [manages.active, manages.keeps, Option.getD_some, bare, List.isEmpty_nil, Bool.not_true, Bool.and_false,
    Bool.false_and, if_neg Bool.false_ne_true, if_neg (noMirror _)]

/-! ### The mirror (R444) -/

theorem State.mgrJob_setJob (s : State) (j : MgrJob) : (s.setJob j).mgrJob j.job = some j := by
  have others : (s.grove.jobs.filter (·.job ≠ j.job)).find? (·.job = j.job) = none :=
    List.find?_eq_none.mpr fun k mem => by simpa using (List.mem_filter.mp mem).2
  rw [State.mgrJob, State.setJob, State.grove_withGrove]
  dsimp only
  rw [List.find?_append, others, Option.none_or]
  exact List.find?_cons_of_pos (decide_eq_true rfl)

/-- GRV_RECOVERY is all that follows the mirrored state. -/
theorem State.grove_mirrorRecovery (s : State) (j : MgrJob) : (s.mirrorRecovery j).grove = s.grove := by
  simp only [State.mirrorRecovery, State.showRecovery, apply_ite State.grove, State.grove_fset, ite_self]

/-- The standby keeps the job that the mirror carries, whatever peers come with it. -/
theorem execMirror_keepsJob {g : Mg} {s : State} (j : MgrJob) (peers : List Peer) (manager : s.fromManager g.src = true)
    (fresh : NewGrove mtMirror g.reqId g s) (standby : (s.readGrove mtMirror g.reqId g).fget rf_grvRole_managerMode = 2) :
    ∃ t, execMirror g j peers s = .next t ∧ t.mgrJob j.job = some j := by
  refine ⟨_, congrArg done ((grvOrder_new manager fresh _).trans (if_pos standby)), ?_⟩
  refine (foldl_keeps (fun t : State => t.mgrJob j.job) _ peers (fun t q _ => ?_) _).trans ?_
  · split <;> rfl
  · rw [State.mgrJob, State.grove_mirrorRecovery]
    exact State.mgrJob_setJob ..

/-! ### The change of manager (R453) -/

/-- A deposed manager takes no more decisions. -/
def State.stepDown (s : State) : State := if s.isManager then s.fset rf_grvRole_managerMode 0 0 3 else s

/-- The registers once the sender of TAKEOVER is the manager of its term. -/
def State.newManager (s : State) (g : Mg) (term : Nat) : State :=
  (((((s.fset rf_grvRole_term 0 0 term).stepDown.fset rf_grvManager_term 0 0 term).fset
    rf_grvManager_manager 0 0 (addrModule g.src)).fset rf_grvManager_managerValid 0 0 1).fset rf_grvManager_standbyValid 0 0 0)

/-- A TAKEOVER of a higher term leaves every field as the new manager's registers have it, but for those of events and the alert. -/
theorem execTakeover_fields {g : Mg} {term : BitVec 16} {s : State} (fresh : NewGrove mtTakeover term.toNat g s)
    (higher : s.fget rf_grvRole_term < term.toNat) :
    ∃ t, execTakeover g term s = .next t ∧ ∀ f : RF, f.reg ∉ eventRegs → f.reg ∉ alertRegs →
      t.fget f = ((s.readGrove mtTakeover term.toNat g).newManager g term.toNat).fget f := by
  refine ⟨_, congrArg done ((if_neg (Nat.not_le.mpr higher)).trans (grvReceive_new fresh _)), fun f noEvent noAlert => ?_⟩
  refine (State.fget_settle _ _ _ _ noAlert).trans ?_
  refine (foldl_keeps (fun t : State => t.fget f) _ _ (fun t m _ => t.fget_send _ f 0 0) _).trans ?_
  exact (State.fget_withMgmt ..).trans (State.fget_raiseMod _ _ _ _ _ _ noEvent noAlert)

section newManager
variable (s : State) (g : Mg) (term : Nat)

theorem State.fget_stepDown_apart (f : RF) (role : f.reg = .grvRole) (apart : 9 < f.lo ∨ f.hi < 8) :
    s.stepDown.fget f = s.fget f := by
  unfold State.stepDown
  split
  · exact s.fget_fset_apart _ _ _ _ _ role (by decide) (by decide) apart
  · rfl

/-- Whether the module manages is unchanged by a new term. -/
theorem State.isManager_fset_term : (s.fset rf_grvRole_term 0 0 term).isManager = s.isManager := by
  unfold State.isManager
  rw [s.fget_fset_apart rf_grvRole_term rf_grvRole_managerMode _ _ _ rfl (by decide) (by decide) (by decide)]

theorem State.fget_newManager_role (f : RF) (role : f.reg = .grvRole) :
    (s.newManager g term).fget f = (s.fset rf_grvRole_term 0 0 term).stepDown.fget f := by
  have other : f.reg ≠ .grvManager := by rw [role]; decide
  unfold State.newManager
  iterate 4 rw [State.fget_fset_other _ _ _ _ _ _ _ _ other]

theorem State.newManager_role_term : (s.newManager g term).fget rf_grvRole_term = term % 2 ^ 16 := by
  rw [s.fget_newManager_role _ _ _ rfl, State.fget_stepDown_apart _ _ rfl (by decide)]
  exact s.fget_fset_same _ _ _ _ (by decide) (by decide)

theorem State.newManager_mode (manager : s.isManager = true) : (s.newManager g term).fget rf_grvRole_managerMode = 3 := by
  rw [s.fget_newManager_role _ _ _ rfl, State.stepDown, if_pos ((s.isManager_fset_term _).trans manager)]
  exact State.fget_fset_same _ _ _ _ _ (by decide) (by decide)

/-- The fields of GRV_MANAGER do not overlap: each reads as it was written. -/
theorem State.newManager_fields : (s.newManager g term).fget rf_grvManager_term = term % 2 ^ 16
    ∧ (s.newManager g term).fget rf_grvManager_manager = addrModule g.src % 2 ^ 12
    ∧ (s.newManager g term).fget rf_grvManager_managerValid = 1 ∧ (s.newManager g term).fget rf_grvManager_standbyValid = 0 := by
  unfold State.newManager
  refine ⟨?_, ?_, ?_, ?_⟩ <;> simp (disch := decide) only [State.fget_fset_apart, State.fget_fset_same] <;> rfl

end newManager

/-- Settles O32: each message in the state that has read it; the mirror by the job that it carries, a takeover by its term. -/
theorem groveMessages : Obligations.GroveMessages := by
  refine fun g s => ⟨?_, ?_, fun term manager standby valid spare => ⟨?_, ?_⟩, fun port state partner fresh => ⟨?_, ?_, ?_⟩,
    fun j peers manager fresh => ⟨?_, ?_⟩, fun term => ⟨?_, ?_, ?_⟩, ?_⟩
  · rintro role layout units fresh manager rfl lives
    exact execJoin_worker layout units fresh manager lives
  · exact fun role layout units plan fresh => congrArg done ((grvReceive_new fresh _).trans (if_pos (.inr (.inl rfl))))
  · exact fun fresh current => congrArg done ((if_neg (Nat.not_lt.mpr current)).trans (grvReceive_new fresh _))
  · exact fun old => congrArg done (if_pos old)
  · exact fun up => congrArg done ((grvReceive_new fresh _).trans (if_neg up))
  · exact fun down all => congrArg done ((grvReceive_new fresh _).trans ((if_pos down).trans (if_pos all)))
  · exact fun down some manager => congrArg done ((grvReceive_new fresh _).trans ((if_pos down).trans
      ((if_neg (Bool.eq_false_iff.mp some)).trans (if_pos manager))))
  · exact execMirror_keepsJob j peers manager fresh
  · exact fun other => congrArg done ((grvOrder_new manager fresh _).trans (if_neg other))
  · intro fresh higher
    obtain ⟨t, taken, fields⟩ := execTakeover_fields fresh higher
    have narrow : term.toNat % 2 ^ 16 = term.toNat := Nat.mod_eq_of_lt term.isLt
    obtain ⟨ofTerm, manager, valid, noStandby⟩ := (s.readGrove mtTakeover term.toNat g).newManager_fields g term.toNat
    refine ⟨t, taken, ?_, ?_, ?_, ?_, ?_, ?_⟩
    · rw [fields _ (by decide) (by decide), State.newManager_role_term, narrow]
    · rw [fields _ (by decide) (by decide), ofTerm, narrow]
    · exact (fields _ (by decide) (by decide)).trans manager
    · rw [State.fbit, fields _ (by decide) (by decide), valid]; rfl
    · rw [State.fbit, fields _ (by decide) (by decide), noStandby]; rfl
    · intro managed
      rw [fields _ (by decide) (by decide)]
      exact State.newManager_mode _ _ _ managed
  · exact fun lower => congrArg done ((if_pos (Nat.le_of_lt lower)).trans (if_neg fun h => Nat.ne_of_lt lower h.1))
  · exact fun same arrives => congrArg done ((if_pos (Nat.le_of_eq same)).trans (if_pos ⟨same, arrives⟩))
  · exact fun img j fresh manages alone bare => execConfigImage_stores fresh manages alone bare

end Sys2Proof.Machine
end

section
/-! PROOFS. A step: it runs the command at the front of the queue or lets a tick pass, and either settles the state (R560, R561). -/
namespace Sys2Proof.Machine

/-- Every command, whatever it finds, leaves a state that it settles: no arm of `exec` faults or refuses. -/
theorem exec_settles (c : Instr) (s : State) : ∃ u, exec c s = done u := by
  cases c <;> exact ⟨_, rfl⟩

theorem State.idleTick_settles (s : State) : ∃ u : State, s.idleTick = u.settle := by
  unfold State.idleTick
  split <;> exact ⟨_, rfl⟩

/-- Settles O1: the two cases of `step`. -/
theorem stepRunsFrontCommand : Obligations.StepRunsFrontCommand :=
  ⟨fun _ _ _ => rfl, fun s (idle : s.pending = []) => by rw [step, idle]⟩

/-- Settles O2: a step settles its state, and a settled state shows its alert. -/
theorem everyStepShowsAlert : Obligations.EveryStepShowsAlert := by
  intro s
  have settled : ∃ u : State, step s = .next u.settle := by
    rw [step]
    split
    · obtain ⟨u, tick⟩ := s.idleTick_settles
      exact ⟨u, congrArg _ tick⟩
    · exact exec_settles ..
  obtain ⟨u, next⟩ := settled
  exact ⟨u.settle, next, u.settle_alertShown⟩
end Sys2Proof.Machine
end

section
/-! PROOFS. The module queue: how a record is numbered and counted, and when it enters (R555 to R557, R559). -/
namespace Sys2Proof.Machine

/-! ### A new record (R555, R556) -/

/-- The record of an event that names no partition. -/
def State.modRec (s : State) (code : Nat) (x : EvInfo) : EvRec :=
  ⟨code, evSeverity code, none, s.evt.seq, s.tick, x.kind, x.index, x.tag, w32 x.aux, w64 x.detail, false⟩

/-- The state that has numbered and counted a record, before the module queue takes it. -/
def State.numbered (s : State) (code : Nat) (x : EvInfo) : State :=
  let u := (s.withEvt { s.evt with seq := w32 (s.evt.seq + 1), toArchive := s.evt.toArchive ++ [s.modRec code x] }).count
    .evtCount (evSeverity code) 0
  if evSeverity code = 5 then u.fset rf_glbStatus_fatal 0 0 1 else u

theorem State.raiseMod_eq (s : State) (code : Nat) (x : EvInfo) :
    s.raiseMod code x = (s.numbered code x).mqPut (s.modRec code x) := rfl

section numbered
variable (s : State) (code : Nat) (x : EvInfo)

theorem State.numbered_rest : s.numbered code x = { s with
    regs := (s.numbered code x).regs
    evt := { s.evt with seq := w32 (s.evt.seq + 1), toArchive := s.evt.toArchive ++ [s.modRec code x] } } := by
  unfold State.numbered
  split <;> rfl

theorem State.evt_numbered : (s.numbered code x).evt =
    { s.evt with seq := w32 (s.evt.seq + 1), toArchive := s.evt.toArchive ++ [s.modRec code x] } := by
  rw [s.numbered_rest]

theorem State.reg_numbered (r : RegName) (i j : Nat) (count : r ≠ .evtCount) (status : r ≠ .glbStatus) :
    (s.numbered code x).reg r i j = s.reg r i j := by
  unfold State.numbered
  split
  · rw [State.reg_fset_other _ _ _ _ _ _ _ _ status]
    exact State.reg_count_other _ _ _ _ _ _ _ _ count
  · exact State.reg_count_other _ _ _ _ _ _ _ _ count

theorem State.fget_numbered (f : RF) (i j : Nat) (count : f.reg ≠ .evtCount) (status : f.reg ≠ .glbStatus) :
    (s.numbered code x).fget f i j = s.fget f i j := by
  unfold State.fget
  rw [s.reg_numbered _ _ _ _ _ count status]

theorem State.reg_numbered_count : (s.numbered code x).reg .evtCount (evSeverity code) 0
    = s.reg .evtCount (evSeverity code) 0 + 1 := by
  unfold State.numbered
  split
  · rw [State.reg_fset_other _ _ _ _ _ _ _ _ (by decide)]
    exact State.reg_count_same ..
  · exact State.reg_count_same ..

end numbered

/-! ### Room (R557) -/

/-- The slots that the module queue's records take. -/
def State.mqUsed (s : State) : Nat := subMod 13 (s.fget rf_evtMqPtr_tail) (s.fget rf_evtMqPtr_head)

/-- A record of this severity has room: only those above severity 1 may take the last 256 slots. -/
def State.mqRoom (s : State) (sev : Nat) : Prop := s.mqUsed + (if sev ≤ 1 then 257 else 1) ≤ 4096

/-- What a record adds to the records that wait to be sent to the host (R560). -/
def State.pushed (s : State) (r : EvRec) : List EvRec :=
  if s.fbit rf_evtHostCtl_pushEnable = true ∧ s.fget rf_evtHostCtl_pushMinSeverity ≤ r.sev then [r] else []

section queue
variable {s : State} {r : EvRec}

theorem mqPut_room_iff : 4096 - s.mqUsed ≥ (if r.sev ≤ 1 then 257 else 1) ↔ s.mqRoom r.sev := by
  unfold State.mqRoom
  split <;> omega

/-- The record stands at the tail, marked where records were dropped just before it. -/
theorem State.mqPut_enters (room : s.mqRoom r.sev) : s.mqPut r = (s.withEvt { s.evt with
    mq := smSet none s.evt.mq (s.fget rf_evtMqPtr_tail % 4096) (some { r with lost := s.evt.mqLost })
    mqLost := false
    toPush := s.evt.toPush ++ s.pushed { r with lost := s.evt.mqLost } }).fset rf_evtMqPtr_tail 0 0
      (s.fget rf_evtMqPtr_tail + 1) := by
  refine (if_pos (mqPut_room_iff.mpr room)).trans (congrArg (fun u : State => u.fset rf_evtMqPtr_tail 0 0 _) ?_)
  by_cases sent : s.fbit rf_evtHostCtl_pushEnable = true ∧ s.fget rf_evtHostCtl_pushMinSeverity ≤ r.sev
  · rw [State.pushed, if_pos sent]; exact if_pos sent
  · rw [State.pushed, if_neg sent, List.append_nil]; exact if_neg sent

theorem State.mqPut_drops (full : ¬ s.mqRoom r.sev) : s.mqPut r =
    (s.withEvt { s.evt with mqLost := true }).fset rf_evtMqPtr_lost 0 0 (w32 (s.fget rf_evtMqPtr_lost + 1)) :=
  if_neg (mt mqPut_room_iff.mp full)

end queue

/-! ### The records between head and tail (R557) -/

/-- The tail lies as far from the head as slots are used. -/
theorem State.tail_eq (s : State) :
    (s.fget rf_evtMqPtr_head + s.mqUsed) % 8192 = s.fget rf_evtMqPtr_tail ∧ s.mqUsed < 8192 := by
  have head := s.fget_lt rf_evtMqPtr_head 0 0
  have tail := s.fget_lt rf_evtMqPtr_tail 0 0
  unfold State.mqUsed subMod
  simp only [rf_evtMqPtr_head, rf_evtMqPtr_tail] at *
  omega

theorem subMod_add_one {head used : Nat} (less : used + 1 < 8192) :
    subMod 13 ((head + used) % 8192 + 1) head = used + 1 := by
  unfold subMod
  omega

/-- A record written at the tail stands behind those that were there. -/
theorem State.mqRecords_tail {s u : State} {r : EvRec} (most : s.mqUsed ≤ 4095)
    (head : u.fget rf_evtMqPtr_head = s.fget rf_evtMqPtr_head)
    (tail : u.fget rf_evtMqPtr_tail = (s.fget rf_evtMqPtr_tail + 1) % 8192)
    (mq : u.evt.mq = smSet none s.evt.mq (s.fget rf_evtMqPtr_tail % 4096) (some r)) :
    u.mqRecords = s.mqRecords ++ [r] := by
  obtain ⟨place, -⟩ := s.tail_eq
  have used : subMod 13 (u.fget rf_evtMqPtr_tail) (u.fget rf_evtMqPtr_head) = s.mqUsed + 1 := by
    rw [head, tail, ← place, ← subMod_add_one (head := s.fget rf_evtMqPtr_head) (by omega : s.mqUsed + 1 < 8192)]
    unfold subMod
    omega
  unfold State.mqRecords
  dsimp only
  rw [used, List.range_succ, List.filterMap_append, head, mq]
  congr 1
  · refine List.filterMap_congr fun k before => smGet_smSet_ne _ _ _ ?_
    have := List.mem_range.mp before
    omega
  · rw [List.filterMap_cons, ← place, Nat.mod_mod_of_dvd _ (by decide), smGet_smSet_same]; rfl

/-! ### Events that name no partition -/

/-- Of the queue's pointers, the one written reads as what was written, and the others keep their value. -/
theorem State.mqPtr_fset_tail (s : State) (v : Nat) :
    (s.fset rf_evtMqPtr_tail 0 0 v).fget rf_evtMqPtr_tail = v % 8192
      ∧ (s.fset rf_evtMqPtr_tail 0 0 v).fget rf_evtMqPtr_head = s.fget rf_evtMqPtr_head
      ∧ (s.fset rf_evtMqPtr_tail 0 0 v).fget rf_evtMqPtr_lost = s.fget rf_evtMqPtr_lost :=
  ⟨State.fget_fset_same _ _ _ _ _ (by decide) (by decide),
    State.fget_fset_apart _ _ _ _ _ _ rfl (by decide) (by decide) (.inr (by decide)),
    State.fget_fset_apart _ _ _ _ _ _ rfl (by decide) (by decide) (.inl (by decide))⟩

theorem State.mqPtr_fset_lost (s : State) (v : Nat) :
    (s.fset rf_evtMqPtr_lost 0 0 v).fget rf_evtMqPtr_lost = v % 2 ^ 32
      ∧ (s.fset rf_evtMqPtr_lost 0 0 v).fget rf_evtMqPtr_head = s.fget rf_evtMqPtr_head
      ∧ (s.fset rf_evtMqPtr_lost 0 0 v).fget rf_evtMqPtr_tail = s.fget rf_evtMqPtr_tail :=
  ⟨State.fget_fset_same _ _ _ _ _ (by decide) (by decide),
    State.fget_fset_apart _ _ _ _ _ _ rfl (by decide) (by decide) (.inr (by decide)),
    State.fget_fset_apart _ _ _ _ _ _ rfl (by decide) (by decide) (.inr (by decide))⟩

section put
variable {s : State} {r : EvRec}

theorem State.mqPut_enters_reads (room : s.mqRoom r.sev) :
    (s.mqPut r).mqRecords = s.mqRecords ++ [{ r with lost := s.evt.mqLost }]
      ∧ (s.mqPut r).fget rf_evtMqPtr_tail = (s.fget rf_evtMqPtr_tail + 1) % 8192
      ∧ (s.mqPut r).fget rf_evtMqPtr_lost = s.fget rf_evtMqPtr_lost ∧ (s.mqPut r).evt.mqLost = false
      ∧ (s.mqPut r).evt.toPush = s.evt.toPush ++ s.pushed { r with lost := s.evt.mqLost } := by
  have most : s.mqUsed ≤ 4095 := by unfold State.mqRoom at room; split at room <;> omega
  rw [State.mqPut_enters room]
  obtain ⟨tail, head, lost⟩ := State.mqPtr_fset_tail (s.withEvt { s.evt with
    mq := smSet none s.evt.mq (s.fget rf_evtMqPtr_tail % 4096) (some { r with lost := s.evt.mqLost })
    mqLost := false
    toPush := s.evt.toPush ++ s.pushed { r with lost := s.evt.mqLost } }) (s.fget rf_evtMqPtr_tail + 1)
  exact ⟨State.mqRecords_tail most head tail rfl, tail, lost, rfl, rfl⟩

theorem State.mqPut_drops_reads (full : ¬ s.mqRoom r.sev) :
    (s.mqPut r).mqRecords = s.mqRecords ∧ (s.mqPut r).fget rf_evtMqPtr_tail = s.fget rf_evtMqPtr_tail
      ∧ (s.mqPut r).fget rf_evtMqPtr_lost = (s.fget rf_evtMqPtr_lost + 1) % 2 ^ 32 ∧ (s.mqPut r).evt.mqLost = true
      ∧ (s.mqPut r).evt.toPush = s.evt.toPush := by
  rw [State.mqPut_drops full]
  obtain ⟨lost, head, tail⟩ := (s.withEvt { s.evt with mqLost := true }).mqPtr_fset_lost (w32 (s.fget rf_evtMqPtr_lost + 1))
  rw [State.fget_withEvt] at head tail
  refine ⟨?_, tail, lost.trans (Nat.mod_mod _ _), ?_, ?_⟩
  · unfold State.mqRecords
    rw [head, tail, State.evt_fset]
    rfl
  all_goals rw [State.evt_fset]; rfl

/-- Whether a record enters or not, one of the queue's pointers is written, and no record is numbered or archived. -/
theorem State.mqPut_shape (s : State) (r : EvRec) : ∃ e f v, s.mqPut r = (s.withEvt e).fset f 0 0 v
    ∧ (f = rf_evtMqPtr_tail ∨ f = rf_evtMqPtr_lost)
    ∧ e.seq = s.evt.seq ∧ e.toArchive = s.evt.toArchive ∧ e.archive = s.evt.archive := by
  by_cases room : s.mqRoom r.sev
  · exact ⟨_, _, _, State.mqPut_enters room, .inl rfl, rfl, rfl, rfl⟩
  · exact ⟨_, _, _, State.mqPut_drops room, .inr rfl, rfl, rfl, rfl⟩

theorem State.mqPut_rest (s : State) (r : EvRec) :
    (s.mqPut r).fget rf_evtMqPtr_head = s.fget rf_evtMqPtr_head
      ∧ (∀ q i j, q ≠ .evtMqPtr → (s.mqPut r).reg q i j = s.reg q i j)
      ∧ (s.mqPut r).evt.seq = s.evt.seq ∧ (s.mqPut r).evt.toArchive = s.evt.toArchive
      ∧ (s.mqPut r).evt.archive = s.evt.archive
      ∧ s.mqPut r = { s with regs := (s.mqPut r).regs, evt := (s.mqPut r).evt } := by
  obtain ⟨e, f, v, shape, field, seq, toArchive, archive⟩ := s.mqPut_shape r
  rw [shape]
  refine ⟨?_, fun q i j other => State.reg_fset_other _ _ _ _ _ _ _ _ fun same => other ?_, seq, toArchive, archive, rfl⟩
  · rcases field with rfl | rfl
    · exact (State.mqPtr_fset_tail ..).2.1
    · exact (State.mqPtr_fset_lost ..).2.1
  · rcases field with rfl | rfl <;> exact same

end put

section numbered
variable (s : State) (code : Nat) (x : EvInfo)

theorem State.mqRoom_numbered (sev : Nat) : (s.numbered code x).mqRoom sev ↔ s.mqRoom sev := by
  unfold State.mqRoom State.mqUsed
  rw [State.fget_numbered _ _ _ _ _ _ (by decide) (by decide), State.fget_numbered _ _ _ _ _ _ (by decide) (by decide)]

theorem State.mqRecords_numbered : (s.numbered code x).mqRecords = s.mqRecords :=
  State.mqRecords_congr (s.reg_numbered _ _ _ _ _ (by decide) (by decide)) (by rw [s.evt_numbered])

theorem State.pushed_numbered (r : EvRec) : (s.numbered code x).pushed r = s.pushed r := by
  unfold State.pushed State.fbit
  rw [State.fget_numbered _ _ _ _ _ _ (by decide) (by decide), State.fget_numbered _ _ _ _ _ _ (by decide) (by decide)]

end numbered

/-- The head of the module queue written by an agent that does not own the queue (R557). -/
theorem mqHead_denied {s : State} {a owner : Agent} {v : Nat}
    (owned : (if s.fbit rf_evtHostCtl_sapwoodOwnsMq then Agent.sapwood else Agent.host) = owner) (other : a ≠ owner)
    (moves : bits v 12 0 ≠ s.fget rf_evtMqPtr_head) : mqHead a v s = s.denied a (regOffset ⟨.evtMqPtr, 0, 0⟩) :=
  if_pos ⟨owned ▸ other, moves⟩

/-- Settles O6: a record is numbered and counted, and then put in the queue where it has room. -/
theorem moduleQueue : Obligations.ModuleQueue := by
  intro s code x t sev used r enters
  have ptr (f : RF) (same : f.reg = .evtMqPtr) : (s.numbered code x).fget f = s.fget f :=
    s.fget_numbered _ _ _ _ _ (by rw [same]; decide) (by rw [same]; decide)
  have noted := s.evt_numbered code x
  obtain ⟨head, regs, seq, toArchive, archive, rest⟩ := (s.numbered code x).mqPut_rest (s.modRec code x)
  refine ⟨fun room => ?_, fun full => ?_, head.trans (ptr _ rfl), ?_, ?_, ?_, ?_, fun q i j other => ?_, ?_, ?_⟩
  · obtain ⟨records, tail, lost, marked, toPush⟩ :=
      State.mqPut_enters_reads (r := s.modRec code x) ((s.mqRoom_numbered ..).mpr room)
    rw [s.mqRecords_numbered, noted] at records
    rw [s.pushed_numbered, noted] at toPush
    rw [ptr _ rfl] at tail lost
    exact ⟨records, tail, lost, marked, toPush⟩
  · obtain ⟨records, tail, lost, marked, toPush⟩ :=
      State.mqPut_drops_reads (r := s.modRec code x) (mt (s.mqRoom_numbered ..).mp full)
    rw [s.mqRecords_numbered] at records
    rw [noted] at toPush
    rw [ptr _ rfl] at tail lost
    exact ⟨records, tail, lost, marked, toPush⟩
  · exact seq.trans (by rw [noted]; rfl)
  · exact toArchive.trans (by rw [noted]; rfl)
  · exact archive.trans (by rw [noted])
  · exact (regs _ _ _ (by decide)).trans (s.reg_numbered_count code x)
  · simp only [List.mem_cons, List.not_mem_nil, or_false, not_or] at other
    obtain ⟨notPtr, notCount, notStatus⟩ := other
    exact (regs _ _ _ notPtr).trans (s.reg_numbered _ _ _ _ _ notCount notStatus)
  · exact rest.trans (congrArg (fun u : State => { u with regs := t.regs, evt := t.evt }) (s.numbered_rest code x))
  · intro v sap moves
    have refused (a owner : Agent) (owned : (if sap then Agent.sapwood else Agent.host) = owner) (other : a ≠ owner) :
        exec (.mqHeadWrite a v) s = done (s.denied a (regOffset ⟨.evtMqPtr, 0, 0⟩)).2 :=
      congrArg (fun d : Nat × State => done d.2) (mqHead_denied owned other moves)
    exact ⟨fun own => refused .host .sapwood (if_pos own) (by decide),
      fun free => refused .sapwood .host (if_neg (Bool.eq_false_iff.mp free)) (by decide)⟩

end Sys2Proof.Machine
end

section
/-! PROOFS. The event queues' pointers, the push and the archive (R557 to R561). -/
namespace Sys2Proof.Machine

/-! ### The head of the module queue (R557) -/

section head
variable {s : State} {a : Agent} {v : Nat}
  (owns : a = (if s.fbit rf_evtHostCtl_sapwoodOwnsMq then Agent.sapwood else Agent.host))
include owns

theorem mqHead_moves (inside : between 13 (s.fget rf_evtMqPtr_head) (s.fget rf_evtMqPtr_tail) (bits v 12 0) = true) :
    mqHead a v s = (rsOk, s.fset rf_evtMqPtr_head 0 0 (bits v 12 0)) :=
  (if_neg fun other => other.1 owns).trans (if_pos ⟨owns, inside⟩)

theorem mqHead_stays (outside : between 13 (s.fget rf_evtMqPtr_head) (s.fget rf_evtMqPtr_tail) (bits v 12 0) = false) :
    mqHead a v s = (rsOk, s) :=
  (if_neg fun other => other.1 owns).trans (if_neg fun moves => Bool.eq_false_iff.mp outside moves.2)

end head

/-! ### The archive's window (R559) -/

theorem evBytes_length (r : EvRec) : (evBytes r).length = 32 := by
  simp [evBytes]

/-- A piece of a byte string that is put together from pieces of one length. -/
theorem slice_flatMap_range (piece : Nat → List Byte) (n w i : Nat) (same : ∀ k, (piece k).length = w) (inside : i < n) :
    slice ((List.range n).flatMap piece) (w * i) w = piece i := by
  obtain ⟨m, rfl⟩ : ∃ m, n = i + (m + 1) := ⟨n - i - 1, by omega⟩
  have before : ((List.range i).flatMap piece).length = w * i := by
    simp [List.length_flatMap, same, Nat.mul_comm]
  have rest : ((List.range (i + (m + 1))).flatMap piece).drop (w * i)
      = piece i ++ ((List.range m).map fun k => i + (k + 1)).flatMap piece := by
    rw [List.range_add, List.flatMap_append, ← before, List.drop_left, List.range_succ_eq_map, List.map_cons,
      List.flatMap_cons, List.map_map]
    rfl
  unfold slice
  rw [rest, ← same i, List.take_left]
  simp

/-- The bytes of the archive's window at a record's place: the record, or zeros where the archive does not hold it. -/
def State.archPiece (s : State) (i : Nat) : List Byte :=
  match s.evt.archive.find? fun r => r.seq = w32 (s.evt.archFirst + i) with
  | some r => evBytes r
  | none => List.replicate 32 0

theorem State.archPiece_length (s : State) (i : Nat) : (s.archPiece i).length = 32 := by
  unfold State.archPiece
  split
  · exact evBytes_length _
  · exact List.length_replicate

theorem State.archPiece_found {s : State} {i : Nat} {r : EvRec}
    (found : s.evt.archive.find? (fun r => r.seq = w32 (s.evt.archFirst + i)) = some r) : s.archPiece i = evBytes r := by
  unfold State.archPiece
  rw [found]

theorem execArchReadDone_fills {s : State} (busy : s.fbit rf_evtArchRead_busy = true) : execArchReadDone s =
    done ((s.fset rf_evtArchRead_busy 0 0 0).withEvt { s.evt with archWin := (List.range 128).flatMap s.archPiece }) :=
  congrArg done (if_pos busy)

/-- Settles O57: each command by what it finds; the archive's window is put together from pieces of 32 bytes. -/
theorem eventCommands : Obligations.EventCommands := by
  refine fun s => ⟨fun a v owns => ⟨?_, ?_⟩, fun _ _ => rfl, ⟨?_, ?_⟩, rfl, fun first => ?_, fun busy => ?_⟩
  · exact fun inside => congrArg (fun d : Nat × State => done d.2) (mqHead_moves owns inside)
  · exact fun outside => congrArg (fun d : Nat × State => done d.2) (mqHead_stays owns outside)
  · exact fun waiting => congrArg done (if_neg (mt List.isEmpty_iff.mp waiting))
  · exact fun empty => congrArg done (if_pos (List.isEmpty_iff.mpr empty))
  · have whole : bits first.toNat 31 0 = first.toNat := Nat.mod_eq_of_lt first.isLt
    exact congrArg (fun n => done ((s.fset rf_evtArchRead_busy 0 0 1).withEvt { s.evt with archFirst := n })) whole
  · refine ⟨_, execArchReadDone_fills busy, ?_, ?_, fun i below r found => ?_⟩
    · have idle : (s.fset rf_evtArchRead_busy 0 0 0).fget rf_evtArchRead_busy = 0 :=
        State.fget_fset_same _ _ _ _ _ (by decide) (by decide)
      unfold State.fbit
      rw [State.fget_settle _ _ _ _ (by decide), State.fget_withEvt, idle]
      rfl
    · exact (List.length_flatMap ..).trans (by simp [State.archPiece_length])
    · exact (slice_flatMap_range s.archPiece 128 32 i s.archPiece_length below).trans (State.archPiece_found found)

end Sys2Proof.Machine
end

section
/-! PROOFS. Power, the thermal trip and the reset pin (R563, R567, R569, R576). -/
namespace Sys2Proof.Machine

/-- Settles O49: each pin by the power and the input that it finds. -/
theorem powerAndReset : Obligations.PowerAndReset := by
  refine fun s => ⟨?_, ?_, ?_, ⟨rfl, rfl⟩, rfl, fun sensor temp => ⟨?_, ?_⟩, ?_, ?_⟩
  · exact fun on => congrArg done (if_pos on)
  · intro off input untripped
    exact congrArg done ((if_neg (Bool.eq_false_iff.mp off)).trans (if_pos ⟨input, Bool.eq_false_iff.mp untripped⟩))
  · intro off unfit
    have stays : ¬ (s.pins.input = true ∧ ¬ s.pins.trip = true) := fun fit =>
      unfit.elim (fun absent => Bool.eq_false_iff.mp absent fit.1) fit.2
    exact congrArg done ((if_neg (Bool.eq_false_iff.mp off)).trans (if_neg stays))
  · exact fun good hot => congrArg done (if_pos ⟨good, hot⟩)
  · exact fun cool => congrArg done (if_neg fun trips => Nat.not_lt.mpr trips.2 cool)
  · exact fun good => congrArg done (if_pos good)
  · exact fun bad => congrArg done (if_neg (Bool.eq_false_iff.mp bad))

end Sys2Proof.Machine
end

section
/-! PROOFS. The sideband and the test port (R570 to R573). -/
namespace Sys2Proof.Machine

/-- With power and out of reset the module runs. -/
theorem State.powered_intro {s : State} (good : s.pins.pwrGood = true) (released : s.pins.inReset = false) :
    s.powered = true := by
  rw [State.powered, good, released]; rfl

/-- Settles O55: each message by its command, in the state of the pins and of heartwood that it needs. -/
theorem sidebandAndTestPort : Obligations.SidebandAndTestPort := by
  intro s good answer
  refine ⟨fun a => ⟨?_, ?_⟩, fun eid => ⟨?_, ?_, ?_, ?_⟩, fun released m => ⟨?_, ?_⟩, ?_, ?_, ?_, fun scope code => ⟨?_, ?_⟩⟩
  · exact fun free => congrArg done (if_pos ⟨good, Option.isNone_iff_eq_none.mpr free⟩)
  · exact fun taken => congrArg done (if_neg fun takes => taken (Option.isNone_iff_eq_none.mp takes.2))
  · intro notNull notBroadcast
    exact congrArg done ((if_neg (not_not_intro good)).trans ((if_pos rfl).trans
      (if_neg fun reserved => reserved.elim notNull notBroadcast)))
  · exact congrArg done ((if_neg (not_not_intro good)).trans ((if_pos rfl).trans (if_pos (.inl rfl))))
  · exact congrArg done (if_neg (not_not_intro good))
  · exact congrArg done (if_neg (not_not_intro good))
  · exact congrArg done ((if_neg (not_not_intro (State.powered_intro good released))).trans (if_pos rfl))
  · intro alive i monitor
    exact congrArg done ((if_neg (not_not_intro (State.powered_intro good released))).trans
      ((if_neg fun h => monitor (Fin.ext h)).trans (if_pos alive)))
  · exact fun alive => congrArg done (if_pos alive)
  · exact congrArg done (if_neg (not_not_intro good))
  · exact congrArg done (if_neg (not_not_intro good))
  · exact fun closed => congrArg done ((if_neg (not_not_intro good)).trans
      (if_neg fun serves => Bool.eq_false_iff.mp closed serves.2))
  · exact fun alive opened => congrArg done ((if_neg (not_not_intro good)).trans (if_pos ⟨alive, opened⟩))

end Sys2Proof.Machine
end

section
/-! PROOFS. What the taproot does by itself (R468, R470 to R474). -/
namespace Sys2Proof.Machine

/-! ### Lost dies (R468) -/

/-- A die that is lost while none of its set is rebuilt leaves no sector without its data. -/
theorem execTapDieLost_first {s : State} {die : Fin 128} (fresh : s.flash.lost.contains die.val = false)
    (alone : ∀ x ∈ s.flash.rebuilding, dieSet x ≠ dieSet die.val) : execTapDieLost die true s =
      done (((s.setFlash { s.flash with
        lost := s.flash.lost ++ [die.val], rebuilding := s.flash.rebuilding ++ [die.val], dead := s.flash.dead ++ [],
        openBlock := smSet none s.flash.openBlock die.val none }).tapEvent 0xA004 none die.val 1 0 0).syncStore) := by
  unfold execTapDieLost
  extract_lets f d recent second gone after
  have first : second = false := by
    refine List.any_eq_false.mpr fun x rebuilt => ?_
    simpa using alone x rebuilt
  have noneGone : gone = [] := by
    refine List.filterMap_eq_nil_iff.mpr fun place _ => ?_
    obtain ⟨sec, _ | w⟩ := place
    · rfl
    · simp [first]
  have acts : ¬ (f.lost.contains d = true ∨ (!true) = true ∧ recent ≤ 64) := by
    rintro (known | ⟨loud, -⟩)
    · exact Bool.eq_false_iff.mp fresh known
    · cases loud
  rw [if_neg acts]
  simp only [after, noneGone]
  rfl

/-! ### Ageing (R470) -/

/-- The store a second older, at each die's temperature. -/
def State.aged (s : State) (temps : List Int) : State :=
  (s.setFlash { s.flash with
    blocks := s.flash.blocks.map fun (b, x) => (b, if (s.flash.valid b).isEmpty then x else
      { x with age := x.age + ageFactor (temps.getD (dieOfBlock b) 40) }),
    aged := s.tick }).fset rf_tapStatus_tempC 0 0 ((temps.foldl max 0).toNat)

/-- While no block has reached the age at which it is rewritten, the blocks only grow older. -/
theorem execRetentionAgeTick_young {s : State} {temps : List Int} (due : s.since s.flash.aged (ms 1000) = true)
    (young : ∀ e ∈ (s.aged temps).flash.blocks, e.2.age < (s.aged temps).refreshAge) :
    execRetentionAgeTick temps s = done (s.aged temps).syncStore := by
  unfold execRetentionAgeTick
  extract_lets f af bs later aged dueBlocks
  have noneDue : dueBlocks = [] := by
    refine List.map_eq_nil_iff.mpr (List.filter_eq_nil_iff.mpr fun e held => ?_)
    have below : ¬ aged.refreshAge ≤ e.2.age := Nat.not_le.mpr (young e held)
    simp [below]
  rw [if_pos due, noneDue]
  rfl

/-! ### The scan (R471) -/

theorem State.passEnds_over {s : State} (all : (s.flash.written.all fun b => s.flash.scanned.contains b) = true) :
    s.passEnds = (s.setFlash { s.flash with scanned := [] }).fset rf_tapStatus_scanPending 0 0 0 := if_pos all

theorem State.passEnds_goesOn {s : State} {block : Nat} (written : s.flash.written.contains block = true)
    (unread : s.flash.scanned.contains block = false) : s.passEnds = s := by
  refine if_neg fun all => Bool.eq_false_iff.mp unread (List.all_eq_true.mp all block ?_)
  exact List.contains_iff_mem.mp written

theorem execTapScrub_scans {block : Nat} {found : List (Nat × Fin 10)} {heavy : Bool} {s : State}
    (pending : s.fbit rf_tapStatus_scanPending = true) (ready : s.fbit rf_tapStatus_ready = true) :
    execTapScrub block found heavy s = done (tapScrub block found heavy s.passEnds) :=
  congrArg done (if_pos ⟨.inr pending, ready⟩)

/-- A block that holds no data is not scanned. -/
theorem tapScrub_unwritten {block : Nat} {found : List (Nat × Fin 10)} {heavy : Bool} {s : State}
    (empty : s.flash.written.contains block = false) : tapScrub block found heavy s = s :=
  if_neg fun scan => Bool.eq_false_iff.mp empty scan.2.1

/-- The first block of the scan, which holds one sector and reads without a heavy correction. -/
theorem tapScrub_first {block sec : Nat} {s : State} (pending : s.fbit rf_tapStatus_scanPending = true)
    (start : s.flash.scanned = []) (written : s.flash.written.contains block = true) (holds : s.flash.valid block = [sec]) :
    tapScrub block [] false s =
      let u := ((s.setFlash { s.flash with passStart := s.tick, passEvt := false }).tapRead none sec 0).2
      (u.setFlash { u.flash with scanned := u.flash.scanned ++ [block] }).passEnds.syncStore := by
  unfold tapScrub
  dsimp only
  rw [pending, start, holds]
  exact if_pos ⟨rfl, written, Bool.false_ne_true⟩

/-! ### Wear (R473) -/

theorem execWearLevelMove_frees {s : State} {b : Nat} (least : s.flash.leastWorn s.flash.written = some b)
    (wide : (s.flash.block b).pe + 200 < s.flash.blocks.foldl (fun a (_, x) => max a x.pe) 0) :
    execWearLevelMove s = done (s.rewriteBlock b).syncStore := by
  unfold execWearLevelMove
  dsimp only
  rw [least]
  exact congrArg done (if_pos wide)

/-! ### The allowance (R474) -/

theorem State.waiting_setBalance (s : State) (x : Int) :
    (s.setBalance x).fbit rf_tapAllowance_waiting = s.fbit rf_tapAllowance_waiting := by
  unfold State.setBalance State.fbit
  dsimp only
  rw [State.fget_fset_apart _ rf_tapAllowance_balanceGb rf_tapAllowance_waiting _ _ _ rfl (by decide) (by decide)
    (.inr (by decide)), State.fget_setFlash]

/-- With no write waiting, the allowance gains its share of a second. -/
theorem execAllowanceAccrue_gains {s : State} (due : s.since s.flash.accrued (ms 1000) = true)
    (free : s.fbit rf_tapAllowance_waiting = false) : execAllowanceAccrue s =
      let u := s.setBalance (min s.dayAllowance (s.flash.balance + s.fget rf_tapAllowance_dailyGb * 1000000000))
      done (u.setFlash { u.flash with accrued := u.tick }) := by
  refine congrArg done ((if_pos due).trans (if_neg fun waits => ?_))
  rw [State.fbit_setFlash, State.waiting_setBalance, free] at waits
  exact Bool.false_ne_true waits.1

theorem execAllowanceAccrue_early {s : State} (early : s.since s.flash.accrued (ms 1000) = false) :
    execAllowanceAccrue s = done s := congrArg done (if_neg (Bool.eq_false_iff.mp early))

/-- Settles O42: each command under what makes it act. -/
theorem taprootMaintenance : Obligations.TaprootMaintenance := by
  refine fun s => ⟨fun die silent known => ?_, fun die fresh alone => execTapDieLost_first fresh alone, fun die rebuilt => ?_,
    fun temps due => execRetentionAgeTick_young due, ?_, ?_, fun block worn holds => ?_, fun b => execWearLevelMove_frees,
    execAllowanceAccrue_gains, fun t early ran => ?_⟩
  · exact congrArg done (if_pos (.inl known))
  · exact congrArg done (if_pos rebuilt)
  · intro block sec pending ready start written holds
    have goesOn : s.passEnds = s := State.passEnds_goesOn written (by rw [start]; rfl)
    refine (execTapScrub_scans pending ready).trans ?_
    rw [goesOn, tapScrub_first pending start written holds]
    rfl
  · intro pending ready empty block found heavy
    have ends : s.passEnds = (s.setFlash { s.flash with scanned := [] }).fset rf_tapStatus_scanPending 0 0 0 :=
      State.passEnds_over (by rw [empty]; rfl)
    refine (execTapScrub_scans pending ready).trans ?_
    rw [ends, tapScrub_unwritten (by exact congrArg (List.contains · block) empty)]
    rfl
  · exact congrArg done (if_pos ⟨worn, mt List.isEmpty_iff.mp holds⟩)
  · exact (Host.Outcome.next.inj ((execAllowanceAccrue_early early).symm.trans ran)).symm

end Sys2Proof.Machine
end

section
/-! PROOFS. Operating points: limits, voltage commands and frequency steps (R496 to R499, R506). -/
namespace Sys2Proof.Machine

/-! ### Limits (R498, R499) -/

theorem pwrLimitWrite_refused {s : State} {v : Nat} (outside : bits v 15 0 < 1000 ∨ s.prof 8 2 < bits v 15 0) :
    pwrLimitWrite v s = s :=
  if_neg fun inside => outside.elim (Nat.not_lt.mpr inside.1) (Nat.not_lt.mpr inside.2)

theorem dieTargetWrite_refused {s : State} {d v : Nat}
    (noPoint : bits v 15 0 < 1000 ∨ 3000 < bits v 15 0 ∨ bits v 15 0 % 50 ≠ 0) : dieTargetWrite d v s = s :=
  if_neg fun point => by omega

/-! ### Voltage commands (R496, R497) -/

section command
variable {s : State} {die : Fin 4} {v : Nat} (waits : (s.die die).cmd = some v)
include waits

theorem execAvsAck_settles : execAvsAck die s =
    done (((((s.setDie die { s.die die with cmd := none, back := false }).fset (avsVout die) 0 0 v).fset
      (avsPending die) 0 0 0).fset (avsFailed die) 0 0 0).fset (avsRetries die) 0 0 0) := by
  rw [execAvsAck, waits]

variable (late : s.since (s.die die).sent (us 200) = true)
include late

theorem execAvsTimeout_resends (again : s.fget (avsRetries die) < 2) : execAvsTimeout die s =
    let u := s.setDie die { s.die die with sent := s.tick }
    done ((u.fset (avsRetries die) 0 0 (u.fget (avsRetries die) + 1)).withOut (s.out ++ [.avs die v])) := by
  unfold execAvsTimeout
  simp only [waits]
  exact congrArg done ((if_neg (not_not_intro late)).trans (if_pos again))

theorem execAvsTimeout_fails (spent : 2 ≤ s.fget (avsRetries die)) (back : (s.die die).back = true) :
    execAvsTimeout die s = done ((((s.setDie die { s.die die with cmd := none }).fset (avsPending die) 0 0 0).fset
      (avsFailed die) 0 0 1).dieEvent 0x8003 die) := by
  unfold execAvsTimeout
  simp only [waits]
  rw [if_neg (not_not_intro late), if_neg (Nat.not_lt.mpr spent), if_pos back]

end command

theorem execAvsVoutRead_known {s : State} {die : Fin 4} {mv : BitVec 16} {v : Nat} (silent : (s.die die).silent = some v)
    (reached : v ≤ mv.toNat) : execAvsVoutRead die mv s = done ((s.setDie die { s.die die with
      goalF := (s.die die).oldF, goalV := (s.die die).oldV, silent := none }).fset rf_clkDieStatus_changing die 0 1) := by
  rw [execAvsVoutRead, silent]
  exact congrArg done (if_pos reached)

/-! ### Frequency steps (R496) -/

/-- A die's frequency moved, at this tick. -/
def State.stepTo (s : State) (d f : Nat) : State :=
  (s.fset rf_clkDieStatus_freqMhz d 0 f).setDie d { s.die d with step := s.tick }

section steps
variable {s : State} {die : Fin 4} (due : s.since (s.die die).step 100 = true)
include due

theorem execFrequencyStep_raises (below : s.freq die + 50 < (s.die die).goalF) (settled : (s.die die).cmd = none)
    (known : (s.die die).silent = none) (voltage : s.vout die = (s.die die).goalV) :
    execFrequencyStep die s = done (s.stepTo die (s.freq die + 50)) := by
  unfold execFrequencyStep
  extract_lets d x f arrive
  have raises : f < x.goalF := Nat.lt_of_le_of_lt (Nat.le_add_right ..) below
  rw [if_neg (not_not_intro due), if_pos ⟨raises, settled, known, voltage⟩, Nat.min_eq_right (Nat.le_of_lt below)]
  exact congrArg done (if_neg (Nat.ne_of_lt below))

theorem execFrequencyStep_lowers (above : (s.die die).goalF + 50 < s.freq die) :
    execFrequencyStep die s = done (s.stepTo die (s.freq die - 50)) := by
  unfold execFrequencyStep
  extract_lets d x f arrive
  have gap : x.goalF < f - 50 := Nat.lt_sub_of_add_lt above
  have lowers : x.goalF < f := Nat.lt_of_lt_of_le gap (Nat.sub_le ..)
  rw [if_neg (not_not_intro due), if_neg fun raises => Nat.lt_asymm lowers raises.1, if_pos lowers,
    Nat.max_eq_right (Nat.le_of_lt gap)]
  exact congrArg done (if_neg (Nat.ne_of_gt gap))

theorem execFrequencyStep_there (there : (s.die die).goalF = s.freq die) : execFrequencyStep die s = done s :=
  congrArg done ((if_neg (not_not_intro due)).trans ((if_neg fun raises => Nat.ne_of_gt raises.1 there).trans
    (if_neg fun lowers => Nat.ne_of_lt lowers there)))

end steps

/-- Settles O43: each write by its bounds, each voltage command and step by the state of its die. -/
theorem operatingPoints : Obligations.OperatingPoints := by
  refine fun s => ⟨fun v => ⟨?_, ?_, ?_, ?_⟩, fun d v => ⟨?_, ?_⟩, fun d v waits => ⟨execAvsAck_settles waits,
    execAvsTimeout_resends waits, execAvsTimeout_fails waits⟩, fun _ _ _ => execAvsVoutRead_known,
    fun d => fun due => ⟨execFrequencyStep_raises due, execFrequencyStep_lowers due, execFrequencyStep_there due⟩⟩
  · exact fun least most => congrArg done (if_pos ⟨least, most⟩)
  · exact fun outside => congrArg done (pwrLimitWrite_refused outside)
  · exact fun pair low high => congrArg done (if_pos ⟨pair, low, high⟩)
  · exact fun swapped => congrArg done (if_neg fun pair => Nat.not_lt.mpr swapped pair.1)
  · exact fun least most step => congrArg done (if_pos ⟨least, most, step⟩)
  · exact fun noPoint => congrArg done (dieTargetWrite_refused noPoint)

end Sys2Proof.Machine
end

section
/-! PROOFS. The power cap and thermal throttling (R498, R500). -/
namespace Sys2Proof.Machine

/-! ### The power cap (R498) -/

section cap
variable {s : State} {w dv : BitVec 16}

/-- The state that has read the input. -/
def State.readInput (s : State) (w dv : BitVec 16) : State :=
  (s.fset rf_pwrModuleStatus_inputW 0 0 w.toNat).fset rf_pwrModuleStatus_inputDv 0 0 dv.toNat

/-- A die's limit under the cap falls by 50 MHz. -/
def State.capLower (v : State) (d : Nat) : State :=
  let new := max 1000 (min (v.die d).capLimit (v.die d).goalF - 50)
  (v.setDie d { v.die d with capLimit := new }).limitSteps (b2n (new < (v.die d).goalF))

theorem execPowerCapTick_above (above : s.fget rf_pwrLimit_capW < w.toNat)
    (active : (s.readInput w dv).fbit rf_pwrModuleStatus_capActive = true) {v : State}
    (lowers : (List.range 4).foldl State.capLower (s.readInput w dv) = v) : execPowerCapTick w dv s =
      done ((v.withPwr { v.pwr with below := none }).fset rf_pwrModuleStatus_capActive 0 0 1).retargetAll := by
  unfold execPowerCapTick
  extract_lets n cap read first lowered old bound told
  have again : told = bound := if_neg (Bool.eq_false_iff.mp (congrArg not active))
  have same : lowered = v := lowers
  clear_value lowered
  subst same
  rw [if_pos above, again]

end cap

section raise
variable {s : State} {t : Nat} (below : s.pwr.below = some t)
include below

/-- A die's limit under the cap rises by 50 MHz. -/
def State.capRaise (v : State) (d : Nat) : State :=
  (v.setDie d { v.die d with capLimit := min 3000 ((v.die d).capLimit + 50) }).limitSteps
    (b2n ((v.die d).capLimit < 3000))

/-- While the cap still lowers a die it goes on binding. -/
theorem execPowerCapRaise_binds (active : s.fbit rf_pwrModuleStatus_capActive = true) (due : s.since t (ms 10) = true)
    {u : State} (raises : (List.range 4).foldl State.capRaise s = u)
    (bound : let v := u.withPwr { u.pwr with below := some u.tick }
      ∃ d ∈ List.range 4, (v.die d).capLimit < min (min (v.fget rf_pwrDieTarget_targetMhz d)
        (v.fget rf_ageDieMargin_maxMhz d)) (v.die d).thermLimit) :
    execPowerCapRaise s = done (u.withPwr { u.pwr with below := some u.tick }).retargetAll := by
  unfold execPowerCapRaise
  simp -zeta only [below]
  rw [if_pos ⟨active, due⟩]
  extract_lets raised old w free lifted told
  have same : raised = u := raises
  clear_value raised
  subst same
  have binds : told = w := by
    refine if_neg fun all => ?_
    obtain ⟨d, dies, lowered⟩ := bound
    exact absurd (of_decide_eq_true (List.all_eq_true.mp all d dies)) (Nat.not_le.mpr lowered)
  rw [binds]

theorem execPowerCapRaise_early (early : s.since t (ms 10) = false) : execPowerCapRaise s = done s := by
  unfold execPowerCapRaise
  simp only [below]
  exact congrArg done (if_neg fun due => Bool.eq_false_iff.mp early due.2)

end raise

/-! ### Heat (R500) -/

/-- The state that has noted a die's temperature and counted its cycles. -/
def State.readHeat (s : State) (d temp : Nat) : State :=
  (s.noteTemp d temp).fset rf_ageDieMargin_cycles d 0 (smGet 0 (s.noteTemp d temp).age.cycles d)

section heat
variable {s : State} {die : Fin 4} {temp : BitVec 8}

theorem execThermalThrottleTick_throttles (hot : (s.readHeat die temp.toNat).prof 22 1 ≤ temp.toNat)
    (throttled : ((s.readHeat die temp.toNat).die die).thermLimit < 3000) : execThermalThrottleTick die temp s =
      let u := s.readHeat die temp.toNat
      let x := u.die die
      let new := max 1000 (min x.thermLimit x.goalF - 50)
      done (((u.setDie die { x with temp := temp.toNat, cool := none, thermLimit := new }).limitSteps
        (b2n (new < x.goalF))).retarget die) := by
  unfold execThermalThrottleTick
  extract_lets d t noted read x limit new set counted told u y
  have untold : told = counted := if_neg (Nat.ne_of_lt throttled)
  have reached : limit ≤ t := hot
  rw [if_pos reached, untold]
  rfl

theorem execThermalRelease_ends {t : Nat} (cool : (s.die die).cool = some t) (throttled : (s.die die).thermLimit < 3000)
    (due : s.since t (ms 100) = true) : execThermalRelease die s =
      done ((((s.setDie die { s.die die with thermLimit := 3000 }).limitSteps 1).retarget die).dieEvent 0x8004 die) := by
  unfold execThermalRelease
  simp only [cool]
  exact congrArg done (if_pos ⟨throttled, due⟩)

end heat

/-- Settles O44: the cap by the power that is read, the throttle by the temperature. -/
theorem powerAndHeat : Obligations.PowerAndHeat := by
  refine fun s => ⟨fun w dv => ⟨?_, ?_⟩, fun t below active due => ?_, fun t => execPowerCapRaise_early, fun d temp => ⟨?_, ?_⟩,
    fun d t => execThermalRelease_ends⟩
  · exact fun within => congrArg done (if_neg (Nat.not_lt.mpr within))
  · exact fun above active => execPowerCapTick_above above active rfl
  · exact execPowerCapRaise_binds below active due rfl
  · exact fun cool => congrArg done (if_neg (Nat.not_le.mpr cool))
  · exact execThermalThrottleTick_throttles

end Sys2Proof.Machine
end

section
/-! PROOFS. A host's requests for a domain and for a module state (R486 to R488, R492). -/
namespace Sys2Proof.Machine

/-! ### Domains (R488, R492) -/

/-- The states that the model lets a domain take are those of the table. -/
theorem domAccepts_eq_table (d : Nat) {st : Nat} (state : st < 4) : domAccepts d st = domainTable d st := by
  unfold domAccepts domainTable
  by_cases core : d < 84
  · rw [if_pos core, if_pos core]
    interval_cases st <;> rfl
  · rw [if_neg core, if_neg core]
    by_cases router : d = 113
    · subst router; rfl
    · simp [router]

theorem exec_domainRequestFor (d : Fin 128) {st : Nat} (state : st < 4) (s : State) :
    exec (domainRequestFor d st) s = done (domainRequest d st s) := by
  interval_cases st <;> rfl

/-- The uncore of a domain's die is in no deeper state than the one asked for (R489). -/
def State.uncoreAllows (s : State) (d st : Nat) : Bool :=
  match uncoreOf d with
  | some u => s.domState u ≤ st
  | none => true

theorem State.uncoreAllows_of_awake {s : State} {d st : Nat} (uncore : ∀ u, uncoreOf d = some u → s.domState u = 0) :
    s.uncoreAllows d st = true := by
  unfold State.uncoreAllows
  split
  · rename_i u own; exact decide_eq_true (uncore u own ▸ Nat.zero_le st)
  · rfl

section request
variable {s : State} {d st : Nat}

theorem domainRequest_refused (refused : domAccepts d st = false) : domainRequest d st s = s.domError d :=
  if_pos (Bool.eq_false_iff.mp refused)

variable (accepted : domAccepts d st = true) (stable : s.domPhase d = phStable)
include accepted stable

/-- An accepted request of a domain at rest: what counts is how its state lies to the one asked for. -/
theorem domainRequest_stable : domainRequest d st s =
    if st = s.domState d then s
    else if st < s.domState d then
      if s.uncoreAllows d st then (s.fset rf_pwrDomainCtl_requested d 0 st).wakeEvent d else s.domError d
    else if ¬ s.mayEnter d st false then s.domError d
    else s.enterLow d st := by
  unfold domainRequest
  rw [stable, if_neg (not_not_intro accepted)]
  simp only [phStable, phSaving, true_or, if_true, Nat.reduceLeDiff, false_or]
  rfl

theorem domainRequest_resting (there : s.domState d = st) : domainRequest d st s = s := by
  rw [domainRequest_stable accepted stable, if_pos there.symm]

theorem domainRequest_enters (awake : s.domState d = 0) (deeper : 0 < st) (may : s.mayEnter d st false = true) :
    domainRequest d st s =
      let u := (s.fset rf_pwrDomainCtl_requested d 0 st).setPhase d phStopping
      u.setDom d { u.dom d with wake := false } := by
  have phase : (s.fset rf_pwrDomainCtl_requested d 0 st).domPhase d = phStable :=
    (State.fget_fset_other _ _ _ _ _ _ _ _ (by decide)).trans stable
  rw [domainRequest_stable accepted stable, awake, if_neg (Nat.ne_of_gt deeper), if_neg (Nat.not_lt_zero st),
    if_neg (not_not_intro may), State.enterLow]
  exact if_pos phase

end request

theorem domainRequest_wakes {s : State} {d : Nat} (accepted : domAccepts d 0 = true) (stable : s.domPhase d = phStable)
    (asleep : 0 < s.domState d) (uncore : ∀ u, uncoreOf d = some u → s.domState u = 0) :
    domainRequest d 0 s = (s.fset rf_pwrDomainCtl_requested d 0 0).wakeEvent d := by
  rw [domainRequest_stable accepted stable, if_neg (Nat.ne_of_lt asleep), if_pos asleep,
    if_pos (State.uncoreAllows_of_awake uncore)]

/-- Settles O45: a domain takes the states of the table, and at rest goes by how its state lies to the one asked for. -/
theorem domainRequests : Obligations.DomainRequests := by
  intro d s req
  have table {st : Nat} (state : st < 4) {b : Bool} (h : domainTable d st = b) : domAccepts d st = b :=
    (domAccepts_eq_table d state).trans h
  refine ⟨fun st state refused => ?_, fun st state accepted stable there => ?_,
    fun st state deeper accepted stable awake may => ?_, fun accepted stable asleep uncore => ?_⟩
  · exact (exec_domainRequestFor d state s).trans (congrArg done (domainRequest_refused (table state refused)))
  · exact (exec_domainRequestFor d state s).trans (congrArg done (domainRequest_resting (table state accepted) stable there))
  · exact (exec_domainRequestFor d state s).trans
      (congrArg done (domainRequest_enters (table state accepted) stable awake deeper may))
  · exact congrArg done (domainRequest_wakes (table (by decide) accepted) stable asleep uncore)

/-! ### The module (R486, R487, R526) -/

theorem exec_moduleStateFor {m : Nat} (state : m < 4) (s : State) :
    exec (moduleStateFor m) s = done (moduleRequest m s) := by
  interval_cases m <;> rfl

section move
variable {s : State} {m : Nat} (other : m ≠ s.fget rf_pwrModuleState_requested)
include other

/-- Out of M3, whatever the state asked for, the warm-restart path is taken. -/
theorem moduleRequest_restarts (up : m < 3) (deep : s.fget rf_pwrModuleState_requested = 3) : moduleRequest m s =
    let u := s.fset rf_pwrModuleState_requested 0 0 m
    (u.withPwr { u.pwr with goal := 0, todo := [] }).withTru { u.tru with asked := true, fromM3 := true } :=
  (if_neg other).trans ((if_neg fun down => Nat.ne_of_lt up down.1).trans (if_pos deep))

theorem moduleRequest_moves (up : m < 3) (shallow : s.fget rf_pwrModuleState_requested ≠ 3) : moduleRequest m s =
    let u := (s.fset rf_pwrModuleState_requested 0 0 m).release m
    (u.withPwr { u.pwr with goal := m, todo := (List.range 114).filter fun d => (moduleDom m d).isSome }).advance := by
  refine (if_neg other).trans ((if_neg fun down => Nat.ne_of_lt up down.1).trans ((if_neg shallow).trans ?_))
  rw [if_neg (Nat.ne_of_lt up)]

end move

section down
variable {s : State} (shallow : s.fget rf_pwrModuleState_requested ≠ 3)
include shallow

theorem moduleRequest_busy (runs : s.allDisabled = false) :
    moduleRequest 3 s = s.fset rf_pwrModuleStatus_cmdError 0 0 1 :=
  (if_neg shallow.symm).trans (if_pos ⟨rfl, fun quiet => Bool.eq_false_iff.mp runs quiet.1⟩)

theorem moduleRequest_sleeps (disabled : s.allDisabled = true) (free : ∀ p < 16, s.preState p = psNone) :
    moduleRequest 3 s =
      let u := (s.fset rf_pwrModuleState_requested 0 0 3).prepareM3
      (u.withPwr { u.pwr with goal := 3, todo := (List.range 114).filter fun d => (moduleDom 3 d).isSome }).advance := by
  have quiet : ((List.range 16).all fun p => s.preState p = psNone) = true :=
    List.all_eq_true.mpr fun p part => decide_eq_true (free p (List.mem_range.mp part))
  refine (if_neg shallow.symm).trans ((if_neg fun busy => busy.2 ⟨disabled, quiet⟩).trans ((if_neg shallow).trans ?_))
  rw [if_pos rfl]

end down

/-- Settles O46: each request by the module state that was asked for before. -/
theorem moduleStates : Obligations.ModuleStates := by
  intro s old req
  refine ⟨fun m state same => ?_, fun m up deep => ?_, fun m up shallow other => ?_, fun shallow runs => ?_,
    fun shallow disabled free => ?_⟩
  · exact (exec_moduleStateFor state s).trans (congrArg done (if_pos same))
  · have other : m ≠ old := fun same => by omega
    exact (exec_moduleStateFor (by omega) s).trans (congrArg done (moduleRequest_restarts other up deep))
  · exact (exec_moduleStateFor (by omega) s).trans (congrArg done (moduleRequest_moves other up shallow))
  · exact (exec_moduleStateFor (by decide) s).trans (congrArg done (moduleRequest_busy shallow runs))
  · exact (exec_moduleStateFor (by decide) s).trans (congrArg done (moduleRequest_sleeps shallow disabled free))

end Sys2Proof.Machine
end

section
/-! PROOFS. The phases of a domain's entry and exit (R489 to R494): each command acts in the phase that it ends. -/
namespace Sys2Proof.Machine

section entry
variable {s : State} {d : Fin 128}

theorem execDomainAdmissionStopped_phase (stopping : s.domPhase d = phStopping) : execDomainAdmissionStopped d s =
    done (if s.aborts d then s.abandon d 1
      else (s.setPhase d phDraining).setDom d { s.dom d with drainTick := s.tick }) :=
  congrArg done (if_neg (not_not_intro stopping))

theorem execDomainDrained_phase (draining : s.domPhase d = phDraining) (drained : s.domDrained d = true) :
    execDomainDrained d s = done (if s.aborts d then s.abandon d 2
      else s.setPhase d (if s.fget rf_pwrDomainCtl_requested d = 1 then phIsolating else phSaving)) :=
  congrArg done (if_neg fun stays => stays.elim (fun other => other draining) (fun busy => busy drained))

theorem execDomainRetained_phase (saving : s.domPhase d = phSaving) :
    execDomainRetained d s = done (if s.aborts d then s.abandon d 3 else s.setPhase d phIsolating) :=
  congrArg done (if_neg (not_not_intro saving))

end entry

section exit
variable {s : State} {d : Fin 128}

theorem execDomainWake_exits (stable : s.domPhase d = phStable) (low : s.domState d ≠ 0) (wake : (s.dom d).wake = true)
    (uncore : ∀ u, uncoreOf d = some u → s.awake u = true) : execDomainWake d s = done (s.setPhase d phExiting) := by
  unfold execDomainWake
  extract_lets n up
  have rises : up = true := by
    simp only [up]
    split
    · rename_i u own; exact uncore u own
    · rfl
  exact congrArg done (if_pos ⟨low, stable, wake, rises⟩)

/-- A domain that kept its state, with nothing held at it, is in D0 again. -/
theorem execDomainReady_kept (train : Train) (exiting : s.domPhase d = phExiting) (kept : s.domState d ≠ 3)
    (free : (s.dom d).heldSince = none) :
    execDomainReady d train s = done ((((s.toD0 d).reopen d).toNext d).advance) := by
  have unheld : ¬ (s.dom d).heldSince.isSome = true := by rw [free]; exact Bool.false_ne_true
  unfold execDomainReady
  dsimp only
  rw [if_neg (not_not_intro exiting), if_neg unheld, if_neg kept]

end exit

/-- Settles O47: in the phase that it ends, a command goes on to the next, or abandons the entry where a wake event waits. -/
theorem domainPhases : Obligations.DomainPhases := by
  refine fun d s => ⟨fun stopping => ⟨fun aborts => ?_, fun stays => ?_⟩,
    fun draining => ⟨fun drained => ⟨fun aborts => ?_, fun stays => ?_⟩, fun untested late => ?_⟩,
    fun saving => ⟨fun aborts => ?_, fun stays => ?_⟩, fun isolating => ?_, execDomainWake_exits, execDomainReady_kept⟩
  · exact (execDomainAdmissionStopped_phase stopping).trans (congrArg done (if_pos aborts))
  · exact (execDomainAdmissionStopped_phase stopping).trans (congrArg done (if_neg (Bool.eq_false_iff.mp stays)))
  · exact (execDomainDrained_phase draining drained).trans (congrArg done (if_pos aborts))
  · exact (execDomainDrained_phase draining drained).trans (congrArg done (if_neg (Bool.eq_false_iff.mp stays)))
  · exact congrArg done (if_pos ⟨draining, Bool.eq_false_iff.mp untested, late⟩)
  · exact (execDomainRetained_phase saving).trans (congrArg done (if_pos aborts))
  · exact (execDomainRetained_phase saving).trans (congrArg done (if_neg (Bool.eq_false_iff.mp stays)))
  · exact congrArg done (if_neg (not_not_intro isolating))

end Sys2Proof.Machine
end

section
/-! PROOFS. Monitors, the planner's start and self-tests (R507 to R509, R511, R516, R518 to R522). -/
namespace Sys2Proof.Machine

theorem State.startPlanner_starts {s : State} (sapwood : s.sapwood = true) (serves : s.serves = true) :
    s.startPlanner = (s.fset rf_ageStatus_planning 0 0 1).withAge { s.age with planTick := s.tick } :=
  if_pos (by rw [sapwood, serves]; rfl)

/-! ### Requests for tests (R516 to R520) -/

/-- The state in which one more test runs, and the one in which one more waits. -/
def State.runsTest (s : State) (t : TestReq) : State := s.withAge { s.age with running := s.age.running ++ [t] }
def State.queuesTest (s : State) (t : TestReq) : State := s.withAge { s.age with queue := s.age.queue ++ [t] }

section request
variable {s : State} {a : Agent} {code target timeoutMs : Nat} (target_lt : target < testTargets code)
include target_lt

/-- A background-safe test runs at once (R517). -/
theorem testRequest_background (drain : Bool) (background : testBackground code = true) :
    testRequest a code target drain timeoutMs s = s.runsTest ⟨code, target, false, timeoutMs, s.tick, [], []⟩ :=
  (if_neg (Nat.not_le.mpr target_lt)).trans (if_pos background)

/-- A disruptive test runs where its target is drained, and is refused where it is not (R520). -/
theorem testRequest_disruptive (foreground : testBackground code = false) (disruptive : testDisruptive code = true)
    (allowed : a ≠ .sapwood) (drain : Bool) : testRequest a code target drain timeoutMs s =
    if s.drainedFor code target then (s.runsTest ⟨code, target, false, timeoutMs, s.tick, [], []⟩).syncTests
    else s.refuseTest code target :=
  (if_neg (Nat.not_le.mpr target_lt)).trans ((if_neg (Bool.eq_false_iff.mp foreground)).trans
    ((if_pos disruptive).trans (if_neg allowed)))

/-- A test that needs a slot and drains nothing waits in the queue, where that has room (R518). -/
theorem testRequest_slot (foreground : testBackground code = false) (gentle : testDisruptive code = false) :
    testRequest a code target false timeoutMs s =
      if 64 ≤ s.age.queue.length then s.refuseTest code target
      else (s.queuesTest ⟨code, target, false, timeoutMs, s.tick, [], []⟩).syncTests :=
  (if_neg (Nat.not_le.mpr target_lt)).trans ((if_neg (Bool.eq_false_iff.mp foreground)).trans
    (if_neg (Bool.eq_false_iff.mp gentle)))

end request

/-! ### Tests that start and end (R518, R519, R522) -/

theorem execTestStart_first {s : State} {t : TestReq} (first : s.age.queue.find? s.testStarts = some t) :
    execTestStart s = done ((s.withAge { s.age with
      queue := s.age.queue.erase t, running := s.age.running ++ [{ t with tick := s.tick }] }).syncTests) := by
  rw [execTestStart, first]

/-- A background-safe test that passes ends with its event, and reopens nothing. -/
theorem execTestComplete_background {s : State} {c : BitVec 8} {n : BitVec 16} {t : TestReq}
    (runs : s.age.running.find? (fun t => t.code = c.toNat ∧ t.target = n.toNat) = some t)
    (past : s.since t.tick (s.testTicks c.toNat) = true) (background : testBackground c.toNat = true) :
    execTestComplete c n true false s = done ((((s.withAge { s.age with
      running := s.age.running.erase t }).testEnds c.toNat n.toNat true).undrain t).syncTests) := by
  unfold execTestComplete
  dsimp only
  rw [runs, background]
  dsimp only
  rw [if_neg (not_not_intro past), if_pos rfl, if_neg fun exceeds => Bool.false_ne_true exceeds.2]

/-- Settles O48: a reading is kept, a request goes by its test's kind, and a test starts, ends or expires by its time. -/
theorem monitorsAndTests : Obligations.MonitorsAndTests := by
  intro s
  refine ⟨fun _ _ _ => rfl, fun _ _ _ _ _ => rfl, fun sapwood serves => ⟨?_, fun due => ?_⟩, ?_, fun t room => ?_,
    fun t k full => ?_, fun t => execTestStart_first, fun c n t runs past background => ?_, rfl⟩
  · exact congrArg done (State.startPlanner_starts sapwood serves)
  · exact congrArg done ((if_pos due).trans (State.startPlanner_starts sapwood serves))
  · refine ⟨fun l => ?_, fun d => ?_, fun t => ?_, ?_, fun a port host drained => ?_, fun a die host drained => ?_,
      fun a die host busy => ?_⟩
    · exact congrArg done (testRequest_background l.isLt false rfl)
    · exact congrArg done (testRequest_background d.isLt false rfl)
    · exact congrArg done (testRequest_background t.isLt false rfl)
    · exact congrArg done (testRequest_background (by decide) false rfl)
    · exact congrArg done ((testRequest_disruptive port.isLt rfl rfl host false).trans (if_pos drained))
    · exact congrArg done ((testRequest_disruptive die.isLt rfl rfl host false).trans (if_pos drained))
    · exact congrArg done ((testRequest_disruptive die.isLt rfl rfl host false).trans (if_neg (Bool.eq_false_iff.mp busy)))
  · have free : ¬ 64 ≤ s.age.queue.length := Nat.not_le.mpr room
    refine ⟨fun k => ?_, fun st ch => ?_, fun c => ?_⟩
    · exact congrArg done ((testRequest_slot k.isLt rfl rfl).trans (if_neg free))
    · have channel : 32 * st.val + ch.val < testTargets 0x11 := by
        have : testTargets 0x11 = 384 := rfl
        omega
      exact congrArg done ((testRequest_slot channel rfl rfl).trans (if_neg free))
    · exact congrArg done ((testRequest_slot c.isLt rfl rfl).trans (if_neg free))
  · exact congrArg done ((testRequest_slot k.isLt rfl rfl).trans (if_pos full))
  · exact execTestComplete_background runs past background

end Sys2Proof.Machine
end

section
/-! PROOFS. The mailbox on an open channel: each request is mailReply with its result, in the state of its effect (R510, R511,
R531 to R536, R543, R544). -/
namespace Sys2Proof.Machine

section mailbox
variable {s u : State} {ch req r : Nat} (opened : s.channelOpen ch = true)
include opened

/-- A request on an open channel is mailReply in the state that its effect leaves. -/
theorem State.mailbox_answers {f : State → Nat × List Byte × State} {body : List Byte} (effect : f s = (r, body, u)) :
    s.mailbox ch req f = u.mailboxAnswer ch req r body := by
  rw [State.mailbox, if_pos opened, effect]

theorem State.mailboxOf_answers {f : State → Nat × State} (effect : f s = (r, u)) :
    s.mailboxOf ch req f = u.mailboxAnswer ch req r [] :=
  State.mailbox_answers opened (congrArg (fun x : Nat × State => (x.1, ([] : List Byte), x.2)) effect)

end mailbox

/-- Settles O51: each request by its operands. -/
theorem mailboxCommands : Obligations.MailboxCommands := by
  intro s req reply
  refine ⟨fun ch first count opened => ⟨fun bad => ?_, fun least most => ?_⟩,
    fun ty unit body opened short => ⟨fun known => ?_, fun notFive notSeven => ?_⟩, fun plan opened => ?_,
    fun ch code len opened bad => ?_⟩
  · exact congrArg done (State.mailbox_answers opened (if_pos bad))
  · have good : ¬ (count.toNat = 0 ∨ 64 < count.toNat) := by omega
    exact congrArg done (State.mailbox_answers opened (if_neg good))
  · exact congrArg done (State.mailboxOf_answers opened ((if_neg (Nat.not_lt.mpr short)).trans (if_pos known)))
  · have unknown : ¬ (ty = 5#8 ∨ ty = 7#8) := fun known => known.elim notFive notSeven
    exact congrArg done (State.mailboxOf_answers opened ((if_neg (Nat.not_lt.mpr short)).trans (if_neg unknown)))
  · exact congrArg done (State.mailboxOf_answers opened rfl)
  · have refused : (!mbCode ch code.toNat || decide (len.toNat < 64) || decide (8192 < len.toNat)) = true := by
      rcases bad with unknown | small | large
      · simp [unknown]
      · simp [small]
      · simp [large]
    exact congrArg done ((if_pos refused).trans (State.mailboxOf_answers opened rfl))

/-! ### Images and profiles (R531 to R536) -/

/-- The kinds of image that have slots of their own in the directory. -/
theorem slotKind_iff (kind : BitVec 8) :
    ¬ (kind.toNat ≠ ikHeartwood ∧ kind.toNat ≠ ikSapwood) ↔ kind = 1#8 ∨ kind = 2#8 := by
  rw [BitVec.toNat_eq, BitVec.toNat_eq, not_and_or, not_not, not_not]
  rfl

theorem no_slotKind {kind : BitVec 8} (notHw : kind ≠ 1#8) (notSw : kind ≠ 2#8) :
    kind.toNat ≠ ikHeartwood ∧ kind.toNat ≠ ikSapwood :=
  not_not.mp (mt (slotKind_iff kind).mp fun slots => slots.elim notHw notSw)

/-- The state in which a request of channel 1 is mailReply with no more than its result. -/
abbrev mailReply (req : BitVec 64) (x : Nat × State) : State := x.2.mailboxAnswer 1 req.toNat x.1 []

theorem State.mailboxOf_open {s : State} (opened : s.channelOpen 1 = true) (req : BitVec 64) (f : State → Nat × State) :
    s.mailboxOf 1 req.toNat f = mailReply req (f s) := State.mailboxOf_answers opened rfl

/-- A command whose effect is known is answered with that effect's result. -/
theorem replies_of_effect {r : Host.Outcome State Fault Refusal} {req : BitVec 64} {x : Nat × State} {result : Nat} {u : State}
    (effect : r = done (mailReply req x)) (same : x = (result, u)) :
    r = .next (u.mailboxAnswer 1 req.toNat result []).settle := by
  rw [effect, same]; rfl

section slots
variable {s : State} {req : BitVec 64} {kind : BitVec 8} (opened : s.channelOpen 1 = true)
  (slots : kind = 1#8 ∨ kind = 2#8) {d : Dir} (dir : s.dir = some d)
include opened slots dir

theorem execImageWrite_inside {o : BitVec 32} {bytes : List Byte} (aligned : o.toNat % 4096 = 0)
    (page : bytes.length ≤ 4096) (inside : o.toNat + bytes.length ≤ slotSize kind.toNat) (nvm : Bool) :
    execImageWrite req kind o bytes nvm s = done (mailReply req (if nvm then
        (mbOk, s.nvmWrite (slotBase kind.toNat (d.inactive kind.toNat) + o.toNat) bytes) else (mbNvm, s))) := by
  have good : ¬ ((kind.toNat ≠ ikHeartwood ∧ kind.toNat ≠ ikSapwood) ∨ o.toNat % 4096 ≠ 0 ∨ 4096 < bytes.length
      ∨ slotSize kind.toNat < o.toNat + bytes.length) := by
    have := (slotKind_iff kind).mpr slots
    omega
  unfold execImageWrite
  rw [State.mailboxOf_open opened]
  dsimp only
  rw [if_neg good, dir]

theorem execImageActivate_verified {c : Nat} (found : s.verifySlot kind.toNat (d.inactive kind.toNat) = c) :
    execImageActivate req kind true s = done (mailReply req (if c = 0 then
        (mbOk, s.setDir (d.setSlots kind.toNat ((d.slots kind.toNat).1, some (d.inactive kind.toNat), 3)))
      else (mbOf c, s.imageEvent c kind.toNat (d.inactive kind.toNat)))) := by
  unfold execImageActivate
  rw [State.mailboxOf_open opened]
  dsimp only
  rw [if_neg ((slotKind_iff kind).mpr slots), dir]
  dsimp only
  rw [found]
  cases c with
  | zero => rfl
  | succ c => rfl

theorem execImageConfirm_slots : execImageConfirm req kind true s = done (mailReply req
    (if s.fbit (pendingBit kind.toNat) = true ∧ (d.slots kind.toNat).2.1 = some (s.fget (slotBit kind.toNat)) then
        (mbOk, (s.setDir (d.setSlots kind.toNat (s.fget (slotBit kind.toNat), none, 0))).fset (pendingBit kind.toNat) 0 0 0)
      else (mbRefused, s))) := by
  unfold execImageConfirm
  rw [State.mailboxOf_open opened]
  dsimp only
  rw [if_neg ((slotKind_iff kind).mpr slots), dir]
  rfl

end slots

section request
variable {s : State} {req : BitVec 64} (opened : s.channelOpen 1 = true)
include opened

/-- A counter rises to a value above it, at or below the active image's, that its fuses can hold (R534). -/
theorem execVersionCommit_active {kind : BitVec 8} {svn : BitVec 32} {a : Nat} (least : 1 ≤ kind.toNat)
    (most : kind.toNat ≤ 3) (active : s.activeSvn kind.toNat = some a) : execVersionCommit req kind svn s =
      done (mailReply req (if a < svn.toNat ∨ svn.toNat < s.fuseOf kind.toNat
            ∨ (if kind.toNat = ikProfile then 63 else 127) < svn.toNat then (mbRefused, s)
        else if svn.toNat = s.fuseOf kind.toNat then (mbOk, s)
        else (mbOk, (s.setFuse kind.toNat svn.toNat).raiseMod 0xB009 ⟨0, 0, 0, 0x13, svn.toNat⟩))) := by
  have known : ¬ (kind.toNat = 0 ∨ 3 < kind.toNat) := by omega
  unfold execVersionCommit
  rw [State.mailboxOf_open opened]
  dsimp only
  rw [if_neg known, active]

theorem execProfileWrite_whole {slot : Fin 4} {image : List Byte} {c : Nat} (whole : image.length = 1536)
    (found : s.verifyProfile (slice image 0 512) (slice image 512 1024) = c) : execProfileWrite req slot image true s =
      done (mailReply req (if c = 0 then (mbOk, s.nvmWrite (slotBase ikProfile slot) image)
        else (mbOf c, s.raiseMod c ⟨0, 0, 0, ikProfile + (slot.val <<< 8), imSvn image⟩))) := by
  unfold execProfileWrite
  rw [State.mailboxOf_open opened, if_neg (not_not_intro whole), found]
  cases c with
  | zero => rfl
  | succ c => rfl

theorem execIdentityWrite_room {bytes : List Byte} (page : bytes.length ≤ 4096)
    (room : s.tru.chainNew.length + bytes.length ≤ 0x100000) (last : Bool) : execIdentityWrite req bytes last true s =
      done (mailReply req (if last then
          let u := s.withTru { s.tru with chainNew := [] }
          if Config.chainKey (s.tru.chainNew ++ bytes) = deviceKey then
            (mbOk, u.withTru { u.tru with chain := s.tru.chainNew ++ bytes }) else (mbRefused, u)
        else (mbOk, s.withTru { s.tru with chainNew := s.tru.chainNew ++ bytes }))) := by
  have good : ¬ (4096 < bytes.length ∨ 0x100000 < (s.tru.chainNew ++ bytes).length) := by
    rw [List.length_append]; omega
  unfold execIdentityWrite
  rw [State.mailboxOf_open opened]
  dsimp only
  rw [if_neg good, if_neg (not_not_intro rfl)]
  cases last
  · exact congrArg (fun x => done (mailReply req x)) (if_pos Bool.false_ne_true)
  · exact congrArg (fun x => done (mailReply req x)) (if_neg (not_not_intro rfl))

end request

/-- Settles O52: a request of channel 1 by its kind, its operands and what verification finds. -/
theorem imageCommands : Obligations.ImageCommands := by
  intro s req opened reply
  refine ⟨fun kind => ⟨fun slots o bytes d aligned page inside dir => ⟨?_, ?_⟩, fun slots d dir => ⟨fun c found => ?_,
      fun pending runs => ?_, fun idle => ?_⟩, fun notHw notSw => ⟨?_, ?_⟩⟩,
    fun kind svn a least most active => ⟨fun above covered held => ?_, fun outside => ?_, fun same covered held => ?_⟩,
    fun slot image => ⟨fun whole c found => ?_, fun part => ?_⟩, fun bytes page room => ⟨?_, fun ours key => ?_⟩⟩
  · exact replies_of_effect (execImageWrite_inside opened slots dir aligned page inside true) (if_pos rfl)
  · exact replies_of_effect (execImageWrite_inside opened slots dir aligned page inside false) (if_neg Bool.false_ne_true)
  · have effect := execImageActivate_verified opened slots dir (req := req) found
    split
    · next passes => exact replies_of_effect effect (if_pos passes)
    · next fails => exact replies_of_effect effect (if_neg fails)
  · exact replies_of_effect (execImageConfirm_slots opened slots dir) (if_pos ⟨pending, runs⟩)
  · exact replies_of_effect (execImageConfirm_slots opened slots dir) (if_neg fun runs => Bool.eq_false_iff.mp idle runs.1)
  · exact replies_of_effect (congrArg done (State.mailboxOf_open opened ..)) (if_pos (no_slotKind notHw notSw))
  · exact replies_of_effect (congrArg done (State.mailboxOf_open opened ..)) (if_pos (no_slotKind notHw notSw))
  · have good : ¬ (a < svn.toNat ∨ svn.toNat < s.fuseOf kind.toNat
        ∨ (if kind.toNat = ikProfile then 63 else 127) < svn.toNat) := by omega
    exact replies_of_effect (execVersionCommit_active opened least most active)
      ((if_neg good).trans (if_neg (Nat.ne_of_gt above)))
  · exact replies_of_effect (execVersionCommit_active opened least most active) (if_pos outside)
  · have good : ¬ (a < svn.toNat ∨ svn.toNat < s.fuseOf kind.toNat
        ∨ (if kind.toNat = ikProfile then 63 else 127) < svn.toNat) := by omega
    exact replies_of_effect (execVersionCommit_active opened least most active) ((if_neg good).trans (if_pos same))
  · have effect := execProfileWrite_whole opened (req := req) (slot := slot) whole found
    split
    · next passes => exact replies_of_effect effect (if_pos passes)
    · next fails => exact replies_of_effect effect (if_neg fails)
  · exact replies_of_effect (congrArg done (State.mailboxOf_open opened ..)) (if_pos part)
  · exact replies_of_effect (execIdentityWrite_room opened page room false) (if_neg Bool.false_ne_true)
  · have effect := execIdentityWrite_room opened (req := req) page room true
    rw [if_pos rfl] at effect
    cases ours
    · exact replies_of_effect effect (if_neg (of_decide_eq_false key))
    · exact replies_of_effect effect (if_pos (of_decide_eq_true key))

/-! ### Debug and ownership (R539, R543) -/

section debug
variable {s : State} {req : BitVec 64} (opened : s.channelOpen 1 = true)
include opened

theorem execDebugUnlock_policy (token : List Byte) : execDebugUnlock req token s = done (mailReply req
    (if s.fget rf_glbProfile_debugPolicy ≠ 1 then (mbRefused, s)
      else if s.tokenOk token then
        let u := s.withTru { s.tru with scope := s.tru.scope ||| fldB token 48 2 0 }
        (mbOk, (u.fset rf_truBootStatus_debugUnlocked 0 0 1).raiseMod 0xB005 ⟨0, 0, 0, 0x21, 0⟩)
      else (mbSignature, s))) :=
  congrArg done (State.mailboxOf_open opened ..)

/-- A digest of the right length, by the owners that the fuses hold. -/
theorem execOwnerClaim_whole {digest auth : List Byte} (whole : digest.length = 64) :
    execOwnerClaim req digest auth s = done (mailReply req (if 4 ≤ s.tru.owners.length then (mbRefused, s)
      else if (match s.tru.owners.getLast? with
          | some d => Config.sigOk d (Config.sha512 (serial16 ++ digest)) auth
          | none => true) = true then
        let u := s.withTru { s.tru with owners := s.tru.owners ++ [digest] }
        (mbOk, ((u.fset rf_truBootStatus_ownerSlot 0 0 (u.tru.owners.length - 1)).fset rf_truBootStatus_ownerValid 0 0
          1).raiseMod 0xB009 ⟨0, 0, 0, 0x30, 0⟩)
      else (mbSignature, s))) :=
  congrArg done ((State.mailboxOf_open opened ..).trans (congrArg (mailReply req) (if_neg (not_not_intro whole))))

end debug

/-- Without a nonce no token is valid. -/
theorem State.tokenOk_of_no_nonce {s : State} (absent : s.tru.nonce = none) (token : List Byte) : s.tokenOk token = false := by
  simp [State.tokenOk, absent]

theorem execNonceExpire_drawn {s : State} {x : List Byte × Nat} (drawn : s.tru.nonce = some x) :
    execNonceExpire s = done (if s.since x.2 nonceTicks then s.withTru { s.tru with nonce := none } else s) := by
  rw [execNonceExpire, drawn]

/-- An image that the boot code takes while it recovers (R528). -/
theorem execRecoveryImageWrite_recovering {s : State} {image : List Byte} {c : Nat} (powered : s.powered = true)
    (recovering : s.fbit rf_glbStatus_romRecovery = true)
    (found : s.verify ikHeartwood (slice image 0 512) (image.drop 512) = c) : execRecoveryImageWrite image s =
      let u := s.nvmWrite (slotBase ikHeartwood 0) image
      done (if c = 0 then
        u.setDir { u.dir.getD ⟨0, 0, none, 0, 0, none, 0⟩ with hwActive := 0, hwPending := none, hwTries := 0 }
      else s.raiseMod c ⟨0, 0, 0, ikHeartwood, imSvn image⟩) := by
  unfold execRecoveryImageWrite
  rw [if_pos ⟨powered, recovering⟩, found]
  cases c with
  | zero => rfl
  | succ c => rfl

/-- Settles O53: a request by the policy, the nonce and the owners; the recovery image by the boot status. -/
theorem debugAndOwnership : Obligations.DebugAndOwnership := by
  intro s req reply
  refine ⟨fun opened => ⟨?_, fun token closed => ?_, fun token policy fresh => ?_, fun token good policy valid => ?_,
    fun digest auth whole full => ?_, fun digest auth whole free => ?_⟩, fun x drawn => ⟨fun old => ?_, fun young => ?_⟩,
    fun image => ⟨fun powered recovering c => execRecoveryImageWrite_recovering powered recovering, fun runs => ?_⟩⟩
  · exact congrArg done (State.mailbox_answers opened rfl)
  · exact replies_of_effect (execDebugUnlock_policy opened token) (if_pos closed)
  · have invalid : ¬ s.tokenOk token = true := Bool.eq_false_iff.mp (State.tokenOk_of_no_nonce fresh token)
    exact replies_of_effect (execDebugUnlock_policy opened token) ((if_neg (not_not_intro policy)).trans (if_neg invalid))
  · have effect := execDebugUnlock_policy opened (req := req) token
    rw [if_neg (not_not_intro policy), valid] at effect
    cases good
    · exact replies_of_effect effect (if_neg Bool.false_ne_true)
    · exact replies_of_effect effect (if_pos rfl)
  · exact replies_of_effect (execOwnerClaim_whole opened whole) (if_pos full)
  · have effect := execOwnerClaim_whole opened (req := req) (auth := auth) whole
    rw [free] at effect
    exact replies_of_effect effect rfl
  · exact (execNonceExpire_drawn drawn).trans (congrArg done (if_pos old))
  · exact (execNonceExpire_drawn drawn).trans (congrArg done (if_neg (Bool.eq_false_iff.mp young)))
  · exact congrArg done (if_neg fun recovers => Bool.eq_false_iff.mp runs recovers.2)

end Sys2Proof.Machine
end

section
/-! PROOFS. Attestation (R540 to R542): an SPDM request on an open channel is answered in turn, or with an error. -/
namespace Sys2Proof.Machine

/-! ### An answer on a path -/

theorem State.spdm_answers {s : State} {v : Via} {inTurn : Bool} (opened : s.spdmOpen v = true) (turn : inTurn = true)
    (r : SpdmResp) (x : SpdmX) : s.spdm v inTurn r x = (s.setConn v x).send (.spdm v r) :=
  (if_pos opened).trans (if_pos turn)

theorem State.spdm_errs {s : State} {v : Via} {inTurn : Bool} (opened : s.spdmOpen v = true) (turn : inTurn = false)
    (r : SpdmResp) (x : SpdmX) : s.spdm v inTurn r x = s.send (.spdm v .error) :=
  (if_pos opened).trans (if_neg (Bool.eq_false_iff.mp turn))

theorem State.spdm_closed {s : State} {v : Via} (closed : s.spdmOpen v = false) (inTurn : Bool) (r : SpdmResp)
    (x : SpdmX) : s.spdm v inTurn r x = s := if_neg (Bool.eq_false_iff.mp closed)

/-! ### Requests on an open channel (R541, R542) -/

/-- With the algorithms agreed and a certificate stored in its slot, a request that needs it is in turn. -/
theorem State.inTurn_stored {s : State} {via : Via} {slot : Nat} {c : List Byte} (agreed : (s.conn via).agreed = true)
    (stored : s.certChain slot = some c) : ((s.conn via).agreed && (s.certChain slot).isSome) = true := by
  rw [agreed, stored]; rfl

section requests
variable {s : State} {via : Via} (opened : s.spdmOpen via = true)
include opened

section chain
variable {slot : BitVec 4} {c : List Byte} (agreed : (s.conn via).agreed = true) (stored : s.certChain slot.toNat = some c)
include agreed stored

theorem execGetCertificate_stored (o l : BitVec 16) : execGetCertificate via slot o l s =
    done ((s.setConn via (s.conn via)).send (.spdm via (.certificate slot.toNat o.toNat
      ((c.drop o.toNat).take l.toNat)))) := by
  rw [execGetCertificate, stored]
  exact congrArg done (State.spdm_answers opened agreed ..)

theorem execKeyExchange_stored : execKeyExchange via slot s =
    done (((s.withTru { s.tru with nextSession := (s.tru.nextSession + 1) % 65536 }).setConn via
      { s.conn via with session := some (s.tru.nextSession, false, 0) }).send
      (.spdm via (.keyExchange s.tru.nextSession))) := by
  unfold execKeyExchange
  dsimp only
  rw [State.inTurn_stored agreed stored, opened, Bool.and_self, if_pos rfl]
  exact congrArg done (State.spdm_answers (by exact opened) rfl ..)

end chain

theorem execKeyExchange_early (slot : BitVec 4) (early : (s.conn via).agreed = false) :
    execKeyExchange via slot s = done (s.send (.spdm via .error)) := by
  unfold execKeyExchange
  dsimp only
  rw [early, Bool.false_and, Bool.false_and, if_neg Bool.false_ne_true]
  exact congrArg done (State.spdm_errs opened rfl ..)

/-- All measurement blocks, or none of a number above the last. -/
theorem execGetMeasurements_all (agreed : (s.conn via).agreed = true) : execGetMeasurements via 0xFF#8 s =
    done ((s.setConn via (s.conn via)).send (.spdm via (.measurements ([1, 2, 3, 4, 5].map s.measurement)))) :=
  congrArg done (State.spdm_answers opened (by rw [agreed]; rfl) ..)

theorem execGetMeasurements_unknown {i : BitVec 8} (large : 5 < i.toNat) (small : i.toNat < 255) :
    execGetMeasurements via i s = done (s.send (.spdm via .error)) := by
  have notAll : ¬ i.toNat = 0xFF := by omega
  have notOne : ¬ (i.toNat ≤ 5 ∧ i.toNat ≠ 0) := by omega
  have notZero : ¬ i.toNat = 0 := by omega
  unfold execGetMeasurements
  dsimp only
  rw [if_neg notAll, if_neg notOne]
  refine congrArg done (State.spdm_errs opened ?_ ..)
  simp [notZero]

section session
variable {k : BitVec 16}

theorem execKeyUpdate_live {g : Nat} (live : (s.conn via).live k.toNat = some g) : execKeyUpdate via k s =
    done ((s.setConn via { s.conn via with session := some (k.toNat, true, g + 1) }).send
      (.spdm via (.keyUpdate k.toNat))) := by
  rw [execKeyUpdate, live]
  exact congrArg done (State.spdm_answers opened rfl ..)

theorem execKeyUpdate_dead (dead : (s.conn via).live k.toNat = none) :
    execKeyUpdate via k s = done (s.send (.spdm via .error)) := by
  rw [execKeyUpdate, dead]
  exact congrArg done (State.spdm_errs opened rfl ..)

end session

end requests

/-- Settles O54: each request by its turn on its channel. -/
theorem attestation : Obligations.Attestation := by
  intro s via x ok error
  have answers {inTurn : Bool} {r : SpdmResp} {y : SpdmX} (opened : s.spdmOpen via = true) (turn : inTurn = true) :
      done (s.spdm via inTurn r y) = ok r y := congrArg done (State.spdm_answers opened turn r y)
  have errs {inTurn : Bool} {r : SpdmResp} {y : SpdmX} (opened : s.spdmOpen via = true) (turn : inTurn = false) :
      done (s.spdm via inTurn r y) = error := congrArg done (State.spdm_errs opened turn r y)
  refine ⟨fun opened => ⟨answers opened rfl, answers opened, errs opened, fun capable => ?_, ?_,
      fun agreed => ⟨answers opened agreed, fun slot o l c stored => ⟨?_, ?_, ?_⟩, ?_, fun i large small => ?_⟩,
      fun early => ⟨errs opened early, ?_, fun slot => ⟨?_, ?_⟩⟩, fun k => ⟨fun offered => ?_, errs opened rfl,
        fun g live => ⟨?_, ?_, ?_⟩, fun dead => ⟨?_, ?_, ?_⟩⟩⟩,
    fun closed => ⟨?_, ?_⟩⟩
  · exact answers opened (by rw [capable]; rfl)
  · exact errs opened (Bool.and_false _)
  · exact execGetCertificate_stored opened agreed stored o l
  · exact answers opened (State.inTurn_stored agreed stored)
  · exact execKeyExchange_stored opened agreed stored
  · exact execGetMeasurements_all opened agreed
  · exact execGetMeasurements_unknown opened large small
  · exact errs opened (by rw [early]; rfl)
  · exact errs opened (by rw [early]; rfl)
  · exact execKeyExchange_early opened slot early
  · exact answers opened (decide_eq_true offered)
  · exact answers opened (by rw [live]; rfl)
  · exact execKeyUpdate_live opened live
  · exact answers opened (by rw [live]; rfl)
  · exact errs opened (by rw [dead]; rfl)
  · exact execKeyUpdate_dead opened dead
  · exact errs opened (by rw [dead]; rfl)
  · exact congrArg done (State.spdm_closed closed ..)
  · exact congrArg done (State.spdm_closed closed ..)

end Sys2Proof.Machine
end

section
/-! PROOFS. Boot, restarts and sapwood's watchdog (R526 to R528, R532, R538). -/
namespace Sys2Proof.Machine

/-! ### Sapwood's restarts (R538) -/

section sapwood
variable {s : State}

theorem State.restartSapwood_again (few : s.recentRestarts.length < 2) : s.restartSapwood true =
    (s.withTru { s.tru with restarts := s.recentRestarts ++ [s.tick] }).fset rf_glbStatus_sapwoodRestarting 0 0 1 :=
  if_pos ⟨rfl, few⟩

/-- With its code region changed, or after two restarts, sapwood stays stopped. -/
theorem State.restartSapwood_fails {intact : Bool} (last : ¬ (intact = true ∧ s.recentRestarts.length < 2)) :
    s.restartSapwood intact = (((s.withTru { s.tru with restarts := s.recentRestarts }).fset
      rf_glbStatus_sapwoodFailed 0 0 1).fset rf_truBootStatus_cause 0 0 6).raiseMod 0xB007 := if_neg last

end sapwood

/-- Settles O50: each command under what makes it act; sapwood's restart by its code region and the restarts before. -/
theorem bootCommands : Obligations.BootCommands := by
  refine fun s => ⟨fun prof slot trains v plan good low => ?_, fun trains v plan alive => ?_,
    fun key trains v plan wrong unasked => ?_, fun starting => ?_, fun running => ?_, fun alive => ?_,
    fun runs => ⟨fun few => ?_, ?_, fun many => ?_, fun late => ⟨?_, fun few => ?_⟩, fun early intact => ?_⟩,
    fun restarting => ?_⟩
  · exact congrArg done (if_pos ⟨good, low⟩)
  · exact congrArg done (if_pos ⟨alive, .inl rfl⟩)
  · refine congrArg done (if_neg fun restarts => restarts.2.elim wrong (Bool.eq_false_iff.mp unasked))
  · exact congrArg done (if_pos starting)
  · exact congrArg done (if_neg (Bool.eq_false_iff.mp running))
  · exact congrArg done (if_pos alive)
  · exact congrArg done ((if_pos runs).trans (State.restartSapwood_again few))
  · exact congrArg done ((if_pos runs).trans (State.restartSapwood_fails fun again => Bool.false_ne_true again.1))
  · exact congrArg done ((if_pos runs).trans (State.restartSapwood_fails fun again => Nat.not_lt.mpr many again.2))
  · exact congrArg done ((if_pos ⟨runs, late⟩).trans (State.restartSapwood_fails fun again => Bool.false_ne_true again.1))
  · exact congrArg done ((if_pos ⟨runs, late⟩).trans (State.restartSapwood_again few))
  · exact congrArg done (if_neg fun expires => Bool.eq_false_iff.mp early expires.2)
  · exact congrArg done (if_pos restarting)

end Sys2Proof.Machine
end
